-- ==== Sys2Proof/Word.lean ====
section
/-! DEFINITION. The word types of the ZK-4160: bytes, 32-bit and 64-bit words. -/

namespace Sys2Proof

/-- A byte, the unit of memory addressing. -/
abbrev Byte := BitVec 8

/-- A 32-bit word: an instruction or a general register (R14, R43). -/
abbrev Word := BitVec 32

/-- A 64-bit word: a w view or a generic address (R15, R33). -/
abbrev DWord := BitVec 64

end Sys2Proof
end

