-- ==== Sys2Proof/Config.lean ====
section
/-! DEFINITION. What an implementation fixes and the free values: values that the specification leaves
open. Each is opaque, so nothing can be proved of it; a fresh one is drawn by a counter of the state
(`State.fresh`). -/

namespace Sys2Proof.Config

/-- The byte number `n` of undefined contents: private areas, scratchpads and panels at start (R40,
R41), tile elements after a poisoned load (R245, R382). (DESIGN CHOICE, log 2; DESIGN CHOICE, log 3) -/
opaque freeByte : Nat → Byte

/-- The undefined contents of a place that nothing has written since its team or slice started: a byte
of a scratchpad (R41) or of a chip scratchpad, by the number of the team or slice and the offset.
(DESIGN CHOICE, log 2) -/
opaque freeAt : Nat → Nat → Byte

/-- A 32-bit value the specification leaves open. (DESIGN CHOICE, log 3) -/
opaque freeWord : Nat → Word

/-- A 64-bit value the specification leaves open. (DESIGN CHOICE, log 3) -/
opaque freeDWord : Nat → DWord

/-- Which of the lines that an L1 set may evict it does evict (R151), by the lines' numbers. (DESIGN CHOICE, log 34) -/
opaque freeVictim : List Nat → Nat

/-- Whether a walker still holds an upper-level entry at some time, by the time and the table that the entry points to:
the size of the walkers' cache is not given (R378). (DESIGN CHOICE, log 34) -/
opaque walkHeld : Nat → Nat → Bool

/-- Whether a core's instruction cache still holds a line of code that it has fetched, by the time and the line: which line
leaves for another is not given (R367). (DESIGN CHOICE, log 34) -/
opaque codeHeld : Nat → Nat → Bool

/-- Which set of a die's L2 a line lies in, by the line (R367): how lines are spread over the slices and their sets is not
given. (DESIGN CHOICE, log 76) -/
opaque l2Set : Nat → Nat

/-- What the scrubber finds in a line of HBM, by the line and the time: 1 a corrected error, 2 to 5 an error in one of the
four granules that it cannot correct, else nothing (R383). (DESIGN CHOICE, log 76) -/
opaque scrubFinds : Nat → Nat → Nat

/-- Which of a result's destinations still to be written are written in a cycle, as the bits of a number (R48): the rule
leaves each of them to be decided by itself. (DESIGN CHOICE, log 77) -/
opaque landsEarly : Nat → Nat → Nat

/-- Whether a load sees the newer bytes of a part of a line whose older bytes its core still shows (R180, R181).
(DESIGN CHOICE, log 68) -/
opaque seesNew : Nat → Bool

/-- Which parts of a line's written bytes go when the line is written back of the core's own accord, by a draw and the
part: stores that no fence orders reach the L2 in any order (R180, R217, R368). (DESIGN CHOICE, log 68) -/
opaque goesBack : Nat → Nat → Bool

/-- The device's signature over a quote or a certificate (R449, R450). (DESIGN CHOICE, log 6) -/
opaque sign : List Byte → List Byte

/-- The bytes that a saved team takes (R361, R403), from its live register words, scratchpad bytes and
panels; at most 16 MiB of it counts. (DESIGN CHOICE, log 49) -/
opaque ctxNeed : Nat → Nat → Nat → Nat

/-- The SHA-512 digest of Calica's firmware public key in the part's fuses (R447). (DESIGN CHOICE, log 6) -/
opaque keyDigest : List Byte

/-- The fused rollback counter (R448). (DESIGN CHOICE, log 6) -/
opaque rollback : Nat

/-- The SHA-512 digest of the ROM (R450). (DESIGN CHOICE, log 6) -/
opaque romDigest : List Byte

/-- The device identity certificate in DER form (R449). (DESIGN CHOICE, log 6) -/
opaque certificate : List Byte

/-- The public key in the header of a firmware image (R448), whose place the specification does not give.
(DESIGN CHOICE, log 6) -/
opaque imageKey : List Byte → List Byte

/-- The modulus of a public key as a firmware image's header holds it, whose form the specification does not give (R448).
(DESIGN CHOICE, log 6) -/
opaque keyModulus : List Byte → Nat

/-- The exponent of such a key (R448). (DESIGN CHOICE, log 6) -/
opaque keyExponent : List Byte → Nat

/-- The signature that a firmware image carries, as a number (R448), whose place the specification does not give.
(DESIGN CHOICE, log 6) -/
opaque imageSignature : List Byte → Nat

/-- The bytes of a firmware image that its signature is made over (R448): all but the signature, whose place the
specification does not give. (DESIGN CHOICE, log 6) -/
opaque imageSigned : List Byte → List Byte

/-- The routing table at ROUTE_BASE as the device reads it: each member with its routes, as lists of links; the
specification gives the table no form (R423). (DESIGN CHOICE, log 83) -/
opaque routeTable : Nat → List (Nat × List (List Nat))

/-- The cycles that the `n`th message of the device takes to be delivered (R423): the specification gives none.
(DESIGN CHOICE, log 83) -/
opaque flight : Nat → Nat

/-- The MAC address of an Ethernet port of the part, by its number (R428). (DESIGN CHOICE, log 76) -/
opaque portMac : Nat → BitVec 48

/-- The OP, if any, by which the management service runs an Ethernet port as one, two or four (R428), with the port and
the number it asks for: the specification gives the operation no OP. (DESIGN CHOICE, log 76) -/
opaque portOp : Nat → Option (Nat × Nat)

/-- Which step of the ROM fails before it reads a slot, if one does, at a boot: 1 the fuses, 2 the training of HBM and
the metadata array (R447). (DESIGN CHOICE, log 6) -/
opaque bootFails : Nat → Nat

/-- The version in the header of a firmware image (R448), whose place the specification does not give.
(DESIGN CHOICE, log 6) -/
opaque imageVersion : List Byte → Nat

/-- The bytes that the firmware of an image writes to device memory as it brings the device up (R447 step 5):
its tables and the first supervisor slice's code and pages. (DESIGN CHOICE, log 6) -/
opaque firmwareMemory : List Byte → List (Nat × Byte)

/-- What the firmware of an image writes to a management register as it brings the device up, by offset (R447
step 5). (DESIGN CHOICE, log 6) -/
opaque firmwareReg : List Byte → Nat → DWord

/-- The launch block of the first supervisor slice that the firmware of an image releases (R345, R447).
(DESIGN CHOICE, log 6) -/
opaque firmwareLaunch : List Byte → List Byte

/-- The base VA and length of the code object of the first supervisor slice (R345, R447). (DESIGN CHOICE, log 6) -/
opaque firmwareCode : List Byte → DWord × Nat

end Sys2Proof.Config
end

