-- ==== Sys2Proof/Syntax.lean ====
section
/-! DEFINITION. The instruction type: one constructor for each of the 296 rows of the table of
operations and events.

The first 189 constructors are instruction words. Each carries its switch bit `e` (bit [31], R43; TRL
has none, its S is always 1, R53) and the fields of its encoding as the table names them, as bit
vectors of their own width. The last 107 are the steps that are no instruction words: the device's own
steps (a result returns, a tile operation completes, a timer runs out), and the happenings that reach
it from outside (Seam messages, Supol packets, management commands, sensors, links). Each carries the
data that names the happening. -/

namespace Sys2Proof

/-- Where an error of the storage strikes (R381): a register of a thread by the SUBCODE of R116; a clean
or a dirty granule of a core's L1, and an L2 or HBM granule, by physical address / 32; a scratchpad or
chip-scratchpad granule by team or slice and offset / 32; an element of a tile of a team; a TLB entry of a core; a
Cloakroom slot; a queue or a pocket set of a slice. -/
inductive ErrLoc where
  | reg (uid sub : Nat)
  | l1Clean (core granule : Nat)
  | l1Dirty (core granule : Nat)
  | scratch (team granule : Nat)
  | chip (slice granule : Nat)
  | l2 (granule : Nat)
  | hbm (granule : Nat)
  | tile (team handle elem : Nat)
  | tlb (core index : Nat)
  | walker (index : Nat)
  | cloak (slot : Nat)
  | queue (slice q : Nat)
  | pocket (slice id : Nat)
  deriving DecidableEq, Repr, Inhabited

/-- The header of a Cloakroom message (R332): sender, issuing device, forwards so far, the handle the
message is for, and its sequence number. -/
structure MsgHead where
  src : Nat
  issuer : Nat
  hops : Nat
  handle : DWord
  seq : Nat
  deriving DecidableEq, Repr, Inhabited

/-- A path key (R90): the PC, the rank (0 in a handler, 1 otherwise) and the run position. -/
structure PathKey where
  pc : Word
  rank : Nat
  pos : Nat
  deriving DecidableEq, Repr, Inhabited

/-- An access performed at a page's home device (R380): a load, a store, a store of the bits of a byte under a mask
(R234), an atomic (its opcode and variant, size, operand and ACAS comparison), or a polling load with the value it is
compared with. -/
inductive RemoteOp where
  | load (size : Nat)
  | store (bytes : List Byte)
  | masked (mask val : Byte)
  | atomic (op f size : Nat) (a b : DWord)
  | poll (old : Word)
  deriving DecidableEq, Repr, Inhabited

/-- What a message's 32-byte Supol header says beside its REQ_ID, TARGET and ORDERED (R430): SESSION and VERSION; its TYPE
where that is none of the table's; FLAGS[15:1], STATUS and the reserved bytes; LEN where it is not the length of the payload
that follows; for MGMT, the payload's OP where it is none of the table's and its length where it is not that of the
arguments (R451); and the transport security association that the message came over, if any (R429, R432). -/
structure SupolHead where
  num : Nat
  version : Byte
  unknown : Option Byte
  flags : BitVec 15
  len : Option Nat
  status : BitVec 16
  reserved : BitVec 16
  op : Option Word
  opLen : Option Nat
  assoc : Option Nat
  deriving DecidableEq, Repr, Inhabited

/-- The header of a message that a session sends as the tables give it, over its own security association. -/
def SupolHead.plain (n : Nat) : SupolHead :=
  { num := n, version := 1, unknown := none, flags := 0, len := none, status := 0, reserved := 0, op := none,
    opLen := none, assoc := some n }

/-- Where a Supol message or management command comes from (R451): a session, with the header and the request number of its
message, or the mailbox of a supervisor slice. -/
inductive Requester where
  | session (head : SupolHead) (reqId : Nat)
  | mailbox (slice : Nat)
  deriving DecidableEq, Repr, Inhabited

/-- A RESET (R446, R451): who asks for it, its KIND, and the cluster of KIND 2. -/
structure ResetReq where
  who : Requester
  kind : Nat
  cluster : Nat
  deriving DecidableEq, Repr, Inhabited

/-- A report that a member has failed (R425): the device that observed it, and the member. -/
structure FailReport where
  src : Nat
  dev : Nat
  deriving DecidableEq, Repr, Inhabited

/-- The operations and events of the ZK-4160. (DESIGN CHOICE, log 66) -/
inductive Instr where
  /-- HIMM (R55). Widens the immediate of the next non-hint instruction in the run with a 23-bit payload. -/
  | himm (e : Bool) (pl : BitVec 23)
  /-- HMOD (R56). Carries modifiers such as NEG, PART, TOL, TRAP, POLL, LAST, rounding, SAT, cache and scope for its target. -/
  | hmod (e : Bool) (pl : BitVec 23)
  /-- HGRD (R58). Guards its target and the next CNT non-hint instructions of the run on a predicate. -/
  | hgrd (e : Bool) (p : BitVec 6) (n : BitVec 1) (c : BitVec 2)
  /-- TRL (R53). Ends the run and selects by MASK which long-latency results the next run awaits and which are detached. -/
  | trl (m : BitVec 23)
  /-- HSCH (R59). Makes its target yield, demote, open a deferral window or close one. -/
  | hsch (e : Bool) (cl : BitVec 1) (df : BitVec 13) (dm : BitVec 1) (yl : BitVec 1)
  /-- NOP (R60). Occupies a position and an issue slot with no effect. -/
  | nop (e : Bool)
  /-- PHASE_ANNOUNCE (R263). Replaces the team's phase with a new pending phase of given onset, class, length and bands. -/
  | phaseAnnounce (e : Bool) (o : BitVec 4) (c : BitVec 4) (lx : BitVec 4) (m : BitVec 4) (b : BitVec 4)
  /-- PHASE_END (R263). Ends the team's phase and releases its reservation. -/
  | phaseEnd (e : Bool)
  /-- PHASE_QUERY (R263). Writes the grant state of the team's phase into %tstat.PGRANT. -/
  | phaseQuery (e : Bool)
  /-- BRK (R118). Raises a Debug fault with the break code and ends the run. -/
  | brk (e : Bool) (c : BitVec 23)
  /-- TRACE (R365). Writes a 16-byte trace record of a register value under a code into the slice's trace buffer. -/
  | trace (e : Bool) (d : BitVec 7) (c : BitVec 16)
  /-- ADD (R71). 32-bit wrapping add of two registers. -/
  | add (e : Bool) (d : BitVec 7) (a : BitVec 7) (b : BitVec 7)
  /-- SUB (R71). 32-bit wrapping subtract. -/
  | sub (e : Bool) (d : BitVec 7) (a : BitVec 7) (b : BitVec 7)
  /-- MUL (R71). Low 32 bits of a product. -/
  | mul (e : Bool) (d : BitVec 7) (a : BitVec 7) (b : BitVec 7)
  /-- MULH (R71). High 32 bits of a signed or unsigned product. -/
  | mulh (e : Bool) (d : BitVec 7) (a : BitVec 7) (b : BitVec 7) (f : BitVec 2)
  /-- MAD (R71). Adds a product to the destination register. -/
  | mad (e : Bool) (d : BitVec 7) (a : BitVec 7) (b : BitVec 7)
  /-- AND (R71). Bitwise and. -/
  | and (e : Bool) (d : BitVec 7) (a : BitVec 7) (b : BitVec 7)
  /-- OR (R71). Bitwise or. -/
  | or (e : Bool) (d : BitVec 7) (a : BitVec 7) (b : BitVec 7)
  /-- XOR (R71). Bitwise exclusive or. -/
  | xor (e : Bool) (d : BitVec 7) (a : BitVec 7) (b : BitVec 7)
  /-- ANDN (R71). Bitwise and with the complement of the second source. -/
  | andn (e : Bool) (d : BitVec 7) (a : BitVec 7) (b : BitVec 7)
  /-- SHL (R72). Logical shift left by a register amount. -/
  | shl (e : Bool) (d : BitVec 7) (a : BitVec 7) (b : BitVec 7)
  /-- SHR (R72). Logical shift right by a register amount. -/
  | shr (e : Bool) (d : BitVec 7) (a : BitVec 7) (b : BitVec 7)
  /-- SRA (R72). Arithmetic shift right by a register amount. -/
  | sra (e : Bool) (d : BitVec 7) (a : BitVec 7) (b : BitVec 7)
  /-- MIN (R73). Signed or unsigned minimum. -/
  | min (e : Bool) (d : BitVec 7) (a : BitVec 7) (b : BitVec 7) (f : BitVec 2)
  /-- MAX (R73). Signed or unsigned maximum. -/
  | max (e : Bool) (d : BitVec 7) (a : BitVec 7) (b : BitVec 7) (f : BitVec 2)
  /-- ABS (R73). Absolute value, saturating under HMOD.SAT. -/
  | abs (e : Bool) (d : BitVec 7) (a : BitVec 7)
  /-- CLZ (R73). Count of leading zero bits. -/
  | clz (e : Bool) (d : BitVec 7) (a : BitVec 7)
  /-- POPC (R73). Count of one bits. -/
  | popc (e : Bool) (d : BitVec 7) (a : BitVec 7)
  /-- BREV (R73). Bit reversal. -/
  | brev (e : Bool) (d : BitVec 7) (a : BitVec 7)
  /-- BFX (R74). Extracts a bit field under a control word, optionally sign-extended. -/
  | bfx (e : Bool) (d : BitVec 7) (a : BitVec 7) (b : BitVec 7)
  /-- BFI (R74). Inserts a bit field into the destination under a control word. -/
  | bfi (e : Bool) (d : BitVec 7) (a : BitVec 7) (b : BitVec 7)
  /-- CMOV (R75). Copies a register into the destination where a predicate is true. -/
  | cmov (e : Bool) (d : BitVec 7) (p : BitVec 6) (a : BitVec 7)
  /-- DIV (R76). Signed or unsigned division toward zero, never faulting. -/
  | div (e : Bool) (d : BitVec 7) (a : BitVec 7) (b : BitVec 7) (f : BitVec 2)
  /-- REM (R76). Signed or unsigned remainder, never faulting. -/
  | rem (e : Bool) (d : BitVec 7) (a : BitVec 7) (b : BitVec 7) (f : BitVec 2)
  /-- ADDS (R77). Saturating add that sets %iflags.SAT when it clamps. -/
  | adds (e : Bool) (d : BitVec 7) (a : BitVec 7) (b : BitVec 7) (f : BitVec 2)
  /-- SUBS (R77). Saturating subtract that sets %iflags.SAT when it clamps. -/
  | subs (e : Bool) (d : BitVec 7) (a : BitVec 7) (b : BitVec 7) (f : BitVec 2)
  /-- MOVI (R79). Loads a sign-extended 16-bit immediate, or imm32 under HIMM. -/
  | movi (e : Bool) (d : BitVec 7) (i : BitVec 16)
  /-- ADDI (R79). Adds a sign-extended 9-bit immediate. -/
  | addi (e : Bool) (d : BitVec 7) (a : BitVec 7) (i : BitVec 9)
  /-- ANDI (R79). Ands with a zero-extended 9-bit immediate. -/
  | andi (e : Bool) (d : BitVec 7) (a : BitVec 7) (i : BitVec 9)
  /-- ORI (R79). Ors with a zero-extended 9-bit immediate. -/
  | ori (e : Bool) (d : BitVec 7) (a : BitVec 7) (i : BitVec 9)
  /-- XORI (R79). Exclusive-ors with a zero-extended 9-bit immediate. -/
  | xori (e : Bool) (d : BitVec 7) (a : BitVec 7) (i : BitVec 9)
  /-- SHI (R80). Shifts by an immediate amount of a kind given in the immediate control word. -/
  | shi (e : Bool) (d : BitVec 7) (a : BitVec 7) (k : BitVec 2) (n : BitVec 5)
  /-- CMPI (R86). Compares a register with a sign-extended immediate into a predicate (encoding versions 2 and 3). -/
  | cmpi (e : Bool) (p : BitVec 6) (a : BitVec 7) (c : BitVec 3) (i : BitVec 7)
  /-- CMPI_V1 (R64). CMPI as encoded at opcode 0x3A under encoding version 1. -/
  | cmpiV1 (e : Bool) (p : BitVec 6) (a : BitVec 7) (c : BitVec 3) (i : BitVec 7)
  /-- MOV (R81). Copies a general register. -/
  | mov (e : Bool) (d : BitVec 7) (a : BitVec 7)
  /-- S2G (R82). Reads a special register into a general register, after waiting for flag-setting instructions. -/
  | s2g (e : Bool) (d : BitVec 7) (c : BitVec 16)
  /-- G2S (R82). Writes a general register into a writable special register under its access rule. -/
  | g2s (e : Bool) (d : BitVec 7) (c : BitVec 16)
  /-- LDPC (R85). Forms a global VA inside the code object relative to the instruction. -/
  | ldpc (e : Bool) (d : BitVec 7) (i : BitVec 16)
  /-- ADDW (R83). 64-bit add of w registers. -/
  | addw (e : Bool) (d : BitVec 7) (a : BitVec 7) (b : BitVec 7)
  /-- SUBW (R83). 64-bit subtract of w registers. -/
  | subw (e : Bool) (d : BitVec 7) (a : BitVec 7) (b : BitVec 7)
  /-- MULW (R83). 64-bit product of w registers, or widening product of g registers. -/
  | mulw (e : Bool) (d : BitVec 7) (a : BitVec 7) (b : BitVec 7) (f : BitVec 2)
  /-- SHLW (R83). 64-bit shift left. -/
  | shlw (e : Bool) (d : BitVec 7) (a : BitVec 7) (b : BitVec 7)
  /-- SHRW (R83). 64-bit logical or arithmetic shift right. -/
  | shrw (e : Bool) (d : BitVec 7) (a : BitVec 7) (b : BitVec 7) (f : BitVec 2)
  /-- LEAW (R84). Adds a scaled sign-extended index to a 64-bit base. -/
  | leaw (e : Bool) (d : BitVec 7) (a : BitVec 7) (b : BitVec 7) (f : BitVec 2)
  /-- MOVW (R81). Copies a w register. -/
  | movw (e : Bool) (d : BitVec 7) (a : BitVec 7)
  /-- CMP (R86). Compares two 32-bit registers into a predicate. -/
  | cmp (e : Bool) (p : BitVec 6) (a : BitVec 7) (b : BitVec 7) (c : BitVec 3)
  /-- CMPW (R86). Compares two 64-bit registers into a predicate. -/
  | cmpw (e : Bool) (p : BitVec 6) (a : BitVec 7) (b : BitVec 7) (c : BitVec 3)
  /-- PLOG (R87). Logic on predicates. -/
  | plog (e : Bool) (d : BitVec 7) (a : BitVec 7) (b : BitVec 7) (f : BitVec 2)
  /-- P2G (R88). Gathers a bank of predicates into a general register. -/
  | p2g (e : Bool) (d : BitVec 7) (f : BitVec 2)
  /-- G2P (R88). Scatters bits of a register into predicates under a mask. -/
  | g2p (e : Bool) (a : BitVec 7) (b : BitVec 7) (f : BitVec 2)
  /-- FADD (R129). Floating-point add rounded once. -/
  | fadd (e : Bool) (d : BitVec 7) (a : BitVec 7) (b : BitVec 7) (f : BitVec 2)
  /-- FSUB (R129). Floating-point subtract rounded once. -/
  | fsub (e : Bool) (d : BitVec 7) (a : BitVec 7) (b : BitVec 7) (f : BitVec 2)
  /-- FMUL (R129). Floating-point multiply rounded once. -/
  | fmul (e : Bool) (d : BitVec 7) (a : BitVec 7) (b : BitVec 7) (f : BitVec 2)
  /-- FFMA (R129). Fused multiply-add into the destination. -/
  | ffma (e : Bool) (d : BitVec 7) (a : BitVec 7) (b : BitVec 7) (f : BitVec 2)
  /-- FMIN (R130). Floating-point minimum. -/
  | fmin (e : Bool) (d : BitVec 7) (a : BitVec 7) (b : BitVec 7) (f : BitVec 2)
  /-- FMAX (R130). Floating-point maximum. -/
  | fmax (e : Bool) (d : BitVec 7) (a : BitVec 7) (b : BitVec 7) (f : BitVec 2)
  /-- FCMP (R131). Floating-point compare into a predicate. -/
  | fcmp (e : Bool) (p : BitVec 6) (a : BitVec 7) (b : BitVec 7) (t : BitVec 1) (c : BitVec 2)
  /-- FCVT (R132). Converts a scalar between two floating-point formats. -/
  | fcvt (e : Bool) (d : BitVec 7) (a : BitVec 7) (fr : BitVec 3) (tt : BitVec 3)
  /-- ICVT (R133). Converts between integers and floating point. -/
  | icvt (e : Bool) (d : BitVec 7) (a : BitVec 7) (m : BitVec 3) (k : BitVec 2) (f : BitVec 2)
  /-- RCP (R134). Long-latency reciprocal. -/
  | rcp (e : Bool) (d : BitVec 7) (a : BitVec 7) (f : BitVec 2)
  /-- RSQ (R134). Long-latency reciprocal square root. -/
  | rsq (e : Bool) (d : BitVec 7) (a : BitVec 7)
  /-- SQRT (R134). Long-latency square root. -/
  | sqrt (e : Bool) (d : BitVec 7) (a : BitVec 7) (f : BitVec 2)
  /-- EX2 (R134). Long-latency base-2 exponential. -/
  | ex2 (e : Bool) (d : BitVec 7) (a : BitVec 7)
  /-- LG2 (R134). Long-latency base-2 logarithm. -/
  | lg2 (e : Bool) (d : BitVec 7) (a : BitVec 7)
  /-- SIN (R134). Long-latency sine. -/
  | sin (e : Bool) (d : BitVec 7) (a : BitVec 7)
  /-- COS (R134). Long-latency cosine. -/
  | cos (e : Bool) (d : BitVec 7) (a : BitVec 7)
  /-- TANH (R134). Long-latency hyperbolic tangent. -/
  | tanh (e : Bool) (d : BitVec 7) (a : BitVec 7)
  /-- DOT4 (R135). Four-element 8-bit dot product accumulated into the destination. -/
  | dot4 (e : Bool) (d : BitVec 7) (a : BitVec 7) (b : BitVec 7) (f : BitVec 2)
  /-- DOT8 (R135). Eight-element 4-bit dot product accumulated into the destination. -/
  | dot8 (e : Bool) (d : BitVec 7) (a : BitVec 7) (b : BitVec 7) (f : BitVec 2)
  /-- PACK (R136). Scales and packs two FP32 values into a slot of a narrow-format register. -/
  | pack (e : Bool) (d : BitVec 7) (a : BitVec 7) (b : BitVec 7) (f : BitVec 2)
  /-- UNPK (R137). Unpacks and scales two narrow elements into FP32. -/
  | unpk (e : Bool) (d : BitVec 7) (a : BitVec 7) (b : BitVec 7) (f : BitVec 2)
  /-- SCL (R138). Multiplies by a power of two from an E8M0 scale and rounds once. -/
  | scl (e : Bool) (d : BitVec 7) (a : BitVec 7) (b : BitVec 7) (f : BitVec 2)
  /-- BR (R95). Conditional relative branch on a predicate; ends the run. -/
  | br (e : Bool) (p : BitVec 6) (n : BitVec 1) (o : BitVec 16)
  /-- JMPI (R97). Indirect jump to a checked landing pad. -/
  | jmpi (e : Bool) (a : BitVec 7)
  /-- CALL (R96). Pushes the return offset on the call stack and branches. -/
  | call (e : Bool) (o : BitVec 23)
  /-- CALLI (R96). Indirect call to a checked landing pad. -/
  | calli (e : Bool) (a : BitVec 7)
  /-- RET (R96). Pops a return offset, or ends the thread on an empty stack. -/
  | ret (e : Bool)
  /-- JOIN (R99). Parks until the threads named by the rejoin mask meet at this JOIN or have ended. -/
  | join (e : Bool) (a : BitVec 7)
  /-- EXIT (R100). Ends each live thread with an exit value and removes it from masks, collectives and barriers. -/
  | exit (e : Bool) (a : BitVec 7)
  /-- TRAP (R111). Raises a Trap fault with a code. -/
  | trap (e : Bool) (i : BitVec 9)
  /-- LAND (R97). Landing pad with no effect. -/
  | land (e : Bool)
  /-- YIELD (R103). Parks the thread until the slice's next release; completes the job when all are parked. -/
  | yield (e : Bool)
  /-- WAITC (R102). Parks the group until the named completion counters fall to the threshold. -/
  | waitc (e : Bool) (m : BitVec 4) (t : BitVec 6)
  /-- RFE_REPLAY (R112). Returns from the handler and replays the faulting instruction with its run context. -/
  | rfeReplay (e : Bool)
  /-- RFE_SKIP (R112). Returns from the handler and continues after the faulting instruction. -/
  | rfeSkip (e : Bool)
  /-- LDB (R149). Loads a zero-extended byte. -/
  | ldb (e : Bool) (v : BitVec 7) (b : BitVec 7) (o : BitVec 9)
  /-- LDH (R149). Loads a zero-extended halfword. -/
  | ldh (e : Bool) (v : BitVec 7) (b : BitVec 7) (o : BitVec 9)
  /-- LDW (R149). Loads a word. -/
  | ldw (e : Bool) (v : BitVec 7) (b : BitVec 7) (o : BitVec 9)
  /-- LDD (R149). Loads a doubleword into a w register. -/
  | ldd (e : Bool) (v : BitVec 7) (b : BitVec 7) (o : BitVec 9)
  /-- LDQ (R149). Loads 16 bytes into two w registers as two 8-byte accesses. -/
  | ldq (e : Bool) (v : BitVec 7) (b : BitVec 7) (o : BitVec 9)
  /-- STB (R149). Stores a byte. -/
  | stb (e : Bool) (v : BitVec 7) (b : BitVec 7) (o : BitVec 9)
  /-- STH (R149). Stores a halfword. -/
  | sth (e : Bool) (v : BitVec 7) (b : BitVec 7) (o : BitVec 9)
  /-- STW (R149). Stores a word. -/
  | stw (e : Bool) (v : BitVec 7) (b : BitVec 7) (o : BitVec 9)
  /-- STD (R149). Stores a doubleword. -/
  | std (e : Bool) (v : BitVec 7) (b : BitVec 7) (o : BitVec 9)
  /-- STQ (R149). Stores 16 bytes as two 8-byte accesses. -/
  | stq (e : Bool) (v : BitVec 7) (b : BitVec 7) (o : BitVec 9)
  /-- LDS (R149). Loads a word from the team scratchpad by offset. -/
  | lds (e : Bool) (v : BitVec 7) (b : BitVec 7) (o : BitVec 9)
  /-- STS (R149). Stores a word to the team scratchpad by offset. -/
  | sts (e : Bool) (v : BitVec 7) (b : BitVec 7) (o : BitVec 9)
  /-- LDPOLL (R161). Demotes, reads a word at its scope and returns at once if it differs from the register, else holds. -/
  | ldpoll (e : Bool) (v : BitVec 7) (b : BitVec 7) (o : BitVec 9)
  /-- PREF (R164). Asks for a 128-byte line to be fetched into L1 or L2, without faults or effects. -/
  | pref (e : Bool) (v : BitVec 7) (b : BitVec 7) (o : BitVec 9)
  /-- AADD (R165). Atomic add returning the old value. -/
  | aadd (e : Bool) (d : BitVec 7) (a : BitVec 7) (b : BitVec 7) (f : BitVec 2)
  /-- AMM (R165). Atomic minimum or maximum returning the old value. -/
  | amm (e : Bool) (d : BitVec 7) (a : BitVec 7) (b : BitVec 7) (f : BitVec 2)
  /-- ALOG (R165). Atomic and, or, xor or exchange returning the old value. -/
  | alog (e : Bool) (d : BitVec 7) (a : BitVec 7) (b : BitVec 7) (f : BitVec 2)
  /-- ACAS (R165). Atomic compare-and-swap returning the old value; demotes on failure. -/
  | acas (e : Bool) (d : BitVec 7) (a : BitVec 7) (b : BitVec 7) (f : BitVec 2)
  /-- FENCE_ACQ (R185). Awaits earlier loads and performs the acquire action of its scope. -/
  | fenceAcq (e : Bool) (sc : BitVec 4)
  /-- FENCE_REL (R185). Awaits earlier accesses and performs the release wait of its scope. -/
  | fenceRel (e : Bool) (sc : BitVec 4)
  /-- FENCE_AR (R185). Release and acquire, taking a place in the scope instance's total FENCE.ar order. -/
  | fenceAr (e : Bool) (sc : BitVec 4)
  /-- OFENCE (R188). Awaits earlier stores and drains the dirty-line FIFO so later matrix operand reads see them. -/
  | ofence (e : Bool)
  /-- CDETECT (R170). Gives each thread the mask of lower group positions holding its value. -/
  | cdetect (e : Bool) (d : BitVec 7) (a : BitVec 7)
  /-- LDACQ (R186). Acquire load of a word at a scope. -/
  | ldacq (e : Bool) (v : BitVec 7) (b : BitVec 7) (sc : BitVec 4)
  /-- STREL (R187). Release then store of a word at a scope. -/
  | strel (e : Bool) (v : BitVec 7) (b : BitVec 7) (sc : BitVec 4)
  /-- SHFL (R197). Takes a value from another group position by up, down, xor or index. -/
  | shfl (e : Bool) (d : BitVec 7) (a : BitVec 7) (b : BitVec 7) (f : BitVec 2)
  /-- BCAST (R197). Broadcasts a value from an indexed or the first contributor. -/
  | bcast (e : Bool) (d : BitVec 7) (a : BitVec 7) (b : BitVec 7) (f : BitVec 2)
  /-- BALLOT (R198). Gathers contributors' predicates into a mask. -/
  | ballot (e : Bool) (d : BitVec 7) (a : BitVec 7)
  /-- VOTE (R198). Any, all or uniform vote on contributors' predicates. -/
  | vote (e : Bool) (d : BitVec 7) (a : BitVec 7) (f : BitVec 2)
  /-- RED (R200). Reduces contributors' values in fixed log-step order. -/
  | red (e : Bool) (d : BitVec 7) (a : BitVec 7) (o : BitVec 3) (v : BitVec 3) (f : BitVec 2)
  /-- SCAN (R201). Inclusive or exclusive prefix over group positions in fixed order. -/
  | scan (e : Bool) (d : BitVec 7) (a : BitVec 7) (o : BitVec 3) (ex : BitVec 1) (v : BitVec 3) (f : BitVec 2)
  /-- TOPK (R202). Ranks contributors' value-index pairs and hands out the top k. -/
  | topk (e : Bool) (d : BitVec 7) (a : BitVec 7) (b : BitVec 7) (f : BitVec 2)
  /-- MATCH (R203). Gives each receiver the mask of positions holding its value. -/
  | matchv (e : Bool) (d : BitVec 7) (a : BitVec 7) (f : BitVec 2)
  /-- SORTKV (R204). Stable ascending sort of contributors' key-value pairs. -/
  | sortkv (e : Bool) (d : BitVec 7) (a : BitVec 7) (b : BitVec 7) (f : BitVec 2)
  /-- REGROUP (R211). Arrives at the team regrouping with a key and carried register count; parks. -/
  | regroup (e : Bool) (d : BitVec 7) (a : BitVec 7) (n : BitVec 7)
  /-- BAR (R205). Arrives at the team barrier and parks until the phase completes. -/
  | bar (e : Bool)
  /-- CVINIT (R207). Sets the expected signer count of a convergence register. -/
  | cvinit (e : Bool) (d : BitVec 7) (a : BitVec 7)
  /-- CVSIGN (R208). Signs a convergence register; the last signer of a round receives true. -/
  | cvsign (e : Bool) (d : BitVec 7) (a : BitVec 7)
  /-- ELECT (R210). Sets a predicate true in the lowest live lane only. -/
  | elect (e : Bool) (d : BitVec 7)
  /-- TLOAD (R233). Creates a D tile from a tensor tile in memory into POOL, ACC or BONNET. -/
  | tload (e : Bool) (d : BitVec 7) (a : BitVec 7) (b : BitVec 7) (f : BitVec 2)
  /-- TSTORE (R234). Writes a tile's expansion into a tensor tile in memory. -/
  | tstore (e : Bool) (d : BitVec 7) (a : BitVec 7) (b : BitVec 7)
  /-- TBIND (R233). Creates a GLOBAL view of a tensor tile. -/
  | tbind (e : Bool) (d : BitVec 7) (a : BitVec 7) (b : BitVec 7)
  /-- TZERO (R235). Creates a Z tile or a zeroed ACC tile of a given shape. -/
  | tzero (e : Bool) (d : BitVec 7) (a : BitVec 7) (f : BitVec 2)
  /-- TFREE (R236). Releases a tile's storage and binding and sets it EMPTY. -/
  | tfree (e : Bool) (d : BitVec 7)
  /-- TMMA (R250). Forms a product of tiles and combines it with C by kind. -/
  | tmma (e : Bool) (d : BitVec 7) (a : BitVec 7) (b : BitVec 7) (f : BitVec 2)
  /-- TMMAS (R252). Block-scaled narrow matrix multiply-accumulate. -/
  | tmmas (e : Bool) (d : BitVec 7) (a : BitVec 7) (b : BitVec 7)
  /-- TADD (R254). Adds two tiles, concatenating low-rank factors or summing densely. -/
  | tadd (e : Bool) (d : BitVec 7) (a : BitVec 7) (b : BitVec 7)
  /-- TRND (R271). Rounds a low-rank tile's rank to a tolerance on the Hem unit. -/
  | trnd (e : Bool) (d : BitVec 7) (a : BitVec 7) (b : BitVec 7)
  /-- TDENSE (R257). Makes a tile dense in a chosen location. -/
  | tdense (e : Bool) (d : BitVec 7) (a : BitVec 7) (f : BitVec 2)
  /-- TLRF (R256). Forms a low-rank tile from two D factor tiles. -/
  | tlrf (e : Bool) (d : BitVec 7) (a : BitVec 7) (b : BitVec 7)
  /-- TSCAL (R255). Multiplies a tile by a scalar. -/
  | tscal (e : Bool) (d : BitVec 7) (a : BitVec 7) (b : BitVec 7) (f : BitVec 2)
  /-- TINFO (R239). Reads a tile-table entry word into a register. -/
  | tinfo (e : Bool) (d : BitVec 7) (a : BitVec 7)
  /-- TMOVA (R242). Copies rows of an ACC tile into registers. -/
  | tmova (e : Bool) (d : BitVec 7) (a : BitVec 7) (b : BitVec 7)
  /-- TMOVR (R242). Copies registers into rows of an ACC tile. -/
  | tmovr (e : Bool) (d : BitVec 7) (a : BitVec 7) (b : BitVec 7)
  /-- TWAIT (R243). Parks at the run end until operations on named tiles have completed. -/
  | twait (e : Bool) (d : BitVec 7) (a : BitVec 7) (b : BitVec 7) (f : BitVec 2)
  /-- TLU (R258). Factors a square D tile in place with partial pivoting. -/
  | tlu (e : Bool) (d : BitVec 7)
  /-- TTRS (R259). Solves in place with a factored tile, from the left or right. -/
  | ttrs (e : Bool) (d : BitVec 7) (a : BitVec 7) (f : BitVec 2)
  /-- TCVT (R237). Converts a tile to another format and location. -/
  | tcvt (e : Bool) (d : BitVec 7) (a : BitVec 7) (m : BitVec 4) (f : BitVec 2)
  /-- TTRAN (R237). Transposes a tile. -/
  | ttran (e : Bool) (d : BitVec 7) (a : BitVec 7) (f : BitVec 2)
  /-- TSET (R238). Sets a tile's rounding policy. -/
  | tset (e : Bool) (d : BitVec 7) (a : BitVec 7) (b : BitVec 7)
  /-- TCOPY (R237). Copies a tile to a location. -/
  | tcopy (e : Bool) (d : BitVec 7) (a : BitVec 7) (f : BitVec 2)
  /-- TGET (R240). Reads one element of a tile's expansion. -/
  | tget (e : Bool) (d : BitVec 7) (a : BitVec 7) (b : BitVec 7) (f : BitVec 2)
  /-- TNORM (R241). Writes the Frobenius norm of a tile, stalling. -/
  | tnorm (e : Bool) (d : BitVec 7) (a : BitVec 7) (f : BitVec 2)
  /-- QPUSH (R285). Releases and appends an entry to a role queue, parking while full. -/
  | qpush (e : Bool) (a : BitVec 7) (b : BitVec 7)
  /-- QPUSH_CLOSE (R285). Releases and closes a role queue after earlier waiting pushes. -/
  | qpushClose (e : Bool) (a : BitVec 7)
  /-- QPOP (R286). Parks until an entry or the closed-and-empty result is available, then acquires. -/
  | qpop (e : Bool) (d : BitVec 7) (a : BitVec 7) (b : BitVec 7)
  /-- XFORM (R291). Checks and submits a transform descriptor to the cluster's engine and returns a tag. -/
  | xform (e : Bool) (d : BitVec 7) (a : BitVec 7)
  /-- XWAIT (R297). Parks until a barrier object reaches EXPECTED or reports an error, then acquires. -/
  | xwait (e : Bool) (a : BitVec 7)
  /-- XCANCEL (R299). Sends a stop to a transform by tag. -/
  | xcancel (e : Bool) (d : BitVec 7) (a : BitVec 7)
  /-- COLL (R302). Releases and submits a collective descriptor to the collective engine. -/
  | coll (e : Bool) (a : BitVec 7)
  /-- POPEN_NEW (R312). Opens a new pocket set from a descriptor. -/
  | popenNew (e : Bool) (d : BitVec 7) (a : BitVec 7)
  /-- POPEN_RESET (R312). Reopens a fully sealed pocket set for the next batch. -/
  | popenReset (e : Bool) (d : BitVec 7) (a : BitVec 7) (b : BitVec 7)
  /-- PCLAIM (R313). Claims a slot of an expert's pocket from own reservation, pool or by stealing. -/
  | pclaim (e : Bool) (d : BitVec 7) (a : BitVec 7) (b : BitVec 7)
  /-- PCLOSE_RET (R314). Returns the sender's unused reservation for an expert to the pool. -/
  | pcloseRet (e : Bool) (d : BitVec 7) (a : BitVec 7) (b : BitVec 7)
  /-- PCLOSE_SEAL (R315). Seals an expert's pocket, adjusts its bias and publishes the count. -/
  | pcloseSeal (e : Bool) (d : BitVec 7) (a : BitVec 7) (b : BitVec 7)
  /-- PBIAS (R317). Reads an expert's routing bias. -/
  | pbias (e : Bool) (d : BitVec 7) (a : BitVec 7) (b : BitVec 7)
  /-- FNEW (R327). Allocates a pending bare future and returns its handle. -/
  | fnew (e : Bool) (d : BitVec 7)
  /-- INVOKE (R329). Releases, copies an invocation and sends it, returning a handle at once. -/
  | invoke (e : Bool) (d : BitVec 7) (a : BitVec 7)
  /-- INVH (R329). Sends an invocation addressed to an upstream handle, returning a new handle. -/
  | invh (e : Bool) (d : BitVec 7) (a : BitVec 7) (b : BitVec 7)
  /-- FPUT (R338). Releases and completes a pending handle with a value. -/
  | fput (e : Bool) (d : BitVec 7) (a : BitVec 7) (b : BitVec 7) (f : BitVec 2)
  /-- FGET_WAIT (R340). Parks until a handle is full or broken, then reads and acquires. -/
  | fgetWait (e : Bool) (d : BitVec 7) (a : BitVec 7) (b : BitVec 7)
  /-- FGET_POLL (R341). Reads a handle's local entry or notice without parking. -/
  | fgetPoll (e : Bool) (d : BitVec 7) (a : BitVec 7) (b : BitVec 7)
  /-- FBREAK (R339). Breaks a pending handle with a software cause. -/
  | fbreak (e : Bool) (d : BitVec 7) (a : BitVec 7) (b : BitVec 7)
  /-- FREL (R342). Marks a handle released for reclamation. -/
  | frel (e : Bool) (d : BitVec 7) (a : BitVec 7)
  /-- SLICE (R349). Spawns a slice on the issuing device and returns its handle. -/
  | slice (e : Bool) (d : BitVec 7) (a : BitVec 7)
  /-- CWATCH_SET (R356). Sets a counter watch from a descriptor. -/
  | cwatchSet (e : Bool) (d : BitVec 7) (a : BitVec 7)
  /-- CWATCH_CLR (R356). Removes a counter watch. -/
  | cwatchClr (e : Bool) (d : BitVec 7) (a : BitVec 7)
  /-- TLBINV_PAGE (R360). Drops translations of one page of an address space. -/
  | tlbinvPage (e : Bool) (a : BitVec 7) (b : BitVec 7)
  /-- TLBINV_ASID (R360). Drops all translations of an address space. -/
  | tlbinvAsid (e : Bool) (b : BitVec 7)
  /-- TLBINV_ALL (R360). Drops every translation of the device. -/
  | tlbinvAll (e : Bool)
  /-- CTXSV (R362). Starts saving selected teams into a context area where they stay held. -/
  | ctxsv (e : Bool) (d : BitVec 7) (a : BitVec 7) (b : BitVec 7)
  /-- CTXLD (R363). Queues held teams of a saved context area for restore. -/
  | ctxld (e : Bool) (d : BitVec 7) (a : BitVec 7)
  /-- CFLUSH (R190). Writes back, and optionally drops, L1 dirty bytes of a range. -/
  | cflush (e : Bool) (a : BitVec 7) (b : BitVec 7) (f : BitVec 2)
  /-- CINV (R191). Drops L1 or L2 lines of a range, or the whole L1, without write-back. -/
  | cinv (e : Bool) (a : BitVec 7) (b : BitVec 7) (f : BitVec 2)
  /-- RUN_START (R91). A group given an issue slot selects the path key and issue set for a new or resumed run. -/
  | runStart (gid : Nat)
  /-- RESULT_RETURN (R50). A long-latency result returns: destination written, counter decremented, parked group released when all awaited results are in. -/
  | resultReturn (uid id : Nat)
  /-- REGROUP_OPERATION (R212). The Teasel sorts keys, forms new groups, carries registers, retires arrived threads and starts successors. -/
  | regroupOperation (team : Nat)
  /-- KILL (R101). A thread or slice is killed by the supervisor or host and the slice is marked faulted. -/
  | kill (slice : Nat)
  /-- GROUP_ACTIVATION (R407). A free active place is filled by the earliest-ready pending group with its registers resident. -/
  | groupActivation (core : Nat)
  /-- AGEING_ROTATION (R408). After 1,024 cycles of waiting, the earliest-entered active group is moved to pending. -/
  | ageingRotation (core : Nat)
  /-- ISSUE_STARVATION (R409). A group able to issue for 64 cycles without issuing takes a slot ahead of order. -/
  | issueStarvation (gid : Nat)
  /-- DEFERRAL_WINDOW_EXPIRY (R59). A deferral window expires and a held pre-emption request takes effect at the next run boundary. -/
  | deferralWindowExpiry (slice : Nat)
  /-- LDPOLL_TIMEOUT (R161). A held LDPOLL reloads after 16,384 cycles. -/
  | ldpollTimeout (uid id : Nat)
  /-- DIRTY_LINE_WRITE_BACK (R368). A dirty L1 line's dirty bytes are written back to the die's L2. -/
  | dirtyLineWriteBack (core line : Nat)
  /-- L1_AGE_LIMIT (R181). An accepted store reaches the L2 within 32,768 cycles of acceptance. -/
  | l1AgeLimit (core line : Nat)
  /-- OWNERSHIP_GRANT (R371). The I/O die grants a line's ownership to one die after taking the other's copies, and held writes enter coherence order. -/
  | ownershipGrant (die line : Nat)
  /-- HBM_WRITE_BACK (R373). An L2 line is written back to HBM, compressed or not, switching its metadata in one step. -/
  | hbmWriteBack (line : Nat)
  /-- SCRUB (R383). The scrubber reads and corrects HBM lines once per 24 hours. -/
  | scrub (line : Nat)
  /-- UNCORRECTABLE_ERROR (R381). An uncorrectable ECC error poisons the register, granule or element, or breaks state, and is counted. -/
  | uncorrectableError (loc : ErrLoc)
  /-- PFDONE_ACKNOWLEDGE (R355). G2S of %pfdone acknowledges a record and replays or fails its parked threads. -/
  | pfdoneAcknowledge (v : Word)
  /-- TSTAT_CLEAR (R31). G2S of %tstat clears the written-1 bits that are set. -/
  | tstatClear (uid : Nat) (v : Word)
  /-- TRCTL_WRITE (R365). Writing %trctl with EN set clears %trhead and %trdrop. -/
  | trctlWrite (slice : Nat) (v : Word)
  /-- DBGCTL_HOLD (R366). Setting HOLD makes Debug faults of the selected slice stop for the debugger. -/
  | dbgctlHold (slice : Nat) (on : Bool)
  /-- DBGCTL_STOP (R366). Setting STOP stops every group of the selected slice at its next run boundary; clearing it lets them go. -/
  | dbgctlStop (slice : Nat) (on : Bool)
  /-- SPECIAL_REGISTER_WRITE (R82). G2S write of a special register with no behaviour of its own. -/
  | specialRegisterWrite (uid : Nat) (code : BitVec 16) (v : Word)
  /-- TILE_OPERATION_COMPLETE (R221). A tile operation completes, its tiles become READY, storage returns and %tstat bits are set. -/
  | tileOperationComplete (op : Nat)
  /-- ARRAY_OPERATION_START (R265). The array starts its next operation, covered, waiting for a grant, or as an undeclared burst. -/
  | arrayOperationStart (core : Nat)
  /-- BAND_GATING (R413). A band unused for 1,024 cycles has its power switches opened. -/
  | bandGating (core band : Nat)
  /-- CADENCE_UPDATE (R439). At each slot boundary power control sets ICAD from the grant, thermal and rail terms. -/
  | cadenceUpdate (core : Nat)
  /-- APRON_ANNOUNCEMENT (R438). An ANNOUNCE reaches the Apron, registers rail floors and is scheduled for a grant. -/
  | apronAnnouncement (team : Nat)
  /-- PHASE_GRANT (R438). At a window boundary the Apron grants a phase a cadence and reservation, releasing waiting operations. -/
  | phaseGrant (team : Nat)
  /-- PHASE_ONSET (R263). A pending phase's onset passes and it becomes deferred. -/
  | phaseOnset (team : Nat)
  /-- PHASE_IDLE_EXPIRY (R263). A granted phase with no covered operation within 65,536 cycles ends. -/
  | phaseIdleExpiry (team : Nat)
  /-- RAIL_STEP_UP (R440). A band rail steps up one level toward the highest vote. -/
  | railStepUp (cluster band : Nat)
  /-- RAIL_HOLD_EXPIRY (R440). A rail's hold time expires and it begins to step down. -/
  | railHoldExpiry (cluster band : Nat)
  /-- RAIL_STEP_DOWN (R440). A rail steps down one level per RAMP, not below remaining votes. -/
  | railStepDown (cluster band : Nat)
  /-- SENSOR_READ (R442). Junction sensors are read every 256 cycles and thermal states evaluated. -/
  | sensorRead (die0 die1 : Nat)
  /-- KTHERM_ADJUST (R442). Every 4,096 cycles KTHERM doubles while warm or halves while cool. -/
  | kthermAdjust
  /-- TRANSFORM_CHUNK (R292). The transform engine processes one chunk of a transform. -/
  | transformChunk (tag : Nat)
  /-- TRANSFORM_END (R290). A transform ends, writing STATUS on error and incrementing ARRIVED. -/
  | transformEnd (tag : Nat)
  /-- DECODER_WATCHDOG (R296). An EXPZ chunk exceeding WD_CYCLES ends the transform with STATUS 2. -/
  | decoderWatchdog (tag : Nat)
  /-- COLLECTIVE_COMPLETE (R305). A collective writes each member's buffer and residuals and updates its barrier object. -/
  | collectiveComplete (tag : Nat)
  /-- COLLECTIVE_MEMBER_TIMEOUT (R307). A member not issued within 2^32 cycles ends the remaining members with STATUS 10. -/
  | collectiveMemberTimeout (tag : Nat)
  /-- CLOAKROOM_INVOKE (R330). An INVOKE message arrives at its target, allocating a location entry and admitting the slice. -/
  | cloakroomInvoke (h : MsgHead) (desc launch args : List Byte) (asid : Nat) (anyAsid : Bool)
  /-- CLOAKROOM_INVH (R335). An INVH message arrives at a location entry and is dispatched, queued or broken. -/
  | cloakroomInvh (h : MsgHead) (newHandle : DWord) (desc launch args : List Byte) (asid : Nat) (anyAsid : Bool)
  /-- CLOAKROOM_FGET_WAITER (R341). An FGET waiter message registers a waiter or notice at a location entry. -/
  | cloakroomFgetWaiter (h : MsgHead) (tag : Nat) (polling : Bool)
  /-- CLOAKROOM_FPUT (R338). An FPUT message completes or is rejected at a location entry. -/
  | cloakroomFput (h : MsgHead) (value : List Byte)
  /-- CLOAKROOM_FBREAK (R339). An FBREAK message breaks or is rejected at a location entry. -/
  | cloakroomFbreak (h : MsgHead) (cause : Word) (depth : Nat)
  /-- CLOAKROOM_FREL (R342). An FREL message sets RELEASED and may reclaim the entry. -/
  | cloakroomFrel (h : MsgHead)
  /-- VALUE_REPLY (R340). A value reply releases FGET waiters or fills a notice. -/
  | valueReply (h : MsgHead) (tag : Nat) (value : List Byte)
  /-- BROKEN_REPLY (R336). A broken reply releases waiters with the break. -/
  | brokenReply (h : MsgHead) (tag : Nat) (cause : Word) (depth : Nat)
  /-- ROUTE_UPDATE (R333). A route update is cached for a forwarded handle. -/
  | routeUpdate (h : MsgHead) (location : Nat)
  /-- ACKNOWLEDGEMENT (R333). A Cloakroom acknowledgement allows cached routes to be used. -/
  | acknowledgement (h : MsgHead) (accepted : Bool) (sub : Nat)
  /-- PLACEMENT (R399). All teams of a slice are placed and started as one gang when resources allow. -/
  | placement (slice : Nat)
  /-- SAVE_COMPLETE (R403). An evicted team's save into the context pool completes and its storage is freed. -/
  | saveComplete (slice : Nat)
  /-- RESTORE_COMPLETE (R404). A restored team's context is moved back and its pending updates applied before it issues. -/
  | restoreComplete (slice : Nat)
  /-- SUSPEND_RESUME (R402). A suspended slice resumes when the contract jobs in its way end. -/
  | suspendResume (slice : Nat)
  /-- CONTRACT_RELEASE (R394). A contract slice is released at its period, or held, or the release dropped. -/
  | contractRelease (contract : Nat)
  /-- BUDGET_EXHAUSTED (R392). A job's budget reaches 0, the slice's threads take Budget faults and an allowance begins. -/
  | budgetExhausted (slice : Nat)
  /-- ALLOWANCE_EXPIRY (R392). The 32,768-cycle allowance runs out and the slice's threads are killed. -/
  | allowanceExpiry (slice : Nat)
  /-- DEADLINE_MISS (R392). A release's absolute deadline passes before its job ends and %sbmiss counts it. -/
  | deadlineMiss (slice : Nat)
  /-- WATCH_EVALUATION (R358). A level-counter watch is evaluated every 4,096 cycles, firing or rearming. -/
  | watchEvaluation (watch : Nat)
  /-- CONTEXT_SAVE_COMPLETE (R362). A CTXSV save finishes, header written and STATE set to 2. -/
  | contextSaveComplete (ctx : Nat)
  /-- CONTEXT_LOAD_COMPLETE (R363). CTXLD's teams are placed and STATE is set to 3. -/
  | contextLoadComplete (ctx : Nat)
  /-- LINK_LEVEL_RETRY (R421). A flit failing its CRC is retransmitted from the replay buffer. -/
  | linkLevelRetry (link : Nat)
  /-- LINK_DOWN (R421). A link unable to deliver a flit within 2^20 cycles is marked down and retrained. -/
  | linkDown (link : Nat)
  /-- LINK_RETRAINED (R421). A retrained link comes up and carries traffic again. -/
  | linkRetrained (link : Nat)
  /-- REMOTE_ACCESS_REQUEST (R380). A remote load, store or atomic arrives over Seam and is performed at the home L2. -/
  | remoteAccessRequest (src txn pa : Nat) (op : RemoteOp)
  /-- REMOTE_ACCESS_REPLY (R380). A reply or acknowledgement of a remote access returns to its issuer. -/
  | remoteAccessReply (txn : Nat) (bytes : List Byte) (poison failed : Bool)
  /-- LIVENESS_FLIT (R425). Every 65,536 cycles a member sends liveness flits to its peers. -/
  | livenessFlit (src : Option Nat)
  /-- MEMBER_FAILURE_DECLARED (R425). A member silent for 2^22 cycles with no route up is declared failed and reported. -/
  | memberFailureDeclared (dev : Nat)
  /-- FAILURE_REPORT (R425). A failure report arrives and the receiver declares the member failed, breaking its entries. -/
  | failureReport (report : FailReport)
  /-- PLACEMENT_REPORT (R388). Every 65,536 cycles a device reports its INVQ_STARVE level to the other front ends. -/
  | placementReport (src : Option Nat) (level : Nat) (classes : BitVec 16)
  /-- SUPOL_INVOKE (R433). A host INVOKE allocates a host-originated handle and admits or forwards the invocation. -/
  | supolInvoke (session : SupolHead) (reqId : Nat) (desc launch args : List Byte)
  /-- SUPOL_INVH (R433). A host INVH addresses an invocation to an upstream handle. -/
  | supolInvh (session : SupolHead) (reqId : Nat) (upstream : DWord) (desc launch args : List Byte)
  /-- FGET_NOTIFY (R433). A host registers as a waiter and is later sent one NOTIFY. -/
  | fgetNotify (session : SupolHead) (reqId : Nat) (handle : DWord)
  /-- SUPOL_FREL (R343). A host releases a handle. -/
  | supolFrel (session : SupolHead) (reqId : Nat) (handle : DWord)
  /-- CONTRACT (R393). A host submits a periodic contract, admitted by the utilisation and deadline tests. -/
  | contract (who : Requester) (desc launch : List Byte)
  /-- RMA_READ (R434). A host reads device memory at the L2 as single-copy atomic 8-byte units. -/
  | rmaRead (session : SupolHead) (reqId : Nat) (va : DWord) (len : Nat) (ordered : Bool)
  /-- RMA_WRITE (R434). A host writes device memory as 8-byte units into coherence order at the L2. -/
  | rmaWrite (session : SupolHead) (reqId : Nat) (va : DWord) (bytes : List Byte) (ordered : Bool)
  /-- READ_REG (R452). Reads a management register. -/
  | readReg (who : Requester) (offset : Nat)
  /-- WRITE_REG (R452). Writes a management register that has no behaviour of its own. -/
  | writeReg (who : Requester) (offset : Nat) (v : DWord)
  /-- WRITE_DOMAIN (R452). Writes the device id, refused while any slice is live. -/
  | writeDomain (who : Requester) (v : DWord)
  /-- WRITE_MEMBERS (R452). Writes the domain member mask, refused while any slice is live. -/
  | writeMembers (who : Requester) (v : DWord)
  /-- WRITE_ROUTE_BASE (R452). Writes the routing table address, refused while any slice is live. -/
  | writeRouteBase (who : Requester) (v : DWord)
  /-- WRITE_INV_ARGS (R468). Sets the invocation argument pool base and size, refused while a block is held. -/
  | writeInvArgs (who : Requester) (v : DWord)
  /-- WRITE_INV_ARGS_VA (R468). Sets the VA of the invocation argument pool, refused while a block is held. -/
  | writeInvArgsVa (who : Requester) (v : DWord)
  /-- ADMIT_CODE (R352). Admits a code object in an address space and returns a CODE_ID. -/
  | admitCode (who : Requester) (base : DWord) (len asid : Nat)
  /-- RETIRE_CODE (R451). Retires an admitted code object not used by a live slice. -/
  | retireCode (who : Requester) (codeId : Nat)
  /-- OPEN_SESSION (R451). Opens a Supol session with an ASID, mode and security flag. -/
  | openSession (who : Requester) (asid : Nat) (mgmt secure : Bool)
  /-- CLOSE_SESSION (R451). Closes a Supol session. -/
  | closeSession (who : Requester) (session : Nat)
  /-- QUOTE (R450). Returns a signed quote over a nonce, firmware digests, part masks and code objects. -/
  | quote (who : Requester) (nonce : List Byte)
  /-- GET_CERT (R449). Returns the device identity certificate. -/
  | getCert (who : Requester)
  /-- RAS_READ (R384). Reads a RAS counter. -/
  | rasRead (who : Requester) (code : Nat)
  /-- RAS_CLEAR (R384). Clears a RAS counter. -/
  | rasClear (who : Requester) (code : Nat)
  /-- LOG_READ (R451). Reads the RAS log or the refusal log. -/
  | logRead (who : Requester) (which : Nat)
  /-- DEBUG_STOP (R119). Stops a slice's groups for the debugger. -/
  | debugStop (who : Requester) (slice : Nat)
  /-- DEBUG_STEP_PATH (R119). Steps one instruction of one path of a stopped group. -/
  | debugStepPath (who : Requester) (slice gid : Nat) (key : PathKey)
  /-- DEBUG_STEP_ALL (R119). Steps every path of a stopped group in ascending PC order. -/
  | debugStepAll (who : Requester) (slice gid : Nat)
  /-- DEBUG_RESUME (R451). Resumes a stopped slice. -/
  | debugResume (who : Requester) (slice : Nat)
  /-- CONTRACT_WITHDRAW (R393). Withdraws an admitted contract. -/
  | contractWithdraw (who : Requester) (contract : Nat)
  /-- RESET_COLD (R446). Cold reset clears all state and generations and kills every slice. -/
  | resetCold
  /-- RESET_WARM (R446). Warm reset keeps HBM, generations, sessions and the carve-out and applies CHIP_SP. -/
  | resetWarm
  /-- RESET_PARTITION (R446). Partition reset clears one cluster's cores, queues and resident teams. -/
  | resetPartition (r : ResetReq)
  /-- LOAD_FW (R448). Writes a firmware image into slot B for verification at the next warm reset. -/
  | loadFw (who : Requester) (image : List Byte)
  /-- MANAGEMENT_WATCHDOG (R446). Expiry of the management port's watchdog causes a warm reset. -/
  | managementWatchdog
  /-- POWER_ON (R447). Power-on runs the boot ROM sequence, verifying firmware or entering recovery. -/
  | powerOn (slotA : List Byte)
  /-- SUPOL_PACKET_DROP (R429). A Supol packet that the Knanar cannot accept for lack of receive buffers is dropped, left for the transport to retransmit, and counted by SUPOL_STARVE. -/
  | supolPacketDrop
  /-- BAND_POWER_UP (R413). A gated band needed by a pass has its power switches closed within 128 cycles, clearing its GATED bit and letting the waiting pass proceed. -/
  | bandPowerUp (core band : Nat)
  /-- CORRECTED_ERROR (R381). A correctable error is corrected, or a clean L1 line or TLB entry with a parity error is dropped and fetched or walked again, and the matching RAS counter is incremented. -/
  | correctedError (loc : ErrLoc)
  /-- COLLECTIVE_CONTROL_MESSAGE (R303). A class-3 collective control or data message from another member arrives, recording that member's accepted COLL so that the collective can begin or end with a mismatch. -/
  | collectiveControlMessage (src tag : Nat) (fields data : List Nat)
  deriving DecidableEq, Repr, Inhabited

end Sys2Proof
end

