-- ==== Sys2Proof/Decode.lean ====
section
/-! DEFINITION. The decoder and the encoder of instruction words, and the register operands of every
instruction.

`decode v w` reads the word `w` under encoding version `v` (R43, R61 to R64) and answers the
instruction, or the Illegal Instruction subcode (R65) of the checks that need the word alone: opcode,
reserved, variant, register, and the trailer's S bit (R53). The lowest failing subcode is reported.
The checks that need the slice (budget, tile window, class), the hints or the run are made at issue. -/

namespace Sys2Proof

/-- The Illegal Instruction subcodes (R65). -/
inductive Ill where
  | opcode | reserved | variant | register | budget | tileWindow | modifier | hint | runEnd
  | runLength | trailer | readOnly | klass | noFrame
  deriving DecidableEq, Repr

/-- The SUBCODE value of an Illegal Instruction fault (R65). -/
def Ill.code : Ill → Nat
  | .opcode => 0x01 | .reserved => 0x02 | .variant => 0x03 | .register => 0x04 | .budget => 0x05
  | .tileWindow => 0x06 | .modifier => 0x07 | .hint => 0x08 | .runEnd => 0x09
  | .runLength => 0x0A | .trailer => 0x0B | .readOnly => 0x0C | .klass => 0x0D | .noFrame => 0x0E

/-- The kind of register a field names (R14 to R16, R23, R24, R192). `wq` is the w pair of LDQ and STQ
(R146); `g2` and `g8` are two and eight g registers from g1 up (R192, R325); `gn n` is FPUT's range of
n g registers, or g0 (R325); `gr` is the first register of a TMOVA or TMOVR range (R242). -/
inductive OKind where
  | g | w | p | t | cv | q | wq | g2 | g8 | gn (n : Nat) | gr
  deriving DecidableEq, Repr

/-- The LAST slot that names an operand (R56). -/
inductive Slot where
  | none | a | b | c
  deriving DecidableEq, Repr

/-- One register operand: its kind, its number, its LAST slot, and whether it is read and written. -/
structure Opnd where
  kind : OKind
  num : Nat
  slot : Slot
  rd : Bool
  wr : Bool
  deriving DecidableEq, Repr

namespace Opnd
/-- A destination. -/
abbrev dst (k : OKind) (n : Nat) : Opnd := ⟨k, n, .none, false, true⟩
/-- A source in slot a (LAST bit [10]). -/
abbrev srcA (k : OKind) (n : Nat) : Opnd := ⟨k, n, .a, true, false⟩
/-- A source in slot b (LAST bit [11]). -/
abbrev srcB (k : OKind) (n : Nat) : Opnd := ⟨k, n, .b, true, false⟩
/-- A source that stands in d (LAST bit [12]). -/
abbrev srcC (k : OKind) (n : Nat) : Opnd := ⟨k, n, .c, true, false⟩
/-- A source no LAST bit names: a predicate, a tile, a queue, a convergence register. -/
abbrev src (k : OKind) (n : Nat) : Opnd := ⟨k, n, .none, true, false⟩
/-- A destination that is also the third source (LAST bit [12]). -/
abbrev rwC (k : OKind) (n : Nat) : Opnd := ⟨k, n, .c, true, true⟩
/-- LDPOLL's v: compared and loaded (LAST bit [11], R145). -/
abbrev rwB (k : OKind) (n : Nat) : Opnd := ⟨k, n, .b, true, true⟩
/-- A field checked but not read at this instruction (HGRD's predicate, R116). -/
abbrev chk (k : OKind) (n : Nat) : Opnd := ⟨k, n, .none, false, false⟩
end Opnd

/-- g for variant 0 and 2, w for variant 1: .f32 and .bf16x2 against .f64 (R128). -/
def fpKind (f : BitVec 2) : OKind := if f = 1 then .w else .g

/-- The g registers an FPUT of variant f reads: 4 × 2^f bytes (R325). -/
def fputRegs (f : BitVec 2) : Nat := 2 ^ f.toNat

/-- The register operands of an instruction, from the encoding tables of R70, R94, R128, R145, R183,
R192, R232, R246, R283, R308, R325 and R348. FCMP's are those without HMOD.F64 (R131). -/
def Instr.operands : Instr → List Opnd
  | .himm _ _ => []
  | .hmod _ _ => []
  | .hgrd _ p _ _ => [.chk .p p.toNat]
  | .trl _ => []
  | .hsch _ _ _ _ _ => []
  | .nop _ => []
  | .phaseAnnounce _ _ _ _ _ _ => []
  | .phaseEnd _ => []
  | .phaseQuery _ => []
  | .brk _ _ => []
  | .trace _ d _ => [.srcC .g d.toNat]
  | .add _ d a b => [.dst .g d.toNat, .srcA .g a.toNat, .srcB .g b.toNat]
  | .sub _ d a b => [.dst .g d.toNat, .srcA .g a.toNat, .srcB .g b.toNat]
  | .mul _ d a b => [.dst .g d.toNat, .srcA .g a.toNat, .srcB .g b.toNat]
  | .mulh _ d a b _ => [.dst .g d.toNat, .srcA .g a.toNat, .srcB .g b.toNat]
  | .mad _ d a b => [.rwC .g d.toNat, .srcA .g a.toNat, .srcB .g b.toNat]
  | .and _ d a b => [.dst .g d.toNat, .srcA .g a.toNat, .srcB .g b.toNat]
  | .or _ d a b => [.dst .g d.toNat, .srcA .g a.toNat, .srcB .g b.toNat]
  | .xor _ d a b => [.dst .g d.toNat, .srcA .g a.toNat, .srcB .g b.toNat]
  | .andn _ d a b => [.dst .g d.toNat, .srcA .g a.toNat, .srcB .g b.toNat]
  | .shl _ d a b => [.dst .g d.toNat, .srcA .g a.toNat, .srcB .g b.toNat]
  | .shr _ d a b => [.dst .g d.toNat, .srcA .g a.toNat, .srcB .g b.toNat]
  | .sra _ d a b => [.dst .g d.toNat, .srcA .g a.toNat, .srcB .g b.toNat]
  | .min _ d a b _ => [.dst .g d.toNat, .srcA .g a.toNat, .srcB .g b.toNat]
  | .max _ d a b _ => [.dst .g d.toNat, .srcA .g a.toNat, .srcB .g b.toNat]
  | .abs _ d a => [.dst .g d.toNat, .srcA .g a.toNat]
  | .clz _ d a => [.dst .g d.toNat, .srcA .g a.toNat]
  | .popc _ d a => [.dst .g d.toNat, .srcA .g a.toNat]
  | .brev _ d a => [.dst .g d.toNat, .srcA .g a.toNat]
  | .bfx _ d a b => [.dst .g d.toNat, .srcA .g a.toNat, .srcB .g b.toNat]
  | .bfi _ d a b => [.rwC .g d.toNat, .srcA .g a.toNat, .srcB .g b.toNat]
  | .cmov _ d p a => [.rwC .g d.toNat, .src .p p.toNat, .srcA .g a.toNat]
  | .div _ d a b _ => [.dst .g d.toNat, .srcA .g a.toNat, .srcB .g b.toNat]
  | .rem _ d a b _ => [.dst .g d.toNat, .srcA .g a.toNat, .srcB .g b.toNat]
  | .adds _ d a b _ => [.dst .g d.toNat, .srcA .g a.toNat, .srcB .g b.toNat]
  | .subs _ d a b _ => [.dst .g d.toNat, .srcA .g a.toNat, .srcB .g b.toNat]
  | .movi _ d _ => [.dst .g d.toNat]
  | .addi _ d a _ => [.dst .g d.toNat, .srcA .g a.toNat]
  | .andi _ d a _ => [.dst .g d.toNat, .srcA .g a.toNat]
  | .ori _ d a _ => [.dst .g d.toNat, .srcA .g a.toNat]
  | .xori _ d a _ => [.dst .g d.toNat, .srcA .g a.toNat]
  | .shi _ d a _ _ => [.dst .g d.toNat, .srcA .g a.toNat]
  | .cmpi _ p a _ _ => [.dst .p p.toNat, .srcA .g a.toNat]
  | .cmpiV1 _ p a _ _ => [.dst .p p.toNat, .srcA .g a.toNat]
  | .mov _ d a => [.dst .g d.toNat, .srcA .g a.toNat]
  | .s2g _ d _ => [.dst .g d.toNat]
  | .g2s _ d _ => [.srcC .g d.toNat]
  | .ldpc _ d _ => [.dst .w d.toNat]
  | .addw _ d a b => [.dst .w d.toNat, .srcA .w a.toNat, .srcB .w b.toNat]
  | .subw _ d a b => [.dst .w d.toNat, .srcA .w a.toNat, .srcB .w b.toNat]
  | .mulw _ d a b f => [.dst .w d.toNat, .srcA (if f = 0 then .w else .g) a.toNat, .srcB (if f = 0 then .w else .g) b.toNat]
  | .shlw _ d a b => [.dst .w d.toNat, .srcA .w a.toNat, .srcB .g b.toNat]
  | .shrw _ d a b _ => [.dst .w d.toNat, .srcA .w a.toNat, .srcB .g b.toNat]
  | .leaw _ d a b _ => [.dst .w d.toNat, .srcA .w a.toNat, .srcB .g b.toNat]
  | .movw _ d a => [.dst .w d.toNat, .srcA .w a.toNat]
  | .cmp _ p a b _ => [.dst .p p.toNat, .srcA .g a.toNat, .srcB .g b.toNat]
  | .cmpw _ p a b _ => [.dst .p p.toNat, .srcA .w a.toNat, .srcB .w b.toNat]
  | .plog _ d a b _ => [.dst .p d.toNat, .src .p a.toNat, .src .p b.toNat]
  | .p2g _ d _ => [.dst .g d.toNat]
  | .g2p _ a b _ => [.srcA .g a.toNat, .srcB .g b.toNat]
  | .fadd _ d a b f => [.dst (fpKind f) d.toNat, .srcA (fpKind f) a.toNat, .srcB (fpKind f) b.toNat]
  | .fsub _ d a b f => [.dst (fpKind f) d.toNat, .srcA (fpKind f) a.toNat, .srcB (fpKind f) b.toNat]
  | .fmul _ d a b f => [.dst (fpKind f) d.toNat, .srcA (fpKind f) a.toNat, .srcB (fpKind f) b.toNat]
  | .ffma _ d a b f => [.rwC (fpKind f) d.toNat, .srcA (fpKind f) a.toNat, .srcB (fpKind f) b.toNat]
  | .fmin _ d a b f => [.dst (fpKind f) d.toNat, .srcA (fpKind f) a.toNat, .srcB (fpKind f) b.toNat]
  | .fmax _ d a b f => [.dst (fpKind f) d.toNat, .srcA (fpKind f) a.toNat, .srcB (fpKind f) b.toNat]
  | .fcmp _ p a b _ _ => [.dst .p p.toNat, .srcA .g a.toNat, .srcB .g b.toNat]
  | .fcvt _ d a fr tt => [.dst (if tt = 0 then .w else .g) d.toNat, .srcA (if fr = 0 then .w else .g) a.toNat]
  | .icvt _ d a m k f => [.dst (if f = 0 then (if m = 0 then .w else .g) else (if k.getLsbD 1 then .w else .g)) d.toNat, .srcA (if f = 0 then (if k.getLsbD 1 then .w else .g) else (if m = 0 then .w else .g)) a.toNat]
  | .rcp _ d a f => [.dst (fpKind f) d.toNat, .srcA (fpKind f) a.toNat]
  | .rsq _ d a => [.dst .g d.toNat, .srcA .g a.toNat]
  | .sqrt _ d a f => [.dst (fpKind f) d.toNat, .srcA (fpKind f) a.toNat]
  | .ex2 _ d a => [.dst .g d.toNat, .srcA .g a.toNat]
  | .lg2 _ d a => [.dst .g d.toNat, .srcA .g a.toNat]
  | .sin _ d a => [.dst .g d.toNat, .srcA .g a.toNat]
  | .cos _ d a => [.dst .g d.toNat, .srcA .g a.toNat]
  | .tanh _ d a => [.dst .g d.toNat, .srcA .g a.toNat]
  | .dot4 _ d a b _ => [.rwC .g d.toNat, .srcA .g a.toNat, .srcB .g b.toNat]
  | .dot8 _ d a b _ => [.rwC .g d.toNat, .srcA .g a.toNat, .srcB .g b.toNat]
  | .pack _ d a b _ => [.rwC .g d.toNat, .srcA .w a.toNat, .srcB .g b.toNat]
  | .unpk _ d a b _ => [.dst .w d.toNat, .srcA .g a.toNat, .srcB .g b.toNat]
  | .scl _ d a b f => [.dst (fpKind f) d.toNat, .srcA (fpKind f) a.toNat, .srcB .g b.toNat]
  | .br _ p _ _ => [.src .p p.toNat]
  | .jmpi _ a => [.srcA .w a.toNat]
  | .call _ _ => []
  | .calli _ a => [.srcA .w a.toNat]
  | .ret _ => []
  | .join _ a => [.srcA .w a.toNat]
  | .exit _ a => [.srcA .g a.toNat]
  | .trap _ _ => []
  | .land _ => []
  | .yield _ => []
  | .waitc _ _ _ => []
  | .rfeReplay _ => []
  | .rfeSkip _ => []
  | .ldb _ v b _ => [.dst .g v.toNat, .srcA .w b.toNat]
  | .ldh _ v b _ => [.dst .g v.toNat, .srcA .w b.toNat]
  | .ldw _ v b _ => [.dst .g v.toNat, .srcA .w b.toNat]
  | .ldd _ v b _ => [.dst .w v.toNat, .srcA .w b.toNat]
  | .ldq _ v b _ => [.dst .wq v.toNat, .srcA .w b.toNat]
  | .stb _ v b _ => [.srcB .g v.toNat, .srcA .w b.toNat]
  | .sth _ v b _ => [.srcB .g v.toNat, .srcA .w b.toNat]
  | .stw _ v b _ => [.srcB .g v.toNat, .srcA .w b.toNat]
  | .std _ v b _ => [.srcB .w v.toNat, .srcA .w b.toNat]
  | .stq _ v b _ => [.srcB .wq v.toNat, .srcA .w b.toNat]
  | .lds _ v b _ => [.dst .g v.toNat, .srcA .g b.toNat]
  | .sts _ v b _ => [.srcB .g v.toNat, .srcA .g b.toNat]
  | .ldpoll _ v b _ => [.rwB .g v.toNat, .srcA .w b.toNat]
  | .pref _ _ b _ => [.srcA .w b.toNat]
  | .aadd _ d a b f => [.dst (if f = 2 then .w else .g) d.toNat, .srcA .w a.toNat, .srcB (if f = 2 then .w else .g) b.toNat]
  | .amm _ d a b _ => [.dst .g d.toNat, .srcA .w a.toNat, .srcB .g b.toNat]
  | .alog _ d a b _ => [.dst .g d.toNat, .srcA .w a.toNat, .srcB .g b.toNat]
  | .acas _ d a b f => [.rwC (fpKind f) d.toNat, .srcA .w a.toNat, .srcB (fpKind f) b.toNat]
  | .fenceAcq _ _ => []
  | .fenceRel _ _ => []
  | .fenceAr _ _ => []
  | .ofence _ => []
  | .cdetect _ d a => [.dst .w d.toNat, .srcA .g a.toNat]
  | .ldacq _ v b _ => [.dst .g v.toNat, .srcA .w b.toNat]
  | .strel _ v b _ => [.srcB .g v.toNat, .srcA .w b.toNat]
  | .shfl _ d a b _ => [.dst .g d.toNat, .srcA .g a.toNat, .srcB .g b.toNat]
  | .bcast _ d a b f => if f = 1 then [.dst .g d.toNat, .srcA .g a.toNat] else [.dst .g d.toNat, .srcA .g a.toNat, .srcB .g b.toNat]
  | .ballot _ d a => [.dst .w d.toNat, .src .p a.toNat]
  | .vote _ d a _ => [.dst .p d.toNat, .src .p a.toNat]
  | .red _ d a _ v _ => [.dst .g d.toNat, .srcA .g a.toNat, .dst .p v.toNat]
  | .scan _ d a _ _ v _ => [.dst .g d.toNat, .srcA .g a.toNat, .dst .p v.toNat]
  | .topk _ d a b _ => [.dst .g2 d.toNat, .srcA .g a.toNat, .srcB .g b.toNat]
  | .matchv _ d a f => [.dst .w d.toNat, .srcA (fpKind f) a.toNat]
  | .sortkv _ d a b _ => [.dst .g2 d.toNat, .srcA .g a.toNat, .srcB .g b.toNat]
  | .regroup _ d a _ => [.dst .g d.toNat, .srcA .g a.toNat]
  | .bar _ => []
  | .cvinit _ d a => [.src .cv d.toNat, .srcA .g a.toNat]
  | .cvsign _ d a => [.dst .p d.toNat, .src .cv a.toNat]
  | .elect _ d => [.dst .p d.toNat]
  | .tload _ d a b _ => [.src .t d.toNat, .srcA .w a.toNat, .srcB .w b.toNat]
  | .tstore _ d a b => [.src .t d.toNat, .srcA .w a.toNat, .srcB .w b.toNat]
  | .tbind _ d a b => [.src .t d.toNat, .srcA .w a.toNat, .srcB .w b.toNat]
  | .tzero _ d a _ => [.src .t d.toNat, .srcA .g a.toNat]
  | .tfree _ d => [.src .t d.toNat]
  | .tmma _ d a b _ => [.src .t d.toNat, .src .t a.toNat, .src .t b.toNat]
  | .tmmas _ d a b => [.src .t d.toNat, .src .t a.toNat, .src .t b.toNat]
  | .tadd _ d a b => [.src .t d.toNat, .src .t a.toNat, .src .t b.toNat]
  | .trnd _ d a b => [.src .t d.toNat, .src .t a.toNat, .srcB .g b.toNat]
  | .tdense _ d a _ => [.src .t d.toNat, .src .t a.toNat]
  | .tlrf _ d a b => [.src .t d.toNat, .src .t a.toNat, .src .t b.toNat]
  | .tscal _ d a b f => [.src .t d.toNat, .src .t a.toNat, .srcB (fpKind f) b.toNat]
  | .tinfo _ d a => [.dst .g d.toNat, .src .t a.toNat]
  | .tmova _ d a b => [.dst .gr d.toNat, .src .t a.toNat, .srcB .g b.toNat]
  | .tmovr _ d a b => [.srcC .gr d.toNat, .src .t a.toNat, .srcB .g b.toNat]
  | .twait _ d a b f => if f = 0 then [.src .t d.toNat] else if f = 1 then [.src .t d.toNat, .src .t a.toNat] else if f = 2 then [.src .t d.toNat, .src .t a.toNat, .src .t b.toNat] else []
  | .tlu _ d => [.src .t d.toNat]
  | .ttrs _ d a _ => [.src .t d.toNat, .src .t a.toNat]
  | .tcvt _ d a _ _ => [.src .t d.toNat, .src .t a.toNat]
  | .ttran _ d a _ => [.src .t d.toNat, .src .t a.toNat]
  | .tset _ d a b => [.src .t d.toNat, .srcA .g a.toNat, .srcB .g b.toNat]
  | .tcopy _ d a _ => [.src .t d.toNat, .src .t a.toNat]
  | .tget _ d a b f => [.dst (fpKind f) d.toNat, .src .t a.toNat, .srcB .g b.toNat]
  | .tnorm _ d a f => [.dst (fpKind f) d.toNat, .src .t a.toNat]
  | .qpush _ a b => [.src .q a.toNat, .srcB .w b.toNat]
  | .qpushClose _ a => [.src .q a.toNat]
  | .qpop _ d a b => [.dst .w d.toNat, .src .q a.toNat, .dst .p b.toNat]
  | .xform _ d a => [.dst .g d.toNat, .srcA .w a.toNat]
  | .xwait _ a => [.srcA .g a.toNat]
  | .xcancel _ d a => [.dst .g d.toNat, .srcA .g a.toNat]
  | .coll _ a => [.srcA .w a.toNat]
  | .popenNew _ d a => [.dst .g d.toNat, .srcA .w a.toNat]
  | .popenReset _ d a b => [.dst .g d.toNat, .srcA .w a.toNat, .srcB .g b.toNat]
  | .pclaim _ d a b => [.dst .g2 d.toNat, .srcA .g a.toNat, .srcB .g b.toNat]
  | .pcloseRet _ d a b => [.dst .g d.toNat, .srcA .g a.toNat, .srcB .g b.toNat]
  | .pcloseSeal _ d a b => [.dst .g d.toNat, .srcA .g a.toNat, .srcB .g b.toNat]
  | .pbias _ d a b => [.dst .g d.toNat, .srcA .g a.toNat, .srcB .g b.toNat]
  | .fnew _ d => [.dst .w d.toNat]
  | .invoke _ d a => [.dst .w d.toNat, .srcA .w a.toNat]
  | .invh _ d a b => [.dst .w d.toNat, .srcA .w a.toNat, .srcB .w b.toNat]
  | .fput _ d a b f => [.dst .p d.toNat, .srcA .w a.toNat, .srcB (.gn (fputRegs f)) b.toNat]
  | .fgetWait _ d a b => [.dst .g8 d.toNat, .srcA .w a.toNat, .dst .p b.toNat]
  | .fgetPoll _ d a b => [.dst .g8 d.toNat, .srcA .w a.toNat, .dst .p b.toNat]
  | .fbreak _ d a b => [.dst .p d.toNat, .srcA .w a.toNat, .srcB .g b.toNat]
  | .frel _ d a => [.dst .p d.toNat, .srcA .w a.toNat]
  | .slice _ d a => [.dst .w d.toNat, .srcA .w a.toNat]
  | .cwatchSet _ d a => [.dst .g d.toNat, .srcA .w a.toNat]
  | .cwatchClr _ d a => [.dst .g d.toNat, .srcA .g a.toNat]
  | .tlbinvPage _ a b => [.srcA .w a.toNat, .srcB .g b.toNat]
  | .tlbinvAsid _ b => [.srcB .g b.toNat]
  | .tlbinvAll _ => []
  | .ctxsv _ d a b => [.dst .g d.toNat, .srcA .w a.toNat, .srcB .w b.toNat]
  | .ctxld _ d a => [.dst .g d.toNat, .srcA .w a.toNat]
  | .cflush _ a b _ => [.srcA .w a.toNat, .srcB .g b.toNat]
  | .cinv _ a b f => if f = 1 then [] else [.srcA .w a.toNat, .srcB .g b.toNat]
  | _ => []

/-- Whether a register number is in the range of its kind (R15, R16, R69, R146, R192, R283, R325). -/
def Opnd.ok (o : Opnd) : Bool :=
  match o.kind with
  | .g | .t | .gr => o.num < 128
  | .w => o.num < 60
  | .p => o.num < 48
  | .cv => o.num < 8
  | .q => o.num < 4
  | .wq => o.num < 60 && o.num % 2 == 0
  | .g2 => 1 ≤ o.num && o.num ≤ 118
  | .g8 => 1 ≤ o.num && o.num ≤ 112
  | .gn n => o.num == 0 || (o.num + n ≤ 120)

/-- The reserved-field checks that depend on another field of the word (R62, R145). (DEDUCED, log 31) -/
def Instr.reservedOk : Instr → Bool
  | .pref _ v _ _ => v.toNat ≤ 2
  | .red _ _ _ o _ _ => o.toNat ≤ 5
  | .scan _ _ _ o _ _ _ => o.toNat ≤ 5
  | .bcast _ _ _ b f => f != 1 || b == 0
  | .cinv _ a b f => f != 1 || (a == 0 && b == 0)
  | .twait _ d a b f =>
    (f.toNat != 0 || (a == 0 && b == 0)) && (f.toNat != 1 || b == 0) &&
      (f.toNat != 3 || (d == 0 && a == 0 && b == 0))
  | _ => true

/-- The f values, and the other variant fields, that the instruction's entry lists (R62; of the memory instructions R145's table).
(DEDUCED, log 31) -/
def Instr.variantOk : Instr → Bool
  | .mulh _ _ _ _ f | .min _ _ _ _ f | .max _ _ _ _ f | .div _ _ _ _ f | .rem _ _ _ _ f
  | .adds _ _ _ _ f | .subs _ _ _ _ f | .shrw _ _ _ _ f => f.toNat ≤ 1
  | .mulw _ _ _ _ f => f.toNat ≤ 2
  | .p2g _ _ f => f.toNat ≤ 1
  | .g2p _ _ _ f => f.toNat ≤ 1
  | .shi _ _ _ k _ => k.toNat ≤ 2
  | .fadd _ _ _ _ f | .fsub _ _ _ _ f | .fmul _ _ _ _ f | .ffma _ _ _ _ f | .fmin _ _ _ _ f
  | .fmax _ _ _ _ f | .dot4 _ _ _ _ f | .scl _ _ _ _ f => f.toNat ≤ 2
  | .rcp _ _ _ f | .sqrt _ _ _ f => f.toNat ≤ 1
  | .dot8 _ _ _ _ f => f.toNat ≤ 1
  | .fcvt _ _ _ fr tt => fr.toNat ≤ 6 && tt.toNat ≤ 6
  | .icvt _ _ _ m _ f => m.toNat ≤ 3 && f.toNat ≤ 1
  | .acas _ _ _ _ f => f.toNat ≤ 1
  | .bcast _ _ _ _ f | .tget _ _ _ _ f | .tscal _ _ _ _ f => f.toNat ≤ 1
  | .vote _ _ _ f => f.toNat ≤ 2
  | .red _ _ _ o _ f => f.toNat ≤ 1 || (f == 2 && o.toNat ≤ 2)
  | .scan _ _ _ o _ _ f => f.toNat ≤ 1 || (f == 2 && o.toNat ≤ 2)
  | .matchv _ _ _ f | .tnorm _ _ _ f | .tzero _ _ _ f | .ttrs _ _ _ f => f.toNat ≤ 1
  | .sortkv _ _ _ _ f | .tload _ _ _ _ f => f.toNat ≤ 2
  | .cflush _ _ _ f => f.toNat ≤ 1
  | .cinv _ _ _ f => f.toNat ≤ 2
  | .phaseAnnounce _ _ _ _ _ b => b != 0
  | _ => true

/-- Every register field is in its range. -/
def Instr.regsOk (i : Instr) : Bool := i.operands.all Opnd.ok

/-- The switch bit S of a word (R43). -/
def sBit (w : Word) : Bool := w.getLsbD 31

/-- The opcode of a word, bits [30:23] (R43). -/
def opcodeOf (w : Word) : Nat := (w.extractLsb' 23 8).toNat

/-- A word whose reserved bits `res` must be zero (R8), and whose f must be 0 when `noF` (R62). -/
def chk (res : Word) (noF : Bool) (w : Word) (i : Instr) : Except Ill Instr :=
  if w &&& res ≠ 0 then .error .reserved
  else if noF && w.extractLsb' 0 2 != 0 then .error .variant
  else .ok i

/-- A word whose f no entry lists: a nonzero field that every variant of the opcode reserves, `res`, is reported first
(R62, R65). (DEDUCED, log 31) -/
def unlistedF (res : Word) (w : Word) : Except Ill Instr := .error (if w &&& res ≠ 0 then .reserved else .variant)

/-- The opcode map of version 3 (R63), with opcode 0x3A as version 1 has it when `v` is 1 (R64).
(DEDUCED, log 31) -/
def parse (v : Nat) (w : Word) : Except Ill Instr :=
  match opcodeOf w with
  | 0x01 => chk 0x0 false w (.himm (sBit w) (w.extractLsb' 0 23))
  | 0x02 => chk 0x0 false w (.hmod (sBit w) (w.extractLsb' 0 23))
  | 0x03 => chk 0x3FFF false w (.hgrd (sBit w) (w.extractLsb' 17 6) (w.extractLsb' 16 1) (w.extractLsb' 14 2))
  | 0x04 => if sBit w then .ok (.trl (w.extractLsb' 0 23)) else .error .trailer
  | 0x05 => chk 0x7F0000 false w (.hsch (sBit w) (w.extractLsb' 15 1) (w.extractLsb' 2 13) (w.extractLsb' 1 1) (w.extractLsb' 0 1))
  | 0x06 => chk 0x7FFFFF false w (.nop (sBit w))
  | 0x07 =>
    match (w.extractLsb' 20 3).toNat with
    | 0 => chk 0x0 false w (.phaseAnnounce (sBit w) (w.extractLsb' 16 4) (w.extractLsb' 12 4) (w.extractLsb' 8 4) (w.extractLsb' 4 4) (w.extractLsb' 0 4))
    | 1 => chk 0xFFFFF false w (.phaseEnd (sBit w))
    | 2 => chk 0xFFFFF false w (.phaseQuery (sBit w))
    | _ => .error .variant
  | 0x08 => chk 0x0 false w (.brk (sBit w) (w.extractLsb' 0 23))
  | 0x09 => chk 0x0 false w (.trace (sBit w) (w.extractLsb' 16 7) (w.extractLsb' 0 16))
  | 0x10 => chk 0x0 true w (.add (sBit w) (w.extractLsb' 16 7) (w.extractLsb' 9 7) (w.extractLsb' 2 7))
  | 0x11 => chk 0x0 true w (.sub (sBit w) (w.extractLsb' 16 7) (w.extractLsb' 9 7) (w.extractLsb' 2 7))
  | 0x12 => chk 0x0 true w (.mul (sBit w) (w.extractLsb' 16 7) (w.extractLsb' 9 7) (w.extractLsb' 2 7))
  | 0x13 => chk 0x0 false w (.mulh (sBit w) (w.extractLsb' 16 7) (w.extractLsb' 9 7) (w.extractLsb' 2 7) (w.extractLsb' 0 2))
  | 0x14 => chk 0x0 true w (.mad (sBit w) (w.extractLsb' 16 7) (w.extractLsb' 9 7) (w.extractLsb' 2 7))
  | 0x15 => chk 0x0 true w (.and (sBit w) (w.extractLsb' 16 7) (w.extractLsb' 9 7) (w.extractLsb' 2 7))
  | 0x16 => chk 0x0 true w (.or (sBit w) (w.extractLsb' 16 7) (w.extractLsb' 9 7) (w.extractLsb' 2 7))
  | 0x17 => chk 0x0 true w (.xor (sBit w) (w.extractLsb' 16 7) (w.extractLsb' 9 7) (w.extractLsb' 2 7))
  | 0x18 => chk 0x0 true w (.andn (sBit w) (w.extractLsb' 16 7) (w.extractLsb' 9 7) (w.extractLsb' 2 7))
  | 0x19 => chk 0x0 true w (.shl (sBit w) (w.extractLsb' 16 7) (w.extractLsb' 9 7) (w.extractLsb' 2 7))
  | 0x1A => chk 0x0 true w (.shr (sBit w) (w.extractLsb' 16 7) (w.extractLsb' 9 7) (w.extractLsb' 2 7))
  | 0x1B => chk 0x0 true w (.sra (sBit w) (w.extractLsb' 16 7) (w.extractLsb' 9 7) (w.extractLsb' 2 7))
  | 0x1C => chk 0x0 false w (.min (sBit w) (w.extractLsb' 16 7) (w.extractLsb' 9 7) (w.extractLsb' 2 7) (w.extractLsb' 0 2))
  | 0x1D => chk 0x0 false w (.max (sBit w) (w.extractLsb' 16 7) (w.extractLsb' 9 7) (w.extractLsb' 2 7) (w.extractLsb' 0 2))
  | 0x1E => chk 0x1FC true w (.abs (sBit w) (w.extractLsb' 16 7) (w.extractLsb' 9 7))
  | 0x1F => chk 0x1FC true w (.clz (sBit w) (w.extractLsb' 16 7) (w.extractLsb' 9 7))
  | 0x20 => chk 0x1FC true w (.popc (sBit w) (w.extractLsb' 16 7) (w.extractLsb' 9 7))
  | 0x21 => chk 0x1FC true w (.brev (sBit w) (w.extractLsb' 16 7) (w.extractLsb' 9 7))
  | 0x22 => chk 0x0 true w (.bfx (sBit w) (w.extractLsb' 16 7) (w.extractLsb' 9 7) (w.extractLsb' 2 7))
  | 0x23 => chk 0x0 true w (.bfi (sBit w) (w.extractLsb' 16 7) (w.extractLsb' 9 7) (w.extractLsb' 2 7))
  | 0x24 => chk 0x7 false w (.cmov (sBit w) (w.extractLsb' 16 7) (w.extractLsb' 10 6) (w.extractLsb' 3 7))
  | 0x25 => chk 0x0 false w (.div (sBit w) (w.extractLsb' 16 7) (w.extractLsb' 9 7) (w.extractLsb' 2 7) (w.extractLsb' 0 2))
  | 0x26 => chk 0x0 false w (.rem (sBit w) (w.extractLsb' 16 7) (w.extractLsb' 9 7) (w.extractLsb' 2 7) (w.extractLsb' 0 2))
  | 0x27 => chk 0x0 false w (.adds (sBit w) (w.extractLsb' 16 7) (w.extractLsb' 9 7) (w.extractLsb' 2 7) (w.extractLsb' 0 2))
  | 0x28 => chk 0x0 false w (.subs (sBit w) (w.extractLsb' 16 7) (w.extractLsb' 9 7) (w.extractLsb' 2 7) (w.extractLsb' 0 2))
  | 0x30 => chk 0x0 false w (.movi (sBit w) (w.extractLsb' 16 7) (w.extractLsb' 0 16))
  | 0x31 => chk 0x0 false w (.addi (sBit w) (w.extractLsb' 16 7) (w.extractLsb' 9 7) (w.extractLsb' 0 9))
  | 0x32 => chk 0x0 false w (.andi (sBit w) (w.extractLsb' 16 7) (w.extractLsb' 9 7) (w.extractLsb' 0 9))
  | 0x33 => chk 0x0 false w (.ori (sBit w) (w.extractLsb' 16 7) (w.extractLsb' 9 7) (w.extractLsb' 0 9))
  | 0x34 => chk 0x0 false w (.xori (sBit w) (w.extractLsb' 16 7) (w.extractLsb' 9 7) (w.extractLsb' 0 9))
  | 0x35 => chk 0x180 false w (.shi (sBit w) (w.extractLsb' 16 7) (w.extractLsb' 9 7) (w.extractLsb' 5 2) (w.extractLsb' 0 5))
  | 0x36 => chk 0x0 false w (.cmpi (sBit w) (w.extractLsb' 17 6) (w.extractLsb' 10 7) (w.extractLsb' 7 3) (w.extractLsb' 0 7))
  | 0x37 => chk 0x1FC true w (.mov (sBit w) (w.extractLsb' 16 7) (w.extractLsb' 9 7))
  | 0x38 => chk 0x0 false w (.s2g (sBit w) (w.extractLsb' 16 7) (w.extractLsb' 0 16))
  | 0x39 => chk 0x0 false w (.g2s (sBit w) (w.extractLsb' 16 7) (w.extractLsb' 0 16))
  | 0x3A => if v = 1 then .ok (.cmpiV1 (sBit w) (w.extractLsb' 17 6) (w.extractLsb' 10 7) (w.extractLsb' 7 3) (w.extractLsb' 0 7)) else .ok (.ldpc (sBit w) (w.extractLsb' 16 7) (w.extractLsb' 0 16))
  | 0x40 => chk 0x0 true w (.addw (sBit w) (w.extractLsb' 16 7) (w.extractLsb' 9 7) (w.extractLsb' 2 7))
  | 0x41 => chk 0x0 true w (.subw (sBit w) (w.extractLsb' 16 7) (w.extractLsb' 9 7) (w.extractLsb' 2 7))
  | 0x42 => chk 0x0 false w (.mulw (sBit w) (w.extractLsb' 16 7) (w.extractLsb' 9 7) (w.extractLsb' 2 7) (w.extractLsb' 0 2))
  | 0x43 => chk 0x0 true w (.shlw (sBit w) (w.extractLsb' 16 7) (w.extractLsb' 9 7) (w.extractLsb' 2 7))
  | 0x44 => chk 0x0 false w (.shrw (sBit w) (w.extractLsb' 16 7) (w.extractLsb' 9 7) (w.extractLsb' 2 7) (w.extractLsb' 0 2))
  | 0x45 => chk 0x0 false w (.leaw (sBit w) (w.extractLsb' 16 7) (w.extractLsb' 9 7) (w.extractLsb' 2 7) (w.extractLsb' 0 2))
  | 0x46 => chk 0x1FC true w (.movw (sBit w) (w.extractLsb' 16 7) (w.extractLsb' 9 7))
  | 0x47 => chk 0x0 false w (.cmp (sBit w) (w.extractLsb' 17 6) (w.extractLsb' 10 7) (w.extractLsb' 3 7) (w.extractLsb' 0 3))
  | 0x48 => chk 0x0 false w (.cmpw (sBit w) (w.extractLsb' 17 6) (w.extractLsb' 10 7) (w.extractLsb' 3 7) (w.extractLsb' 0 3))
  | 0x49 => chk 0x0 false w (.plog (sBit w) (w.extractLsb' 16 7) (w.extractLsb' 9 7) (w.extractLsb' 2 7) (w.extractLsb' 0 2))
  | 0x4A => chk 0xFFFC false w (.p2g (sBit w) (w.extractLsb' 16 7) (w.extractLsb' 0 2))
  | 0x4B => chk 0x7F0000 false w (.g2p (sBit w) (w.extractLsb' 9 7) (w.extractLsb' 2 7) (w.extractLsb' 0 2))
  | 0x50 => chk 0x0 false w (.fadd (sBit w) (w.extractLsb' 16 7) (w.extractLsb' 9 7) (w.extractLsb' 2 7) (w.extractLsb' 0 2))
  | 0x51 => chk 0x0 false w (.fsub (sBit w) (w.extractLsb' 16 7) (w.extractLsb' 9 7) (w.extractLsb' 2 7) (w.extractLsb' 0 2))
  | 0x52 => chk 0x0 false w (.fmul (sBit w) (w.extractLsb' 16 7) (w.extractLsb' 9 7) (w.extractLsb' 2 7) (w.extractLsb' 0 2))
  | 0x53 => chk 0x0 false w (.ffma (sBit w) (w.extractLsb' 16 7) (w.extractLsb' 9 7) (w.extractLsb' 2 7) (w.extractLsb' 0 2))
  | 0x54 => chk 0x0 false w (.fmin (sBit w) (w.extractLsb' 16 7) (w.extractLsb' 9 7) (w.extractLsb' 2 7) (w.extractLsb' 0 2))
  | 0x55 => chk 0x0 false w (.fmax (sBit w) (w.extractLsb' 16 7) (w.extractLsb' 9 7) (w.extractLsb' 2 7) (w.extractLsb' 0 2))
  | 0x56 => chk 0x0 false w (.fcmp (sBit w) (w.extractLsb' 17 6) (w.extractLsb' 10 7) (w.extractLsb' 3 7) (w.extractLsb' 2 1) (w.extractLsb' 0 2))
  | 0x57 => chk 0x4 true w (.fcvt (sBit w) (w.extractLsb' 16 7) (w.extractLsb' 9 7) (w.extractLsb' 6 3) (w.extractLsb' 3 3))
  | 0x58 => chk 0xC false w (.icvt (sBit w) (w.extractLsb' 16 7) (w.extractLsb' 9 7) (w.extractLsb' 6 3) (w.extractLsb' 4 2) (w.extractLsb' 0 2))
  | 0x60 => chk 0x1FC false w (.rcp (sBit w) (w.extractLsb' 16 7) (w.extractLsb' 9 7) (w.extractLsb' 0 2))
  | 0x61 => chk 0x1FC true w (.rsq (sBit w) (w.extractLsb' 16 7) (w.extractLsb' 9 7))
  | 0x62 => chk 0x1FC false w (.sqrt (sBit w) (w.extractLsb' 16 7) (w.extractLsb' 9 7) (w.extractLsb' 0 2))
  | 0x63 => chk 0x1FC true w (.ex2 (sBit w) (w.extractLsb' 16 7) (w.extractLsb' 9 7))
  | 0x64 => chk 0x1FC true w (.lg2 (sBit w) (w.extractLsb' 16 7) (w.extractLsb' 9 7))
  | 0x65 => chk 0x1FC true w (.sin (sBit w) (w.extractLsb' 16 7) (w.extractLsb' 9 7))
  | 0x66 => chk 0x1FC true w (.cos (sBit w) (w.extractLsb' 16 7) (w.extractLsb' 9 7))
  | 0x67 => chk 0x1FC true w (.tanh (sBit w) (w.extractLsb' 16 7) (w.extractLsb' 9 7))
  | 0x68 => chk 0x0 false w (.dot4 (sBit w) (w.extractLsb' 16 7) (w.extractLsb' 9 7) (w.extractLsb' 2 7) (w.extractLsb' 0 2))
  | 0x69 => chk 0x0 false w (.dot8 (sBit w) (w.extractLsb' 16 7) (w.extractLsb' 9 7) (w.extractLsb' 2 7) (w.extractLsb' 0 2))
  | 0x6A => chk 0x0 false w (.pack (sBit w) (w.extractLsb' 16 7) (w.extractLsb' 9 7) (w.extractLsb' 2 7) (w.extractLsb' 0 2))
  | 0x6B => chk 0x0 false w (.unpk (sBit w) (w.extractLsb' 16 7) (w.extractLsb' 9 7) (w.extractLsb' 2 7) (w.extractLsb' 0 2))
  | 0x6C => chk 0x0 false w (.scl (sBit w) (w.extractLsb' 16 7) (w.extractLsb' 9 7) (w.extractLsb' 2 7) (w.extractLsb' 0 2))
  | 0x70 => chk 0x0 false w (.br (sBit w) (w.extractLsb' 17 6) (w.extractLsb' 16 1) (w.extractLsb' 0 16))
  | 0x71 => chk 0x7F01FC true w (.jmpi (sBit w) (w.extractLsb' 9 7))
  | 0x72 => chk 0x0 false w (.call (sBit w) (w.extractLsb' 0 23))
  | 0x73 => chk 0x7F01FC true w (.calli (sBit w) (w.extractLsb' 9 7))
  | 0x74 => chk 0x7FFFFC true w (.ret (sBit w))
  | 0x75 => chk 0x7F01FC true w (.join (sBit w) (w.extractLsb' 9 7))
  | 0x76 => chk 0x7F01FC true w (.exit (sBit w) (w.extractLsb' 9 7))
  | 0x77 => chk 0x7FFE00 false w (.trap (sBit w) (w.extractLsb' 0 9))
  | 0x78 => chk 0x7FFFFC true w (.land (sBit w))
  | 0x79 => chk 0x7FFFFC true w (.yield (sBit w))
  | 0x7A => chk 0x70FF00 true w (.waitc (sBit w) (w.extractLsb' 16 4) (w.extractLsb' 2 6))
  | 0x80 => chk 0x0 false w (.ldb (sBit w) (w.extractLsb' 16 7) (w.extractLsb' 9 7) (w.extractLsb' 0 9))
  | 0x81 => chk 0x0 false w (.ldh (sBit w) (w.extractLsb' 16 7) (w.extractLsb' 9 7) (w.extractLsb' 0 9))
  | 0x82 => chk 0x0 false w (.ldw (sBit w) (w.extractLsb' 16 7) (w.extractLsb' 9 7) (w.extractLsb' 0 9))
  | 0x83 => chk 0x0 false w (.ldd (sBit w) (w.extractLsb' 16 7) (w.extractLsb' 9 7) (w.extractLsb' 0 9))
  | 0x84 => chk 0x0 false w (.ldq (sBit w) (w.extractLsb' 16 7) (w.extractLsb' 9 7) (w.extractLsb' 0 9))
  | 0x85 => chk 0x0 false w (.stb (sBit w) (w.extractLsb' 16 7) (w.extractLsb' 9 7) (w.extractLsb' 0 9))
  | 0x86 => chk 0x0 false w (.sth (sBit w) (w.extractLsb' 16 7) (w.extractLsb' 9 7) (w.extractLsb' 0 9))
  | 0x87 => chk 0x0 false w (.stw (sBit w) (w.extractLsb' 16 7) (w.extractLsb' 9 7) (w.extractLsb' 0 9))
  | 0x88 => chk 0x0 false w (.std (sBit w) (w.extractLsb' 16 7) (w.extractLsb' 9 7) (w.extractLsb' 0 9))
  | 0x89 => chk 0x0 false w (.stq (sBit w) (w.extractLsb' 16 7) (w.extractLsb' 9 7) (w.extractLsb' 0 9))
  | 0x8A => chk 0x0 false w (.lds (sBit w) (w.extractLsb' 16 7) (w.extractLsb' 9 7) (w.extractLsb' 0 9))
  | 0x8B => chk 0x0 false w (.sts (sBit w) (w.extractLsb' 16 7) (w.extractLsb' 9 7) (w.extractLsb' 0 9))
  | 0x8C => chk 0x0 false w (.ldpoll (sBit w) (w.extractLsb' 16 7) (w.extractLsb' 9 7) (w.extractLsb' 0 9))
  | 0x8D => chk 0x0 false w (.pref (sBit w) (w.extractLsb' 16 7) (w.extractLsb' 9 7) (w.extractLsb' 0 9))
  | 0x90 => chk 0x0 false w (.aadd (sBit w) (w.extractLsb' 16 7) (w.extractLsb' 9 7) (w.extractLsb' 2 7) (w.extractLsb' 0 2))
  | 0x91 => chk 0x0 false w (.amm (sBit w) (w.extractLsb' 16 7) (w.extractLsb' 9 7) (w.extractLsb' 2 7) (w.extractLsb' 0 2))
  | 0x92 => chk 0x0 false w (.alog (sBit w) (w.extractLsb' 16 7) (w.extractLsb' 9 7) (w.extractLsb' 2 7) (w.extractLsb' 0 2))
  | 0x93 => chk 0x0 false w (.acas (sBit w) (w.extractLsb' 16 7) (w.extractLsb' 9 7) (w.extractLsb' 2 7) (w.extractLsb' 0 2))
  | 0x94 =>
    match (w.extractLsb' 0 2).toNat with
    | 0 => chk 0x7FFFC0 false w (.fenceAcq (sBit w) (w.extractLsb' 2 4))
    | 1 => chk 0x7FFFC0 false w (.fenceRel (sBit w) (w.extractLsb' 2 4))
    | 2 => chk 0x7FFFC0 false w (.fenceAr (sBit w) (w.extractLsb' 2 4))
    | _ => unlistedF 0x7FFFC0 w
  | 0x95 => chk 0x7FFFFC true w (.ofence (sBit w))
  | 0x96 => chk 0x1FC true w (.cdetect (sBit w) (w.extractLsb' 16 7) (w.extractLsb' 9 7))
  | 0x97 => chk 0x1F0 false w (.ldacq (sBit w) (w.extractLsb' 16 7) (w.extractLsb' 9 7) (w.extractLsb' 0 4))
  | 0x98 => chk 0x1F0 false w (.strel (sBit w) (w.extractLsb' 16 7) (w.extractLsb' 9 7) (w.extractLsb' 0 4))
  | 0xA0 => chk 0x0 false w (.shfl (sBit w) (w.extractLsb' 16 7) (w.extractLsb' 9 7) (w.extractLsb' 2 7) (w.extractLsb' 0 2))
  | 0xA1 => chk 0x0 false w (.bcast (sBit w) (w.extractLsb' 16 7) (w.extractLsb' 9 7) (w.extractLsb' 2 7) (w.extractLsb' 0 2))
  | 0xA2 => chk 0x1FC true w (.ballot (sBit w) (w.extractLsb' 16 7) (w.extractLsb' 9 7))
  | 0xA3 => chk 0x1FC false w (.vote (sBit w) (w.extractLsb' 16 7) (w.extractLsb' 9 7) (w.extractLsb' 0 2))
  | 0xA4 => chk 0x20 false w (.red (sBit w) (w.extractLsb' 16 7) (w.extractLsb' 9 7) (w.extractLsb' 6 3) (w.extractLsb' 2 3) (w.extractLsb' 0 2))
  | 0xA5 => chk 0x0 false w (.scan (sBit w) (w.extractLsb' 16 7) (w.extractLsb' 9 7) (w.extractLsb' 6 3) (w.extractLsb' 5 1) (w.extractLsb' 2 3) (w.extractLsb' 0 2))
  | 0xA6 => chk 0x0 false w (.topk (sBit w) (w.extractLsb' 16 7) (w.extractLsb' 9 7) (w.extractLsb' 2 7) (w.extractLsb' 0 2))
  | 0xA7 => chk 0x1FC false w (.matchv (sBit w) (w.extractLsb' 16 7) (w.extractLsb' 9 7) (w.extractLsb' 0 2))
  | 0xA8 => chk 0x0 false w (.sortkv (sBit w) (w.extractLsb' 16 7) (w.extractLsb' 9 7) (w.extractLsb' 2 7) (w.extractLsb' 0 2))
  | 0xA9 => chk 0x0 true w (.regroup (sBit w) (w.extractLsb' 16 7) (w.extractLsb' 9 7) (w.extractLsb' 2 7))
  | 0xAA => chk 0x7FFFFC true w (.bar (sBit w))
  | 0xAB => chk 0x1FC true w (.cvinit (sBit w) (w.extractLsb' 16 7) (w.extractLsb' 9 7))
  | 0xAC => chk 0x1FC true w (.cvsign (sBit w) (w.extractLsb' 16 7) (w.extractLsb' 9 7))
  | 0xAD => chk 0xFFFC true w (.elect (sBit w) (w.extractLsb' 16 7))
  | 0xB0 => chk 0x0 false w (.tload (sBit w) (w.extractLsb' 16 7) (w.extractLsb' 9 7) (w.extractLsb' 2 7) (w.extractLsb' 0 2))
  | 0xB1 => chk 0x0 true w (.tstore (sBit w) (w.extractLsb' 16 7) (w.extractLsb' 9 7) (w.extractLsb' 2 7))
  | 0xB2 => chk 0x0 true w (.tbind (sBit w) (w.extractLsb' 16 7) (w.extractLsb' 9 7) (w.extractLsb' 2 7))
  | 0xB3 => chk 0x1FC false w (.tzero (sBit w) (w.extractLsb' 16 7) (w.extractLsb' 9 7) (w.extractLsb' 0 2))
  | 0xB4 => chk 0xFFFC true w (.tfree (sBit w) (w.extractLsb' 16 7))
  | 0xB5 => chk 0x0 false w (.tmma (sBit w) (w.extractLsb' 16 7) (w.extractLsb' 9 7) (w.extractLsb' 2 7) (w.extractLsb' 0 2))
  | 0xB6 =>
    match (w.extractLsb' 0 2).toNat with
    | 2 => chk 0x0 false w (.tmmas (sBit w) (w.extractLsb' 16 7) (w.extractLsb' 9 7) (w.extractLsb' 2 7))
    | _ => .error .variant
  | 0xB7 => chk 0x0 true w (.tadd (sBit w) (w.extractLsb' 16 7) (w.extractLsb' 9 7) (w.extractLsb' 2 7))
  | 0xB8 => chk 0x0 true w (.trnd (sBit w) (w.extractLsb' 16 7) (w.extractLsb' 9 7) (w.extractLsb' 2 7))
  | 0xB9 => chk 0x1FC false w (.tdense (sBit w) (w.extractLsb' 16 7) (w.extractLsb' 9 7) (w.extractLsb' 0 2))
  | 0xBA => chk 0x0 true w (.tlrf (sBit w) (w.extractLsb' 16 7) (w.extractLsb' 9 7) (w.extractLsb' 2 7))
  | 0xBB => chk 0x0 false w (.tscal (sBit w) (w.extractLsb' 16 7) (w.extractLsb' 9 7) (w.extractLsb' 2 7) (w.extractLsb' 0 2))
  | 0xBC => chk 0x1FC true w (.tinfo (sBit w) (w.extractLsb' 16 7) (w.extractLsb' 9 7))
  | 0xBD => chk 0x0 true w (.tmova (sBit w) (w.extractLsb' 16 7) (w.extractLsb' 9 7) (w.extractLsb' 2 7))
  | 0xBE => chk 0x0 true w (.tmovr (sBit w) (w.extractLsb' 16 7) (w.extractLsb' 9 7) (w.extractLsb' 2 7))
  | 0xBF => chk 0x0 false w (.twait (sBit w) (w.extractLsb' 16 7) (w.extractLsb' 9 7) (w.extractLsb' 2 7) (w.extractLsb' 0 2))
  | 0xC0 => chk 0xFFFC true w (.tlu (sBit w) (w.extractLsb' 16 7))
  | 0xC1 => chk 0x1FC false w (.ttrs (sBit w) (w.extractLsb' 16 7) (w.extractLsb' 9 7) (w.extractLsb' 0 2))
  | 0xC2 => chk 0x1C0 false w (.tcvt (sBit w) (w.extractLsb' 16 7) (w.extractLsb' 9 7) (w.extractLsb' 2 4) (w.extractLsb' 0 2))
  | 0xC3 => chk 0x1FC false w (.ttran (sBit w) (w.extractLsb' 16 7) (w.extractLsb' 9 7) (w.extractLsb' 0 2))
  | 0xC4 => chk 0x0 true w (.tset (sBit w) (w.extractLsb' 16 7) (w.extractLsb' 9 7) (w.extractLsb' 2 7))
  | 0xC5 => chk 0x1FC false w (.tcopy (sBit w) (w.extractLsb' 16 7) (w.extractLsb' 9 7) (w.extractLsb' 0 2))
  | 0xC6 => chk 0x0 false w (.tget (sBit w) (w.extractLsb' 16 7) (w.extractLsb' 9 7) (w.extractLsb' 2 7) (w.extractLsb' 0 2))
  | 0xC7 => chk 0x1FC false w (.tnorm (sBit w) (w.extractLsb' 16 7) (w.extractLsb' 9 7) (w.extractLsb' 0 2))
  | 0xC8 =>
    match (w.extractLsb' 0 2).toNat with
    | 0 => chk 0x7F0000 false w (.qpush (sBit w) (w.extractLsb' 9 7) (w.extractLsb' 2 7))
    | 1 => chk 0x7F01FC false w (.qpushClose (sBit w) (w.extractLsb' 9 7))
    | _ => unlistedF 0x7F0000 w
  | 0xC9 => chk 0x0 true w (.qpop (sBit w) (w.extractLsb' 16 7) (w.extractLsb' 9 7) (w.extractLsb' 2 7))
  | 0xCA => chk 0x1FC true w (.xform (sBit w) (w.extractLsb' 16 7) (w.extractLsb' 9 7))
  | 0xCB => chk 0x7F01FC true w (.xwait (sBit w) (w.extractLsb' 9 7))
  | 0xCC => chk 0x1FC true w (.xcancel (sBit w) (w.extractLsb' 16 7) (w.extractLsb' 9 7))
  | 0xCD => chk 0x7F01FC true w (.coll (sBit w) (w.extractLsb' 9 7))
  | 0xD0 =>
    match (w.extractLsb' 0 2).toNat with
    | 0 => chk 0x1FC false w (.popenNew (sBit w) (w.extractLsb' 16 7) (w.extractLsb' 9 7))
    | 1 => chk 0x0 false w (.popenReset (sBit w) (w.extractLsb' 16 7) (w.extractLsb' 9 7) (w.extractLsb' 2 7))
    | _ => .error .variant
  | 0xD1 => chk 0x0 true w (.pclaim (sBit w) (w.extractLsb' 16 7) (w.extractLsb' 9 7) (w.extractLsb' 2 7))
  | 0xD2 =>
    match (w.extractLsb' 0 2).toNat with
    | 0 => chk 0x0 false w (.pcloseRet (sBit w) (w.extractLsb' 16 7) (w.extractLsb' 9 7) (w.extractLsb' 2 7))
    | 1 => chk 0x0 false w (.pcloseSeal (sBit w) (w.extractLsb' 16 7) (w.extractLsb' 9 7) (w.extractLsb' 2 7))
    | _ => .error .variant
  | 0xD3 => chk 0x0 true w (.pbias (sBit w) (w.extractLsb' 16 7) (w.extractLsb' 9 7) (w.extractLsb' 2 7))
  | 0xD4 => chk 0xFFFC true w (.fnew (sBit w) (w.extractLsb' 16 7))
  | 0xD5 => chk 0x1FC true w (.invoke (sBit w) (w.extractLsb' 16 7) (w.extractLsb' 9 7))
  | 0xD6 => chk 0x0 true w (.invh (sBit w) (w.extractLsb' 16 7) (w.extractLsb' 9 7) (w.extractLsb' 2 7))
  | 0xD7 => chk 0x0 false w (.fput (sBit w) (w.extractLsb' 16 7) (w.extractLsb' 9 7) (w.extractLsb' 2 7) (w.extractLsb' 0 2))
  | 0xD8 =>
    match (w.extractLsb' 0 2).toNat with
    | 0 => chk 0x0 false w (.fgetWait (sBit w) (w.extractLsb' 16 7) (w.extractLsb' 9 7) (w.extractLsb' 2 7))
    | 1 => chk 0x0 false w (.fgetPoll (sBit w) (w.extractLsb' 16 7) (w.extractLsb' 9 7) (w.extractLsb' 2 7))
    | _ => .error .variant
  | 0xD9 => chk 0x0 true w (.fbreak (sBit w) (w.extractLsb' 16 7) (w.extractLsb' 9 7) (w.extractLsb' 2 7))
  | 0xDA => chk 0x1FC true w (.frel (sBit w) (w.extractLsb' 16 7) (w.extractLsb' 9 7))
  | 0xE0 => chk 0x1FC true w (.slice (sBit w) (w.extractLsb' 16 7) (w.extractLsb' 9 7))
  | 0xE1 =>
    match (w.extractLsb' 0 2).toNat with
    | 0 => chk 0x1FC false w (.cwatchSet (sBit w) (w.extractLsb' 16 7) (w.extractLsb' 9 7))
    | 1 => chk 0x1FC false w (.cwatchClr (sBit w) (w.extractLsb' 16 7) (w.extractLsb' 9 7))
    | _ => unlistedF 0x1FC w
  | 0xE2 =>
    match (w.extractLsb' 0 2).toNat with
    | 0 => chk 0x7FFFFC false w (.rfeReplay (sBit w))
    | 1 => chk 0x7FFFFC false w (.rfeSkip (sBit w))
    | _ => unlistedF 0x7FFFFC w
  | 0xE3 =>
    match (w.extractLsb' 0 2).toNat with
    | 0 => chk 0x7F0000 false w (.tlbinvPage (sBit w) (w.extractLsb' 9 7) (w.extractLsb' 2 7))
    | 1 => chk 0x7FFE00 false w (.tlbinvAsid (sBit w) (w.extractLsb' 2 7))
    | 2 => chk 0x7FFFFC false w (.tlbinvAll (sBit w))
    | _ => unlistedF 0x7F0000 w
  | 0xE4 => chk 0x0 true w (.ctxsv (sBit w) (w.extractLsb' 16 7) (w.extractLsb' 9 7) (w.extractLsb' 2 7))
  | 0xE5 => chk 0x1FC true w (.ctxld (sBit w) (w.extractLsb' 16 7) (w.extractLsb' 9 7))
  | 0xE6 => chk 0x7F0000 false w (.cflush (sBit w) (w.extractLsb' 9 7) (w.extractLsb' 2 7) (w.extractLsb' 0 2))
  | 0xE7 => chk 0x7F0000 false w (.cinv (sBit w) (w.extractLsb' 9 7) (w.extractLsb' 2 7) (w.extractLsb' 0 2))
  | _ => .error .opcode

/-- The opcodes an encoding version assigns (R64). (DEDUCED, log 31) -/
def assigned (v op : Nat) : Bool :=
  !(v ≤ 2 && (op == 0x09 || op == 0xC7 || op == 0xCC)) &&
    !(v == 1 && (op == 0xD0 || op == 0xD1 || op == 0xD2 || op == 0xD3 || op == 0x36))

/-- The instruction a word stands for under an encoding version, or the Illegal Instruction subcode of
the checks the word alone decides (R64, R65). (DEDUCED, log 31) -/
def decode (v : Nat) (w : Word) : Except Ill Instr :=
  if assigned v (opcodeOf w) = false then .error .opcode
  else
    match parse v w with
    | .error x => .error x
    | .ok i =>
      if i.reservedOk = false then .error .reserved
      else if i.variantOk = false then .error .variant
      else if i.regsOk = false then .error .register
      else .ok i

/-- A word from its switch bit, its opcode and its payload (R43). -/
def pack (e : Bool) (op : BitVec 8) (pl : BitVec 23) : Word := BitVec.ofBool e ++ op ++ pl

/-- The word of an instruction; `none` for the steps that are no instruction words. -/
def encode : Instr → Option Word
  | .himm e pl => some (pack e 0x01 (pl))
  | .hmod e pl => some (pack e 0x02 (pl))
  | .hgrd e p n c => some (pack e 0x03 (p ++ n ++ c ++ 0#14))
  | .trl m => some (pack true 0x04 (m))
  | .hsch e cl df dm yl => some (pack e 0x05 (0#7 ++ cl ++ df ++ dm ++ yl))
  | .nop e => some (pack e 0x06 (0#23))
  | .phaseAnnounce e o c lx m b => some (pack e 0x07 (0#3 ++ o ++ c ++ lx ++ m ++ b))
  | .phaseEnd e => some (pack e 0x07 (1048576#23))
  | .phaseQuery e => some (pack e 0x07 (2097152#23))
  | .brk e c => some (pack e 0x08 (c))
  | .trace e d c => some (pack e 0x09 (d ++ c))
  | .add e d a b => some (pack e 0x10 (d ++ a ++ b ++ 0#2))
  | .sub e d a b => some (pack e 0x11 (d ++ a ++ b ++ 0#2))
  | .mul e d a b => some (pack e 0x12 (d ++ a ++ b ++ 0#2))
  | .mulh e d a b f => some (pack e 0x13 (d ++ a ++ b ++ f))
  | .mad e d a b => some (pack e 0x14 (d ++ a ++ b ++ 0#2))
  | .and e d a b => some (pack e 0x15 (d ++ a ++ b ++ 0#2))
  | .or e d a b => some (pack e 0x16 (d ++ a ++ b ++ 0#2))
  | .xor e d a b => some (pack e 0x17 (d ++ a ++ b ++ 0#2))
  | .andn e d a b => some (pack e 0x18 (d ++ a ++ b ++ 0#2))
  | .shl e d a b => some (pack e 0x19 (d ++ a ++ b ++ 0#2))
  | .shr e d a b => some (pack e 0x1A (d ++ a ++ b ++ 0#2))
  | .sra e d a b => some (pack e 0x1B (d ++ a ++ b ++ 0#2))
  | .min e d a b f => some (pack e 0x1C (d ++ a ++ b ++ f))
  | .max e d a b f => some (pack e 0x1D (d ++ a ++ b ++ f))
  | .abs e d a => some (pack e 0x1E (d ++ a ++ 0#9))
  | .clz e d a => some (pack e 0x1F (d ++ a ++ 0#9))
  | .popc e d a => some (pack e 0x20 (d ++ a ++ 0#9))
  | .brev e d a => some (pack e 0x21 (d ++ a ++ 0#9))
  | .bfx e d a b => some (pack e 0x22 (d ++ a ++ b ++ 0#2))
  | .bfi e d a b => some (pack e 0x23 (d ++ a ++ b ++ 0#2))
  | .cmov e d p a => some (pack e 0x24 (d ++ p ++ a ++ 0#3))
  | .div e d a b f => some (pack e 0x25 (d ++ a ++ b ++ f))
  | .rem e d a b f => some (pack e 0x26 (d ++ a ++ b ++ f))
  | .adds e d a b f => some (pack e 0x27 (d ++ a ++ b ++ f))
  | .subs e d a b f => some (pack e 0x28 (d ++ a ++ b ++ f))
  | .movi e d i => some (pack e 0x30 (d ++ i))
  | .addi e d a i => some (pack e 0x31 (d ++ a ++ i))
  | .andi e d a i => some (pack e 0x32 (d ++ a ++ i))
  | .ori e d a i => some (pack e 0x33 (d ++ a ++ i))
  | .xori e d a i => some (pack e 0x34 (d ++ a ++ i))
  | .shi e d a k n => some (pack e 0x35 (d ++ a ++ 0#2 ++ k ++ n))
  | .cmpi e p a c i => some (pack e 0x36 (p ++ a ++ c ++ i))
  | .cmpiV1 e p a c i => some (pack e 0x3A (p ++ a ++ c ++ i))
  | .mov e d a => some (pack e 0x37 (d ++ a ++ 0#9))
  | .s2g e d c => some (pack e 0x38 (d ++ c))
  | .g2s e d c => some (pack e 0x39 (d ++ c))
  | .ldpc e d i => some (pack e 0x3A (d ++ i))
  | .addw e d a b => some (pack e 0x40 (d ++ a ++ b ++ 0#2))
  | .subw e d a b => some (pack e 0x41 (d ++ a ++ b ++ 0#2))
  | .mulw e d a b f => some (pack e 0x42 (d ++ a ++ b ++ f))
  | .shlw e d a b => some (pack e 0x43 (d ++ a ++ b ++ 0#2))
  | .shrw e d a b f => some (pack e 0x44 (d ++ a ++ b ++ f))
  | .leaw e d a b f => some (pack e 0x45 (d ++ a ++ b ++ f))
  | .movw e d a => some (pack e 0x46 (d ++ a ++ 0#9))
  | .cmp e p a b c => some (pack e 0x47 (p ++ a ++ b ++ c))
  | .cmpw e p a b c => some (pack e 0x48 (p ++ a ++ b ++ c))
  | .plog e d a b f => some (pack e 0x49 (d ++ a ++ b ++ f))
  | .p2g e d f => some (pack e 0x4A (d ++ 0#14 ++ f))
  | .g2p e a b f => some (pack e 0x4B (0#7 ++ a ++ b ++ f))
  | .fadd e d a b f => some (pack e 0x50 (d ++ a ++ b ++ f))
  | .fsub e d a b f => some (pack e 0x51 (d ++ a ++ b ++ f))
  | .fmul e d a b f => some (pack e 0x52 (d ++ a ++ b ++ f))
  | .ffma e d a b f => some (pack e 0x53 (d ++ a ++ b ++ f))
  | .fmin e d a b f => some (pack e 0x54 (d ++ a ++ b ++ f))
  | .fmax e d a b f => some (pack e 0x55 (d ++ a ++ b ++ f))
  | .fcmp e p a b t c => some (pack e 0x56 (p ++ a ++ b ++ t ++ c))
  | .fcvt e d a fr tt => some (pack e 0x57 (d ++ a ++ fr ++ tt ++ 0#3))
  | .icvt e d a m k f => some (pack e 0x58 (d ++ a ++ m ++ k ++ 0#2 ++ f))
  | .rcp e d a f => some (pack e 0x60 (d ++ a ++ 0#7 ++ f))
  | .rsq e d a => some (pack e 0x61 (d ++ a ++ 0#9))
  | .sqrt e d a f => some (pack e 0x62 (d ++ a ++ 0#7 ++ f))
  | .ex2 e d a => some (pack e 0x63 (d ++ a ++ 0#9))
  | .lg2 e d a => some (pack e 0x64 (d ++ a ++ 0#9))
  | .sin e d a => some (pack e 0x65 (d ++ a ++ 0#9))
  | .cos e d a => some (pack e 0x66 (d ++ a ++ 0#9))
  | .tanh e d a => some (pack e 0x67 (d ++ a ++ 0#9))
  | .dot4 e d a b f => some (pack e 0x68 (d ++ a ++ b ++ f))
  | .dot8 e d a b f => some (pack e 0x69 (d ++ a ++ b ++ f))
  | .pack e d a b f => some (pack e 0x6A (d ++ a ++ b ++ f))
  | .unpk e d a b f => some (pack e 0x6B (d ++ a ++ b ++ f))
  | .scl e d a b f => some (pack e 0x6C (d ++ a ++ b ++ f))
  | .br e p n o => some (pack e 0x70 (p ++ n ++ o))
  | .jmpi e a => some (pack e 0x71 (0#7 ++ a ++ 0#9))
  | .call e o => some (pack e 0x72 (o))
  | .calli e a => some (pack e 0x73 (0#7 ++ a ++ 0#9))
  | .ret e => some (pack e 0x74 (0#23))
  | .join e a => some (pack e 0x75 (0#7 ++ a ++ 0#9))
  | .exit e a => some (pack e 0x76 (0#7 ++ a ++ 0#9))
  | .trap e i => some (pack e 0x77 (0#14 ++ i))
  | .land e => some (pack e 0x78 (0#23))
  | .yield e => some (pack e 0x79 (0#23))
  | .waitc e m t => some (pack e 0x7A (0#3 ++ m ++ 0#8 ++ t ++ 0#2))
  | .rfeReplay e => some (pack e 0xE2 (0#23))
  | .rfeSkip e => some (pack e 0xE2 (1#23))
  | .ldb e v b o => some (pack e 0x80 (v ++ b ++ o))
  | .ldh e v b o => some (pack e 0x81 (v ++ b ++ o))
  | .ldw e v b o => some (pack e 0x82 (v ++ b ++ o))
  | .ldd e v b o => some (pack e 0x83 (v ++ b ++ o))
  | .ldq e v b o => some (pack e 0x84 (v ++ b ++ o))
  | .stb e v b o => some (pack e 0x85 (v ++ b ++ o))
  | .sth e v b o => some (pack e 0x86 (v ++ b ++ o))
  | .stw e v b o => some (pack e 0x87 (v ++ b ++ o))
  | .std e v b o => some (pack e 0x88 (v ++ b ++ o))
  | .stq e v b o => some (pack e 0x89 (v ++ b ++ o))
  | .lds e v b o => some (pack e 0x8A (v ++ b ++ o))
  | .sts e v b o => some (pack e 0x8B (v ++ b ++ o))
  | .ldpoll e v b o => some (pack e 0x8C (v ++ b ++ o))
  | .pref e v b o => some (pack e 0x8D (v ++ b ++ o))
  | .aadd e d a b f => some (pack e 0x90 (d ++ a ++ b ++ f))
  | .amm e d a b f => some (pack e 0x91 (d ++ a ++ b ++ f))
  | .alog e d a b f => some (pack e 0x92 (d ++ a ++ b ++ f))
  | .acas e d a b f => some (pack e 0x93 (d ++ a ++ b ++ f))
  | .fenceAcq e sc => some (pack e 0x94 (0#17 ++ sc ++ 0#2))
  | .fenceRel e sc => some (pack e 0x94 (0#17 ++ sc ++ 1#2))
  | .fenceAr e sc => some (pack e 0x94 (0#17 ++ sc ++ 2#2))
  | .ofence e => some (pack e 0x95 (0#23))
  | .cdetect e d a => some (pack e 0x96 (d ++ a ++ 0#9))
  | .ldacq e v b sc => some (pack e 0x97 (v ++ b ++ 0#5 ++ sc))
  | .strel e v b sc => some (pack e 0x98 (v ++ b ++ 0#5 ++ sc))
  | .shfl e d a b f => some (pack e 0xA0 (d ++ a ++ b ++ f))
  | .bcast e d a b f => some (pack e 0xA1 (d ++ a ++ b ++ f))
  | .ballot e d a => some (pack e 0xA2 (d ++ a ++ 0#9))
  | .vote e d a f => some (pack e 0xA3 (d ++ a ++ 0#7 ++ f))
  | .red e d a o v f => some (pack e 0xA4 (d ++ a ++ o ++ 0#1 ++ v ++ f))
  | .scan e d a o ex v f => some (pack e 0xA5 (d ++ a ++ o ++ ex ++ v ++ f))
  | .topk e d a b f => some (pack e 0xA6 (d ++ a ++ b ++ f))
  | .matchv e d a f => some (pack e 0xA7 (d ++ a ++ 0#7 ++ f))
  | .sortkv e d a b f => some (pack e 0xA8 (d ++ a ++ b ++ f))
  | .regroup e d a n => some (pack e 0xA9 (d ++ a ++ n ++ 0#2))
  | .bar e => some (pack e 0xAA (0#23))
  | .cvinit e d a => some (pack e 0xAB (d ++ a ++ 0#9))
  | .cvsign e d a => some (pack e 0xAC (d ++ a ++ 0#9))
  | .elect e d => some (pack e 0xAD (d ++ 0#16))
  | .tload e d a b f => some (pack e 0xB0 (d ++ a ++ b ++ f))
  | .tstore e d a b => some (pack e 0xB1 (d ++ a ++ b ++ 0#2))
  | .tbind e d a b => some (pack e 0xB2 (d ++ a ++ b ++ 0#2))
  | .tzero e d a f => some (pack e 0xB3 (d ++ a ++ 0#7 ++ f))
  | .tfree e d => some (pack e 0xB4 (d ++ 0#16))
  | .tmma e d a b f => some (pack e 0xB5 (d ++ a ++ b ++ f))
  | .tmmas e d a b => some (pack e 0xB6 (d ++ a ++ b ++ 2#2))
  | .tadd e d a b => some (pack e 0xB7 (d ++ a ++ b ++ 0#2))
  | .trnd e d a b => some (pack e 0xB8 (d ++ a ++ b ++ 0#2))
  | .tdense e d a f => some (pack e 0xB9 (d ++ a ++ 0#7 ++ f))
  | .tlrf e d a b => some (pack e 0xBA (d ++ a ++ b ++ 0#2))
  | .tscal e d a b f => some (pack e 0xBB (d ++ a ++ b ++ f))
  | .tinfo e d a => some (pack e 0xBC (d ++ a ++ 0#9))
  | .tmova e d a b => some (pack e 0xBD (d ++ a ++ b ++ 0#2))
  | .tmovr e d a b => some (pack e 0xBE (d ++ a ++ b ++ 0#2))
  | .twait e d a b f => some (pack e 0xBF (d ++ a ++ b ++ f))
  | .tlu e d => some (pack e 0xC0 (d ++ 0#16))
  | .ttrs e d a f => some (pack e 0xC1 (d ++ a ++ 0#7 ++ f))
  | .tcvt e d a m f => some (pack e 0xC2 (d ++ a ++ 0#3 ++ m ++ f))
  | .ttran e d a f => some (pack e 0xC3 (d ++ a ++ 0#7 ++ f))
  | .tset e d a b => some (pack e 0xC4 (d ++ a ++ b ++ 0#2))
  | .tcopy e d a f => some (pack e 0xC5 (d ++ a ++ 0#7 ++ f))
  | .tget e d a b f => some (pack e 0xC6 (d ++ a ++ b ++ f))
  | .tnorm e d a f => some (pack e 0xC7 (d ++ a ++ 0#7 ++ f))
  | .qpush e a b => some (pack e 0xC8 (0#7 ++ a ++ b ++ 0#2))
  | .qpushClose e a => some (pack e 0xC8 (0#7 ++ a ++ 1#9))
  | .qpop e d a b => some (pack e 0xC9 (d ++ a ++ b ++ 0#2))
  | .xform e d a => some (pack e 0xCA (d ++ a ++ 0#9))
  | .xwait e a => some (pack e 0xCB (0#7 ++ a ++ 0#9))
  | .xcancel e d a => some (pack e 0xCC (d ++ a ++ 0#9))
  | .coll e a => some (pack e 0xCD (0#7 ++ a ++ 0#9))
  | .popenNew e d a => some (pack e 0xD0 (d ++ a ++ 0#9))
  | .popenReset e d a b => some (pack e 0xD0 (d ++ a ++ b ++ 1#2))
  | .pclaim e d a b => some (pack e 0xD1 (d ++ a ++ b ++ 0#2))
  | .pcloseRet e d a b => some (pack e 0xD2 (d ++ a ++ b ++ 0#2))
  | .pcloseSeal e d a b => some (pack e 0xD2 (d ++ a ++ b ++ 1#2))
  | .pbias e d a b => some (pack e 0xD3 (d ++ a ++ b ++ 0#2))
  | .fnew e d => some (pack e 0xD4 (d ++ 0#16))
  | .invoke e d a => some (pack e 0xD5 (d ++ a ++ 0#9))
  | .invh e d a b => some (pack e 0xD6 (d ++ a ++ b ++ 0#2))
  | .fput e d a b f => some (pack e 0xD7 (d ++ a ++ b ++ f))
  | .fgetWait e d a b => some (pack e 0xD8 (d ++ a ++ b ++ 0#2))
  | .fgetPoll e d a b => some (pack e 0xD8 (d ++ a ++ b ++ 1#2))
  | .fbreak e d a b => some (pack e 0xD9 (d ++ a ++ b ++ 0#2))
  | .frel e d a => some (pack e 0xDA (d ++ a ++ 0#9))
  | .slice e d a => some (pack e 0xE0 (d ++ a ++ 0#9))
  | .cwatchSet e d a => some (pack e 0xE1 (d ++ a ++ 0#9))
  | .cwatchClr e d a => some (pack e 0xE1 (d ++ a ++ 1#9))
  | .tlbinvPage e a b => some (pack e 0xE3 (0#7 ++ a ++ b ++ 0#2))
  | .tlbinvAsid e b => some (pack e 0xE3 (0#14 ++ b ++ 1#2))
  | .tlbinvAll e => some (pack e 0xE3 (2#23))
  | .ctxsv e d a b => some (pack e 0xE4 (d ++ a ++ b ++ 0#2))
  | .ctxld e d a => some (pack e 0xE5 (d ++ a ++ 0#9))
  | .cflush e a b f => some (pack e 0xE6 (0#7 ++ a ++ b ++ f))
  | .cinv e a b f => some (pack e 0xE7 (0#7 ++ a ++ b ++ f))
  | _ => none

/-- The encoding version under which a word of the instruction is read: CMPI_V1 exists in version 1
alone (R64). -/
def Instr.version : Instr → Nat
  | .cmpiV1 .. => 1
  | _ => 3

/-- The instruction the decoder reads from the bits `w` of an opcode-table row: bit 0 is the least
significant bit of the word, which stands little-endian in the code object (R43). Version 3 reads it
first; a word that version 3 does not assign is read as version 1 does (R64). -/
def decodeTableWord (nbits w : Nat) : Option Instr :=
  if 32 < nbits then none
  else
    match decode 3 (BitVec.ofNat 32 w) with
    | .ok i => some i
    | .error _ =>
      match decode 1 (BitVec.ofNat 32 w) with
      | .ok i => some i
      | .error _ => none

end Sys2Proof
end

