-- ==== Sys2Proof/Machine/State.lean ====
section
/-! DEFINITION. The machine's state as plain data, and the state after a cold reset.

One `State` is one device of the load-store domain. Other devices, hosts and sensors are outside: what
they send comes in as events of `Instr`, and what the device sends them goes to `outbox`. -/

namespace Sys2Proof.Machine

/-! ### Memory -/

/-- A partial byte memory: addresses strictly rising. -/
abbrev Cells := List Host.Cell

/-- Addresses rise strictly along the list. -/
def Cells.sorted : Cells → Bool
  | [] => true
  | [_] => true
  | a :: b :: r => decide (a.1 < b.1) && Cells.sorted (b :: r)

/-- What an address of device memory that nothing has written reads as. (DESIGN CHOICE, log 1) -/
def unlisted : Byte := 0

/-- The canonical form of device memory: addresses strictly rising and no entry equal to what an
unlisted address reads as. (DESIGN CHOICE, log 1) -/
def Memory.wf (m : Cells) : Bool := Cells.sorted m && m.all (fun c => c.2 != unlisted)

/-- The place an access reaches, after window decode and translation (R33, R375, R380). -/
inductive Place where
  | phys (pa : Nat)
  | remote (home pa : Nat)
  | scratch (team off : Nat)
  | chip (slice off : Nat)
  deriving DecidableEq, Repr, Inhabited

/-- A line of a core's L1: its number (PA / 128) and its cache policy (R151). -/
structure L1Line where
  line : Nat
  policy : Nat
  deriving DecidableEq, Repr, Inhabited

/-- A core's L1 (R150, R182, R367, R368): the bytes the core has written and not yet written back
(`dirty`), the bytes of present lines that still show an older value than the L2's (`stale`, R181), the
lines present, the dirty-line FIFO oldest first with each line's acceptance time, and the poisoned
granules (PA / 32) of dirty lines, each with its bytes that no store has written since it was poisoned. A byte
of a present line in neither list shows the L2's value. -/
structure L1 where
  dirty : Cells
  stale : Cells
  lines : List L1Line
  fifo : List (Nat × Nat)
  poison : List (Nat × BitVec 32)
  deriving DecidableEq, Repr, Inhabited

/-- A held TLB entry (R376, R378): address space, page base VA, page size, PA base, flags. -/
structure TlbEntry where
  asid : Nat
  base : Nat
  size : Nat
  pa : Nat
  r : Bool
  w : Bool
  x : Bool
  u : Bool
  cmp : Bool
  rmt : Bool
  home : Nat
  deriving DecidableEq, Repr, Inhabited

/-- An upper-level entry that the walkers of a cluster hold (R378): the address space, the level of the table it points
to, the part of the VA that leads there, and the table's address. -/
structure WalkEntry where
  cluster : Nat
  asid : Nat
  lvl : Nat
  tag : Nat
  table : Nat
  deriving DecidableEq, Repr, Inhabited

/-- A write at a die's L2, held there until ownership is granted (R371): the byte address, the bits of the byte that it
writes (R234), and their value. -/
structure HeldWrite where
  addr : Nat
  mask : Byte
  val : Byte
  deriving DecidableEq, Repr, Inhabited

/-- A die's L2 side of the coherence protocol (R371): writes held for ownership in the order received, the ownership
requests with their times, the granules (PA / 32) whose poison a held write of all their bytes is to clear, and those
that a held write is to poison (R381). -/
structure DieMem where
  held : List HeldWrite
  requests : List (Nat × Nat)
  clears : List Nat
  spoils : List Nat
  deriving DecidableEq, Repr, Inhabited

/-- A die that holds no write. -/
def DieMem.empty : DieMem := ⟨[], [], [], []⟩

/-! ### Threads -/

/-- The mode of a thread (R104, R347). -/
inductive Mode where
  | user | handler | supervisor | superHandler
  deriving DecidableEq, Repr, Inhabited

/-- The fault record of a thread (R32): %fcode, %fpc, %faddr, %finfo, %fmask. -/
structure FaultRec where
  code : Word
  pc : Word
  addr : DWord
  info : Word
  mask : DWord
  deriving DecidableEq, Repr, Inhabited

/-- A fault as an instruction raises it: code (R105), subcode, address, tile handle (R31). -/
structure FaultInfo where
  code : Nat
  sub : Nat
  addr : DWord
  tile : Option Nat
  deriving DecidableEq, Repr, Inhabited

/-- The completion counter of a class of long-latency instructions (R26, R47). -/
inductive CClass where
  | ld | st | tm | ax
  deriving DecidableEq, Repr, Inhabited

/-- The completion counters c.ld, c.st, c.tm, c.ax (R26), each 0 to 63. -/
structure Counters where
  ld : Nat
  st : Nat
  tm : Nat
  ax : Nat
  deriving DecidableEq, Repr, Inhabited

/-- A destination of a result in flight: a register by its g-field encoding, or a predicate. -/
inductive Dest where
  | reg (n : Nat)
  | pred (n : Nat)
  deriving DecidableEq, Repr, Inhabited

/-- How a load of class M is issued again after a save (R160): its address and size, the CACHE field, and for an
LDPOLL the scope and the value it compares with; and the registers that it names. -/
structure Reload where
  ea : DWord
  size : Nat
  policy : Nat
  regs : List Dest
  poll : Option (Nat × Word)
  deriving DecidableEq, Repr, Inhabited

/-- How a result in flight comes back. -/
inductive RKind where
  /-- Computed; returns at its next RESULT_RETURN (R50). -/
  | ready
  /-- A held LDPOLL at a place and scope, until an expiry time, with its address (R161). -/
  | poll (at_ : Place) (scope expiry : Nat) (ea : DWord)
  /-- An open instance of a gathering instruction (R193). -/
  | gather
  /-- A computed result of an instance under PART, by the instance's number: it returns with the instance's others
  (R194). -/
  | part (n : Nat)
  /-- A remote access whose reply is awaited (R380); `poll` says that it is an LDPOLL (R162). -/
  | remote (txn : Nat) (poll : Bool)
  /-- A load abandoned at a save, to be issued again at the restore (R160). -/
  | again
  /-- The registers of a tile operation (R242). -/
  | tileOp (op : Nat)
  /-- A command not yet accepted by its engine (R291), or whose outcome comes from another device
  (R338, R342). -/
  | engine
  deriving DecidableEq, Repr, Inhabited

/-- A long-latency result in flight (R47 to R50): its run and position, its instruction's PC, its
counter, whether the trailer detached it, its destinations, its fault if the access was poisoned or
remote and failed (R159, R380), whether its return demotes the thread (R166), the scope of an acquire
that later accesses wait for (R186) or 0, how a save has it issued again (R160), whether it has returned and only
its fault is still due, and when a part of its destinations was last written ahead of the others (R48). -/
structure Pending where
  id : Nat
  run : Nat
  pos : Nat
  pc : Word
  cls : CClass
  detached : Bool
  dests : List (Dest × Word)
  kind : RKind
  fault : Option FaultInfo
  demote : Bool
  acquire : Nat
  reload : Option Reload
  returned : Bool
  early : Option Nat
  deriving DecidableEq, Repr, Inhabited

/-- What a thread is parked at (R99, R103, R114, R118, R205, R211). A thread at an absent page keeps the
address, whether its instruction ends its run, and the lanes of its issue set that faulted with it. -/
inductive Park where
  | none
  | join (mask : DWord)
  | yield
  | bar
  | regroup (key : Word) (n d : Nat)
  | page (asid page : Nat) (addr : DWord) (ends : Bool) (mask : DWord)
  | debug
  deriving DecidableEq, Repr, Inhabited

/-- How a thread ended (R100, R101, R211). -/
inductive Ended where
  | exited (v : Word)
  | killed
  | regrouped
  deriving DecidableEq, Repr, Inhabited

/-- The run context of a thread (R51): the pending hint words and the open HGRD coverage. -/
structure Hints where
  himm : Option Word
  hmod : Option Word
  hgrd : Option Word
  hsch : Option Word
  cover : Nat
  deriving DecidableEq, Repr, Inhabited

/-- Where RFE returns a thread (R112): the faulting PC and position, the run it belongs to, whether the
faulting instruction ended its run, whether the fault was delivered at a run boundary, the poisoned k registers
that its run context held, with what the frame shows of them (R117), and what the thread is parked at all the same, when
a fault of its run found it parked, with the PC of that instruction (R159). -/
structure Resume where
  pc : Word
  pos : Nat
  run : Nat
  ends : Bool
  boundary : Bool
  kbad : List (Nat × Word)
  park : Park
  parkPc : Word
  deriving DecidableEq, Repr, Inhabited

/-- Where a thread goes when its run ends, when a trailer still issues after the instruction that decided
it (R45): a control transfer's target, or a return from the handler. -/
inductive After where
  | goto (pc : Word)
  | rfe (skip : Bool) (k : List Word) (hints : Hints)
  deriving DecidableEq, Repr, Inhabited

/-- A contribution to an open gathering instance (R193, R195): made by arriving at the instruction. The
operands are read at the thread's own issue. -/
structure Contribution where
  pc : Word
  live : Bool
  skipped : Bool
  instr : Instr
  a : DWord
  b : Word
  pendId : Nat
  deriving DecidableEq, Repr, Inhabited

/-- A thread (R9, R14 to R18, R26 to R32, R40, R90 to R92, R96). `regs` holds the live g registers and
the written k registers (encodings 120 to 127); a register not listed reads 0. `preds` bit k is pk; bit
0 is not used, p0 reads true. `poison` lists poisoned registers as the SUBCODE of R116 names them.
`runSeq` counts the runs the thread has begun, `runId` names the run it is in, and `parkPc` is the PC of
the instruction it is parked at. `tset` is when a completion last set bits of %tstat, and the bits that it set then
(R31). -/
structure Thread where
  uid : Nat
  slice : Nat
  team : Nat
  gid : Nat
  role : Nat
  tid : Word
  orig : Word
  core : Nat
  lane : Nat
  pc : Word
  pos : Nat
  runId : Nat
  runSeq : Nat
  after : Option After
  csp : Nat
  userCsp : Nat
  mode : Mode
  regs : List (Nat × Word)
  preds : BitVec 48
  poison : List Nat
  ctr : Counters
  fpctl : Word
  fpflags : Word
  iflags : Word
  tstat : Word
  tset : Nat × Word
  frec : FaultRec
  cycHi : Word
  ssel : Word
  stamp : Nat
  park : Park
  parkPc : Word
  ended : Option Ended
  pend : List Pending
  hints : Hints
  resume : Resume
  gather : List Contribution
  budgetDue : Bool
  dbgStep : Bool
  deriving DecidableEq, Repr, Inhabited

/-! ### Groups, teams -/

/-- A thread at an instruction that ends its run, with the run context that a fault there shows (R51): its PC, position
and run, the hints pending, k0 to k7, and those of them that are poisoned. -/
structure RunCtx where
  uid : Nat
  pc : Word
  pos : Nat
  run : Nat
  hints : Hints
  k : List Word
  kbad : List (Nat × Word)
  deriving DecidableEq, Repr, Inhabited

/-- What a whole group waits for at a run end, besides its results (R102, R243, R284, R287, R340). -/
inductive GWait where
  /-- WAITC: counter mask, threshold, the live threads, the PC. -/
  | counters (mask : BitVec 4) (thr : Nat) (uids : List Nat) (pc : Word)
  /-- TWAIT: the operations awaited, the live threads, the PC. -/
  | tiles (ops : List Nat) (uids : List Nat) (pc : Word)
  /-- QPUSH or QPOP at a queue, until its turn has come: the live threads as they issued it, the PC. -/
  | queue (q : Nat) (ctxs : List RunCtx) (pc : Word)
  /-- XWAIT on a barrier object: team scratchpad offset per thread. -/
  | xwait (rest : List (Nat × Nat)) (pc : Word)
  /-- FGET: the threads still waiting, with the waiter tag of each. -/
  | fget (rest : List (Nat × Nat)) (pc : Word)
  deriving DecidableEq, Repr, Inhabited

/-- A debugger's step of one path (R119): its threads, whether it has begun, and whether the path runs a handler. -/
structure DbgStep where
  uids : List Nat
  begun : Bool
  inH : Bool
  deriving DecidableEq, Repr, Inhabited

/-- A group (R10, R46, R50, R406 to R409). `run` is the issue set, in lane order, of the run that is
issuing. `issuedAt` is the end of the cycle in which it last issued. `held` says that its next instruction cannot issue
until something completes (R222), `ableAt` when it last was no longer held, `skipped` how many cycles since it became
ready do not count for its ageing (R408), `done` the threads for which the tile instruction that it is held at has
already acted (R414, R419), and `mark` is the number of the device's next remote transaction when that
instruction was first tried, and the time then. `yielded` orders the groups of a core that yielded and became ready in
the same cycle, after those that did not yield (R407). `stepping` are a debugger's steps that are not over, in their
order (R119). -/
structure Group where
  gid : Nat
  slice : Nat
  team : Nat
  idx : Nat
  core : Nat
  base : Nat
  width : Nat
  active : Bool
  readyAt : Nat
  enteredAt : Nat
  issuedAt : Nat
  run : Option (List Nat)
  waits : List GWait
  held : Bool
  ableAt : Nat
  skipped : Nat
  done : List Nat
  mark : Option (Nat × Nat)
  yieldEnd : Bool
  yielded : Nat
  stopped : Bool
  stepping : List DbgStep
  deriving DecidableEq, Repr, Inhabited

/-- The state of a tile-table entry (R221). -/
inductive TState where
  | empty | filling | ready | draining
  deriving DecidableEq, Repr, Inhabited

/-- The kind of a tile (R218). -/
inductive TKind where
  | z | d | l
  deriving DecidableEq, Repr, Inhabited

/-- The location of a tile (R224). -/
inductive TLoc where
  | pool | acc | bonnet | global
  deriving DecidableEq, Repr, Inhabited

/-- A layout record as copied (R228). -/
structure LayoutRec where
  base : DWord
  ext : List Nat
  strides : List DWord
  fmt : Nat
  ndims : Nat
  codec : Nat
  flags : Nat
  scaleBase : DWord
  scaleShift : Nat
  tr : Nat
  tc : Nat
  deriving DecidableEq, Repr, Inhabited

/-- A matrix of raw element encodings, as a list of rows. -/
abbrev Mat := List (List Nat)

/-- A tile-table entry (R218, R220, R224, R238, R258). `slots` are the accumulator slots that it lies in (R418); `rows` holds the elements of a D tile, `u` and `v`
the factors of an L tile; `bind` is the copied record and coordinate word of a GLOBAL tile; `poison` lists the
poisoned elements (R382): 128·row + column of a D tile, 64·row + column of U, and 8192 more for V. -/
structure Tile where
  st : TState
  kind : TKind
  fmt : Nat
  rank : Nat
  m : Nat
  n : Nat
  loc : TLoc
  slots : List Nat
  rows : Mat
  u : Mat
  v : Mat
  bind : Option (LayoutRec × DWord)
  perm : List Nat
  poison : List Nat
  tolSet : Bool
  tau : Word
  kdense : Nat
  absMode : Bool
  denseOnCap : Bool
  deriving DecidableEq, Repr, Inhabited

/-- The state of a power phase (R263). -/
inductive PhaseSt where
  | pending | granted | deferred
  deriving DecidableEq, Repr, Inhabited

/-- A team's power phase (R262 to R264, R438): announcement time, onset, class, rows left, bands, state,
the time of its grant and of the last covered start, its cadence, and whether its rows are used up. -/
structure Phase where
  at_ : Nat
  onset : Nat
  cls : Nat
  rows : Nat
  length : Nat
  bands : BitVec 4
  st : PhaseSt
  grantAt : Nat
  lastStart : Nat
  icad : Nat
  spent : Bool
  deriving DecidableEq, Repr, Inhabited

/-- Where a team is (R364, R402 to R404). -/
inductive TeamAt where
  | resident | saving | out | held | queued
  deriving DecidableEq, Repr, Inhabited

/-- A team (R11, R12, R23, R25, R41, R205, R226). -/
structure Team where
  uid : Nat
  slice : Nat
  idx : Nat
  role : Nat
  cores : List Nat
  at_ : TeamAt
  scratch : Cells
  scratchPoison : List Nat
  tiles : List (Nat × Tile)
  cv : List (Nat × Nat × Nat)
  phase : Option Phase
  bases : List Nat
  deriving DecidableEq, Repr, Inhabited

/-! ### Slices -/

/-- A role descriptor of a launch block (R37). -/
structure RoleDesc where
  entry : Nat
  groups : Nat
  gwLog2 : Nat
  regBudget : Nat
  deriving DecidableEq, Repr, Inhabited

/-- A launch block's fields (R37). -/
structure Launch where
  version : Nat
  pair : Bool
  clusterShared : Bool
  groupsPerTeam : Nat
  roles : List RoleDesc
  scratchBytes : Nat
  poolPanels : Nat
  tileWindow : Nat
  queueDepth : List Nat
  priority : Nat
  pclass : BitVec 16
  deadline : Nat
  budget : Nat
  trapVector : Word
  handlerStack : Nat
  argPtr : DWord
  argLen : Word
  chipScratch : Nat
  spillBase : DWord
  spillBytes : Nat
  codeObject : DWord
  privateBytes : Nat
  callStackBytes : Nat
  deriving DecidableEq, Repr, Inhabited

/-- A push or a close waiting its turn at a role queue, with the group that issued it (R285, R287). -/
inductive QPut where
  | push (gid : Nat) (v : DWord)
  | close
  deriving DecidableEq, Repr, Inhabited

/-- A waiting pop (R286): its group, live threads, and destinations. -/
structure QTake where
  gid : Nat
  uids : List Nat
  d : Nat
  p : Nat
  deriving DecidableEq, Repr, Inhabited

/-- A role queue (R24, R284 to R287): depth, entries oldest first, the closed mark, whether a close has
issued, the pushes and pops that wait, in the order of their issue, and those of saved teams, abandoned until their
teams come back. -/
structure RoleQueue where
  depth : Nat
  entries : List DWord
  closed : Bool
  closing : Bool
  puts : List QPut
  takes : List QTake
  outPuts : List QPut
  outTakes : List QTake
  deriving DecidableEq, Repr, Inhabited

/-- A slice (R13, R30, R59, R265, R350, R351, R353, R354, R365, R366, R389 to R392). `budgetLeft` is the
remaining budget of the job, `allowance` the remaining allowance of R392 once the budget has reached 0,
`jobOpen` whether a job is in progress. `window` is the end of the open deferral window, `stopReq` a
pre-emption request with the window end that holds it; `forHead` says that it is suspended for the head of a queue
(R400), not for a contract's job alone (R402). `endMark` is the number of the next remote transaction when the
slice's last thread had ended (R330). While it waits for cores, `waitsAt` is the cluster whose ready queue it is in
(R397); a spanning gang whose turn it is has the dies in `turn`, and in `gang` the places held for it: role, cores and
base lanes (R399). -/
structure Slice where
  num : Nat
  launch : Launch
  codeBase : DWord
  codeLen : Nat
  codeId : Nat
  asid : Nat
  super : Bool
  placed : Bool
  resident : Bool
  suspended : Bool
  forHead : Bool
  held : Bool
  ended : Bool
  faulted : Bool
  exit : Option (Nat × Word)
  handle : Option DWord
  watch : Option Nat
  contract : Option Nat
  endMark : Option Nat
  waitsAt : Option Nat
  turn : List Nat
  gang : List (Nat × List Nat × List Nat)
  argBlock : Option Nat
  faults : Nat
  undecl : Nat
  defer : Nat
  double : Nat
  bmiss : Nat
  budgetLeft : Nat
  allowance : Option Nat
  jobOpen : Bool
  releaseAt : Nat
  deadlineAt : Option Nat
  deadlineMissed : Bool
  heldRelease : Option Nat
  window : Option Nat
  stopReq : Option (Nat × Nat)
  queues : List RoleQueue
  chip : Cells
  chipPoison : List Nat
  chipDie : Option Nat
  trctl : Word
  trbase : Word
  trbaseHi : Word
  trsize : Word
  trhead : Word
  trdrop : Word
  dbgHold : Bool
  dbgStop : Bool
  deriving DecidableEq, Repr, Inhabited

/-! ### Cores and tile operations -/

/-- The unit that performs a tile operation (R414, R419). -/
inductive TUnit where
  | tile | array | hem
  deriving DecidableEq, Repr, Inhabited

/-- A tile operation (R221, R227, R243 to R245, R261, R264): the team, the issuing thread and its PC, the
core and unit that perform it, the entry it writes, that entry's word before, the entries it only reads, the bytes it
stores at its completion as (address, mask, value), the compressible attribute of what it stores by address, the stores
it sends to other devices, whether it can set %tstat bits (R31) and the bits it sets, the fault due where it is awaited, the storage it still holds beside the new tile,
its rows, largest K and class, whether it is a burst, and its progress: whether the array has judged it
under R265, whether it runs, waits in the array for a grant or, once that has come, to run, or is undeclared, whether its
team's phase covers it, and the cadence that the grant it waited for gave it, 0 for none. `finished` stays only while a
fault is due. -/
structure TileOp where
  id : Nat
  team : Nat
  uid : Nat
  pc : Word
  core : Nat
  unit : TUnit
  td : Option Nat
  was : Word
  reads : List Nat
  stores : List (Nat × Byte × Byte)
  marks : List (Nat × Bool)
  rstores : List (Nat × Nat × Nat × RemoteOp)
  sets : Bool
  tbits : Word
  poison : Option FaultInfo
  hold : Nat × Nat × Nat
  slots : List Nat
  rowsM : Nat
  kMax : Nat
  cls : Nat
  burst : Bool
  judged : Bool
  started : Bool
  waitsGrant : Bool
  undeclared : Bool
  covered : Bool
  kg : Nat
  finished : Bool
  deriving DecidableEq, Repr, Inhabited

/-- A core (R5, R367, R378, R406, R413): its number, its die and cluster (0 to 19), its L1 and TLB, the
value its cycle counter had when the device's clock was 0, whether each array band is gated and when it
was last used, its array cadence, and the lines that its instruction cache holds with their bytes: code pages are never
written, so nothing keeps them up to date (R352, R367). -/
structure Core where
  num : Nat
  die : Nat
  cluster : Nat
  l1 : L1
  tlb : List TlbEntry
  cycBase : Nat
  gated : BitVec 4
  bandUsed : List Nat
  bandWake : List (Nat × Nat)
  icad : Nat
  icache : List (Nat × List Byte)
  deriving DecidableEq, Repr, Inhabited

/-! ### Engines, collectives, pockets -/

/-- An XFORM that waits for its engine to accept it (R291): the thread and its pending result, its slice
and team, the descriptor's VA and its BARRIER, the absent page it waits for, and an error code. -/
structure XSub where
  uid : Nat
  pend : Nat
  slice : Nat
  team : Nat
  desc : DWord
  barrier : Nat
  page : Option Nat
  status : Nat
  deriving DecidableEq, Repr, Inhabited

/-- An accepted transform (R289 to R296, R301): tag, the issuing slice and team, the copied descriptor
fields and records, the next destination element, the stream position, the time at which the header of its present
chunk was read (R296), its error code, the absent page it waits for, and whether OUT_BYTES has been written (R295). -/
structure Xform where
  tag : Nat
  slice : Nat
  team : Nat
  desc : DWord
  op : Nat
  sat : Bool
  src : LayoutRec
  dst : LayoutRec
  barrier : Nat
  index : DWord
  indexCount : Nat
  wdCycles : Nat
  streamBytes : Nat
  next : Nat
  streamPos : Nat
  chunkAt : Option Nat
  status : Nat
  page : Option Nat
  outDone : Bool
  deriving DecidableEq, Repr, Inhabited

/-- A collective open on this device (R302 to R307): the accepted descriptor, the team to report to, its
error code, the data it contributes once read, its new residuals and their GEN, the time of acceptance,
the absent page it waits for, and whether its results have been written. -/
structure Coll where
  tag : Nat
  slice : Nat
  team : Nat
  op : Nat
  redOp : Nat
  fmt : Nat
  narrow : Nat
  root : Nat
  members : DWord
  buf : DWord
  count : Nat
  barrier : Nat
  resid : DWord
  status : Nat
  mine : Option (List Nat)
  newResid : List Nat
  gen : Nat
  issuedAt : Nat
  page : Option Nat
  written : Bool
  deriving DecidableEq, Repr, Inhabited

/-- What another member sent for a collective (R303): its device, the tag, the fields that must agree, its
data, and the time of arrival. -/
structure CollMsg where
  src : Nat
  tag : Nat
  fields : List Nat
  data : List Nat
  at_ : Nat
  deriving DecidableEq, Repr, Inhabited

/-- An update of a barrier object that waits for its team to be resident (R307, R364). -/
structure EngineUpdate where
  team : Nat
  barrier : Nat
  status : Nat
  deriving DecidableEq, Repr, Inhabited

/-- One expert of a pocket set (R312 to R315): the counts own and stolen of each sender, the pool of
slots, whether it is sealed, and its bias. -/
structure Expert where
  own : List Nat
  stolen : List Nat
  pool : List Nat
  isSealed : Bool
  bias : Word
  deriving DecidableEq, Repr, Inhabited

/-- An open pocket set of a slice (R310, R312). -/
structure PocketSet where
  slice : Nat
  id : Nat
  senders : Nat
  reserve : Nat
  cap : Nat
  biasVa : DWord
  step : Word
  target : Nat
  countVa : DWord
  team0 : Nat
  experts : List Expert
  deriving DecidableEq, Repr, Inhabited

/-! ### Futures -/

/-- The state of a Cloakroom entry (R323, R324). A free slot has no entry. -/
inductive FState where
  | pending | full | broken | forwarded
  deriving DecidableEq, Repr, Inhabited

/-- What waits at a Cloakroom entry (R323): the threads of a device parked at FGET under a waiter tag, a
device's polling notice, or a host session with its request. -/
inductive Waiter where
  | device (dev tag : Nat)
  | notice (dev : Nat)
  | session (num reqId : Nat)
  deriving DecidableEq, Repr, Inhabited

/-- An invocation in flight or queued (R328, R332): its descriptor, launch block and argument bytes, its
own handle, the issuing device, the originator's address space, and whether the originator may use any
address space (R467). -/
structure Invocation where
  desc : List Byte
  launch : List Byte
  args : List Byte
  handle : DWord
  issuer : Nat
  asid : Nat
  anyAsid : Bool
  deriving DecidableEq, Repr, Inhabited

/-- The type of a Cloakroom message (R332). -/
inductive MsgKind where
  | invoke (inv : Invocation)
  | invh (inv : Invocation)
  | waiter (tag : Nat) (polling : Bool)
  | fput (value : List Byte)
  | fbreak (cause : Word) (depth : Nat)
  | frel
  | valueReply (tag : Nat) (value : List Byte)
  | brokenReply (tag : Nat) (cause : Word) (depth : Nat)
  | routeUpdate (location : Nat)
  | ack (accepted : Bool) (sub : Nat)
  deriving DecidableEq, Repr, Inhabited

/-- A Cloakroom message (R332): its header and its content. -/
structure CMsg where
  head : MsgHead
  kind : MsgKind
  deriving DecidableEq, Repr, Inhabited

/-- A Cloakroom entry (R323). `slot` is its place; `handle` the handle of its home entry; `home` says
that this is the home entry; `value` holds 32 bytes; `resLen`, `resVa` give a result buffer (R330); `held` are the
messages that a home entry keeps, in order, until its invocation is placed (R324, R329); `up` is the handle that an
invocation waits for that has not been placed (R335, R337). -/
structure Entry where
  slot : Nat
  handle : DWord
  isHome : Bool
  st : FState
  location : Option Nat
  value : List Byte
  waiters : List Waiter
  invhQ : List Invocation
  held : List CMsg
  cause : Word
  depth : Nat
  released : Bool
  resLen : Nat
  resVa : DWord
  slice : Option Nat
  up : Option DWord
  deriving DecidableEq, Repr, Inhabited

/-- What a handle gives a reader (R340): its value, its break, or a status. -/
inductive FRes where
  | full (value : List Byte)
  | broken (cause : Word) (depth : Nat)
  | status (n : Word)
  deriving DecidableEq, Repr, Inhabited

/-- A polling notice held on this device for a handle (R341): empty, or what was sent. -/
structure Notice where
  handle : DWord
  got : Option FRes
  deriving DecidableEq, Repr, Inhabited

/-- A thread waiting at FGET (R340): its waiter tag, its destinations, whether it traps, the thread as it issued the FGET,
where a trap is taken, and what the handle gave. -/
structure FGet where
  tag : Nat
  uid : Nat
  d : Nat
  p : Nat
  trap : Bool
  handle : DWord
  ctx : RunCtx
  got : Option FRes
  deriving DecidableEq, Repr, Inhabited

/-- What a message of this device awaits by its acknowledgement (R338, R342): the predicate of a pending
result of a thread of a slice, which may trap; an FGET that finds a stale handle; or a host's request and its
TYPE (R343). -/
inductive CWaitFor where
  | result (uid pend slice : Nat) (trap : Bool)
  | fget (tag : Nat)
  | host (session reqId type : Nat)
  deriving DecidableEq, Repr, Inhabited

/-- A message of this device not yet acknowledged (R333): its handle, its SEQ, what awaits it. -/
structure CWait where
  handle : DWord
  seq : Nat
  what : Option CWaitFor
  deriving DecidableEq, Repr, Inhabited

/-! ### Remote accesses -/

/-- A remote request (R380): sender, transaction, physical address, operation. -/
structure RemoteReq where
  src : Nat
  txn : Nat
  pa : Nat
  op : RemoteOp
  deriving DecidableEq, Repr, Inhabited

/-- A remote reply (R380): the transaction, the old bytes for a load or an atomic, and whether they were
poisoned or the home failed. -/
structure RemoteReply where
  txn : Nat
  bytes : List Byte
  poison : Bool
  failed : Bool
  deriving DecidableEq, Repr, Inhabited

/-- A remote request of this device awaiting its reply: the home, the thread and pending result to be
written (none for a store already accepted), the w or g destination, and the ACAS comparison. -/
structure RemoteWait where
  txn : Nat
  home : Nat
  uid : Nat
  pend : Nat
  isStore : Bool
  dests : List Dest
  cmp : Option DWord
  ea : DWord
  deriving DecidableEq, Repr, Inhabited

/-- A granule (of 32 bytes) of another device's memory that a unit of this device reads (R380): for a thread or an
engine, the home, the granule, the transaction, and the reply once it is in. -/
structure RemoteRead where
  owner : Nat
  home : Nat
  gran : Nat
  txn : Nat
  got : Option RemoteReply
  deriving DecidableEq, Repr, Inhabited

/-! ### System software's view -/

/-- A pending page-fault record (R355): its SEQ, address space, page, VA, slice, access kind, remote flag,
the threads parked, and whether it has been written to the ring. -/
structure PfRecord where
  seq : Nat
  asid : Nat
  va : DWord
  slice : Nat
  access : Nat
  remote : Bool
  uids : List Nat
  written : Bool
  deriving DecidableEq, Repr, Inhabited

/-- A counter watch (R356 to R359); `due` is the value with which it fires once its launch block has come from another device
or HBM is awake, and `gone` says that it is removed then. -/
structure Watch where
  id : Nat
  issuer : Nat
  asid : Nat
  counter : Nat
  falling : Bool
  oneshot : Bool
  slice : Nat
  threshold : Nat
  launch : DWord
  notice : DWord
  armed : Bool
  firings : Nat
  missed : Nat
  live : Option Nat
  nextAt : Nat
  due : Option Nat
  gone : Bool
  deriving DecidableEq, Repr, Inhabited

/-- A team saved by CTXSV or being saved or loaded by it (R361 to R364): the area's number,
address space and VA, the slice, the team or 0xFF, whether the save, then the load, is done, and when the stop that
it asks for begins, if it has not (R59); `need` is the NEED that its acceptance wrote. -/
structure CtxArea where
  id : Nat
  asid : Nat
  va : DWord
  slice : Nat
  team : Nat
  teams : List Nat
  saved : Bool
  loading : Bool
  stopAt : Option Nat
  need : Nat
  deriving DecidableEq, Repr, Inhabited

/-- An admitted code object (R352, R467): CODE_ID, base VA, length, address space, SHA-512 digest. -/
structure CodeObj where
  id : Nat
  base : DWord
  len : Nat
  asid : Nat
  digest : List Byte
  deriving DecidableEq, Repr, Inhabited

/-- A periodic contract (R393, R394, R396). -/
structure Contract where
  id : Nat
  period : Nat
  budget : Nat
  deadline : Nat
  first : Nat
  cores : Nat
  cluster : Nat
  slice : Nat
  admittedAt : Nat
  released : Nat
  deriving DecidableEq, Repr, Inhabited

/-- A Supol session (R429 to R435, R451): number, address space, management mode, whether the transport
security sublayer is required, and the security association agreed when it was opened. -/
structure Session where
  num : Nat
  asid : Nat
  mgmt : Bool
  secure : Bool
  assoc : Nat
  deriving DecidableEq, Repr, Inhabited

/-- An RMA_READ or RMA_WRITE of a session (R434, R435): whether it writes, its ORDERED flag, the VA, the
length, the bytes to be written or read so far, whether it has begun, its status, and the lines (with their
home dies) whose ownership it waits for. -/
structure Rma where
  id : Nat
  session : Nat
  reqId : Nat
  write : Bool
  ordered : Bool
  va : DWord
  len : Nat
  bytes : List Byte
  begun : Bool
  status : Nat
  lines : List (Nat × Nat)
  deriving DecidableEq, Repr, Inhabited

/-- A management operation (R451). WRITE_REG of every register is one operation. -/
inductive MgmtOp where
  | readReg (offset : Nat)
  | writeReg (offset : Nat) (v : DWord)
  | admitCode (base : DWord) (len asid : Nat)
  | retireCode (codeId : Nat)
  | openSession (asid : Nat) (mgmt secure : Bool)
  | closeSession (session : Nat)
  | quote (nonce : List Byte)
  | getCert
  | rasRead (code : Nat)
  | rasClear (code : Nat)
  | logRead (which : Nat)
  | debugStop (slice : Nat)
  | debugStepPath (slice gid : Nat) (key : PathKey)
  | debugStepAll (slice gid : Nat)
  | debugResume (slice : Nat)
  | withdraw (contract : Nat)
  | reset (kind cluster : Nat)
  | loadFw (image : List Byte)
  deriving DecidableEq, Repr, Inhabited

/-- A message of a requester, other than an RMA access (R430 to R433, R451). -/
inductive HostMsg where
  | invoke (session : SupolHead) (reqId : Nat) (desc launch args : List Byte)
  | invh (session : SupolHead) (reqId : Nat) (upstream : DWord) (desc launch args : List Byte)
  | notify (session : SupolHead) (reqId : Nat) (handle : DWord)
  | frel (session : SupolHead) (reqId : Nat) (handle : DWord)
  | contract (who : Requester) (desc launch : List Byte)
  | mgmt (who : Requester) (op : MgmtOp)
  deriving DecidableEq, Repr, Inhabited

/-- A Seam link (R421): up or down, the flits in its replay buffer. -/
structure Link where
  num : Nat
  up : Bool
  retries : Nat
  deriving DecidableEq, Repr, Inhabited

/-- An Ethernet port (R428): up or down, as how many ports its lanes run: 1, 2 or 4, and its MAC address. -/
structure Port where
  num : Nat
  up : Bool
  split : Nat
  mac : BitVec 48
  deriving DecidableEq, Repr, Inhabited

/-- The level of a device that has not reported yet: above every level. -/
def unreported : Nat := 2 ^ 64

/-- A member of the domain as this device sees it (R425): its id, when a flit of any class last came from
it, whether it is declared failed, and the INVQ_STARVE level it last reported with the classes it offers
(R388): `unreported` before its first report. -/
structure Member where
  dev : Nat
  heardAt : Nat
  failed : Bool
  level : Nat
  classes : BitVec 16
  deriving DecidableEq, Repr, Inhabited

/-- A message the device sends: over Seam to another device, or over Supol to a host. (DESIGN CHOICE, log 66) -/
inductive OutMsg where
  | seam (dev : Nat) (m : CMsg)
  | remote (dev : Nat) (r : RemoteReq)
  | remoteReply (dev : Nat) (r : RemoteReply)
  | coll (dev : Nat) (tag : Nat) (fields : List Nat) (data : List Nat)
  | level (dev : Nat) (lvl : Nat) (classes : BitVec 16)
  | liveness (dev : Nat)
  | failure (dev failed : Nat)
  | supol (session : Nat) (type : Nat) (reqId : Nat) (target : DWord) (status : Nat) (payload : List Byte)
  deriving DecidableEq, Repr, Inhabited

/-- The class in which a message over Seam travels (R422); Supol has none. -/
def OutMsg.klass : OutMsg → Nat
  | .remote .. => 0
  | .remoteReply .. => 1
  | .seam .. => 2
  | .coll .. => 3
  | .level .. | .liveness _ | .failure .. | .supol .. => 4

/-- Messages of one class on their way to one device (R423): the route that they took, and when the last of them is
delivered. (DESIGN CHOICE, log 83) -/
structure Flight where
  dev : Nat
  cls : Nat
  route : List Nat
  until_ : Nat
  deriving DecidableEq, Repr, Inhabited

/-- The device that a message over Seam is for; none over Supol. -/
def OutMsg.dest : OutMsg → Option Nat
  | .seam d _ | .remote d _ | .remoteReply d _ | .coll d .. | .level d .. | .liveness d | .failure d _ => some d
  | .supol .. => none

/-- An announced phase on its way to, or waiting at, the Apron (R438): the team, its arrival time, the
granted start once decided and its cadence. -/
structure Announce where
  team : Nat
  at_ : Nat
  demand : Nat
  level : Nat
  decided : Option (Nat × Nat)
  deriving DecidableEq, Repr, Inhabited

/-- A reservation of current (R436): the team of a phase or the operation of a burst, units, start. -/
structure Reservation where
  team : Option Nat
  op : Nat
  units : Nat
  demand : Nat
  start : Nat
  deriving DecidableEq, Repr, Inhabited

/-- A band rail of a cluster (R440): level, the level it steps toward and when the next step falls, and
when the last vote at its level went away. -/
structure Rail where
  cluster : Nat
  band : Nat
  level : Nat
  upAt : Option Nat
  holdUntil : Option Nat
  downAt : Option Nat
  deriving DecidableEq, Repr, Inhabited

/-- The thermal state (R437, R442 to R445): STATE of THERM_STAT, each die's hottest sensor in 1/16 °C and
KTHERM, the slices that the critical sequence saves, in the order of R397, and when KTHERM is next adjusted and the
sensors next read. -/
structure Thermal where
  state : Nat
  temp : List Nat
  ktherm : List Nat
  saved : List Nat
  adjustAt : Nat
  readAt : Nat
  deriving DecidableEq, Repr, Inhabited

/-- One event of the RAS log (R384). -/
structure RasEvent where
  code : Nat
  where_ : Nat
  addr : Nat
  time : Nat
  deriving DecidableEq, Repr, Inhabited

/-- One refusal of the front end's log (R386). -/
structure Refused where
  slice : Nat
  code : Nat
  time : Nat
  deriving DecidableEq, Repr, Inhabited

/-! ### The device -/

/-- The part's fuses (R2 to R6, R353, R447). -/
structure Part where
  partid : Word
  clmask0 : BitVec 20
  clmask1 : BitVec 20
  stackmask : BitVec 8
  ctxver : Word
  deriving DecidableEq, Repr, Inhabited

/-- Firmware and boot (R447, R448): whether the ROM has run, whether the part is in recovery, the images in the
slots, and the digest and version of the running firmware. -/
structure Boot where
  on : Bool
  recovery : Bool
  slotA : List Byte
  slotB : List Byte
  fwDigest : List Byte
  fwVersion : Nat
  deriving DecidableEq, Repr, Inhabited

/-- The memory of the device (R367 to R373): HBM, the bytes the L2s hold written back to HBM or not, the
line owners, each die's held writes, the poisoned granules, the stored sizes of compressed lines, the line that the
scrubber reads next with the time of its last read (R383), and the 8-byte units (PA / 8) that one access has stored
whole (R154). -/
structure Mem where
  hbm : Cells
  l2 : Cells
  owner : List (Nat × Nat)
  dies : List DieMem
  poison : List Nat
  comp : List (Nat × Nat)
  cmpLines : List Nat
  selfRefresh : Bool
  scrubLine : Nat
  scrubAt : Nat
  wide : List Nat
  deriving DecidableEq, Repr, Inhabited

/-- The Cloakroom and its messages (R322 to R343, R426): slot generations, entries, notices with the most
recently read first, the route cache, the last SEQ of each handle, the messages not yet acknowledged, the
threads at FGET, the messages of this device to itself still to be performed, the next waiter tag, and the
host requests that wait for a handle whose location is elsewhere: handle, session, request (R433); `admits` are
the host INVHs whose replies follow their admission here. -/
structure Cloak where
  gens : List (Nat × Nat)
  entries : List Entry
  notices : List Notice
  routes : List (DWord × Nat)
  seqs : List (DWord × Nat)
  waits : List CWait
  fgets : List FGet
  inbox : List CMsg
  nextTag : Nat
  hosts : List (DWord × Nat × Nat)
  admits : List (DWord × Nat × Nat)
  deriving DecidableEq, Repr, Inhabited

/-- The privileged page-fault registers and pending records (R353, R355). -/
structure PageFaults where
  base : Word
  baseHi : Word
  size : Word
  head : Nat
  done : Word
  recs : List PfRecord
  deriving DecidableEq, Repr, Inhabited

/-- The management registers (R437, R452). `oldApron` and `oldRail` are what APRON_CTL and RAIL_CTL held before
their last writes, at `apronAt` and `railAt`: a write acts from the next 256-cycle window. -/
structure MgmtRegs where
  astab : DWord
  chipSp : DWord
  chipSpNow : DWord
  ctxPool : DWord
  teamClasses : DWord
  domain : DWord
  members : DWord
  routeBase : DWord
  mbox : DWord
  apronCtl : Word
  oldApron : Word
  apronAt : Nat
  railCtl : Word
  oldRail : Word
  railAt : Nat
  invArgs : DWord
  invArgsVa : DWord
  deriving DecidableEq, Repr, Inhabited

/-- The Apron (R436, R438). -/
structure Apron where
  queue : List Announce
  reserved : List Reservation
  rails : List Rail
  thermal : Thermal
  deriving DecidableEq, Repr, Inhabited

/-- The fabric's state on this device (R380, R388, R421 to R425). `held` are remote requests that wait for
HBM to leave self-refresh (R443), `polls` remote polling loads held here, each until a time (R161), `reads` the
granules of other devices' memory that units of this one read, `ports` the Ethernet ports (R2, R428), `routes` the
routing table, each member with its routes as lists of links (R423), `unsent` the messages that wait here for a
route that is up or for what was sent over another, and `flights` what is on its way. (DESIGN CHOICE, log 83) -/
structure Fabric where
  links : List Link
  ports : List Port
  members : List Member
  remote : List RemoteWait
  held : List RemoteReq
  polls : List (RemoteReq × Nat)
  reads : List RemoteRead
  nextTxn : Nat
  livenessAt : Nat
  reportAt : Nat
  routes : List (Nat × List (List Nat))
  unsent : List OutMsg
  flights : List Flight
  deriving DecidableEq, Repr, Inhabited

/-- The whole device. `hostQ` are messages of sessions that wait for the RMA accesses sent before them, whose
numbers they carry, and for each other (R435). (DESIGN CHOICE, log 66) -/
structure State where
  now : Nat
  fresh : Nat
  nextUid : Nat
  nextSlice : Nat
  part : Part
  boot : Boot
  mem : Mem
  cores : List Core
  walkers : List WalkEntry
  threads : List Thread
  groups : List Group
  teams : List Team
  slices : List Slice
  cur : Option Nat
  ops : List TileOp
  nextOp : Nat
  xsubs : List XSub
  xforms : List Xform
  nextTag : Nat
  colls : List Coll
  collIn : List CollMsg
  updates : List EngineUpdate
  pockets : List PocketSet
  cloak : Cloak
  codes : List CodeObj
  contracts : List Contract
  nextContract : Nat
  sessions : List Session
  rma : List Rma
  nextRma : Nat
  hostQ : List (Nat × List Nat × HostMsg)
  pf : PageFaults
  watches : List Watch
  starved : Nat
  ctxAreas : List CtxArea
  refusals : List Refused
  waitingInv : List (Nat × List Byte)
  mgmt : MgmtRegs
  ras : List (Nat × Nat)
  rasLog : List RasEvent
  apron : Apron
  fabric : Fabric
  agenda : List (Nat × Instr)
  outbox : List OutMsg
  deriving DecidableEq, Repr, Inhabited

/-! ### Outcomes -/

/-- The reasons the machine stops with a fault. Every fault the specification gives is delivered to a
thread as a next state, so the model has one reason only, raised by no instruction. -/
inductive Fault where
  /-- Raised by no instruction: every fault of the specification is delivered (R107, R109). Safe. -/
  | stuck
  deriving DecidableEq, Repr, Inhabited

/-- The reasons a step has no meaning in the model. -/
inductive Refusal where
  /-- Raised by an arm of `exec` whose instruction has no meaning yet. Safe. -/
  | notModelled (mnemonic : String)
  deriving DecidableEq, Repr, Inhabited

/-! ### Reset -/

/-- A fault record of zeros (R40). -/
def FaultRec.zero : FaultRec := ⟨0, 0, 0, 0, 0⟩

/-- No hint pending and no coverage open. -/
def Hints.zero : Hints := ⟨none, none, none, none, 0⟩

/-- The four completion counters at 0 (R26). -/
def Counters.zero : Counters := ⟨0, 0, 0, 0⟩

/-- An empty L1. -/
def L1.empty : L1 := ⟨[], [], [], [], []⟩

/-- The full ZK-4160 (R2): the part's fuses. (DESIGN CHOICE, log 5) -/
def Part.full : Part :=
  { partid := 0x00004160, clmask0 := 0xFFFFF, clmask1 := 0xFFFFF, stackmask := 0xFF, ctxver := 1 }

/-- The positions of the set bits of a mask, ascending. -/
def bitsOf (n : Nat) (b : Nat → Bool) : List Nat := (List.range n).filter b

/-- The enabled clusters of the part, as die and cluster, in dense core order (R5): die 0's first, each die's in
ascending index, an order that the specification does not give. (DESIGN CHOICE, log 70) -/
def Part.clusters (p : Part) : List (Nat × Nat) :=
  (bitsOf 20 p.clmask0.getLsbD).map (fun c => (0, c)) ++
    (bitsOf 20 p.clmask1.getLsbD).map (fun c => (1, c))

/-- A core after reset. (DESIGN CHOICE, log 4) -/
def Core.reset (num die cluster : Nat) : Core :=
  { num := num, die := die, cluster := cluster, l1 := L1.empty, tlb := [], cycBase := 0,
    gated := 0xF, bandUsed := [0, 0, 0, 0], bandWake := [], icad := 1, icache := [] }

/-- The cores of a part, numbered densely (R5). -/
def Part.cores (p : Part) : List Core :=
  (p.clusters.flatMap fun c => [c, c, c, c]).zipIdx.map fun c => Core.reset c.2 c.1.1 c.1.2

/-- The rails of a part's clusters, all at level 0. -/
def Part.rails (p : Part) : List Rail :=
  p.clusters.flatMap fun c =>
    [0, 1, 2, 3].map fun b => ⟨20 * c.1 + c.2, b, 0, none, none, none⟩

/-- Device memory after a cold reset: nothing listed. (DESIGN CHOICE, log 1) -/
def Mem.empty : Mem :=
  { hbm := [], l2 := [], owner := [], dies := [DieMem.empty, DieMem.empty], poison := [], comp := [],
    cmpLines := [], selfRefresh := false, scrubLine := 0, scrubAt := 0, wide := [] }

/-- The management registers at their reset values (R437, R452). -/
def MgmtRegs.reset : MgmtRegs :=
  { astab := 0, chipSp := 0, chipSpNow := 0, ctxPool := 0, teamClasses := 0, domain := 0,
    members := 0, routeBase := 0, mbox := 0, apronCtl := 0x00402800, oldApron := 0x00402800,
    apronAt := 0, railCtl := 0x00020032, oldRail := 0x00020032, railAt := 0,
    invArgs := 0, invArgsVa := 0 }

/-- The device after a cold reset (R446), for the part given: nothing resident, no code admitted, no
session, no program. (DESIGN CHOICE, log 63) -/
def State.cold (p : Part) (b : Boot) : State :=
  { now := 0, fresh := 0, nextUid := 0, nextSlice := 0, part := p, boot := b, mem := Mem.empty,
    cores := p.cores, walkers := [], threads := [], groups := [], teams := [], slices := [], cur := none, ops := [],
    nextOp := 1, xsubs := [], xforms := [], nextTag := 1, colls := [], collIn := [], updates := [], pockets := [],
    cloak := ⟨[], [], [], [], [], [], [], [], 1, [], []⟩, codes := [], contracts := [], nextContract := 1,
    sessions := [], rma := [], nextRma := 1, hostQ := [], pf := ⟨0, 0, 0, 0, 0, []⟩, watches := [], starved := 0, ctxAreas := [],
    refusals := [], waitingInv := [], mgmt := MgmtRegs.reset, ras := [], rasLog := [],
    apron := ⟨[], [], p.rails, ⟨0, [0, 0], [1, 1], [], 4096, 256⟩⟩,
    fabric :=
      { links := (List.range 24).map (fun n => ⟨n, true, 0⟩), ports := (List.range 8).map (fun n => ⟨n, true, 1, 0⟩),
        members := [], remote := [], held := [], polls := [], reads := [], nextTxn := 1, livenessAt := 65536,
        reportAt := 65536, routes := [], unsent := [], flights := [] },
    agenda := [], outbox := [] }

/-- The boot state right after a cold reset: the ROM has not yet run (R447). -/
def Boot.cold : Boot :=
  { on := false, recovery := false, slotA := [], slotB := [], fwDigest := [], fwVersion := 0 }

/-- The machine right after a cold reset of a full ZK-4160 (R446). (DESIGN CHOICE, log 5) -/
def State.reset : State := State.cold Part.full Boot.cold

end Sys2Proof.Machine
end

