-- ==== Sys2Proof/Machine/Ops.lean ====
section
/-! DEFINITION. The named operations over registers and the lists of the state: byte maps, register
files, threads, groups, teams, slices and cores by number. -/

namespace Sys2Proof.Machine

/-! ### Byte maps -/

/-- The byte listed at an address. -/
def Cells.get? : Cells → Nat → Option Byte
  | [], _ => none
  | c :: r, a => if c.1 = a then some c.2 else Cells.get? r a

/-- List a byte at an address, keeping the addresses rising. -/
def Cells.put : Cells → Nat → Byte → Cells
  | [], a, v => [(a, v)]
  | c :: r, a, v =>
    if a < c.1 then (a, v) :: c :: r
    else if a = c.1 then (a, v) :: r
    else c :: Cells.put r a v

/-- Drop the bytes of a range. (DEDUCED, log 37) -/
def Cells.cut (m : Cells) (lo n : Nat) : Cells := m.filter fun c => !(lo ≤ c.1 && c.1 < lo + n)

/-- The bytes listed in a range. -/
def Cells.slice (m : Cells) (lo n : Nat) : Cells := m.filter fun c => lo ≤ c.1 && c.1 < lo + n

/-- List several bytes. -/
def Cells.putAll (m : Cells) (l : List (Nat × Byte)) : Cells :=
  l.foldl (fun m c => m.put c.1 c.2) m

/-- A byte of device memory. (DESIGN CHOICE, log 1) -/
def Memory.get (m : Cells) (a : Nat) : Byte := (m.get? a).getD unlisted

/-- Write a byte of device memory, keeping its canonical form. (DESIGN CHOICE, log 1) -/
def Memory.put (m : Cells) (a : Nat) (v : Byte) : Cells :=
  if v = unlisted then m.cut a 1 else m.put a v

/-- The bytes of an address and those after it, as (address, byte) pairs. -/
def numbered (a : Nat) (l : List Byte) : List (Nat × Byte) := l.zipIdx.map fun c => (a + c.2, c.1)

/-- The number that little-endian bytes stand for (R37, R43). -/
def leNat : List Byte → Nat
  | [] => 0
  | b :: r => b.toNat + 256 * leNat r

/-- The little-endian bytes of a number (R37, R43). -/
def leBytes : Nat → Nat → List Byte
  | 0, _ => []
  | n + 1, v => BitVec.ofNat 8 v :: leBytes n (v / 256)

/-- `n` bytes from an offset of a byte string, as a little-endian number. -/
def fieldAt (l : List Byte) (off n : Nat) : Nat := leNat ((l.drop off).take n)

/-- Insert an element before the first one it may stand before. -/
def insertBy {α : Type} (le : α → α → Bool) (a : α) : List α → List α
  | [] => [a]
  | b :: r => if le a b then a :: b :: r else b :: insertBy le a r

/-- A stable sort. -/
def sortBy {α : Type} (le : α → α → Bool) (l : List α) : List α := l.foldr (insertBy le) []

/-- Whether a time that may be set has come. -/
def dueAt (t : Option Nat) (now : Nat) : Bool := match t with
  | none => false
  | some x => x ≤ now

/-! ### Lists of the state by number -/

/-- A thread by its uid. -/
def State.thread (s : State) (u : Nat) : Thread := (s.threads.find? (·.uid == u)).getD default

/-- Change one thread. -/
def State.setThread (s : State) (u : Nat) (f : Thread → Thread) : State :=
  { s with threads := s.threads.map fun t => if t.uid = u then f t else t }

/-- Change several threads. -/
def State.setThreads (s : State) (us : List Nat) (f : Thread → Thread) : State :=
  { s with threads := s.threads.map fun t => if us.contains t.uid then f t else t }

/-- A group by its gid. -/
def State.group (s : State) (g : Nat) : Group := (s.groups.find? (·.gid == g)).getD default

/-- Change one group. -/
def State.setGroup (s : State) (g : Nat) (f : Group → Group) : State :=
  { s with groups := s.groups.map fun x => if x.gid = g then f x else x }

/-- A team by its uid. -/
def State.team (s : State) (u : Nat) : Team := (s.teams.find? (·.uid == u)).getD default

/-- Change one team. -/
def State.setTeam (s : State) (u : Nat) (f : Team → Team) : State :=
  { s with teams := s.teams.map fun x => if x.uid = u then f x else x }

/-- A slice's record by its number (R351). -/
def State.slice? (s : State) (n : Nat) : Option Slice := s.slices.find? (·.num == n)

/-- A slice by its number. -/
def State.slice (s : State) (n : Nat) : Slice := (s.slice? n).getD default

/-- Change one slice. -/
def State.setSlice (s : State) (n : Nat) (f : Slice → Slice) : State :=
  { s with slices := s.slices.map fun x => if x.num = n then f x else x }

/-- A core by its number. -/
def State.core (s : State) (n : Nat) : Core := (s.cores.find? (·.num == n)).getD default

/-- Change one core. -/
def State.setCore (s : State) (n : Nat) (f : Core → Core) : State :=
  { s with cores := s.cores.map fun x => if x.num = n then f x else x }

/-- Draw the number of a fresh free value. (DESIGN CHOICE, log 3) -/
def State.tick (s : State) : State := { s with fresh := s.fresh + 1 }

/-- Whether a link of Seam is up (R421). -/
def Fabric.linkUp (f : Fabric) (n : Nat) : Bool := f.links.any fun x => x.num == n && x.up

/-- The routes of the routing table to a device: up to four (R423). -/
def Fabric.routesTo (f : Fabric) (d : Nat) : List (List Nat) :=
  (((f.routes.find? (·.1 == d)).map (·.2)).getD []).take 4

/-- The route that traffic to a device uses: the first whose links are all up (R423). -/
def Fabric.route? (f : Fabric) (d : Nat) : Option (List Nat) := (f.routesTo d).find? fun r => r.all f.linkUp

/-- Whether a message is of the class and for the device of another. -/
def OutMsg.pairs (a b : OutMsg) : Bool := a.dest == b.dest && a.klass == b.klass

/-- Whether a message waits at its sender: no route to its receiver is up, one of its class and pair waits there already,
or one that took another route has not been delivered (R421, R423). -/
def Fabric.stuck (f : Fabric) (now : Nat) (m : OutMsg) : Bool :=
  m.dest.any fun d =>
    match f.route? d with
    | none => true
    | some r => f.unsent.any m.pairs ||
        f.flights.any fun x => x.dev == d && x.cls == m.klass && x.route != r && decide (now < x.until_)

/-- What is on its way once a message has left, the `n`th of the device: how long it takes is a free value.
(DESIGN CHOICE, log 83) -/
def Fabric.flown (f : Fabric) (now n : Nat) (m : OutMsg) : List Flight :=
  match m.dest with
  | none => f.flights
  | some d =>
    let old := f.flights.find? fun x => x.dev == d && x.cls == m.klass
    ⟨d, m.klass, (f.route? d).getD [], max (now + Config.flight n) ((old.map (·.until_)).getD 0)⟩ ::
      f.flights.filter fun x => !(x.dev == d && x.cls == m.klass)

/-- The fabric once a message has left, the `n`th of the device, or waits. -/
def Fabric.sent (f : Fabric) (now n : Nat) (m : OutMsg) : Fabric :=
  if f.stuck now m then { f with unsent := f.unsent ++ [m] } else { f with flights := f.flown now n m }

/-- Send a message out of the device, or keep it where it waits. (DEDUCED, log 65) -/
def State.send (s : State) (m : OutMsg) : State :=
  { s with
    outbox := if s.fabric.stuck s.now m then s.outbox else s.outbox ++ [m]
    fabric := s.fabric.sent s.now s.outbox.length m }

/-- Messages that have waited leave, in the order they were sent, as far as they need wait no longer (R422, R423). -/
def State.sendWaiting (s : State) : State :=
  if s.fabric.unsent.isEmpty then s
  else s.fabric.unsent.foldl State.send { s with fabric := { s.fabric with unsent := [] } }

/-- This device's id in the domain (R353, R452). -/
def State.devid (s : State) : Nat := s.mgmt.domain.toNat % 64

/-- The enabled cores of the part (R4). -/
def State.ncores (s : State) : Nat := s.cores.length

/-- The enabled HBM stacks (R4). -/
def State.nstacks (s : State) : Nat := (bitsOf 8 s.part.stackmask.getLsbD).length

/-- Whether a thread has not ended. -/
def Thread.live (t : Thread) : Bool := t.ended == none

/-- The threads of a group that have not ended. -/
def State.groupThreads (s : State) (g : Nat) : List Thread :=
  s.threads.filter fun t => t.gid == g && t.live

/-- The threads of a team that have not ended. -/
def State.teamThreads (s : State) (u : Nat) : List Thread :=
  s.threads.filter fun t => t.team == u && t.live

/-- The threads of a slice that have not ended. -/
def State.sliceThreads (s : State) (n : Nat) : List Thread :=
  s.threads.filter fun t => t.slice == n && t.live

/-- A thread's position in its group: %lane mod W (R10). -/
def State.position (s : State) (t : Thread) : Nat := t.lane % (s.group t.gid).width

/-! ### Registers -/

/-- The value listed for a register; one not listed reads 0 (R18). -/
def regGet (l : List (Nat × Word)) (n : Nat) : Word :=
  match l with
  | [] => 0
  | c :: r => if c.1 = n then c.2 else regGet r n

/-- List a value for a register, keeping the numbers rising. -/
def regPut : List (Nat × Word) → Nat → Word → List (Nat × Word)
  | [], n, v => [(n, v)]
  | c :: r, n, v =>
    if n < c.1 then (n, v) :: c :: r
    else if n = c.1 then (n, v) :: r
    else c :: regPut r n v

/-- A later write to a register takes it from the results still in flight (R49). -/
def dropDests (ds : List Dest) (l : List Pending) : List Pending :=
  l.map fun p => { p with dests := p.dests.filter fun d => !ds.contains d.1 }

/-- The general register or k register of a g field: g0 reads 0, one not live reads 0 (R14, R18).
(DESIGN CHOICE, log 63) -/
def Thread.g (t : Thread) (n : Nat) : Word := if n = 0 then 0 else regGet t.regs n

/-- Put a value into a register: g0 discards it; the register becomes live and loses its poison (R14,
R18, R117). -/
def Thread.putG (t : Thread) (n : Nat) (v : Word) : Thread :=
  if n = 0 then t
  else { t with regs := regPut t.regs n v, poison := t.poison.filter (· != n) }

/-- The write of a fixed-latency instruction to a register (R46, R49). -/
def Thread.setG (t : Thread) (n : Nat) (v : Word) : Thread :=
  { t.putG n v with pend := dropDests [.reg n] t.pend }

/-- The 64-bit view wn: g(2n+1) above g(2n) (R15). -/
def Thread.w (t : Thread) (n : Nat) : DWord := t.g (2 * n + 1) ++ t.g (2 * n)

/-- The low half of a 64-bit value. -/
def loWord (v : DWord) : Word := v.setWidth 32

/-- The high half of a 64-bit value. -/
def hiWord (v : DWord) : Word := (v >>> 32).setWidth 32

/-- The write of a fixed-latency instruction to wn; w0 writes only g1 (R15). -/
def Thread.setW (t : Thread) (n : Nat) (v : DWord) : Thread :=
  (t.setG (2 * n) (loWord v)).setG (2 * n + 1) (hiWord v)

/-- The predicate pn; p0 reads true (R16). -/
def Thread.p (t : Thread) (n : Nat) : Bool := n == 0 || t.preds.getLsbD n

/-- Predicate bits with bit `n` set to `b`. -/
def predPut (ps : BitVec 48) (n : Nat) (b : Bool) : BitVec 48 :=
  if b then ps ||| BitVec.ofNat 48 (2 ^ n) else ps &&& ~~~(BitVec.ofNat 48 (2 ^ n))

/-- Put a value into a predicate: p0 discards it; the predicate loses its poison (R16, R117). -/
def Thread.putP (t : Thread) (n : Nat) (b : Bool) : Thread :=
  if n = 0 then t
  else { t with preds := predPut t.preds n b, poison := t.poison.filter (· != 0x80 + n) }

/-- The write of a fixed-latency instruction to a predicate (R49, R89). -/
def Thread.setP (t : Thread) (n : Nat) (b : Bool) : Thread :=
  { t.putP n b with pend := dropDests [.pred n] t.pend }

/-- Write one destination of a result that returns. -/
def Thread.land (t : Thread) (d : Dest × Word) : Thread :=
  match d.1 with
  | .reg n => t.putG n d.2
  | .pred n => t.putP n (d.2 != 0)

/-- A register stops being live (R18), and its poison goes (R117); k registers and g0 ignore it (R56). -/
def Thread.release (t : Thread) (n : Nat) : Thread :=
  if n = 0 || 120 ≤ n then t
  else { t with regs := t.regs.filter (·.1 != n), poison := t.poison.filter (· != n) }

/-- The k registers read 0 at the start of a run (R17). -/
def clearK (l : List (Nat × Word)) : List (Nat × Word) := l.filter (·.1 < 120)

/-- The destinations of a 64-bit result in wn; g0 is no destination (R15). -/
def wDests (n : Nat) (v : DWord) : List (Dest × Word) :=
  (if n = 0 then [] else [(.reg (2 * n), loWord v)]) ++ [(.reg (2 * n + 1), hiWord v)]

/-- The destination of a 32-bit result; g0 discards it (R14). -/
def gDests (n : Nat) (v : Word) : List (Dest × Word) := if n = 0 then [] else [(.reg n, v)]

/-- The destination of a predicate result; p0 discards it (R16). -/
def pDests (n : Nat) (b : Bool) : List (Dest × Word) :=
  if n = 0 then [] else [(.pred n, if b then 1 else 0)]

/-! ### Faults as instructions raise them -/

/-- A fault with its code, subcode and address (R105). -/
def flt (code sub : Nat) (addr : DWord := 0) : FaultInfo := ⟨code, sub, addr, none⟩

/-- An Illegal Instruction fault (R65). -/
def ill (x : Ill) : FaultInfo := flt 0x01 x.code

/-- A Privilege fault (R104). -/
def privFault : FaultInfo := flt 0x02 0

/-- An Access fault (R106). -/
def accessFault (sub : Nat) (addr : DWord) : FaultInfo := flt 0x05 sub addr

/-- A Tile Kind fault (R231), with the handle concerned. -/
def tileFault (sub handle : Nat) : FaultInfo := ⟨0x08, sub, 0, some handle⟩

/-- The %finfo of a fault (R31). -/
def FaultInfo.finfo (f : FaultInfo) : Word :=
  BitVec.ofNat 32 (f.sub % 256 * 256 + (match f.tile with | some h => 128 + h % 128 | none => 0))

end Sys2Proof.Machine
end

