-- ==== Sys2Proof/Machine/Mem.lean ====
section
/-! DEFINITION. Memory: the L1s, the two L2s and HBM as one coherent memory with what each core and die
still hides (R150, R181, R182, R368, R371), page walks and TLBs (R374 to R378), the address windows
(R33) and the checks of an access (R148). -/

namespace Sys2Proof.Machine

/-! ### The L2s and HBM -/

/-- A byte as the coherent memory has it: the L2s' byte, or HBM's (R371). -/
def Mem.coherent (m : Mem) (a : Nat) : Byte :=
  match m.l2.get? a with
  | some b => b
  | none => Memory.get m.hbm a

/-- A die's side of the coherence protocol. -/
def Mem.die (m : Mem) (d : Nat) : DieMem := m.dies.getD d default

/-- Change what a die holds. -/
def Mem.setDie (m : Mem) (d : Nat) (f : DieMem → DieMem) : Mem :=
  { m with dies := m.dies.zipIdx.map fun x => if x.2 = d then f x.1 else x.1 }

/-- A byte once a held write has entered it: of a 4-bit element its nibble alone (R234). -/
def HeldWrite.over (h : HeldWrite) (b : Byte) : Byte := if h.mask = 0xFF then h.val else (b &&& ~~~h.mask) ||| (h.val &&& h.mask)

/-- A byte as a die's L2 reads it: the writes it holds over the coherent byte (R371). (DESIGN CHOICE, log 68) -/
def Mem.atDie (m : Mem) (d a : Nat) : Byte :=
  ((m.die d).held.filter (·.addr == a)).foldl (fun b h => h.over b) (m.coherent a)

/-- `n` bytes as a die's L2 reads them. -/
def Mem.readDie (m : Mem) (d a n : Nat) : List Byte := (List.range n).map fun i => m.atDie d (a + i)

/-- The line of a physical address. -/
def lineOf (a : Nat) : Nat := a / 128

/-- Whether a die owns a line (R371). -/
def Mem.owns (m : Mem) (d line : Nat) : Bool := (m.owner.find? (·.1 == line)).map (·.2) == some d

/-- The device memory that R372 leaves: 48 GiB a stack less the metadata array. -/
def State.memLimit (s : State) : Nat :=
  s.nstacks * (48 * 2 ^ 30) - (if s.nstacks = 8 then 768 * 2 ^ 20 else 672 * 2 ^ 20)

/-- The bits of the granules (of 32 bytes) that are written, with those of one more byte. -/
def addBits (c : Nat × Byte) : List (Nat × Nat) → List (Nat × Nat)
  | [] => [(c.1 / 32, c.2.toNat <<< (8 * (c.1 % 32)))]
  | x :: r => if x.1 = c.1 / 32 then (x.1, x.2 ||| c.2.toNat <<< (8 * (c.1 % 32))) :: r else x :: addBits c r

/-- The granules that some written bytes, each with the bits written, cover wholly (R159, R381). -/
def wholeMasked (l : List (Nat × Byte)) : List Nat :=
  ((l.foldl (fun m c => addBits c m) []).filter fun x => x.2 == 2 ^ 256 - 1).map (·.1)

/-- The granules that some written bytes cover wholly. -/
def wholeGranules (bs : List (Nat × Byte)) : List Nat := wholeMasked (bs.map fun c => (c.1, 0xFF))

/-- End a poll's hold when a test of its place and scope says so. -/
def RKind.wake (k : RKind) (hit : Place → Nat → Bool) : RKind :=
  match k with
  | .poll p sc x ea => .poll p sc (if hit p sc then 0 else x) ea
  | k => k

/-- End the holds of LDPOLLs that a predicate picks: their results reload at once (R161). -/
def State.wakePolls (s : State) (hit : Thread → Place → Nat → Bool) : State :=
  { s with threads := s.threads.map fun t =>
      { t with pend := t.pend.map fun p => { p with kind := p.kind.wake (hit t) } } }

/-- Whether a polled place is in a line of device memory. -/
def Place.inLine (p : Place) (line : Nat) : Bool :=
  match p with
  | .phys pa => lineOf pa == line
  | _ => false

/-- End the holds of other devices' LDPOLLs here on the lines that a test picks: at domain and system scope the line
has been written at its home or has left it (R161). -/
def State.wakeHome (s : State) (hit : Nat → Bool) : State :=
  let ps := s.fabric.polls.map fun x => (x.1, if hit (lineOf x.1.pa) then 0 else x.2)
  { s with fabric := { s.fabric with polls := ps } }

/-- What a core's L1 shows once its die's L2 gives new bytes for some addresses: a line that is present goes on showing
the older byte wherever the core has not written it itself (R181). -/
def L1.keepStale (l : L1) (old new : Nat → Byte) (ads : List Nat) : L1 :=
  { l with stale := ads.foldl (fun st a =>
      if l.lines.any (·.line == lineOf a) && (l.dirty.get? a).isNone && (st.get? a).isNone && old a != new a then
        st.put a (old a)
      else st) l.stale }

/-- After a change of the memory at some addresses, every core that holds their lines goes on showing what its die's L2
gave before (R181), but the core `but`, whose own write it is. (DESIGN CHOICE, log 68) -/
def State.keepViews (s : State) (old : Mem) (but : Option Nat) (ads : List Nat) : State :=
  { s with cores := s.cores.map fun c =>
      if some c.num = but then c
      else { c with l1 := c.l1.keepStale (old.atDie c.die) (s.mem.atDie c.die) ads } }

/-- Bytes enter the coherence order at the L2s (R371). -/
def State.coherentStore (s : State) (bs : List (Nat × Byte)) (but : Option Nat) : State :=
  ({ s with mem := { s.mem with l2 := s.mem.l2.putAll bs } }).keepViews s.mem but (bs.map fun (b : Nat × Byte) => b.1)

/-- Grant a line's ownership to a die: the other die's copy is taken, held writes enter the line in order, and polls of
the other die on the line end, as do those whose point is the line's home (R161, R371). What the die's own threads read
does not change: they read the held writes already. -/
def State.grantLine (s : State) (d line : Nat) : State :=
  let dm := s.mem.die d
  let mine := dm.held.filter fun h => lineOf h.addr == line
  let s1 := ({ s with mem := { s.mem.setDie d (fun x => { x with
      held := x.held.filter (fun h => lineOf h.addr != line)
      requests := x.requests.filter (fun r => r.1 != line)
      clears := x.clears.filter (fun g => g / 4 != line)
      spoils := x.spoils.filter (fun g => g / 4 != line) }) with
    l2 := s.mem.l2.putAll (((mine.map HeldWrite.addr).dedup).map fun a => (a, s.mem.atDie d a))
    poison := ((s.mem.poison.filter fun g => g / 4 != line || !dm.clears.contains g) ++
      dm.spoils.filter fun g => g / 4 == line).dedup
    owner := (line, d) :: s.mem.owner.filter (·.1 != line) } }).keepViews s.mem none (mine.map fun (h : HeldWrite) => h.addr)
  (s1.wakePolls fun t p sc =>
    (decide (8 ≤ sc) || (decide (5 ≤ sc) && (s1.core t.core).die != d)) && p.inLine line).wakeHome (· == line)

/-- Whether a granule is poisoned as a die reads it: a write that it holds carries poison, or the granule is poisoned
and no held write of all its bytes is that die's. -/
def Mem.poisonFor (m : Mem) (d g : Nat) : Bool :=
  (m.die d).spoils.contains g || (m.poison.contains g && !(m.die d).clears.contains g)

/-- Whether the L2 of a die shows poison in a range (R159). -/
def Mem.poisonDie (m : Mem) (d a n : Nat) : Bool := (List.range n).any fun i => m.poisonFor d ((a + i) / 32)

/-- Whether a die holds writes of a line until it is granted ownership. -/
def Mem.waits (m : Mem) (d line : Nat) : Bool := (m.die d).requests.any (·.1 == line)

/-- Writes of all the bytes of granules have reached a die's L2: their poison goes, at once where the die owns the line,
else with the held write (R371, R381). -/
def Mem.clearPoison (m : Mem) (d : Nat) (gs : List Nat) : Mem :=
  let late := gs.filter fun g => m.waits d (g / 4)
  { m.setDie d fun x => { x with
      clears := (x.clears ++ late).dedup
      spoils := x.spoils.filter fun g => !late.contains g } with
    poison := m.poison.filter fun g => !gs.contains g || late.contains g }

/-- Writes that carry the poison of granules have reached a die's L2 (R371, R381). -/
def Mem.spoil (m : Mem) (d : Nat) (gs : List Nat) : Mem :=
  let late := gs.filter fun g => m.waits d (g / 4)
  { m.setDie d fun x => { x with
      spoils := (x.spoils ++ late).dedup
      clears := x.clears.filter fun g => !late.contains g } with
    poison := (m.poison ++ gs.filter fun g => !late.contains g).dedup }

/-- One byte of a write reaches a die's L2: it enters coherence order when the die owns the line, else it is held with a
request for ownership (R371). -/
def State.l2Byte (s : State) (d : Nat) (but : Option Nat) (h : HeldWrite) : State :=
  let line := lineOf h.addr
  if s.mem.owns d line then s.coherentStore [(h.addr, h.over (s.mem.coherent h.addr))] but
  else
    ({ s with mem := s.mem.setDie d fun x => { x with
        held := x.held ++ [h]
        requests := if x.requests.any (·.1 == line) then x.requests else x.requests ++ [(line, s.now)] } }).keepViews
      s.mem but [h.addr]

/-- A write reaches a die's L2 (R371). Polls of the die on the line end, and those at the line's home once the write is
performed (R161). A granule that the bytes cover wholly loses its poison (R159, R381). -/
def State.l2Put (s : State) (d : Nat) (hs : List HeldWrite) (but : Option Nat) : State :=
  let s1 := hs.foldl (fun s h => s.l2Byte d but h) s
  let gs := wholeMasked (hs.map fun h => (h.addr, h.mask))
  let s2 := if gs.isEmpty then s1 else { s1 with mem := s1.mem.clearPoison d gs }
  let lines := (hs.map fun h => lineOf h.addr).dedup
  let done := lines.filter (s.mem.owns d)
  (s2.wakePolls fun t p sc =>
    if 8 ≤ sc then done.any p.inLine
    else decide (5 ≤ sc) && (s2.core t.core).die == d && lines.any p.inLine).wakeHome done.contains

/-- Whole bytes reach a die's L2 (R371). -/
def State.l2Store (s : State) (d : Nat) (bs : List (Nat × Byte)) (but : Option Nat) : State :=
  s.l2Put d (bs.map fun b => ⟨b.1, 0xFF, b.2⟩) but

/-- Bytes with the bits that are written reach a die's L2 (R234, R371). -/
def State.l2Masked (s : State) (d : Nat) (l : List (Nat × Byte × Byte)) (but : Option Nat) : State :=
  s.l2Put d (l.map fun c => ⟨c.1, c.2.1, c.2.2⟩) but

/-- Grant a die every line it waits for: what a release at device scope waits for (R171). -/
def State.grantAll (s : State) (d : Nat) : State :=
  ((s.mem.die d).requests.map (·.1)).foldl (fun s l => s.grantLine d l) s

/-- A write performed in coherence order at once, under ownership of the die (R167, R434). -/
def State.ownedStore (s : State) (d : Nat) (bs : List (Nat × Byte)) (but : Option Nat) : State :=
  let lines := (bs.map fun b => lineOf b.1).dedup
  (lines.foldl (fun s l => if s.mem.owns d l then s else s.grantLine d l) s).l2Store d bs but

/-! ### The L1 of a core -/

/-- A byte as a core's L1 shows it: its own dirty byte, the older byte of a present line, else the L2's
(R150, R181). -/
def State.l1Byte (s : State) (c : Core) (a : Nat) : Byte :=
  match c.l1.dirty.get? a with
  | some b => b
  | none =>
    match c.l1.stale.get? a with
    | some b => b
    | none => s.mem.atDie c.die a

/-- Write a line's dirty bytes back to the die's L2; the line leaves the FIFO and carries its poison
(R368, R381): granules that the bytes cover wholly lose theirs, and those struck in the L1 and not wholly written since
become poisoned. (DEDUCED, log 59) -/
def State.writeBack (s : State) (core line : Nat) : State :=
  let c := s.core core
  let bs := c.l1.dirty.slice (line * 128) 128
  let bad := (c.l1.poison.filter fun g => g.1 / 4 == line).map (·.1)
  let s1 := s.setCore core fun c => { c with l1 := { c.l1 with
    dirty := c.l1.dirty.cut (line * 128) 128
    fifo := c.l1.fifo.filter (·.1 != line)
    poison := c.l1.poison.filter fun g => g.1 / 4 != line } }
  let s2 := if bs.isEmpty then s1 else s1.l2Store c.die bs (some core)
  if bad.isEmpty then s2 else { s2 with mem := s2.mem.spoil c.die bad }

/-- The parts of a range that a load sees old or new as one: an 8-byte unit that an access has stored whole, else a
word (R154). (DESIGN CHOICE, log 68) -/
def State.viewParts (s : State) (a n : Nat) : List (Nat × Nat) :=
  ((List.range ((a + n + 3) / 4 - a / 4)).map fun k =>
    let w := a / 4 + k
    if s.mem.wide.contains (w / 2) then (8 * (w / 2), 8) else (4 * w, 4)).dedup

/-- The bytes of a line that a core writes back of its own accord: any parts of those that it has written, but none of a
granule that an error has struck (R180, R217, R368). (DESIGN CHOICE, log 68) -/
def State.partBack (s : State) (core line : Nat) : Cells :=
  let c := s.core core
  (((s.viewParts (line * 128) 128).filter fun u => Config.goesBack s.fresh u.1).flatMap fun u =>
    c.l1.dirty.slice u.1 u.2).filter fun b => !c.l1.poison.any (·.1 == b.1 / 32)

/-- A line is written back of its core's own accord: all of it, when it leaves the FIFO, or some of the stores that have
written it (R217, R368). (DESIGN CHOICE, log 68) -/
def State.writeSome (s : State) (core line : Nat) : State :=
  let c := s.core core
  let bs := s.partBack core line
  if bs.length = (c.l1.dirty.slice (line * 128) 128).length then s.tick.writeBack core line
  else
    (s.tick.setCore core fun c => { c with l1 := { c.l1 with
      dirty := c.l1.dirty.filter fun b => !bs.any (·.1 == b.1) } }).l2Store c.die bs (some core)

/-- Drain a core's dirty-line FIFO, oldest first (R171, R188). -/
def State.drain (s : State) (core : Nat) : State :=
  ((s.core core).l1.fifo.map (·.1)).foldl (fun s l => s.writeBack core l) s

/-- Polls at core scope on a line end when it is dropped or evicted there (R161). -/
def State.wakeCore (s : State) (core : Nat) (line : Nat → Bool) : State :=
  s.wakePolls fun t p sc =>
    decide (sc ≤ 4) && t.core == core && (match p with | .phys pa => line (lineOf pa) | _ => false)

/-- Drop a line from a core's L1 without writing it back. -/
def State.dropLine (s : State) (core line : Nat) : State :=
  (s.setCore core fun c => { c with l1 := { c.l1 with
    dirty := c.l1.dirty.cut (line * 128) 128
    stale := c.l1.stale.cut (line * 128) 128
    lines := c.l1.lines.filter (·.line != line)
    fifo := c.l1.fifo.filter (·.1 != line)
    poison := c.l1.poison.filter fun g => g.1 / 4 != line } }).wakeCore core (· == line)

/-- Write a line back and drop it. (DESIGN CHOICE, log 34) -/
def State.evict (s : State) (core line : Nat) : State := (s.writeBack core line).dropLine core line

/-- An acquire at core scope or wider drops every clean line of the core's L1 (R171), and the bytes of its dirty lines
that the core has not written, which R178 requires. (DEDUCED, log 78) -/
def State.dropClean (s : State) (core : Nat) : State :=
  let keep := (s.core core).l1.fifo.map (·.1)
  (s.setCore core fun c => { c with l1 := { c.l1 with
    stale := []
    lines := c.l1.lines.filter fun l => keep.contains l.line } }).wakeCore core
      fun l => !keep.contains l

/-- The lines of an L1 set among which the one evicted for a new line is chosen: the streamed ones, else those not
kept, else all (R151). -/
def evictable (ls : List L1Line) : List L1Line :=
  if ls.any (·.policy == 1) then ls.filter (·.policy == 1)
  else if ls.any (·.policy != 2) then ls.filter (·.policy != 2)
  else ls

/-- The line that an L1 set evicts for a new one: which of those it may be is a free value. (DESIGN CHOICE, log 34) -/
def victim (ls : List L1Line) : Option L1Line :=
  let c := evictable ls
  (c.drop (Config.freeVictim (c.map (·.line)) % c.length)).head?

/-- Bring a line into a core's L1 under a cache policy: 128 sets of 16 ways (R151, R367), a line's set by its number modulo
128. (DESIGN CHOICE, log 34; DEDUCED, log 69) -/
def State.fill (s : State) (core line policy : Nat) : State :=
  let c := s.core core
  if c.l1.lines.any (·.line == line) then
    s.setCore core fun c => { c with l1 := { c.l1 with
      lines := c.l1.lines.map fun l => if l.line = line then ⟨line, policy⟩ else l } }
  else
    let set := c.l1.lines.filter fun l => l.line % 128 == line % 128
    let s1 := if set.length < 16 then s
      else match victim set with
        | some l => s.evict core l.line
        | none => s
    s1.setCore core fun c => { c with l1 := { c.l1 with lines := c.l1.lines ++ [⟨line, policy⟩] } }

/-- A poisoned granule of an L1 after a store: the bytes written are no longer lost, and with the last of them the
poison goes (R159, R381). -/
def mend (bs : List (Nat × Byte)) (x : Nat × BitVec 32) : Option (Nat × BitVec 32) :=
  let m := bs.foldl (fun (m : BitVec 32) b =>
    if b.1 / 32 = x.1 then m &&& ~~~(BitVec.ofNat 32 (2 ^ (b.1 % 32))) else m) x.2
  if m = 0 then none else some (x.1, m)

/-- A store into a core's L1: its bytes become dirty, the line enters the FIFO, which writes back its
oldest line when it already holds 256 (R150, R368); polls at core scope on the line end (R161). -/
def State.l1Store (s : State) (core : Nat) (bs : List (Nat × Byte)) (policy : Nat) : State :=
  let lines := (bs.map fun b => lineOf b.1).dedup
  let s1 := lines.foldl (fun s l =>
    let s := s.fill core l policy
    let f := (s.core core).l1.fifo
    if f.any (·.1 == l) then s
    else
      let s := if f.length < 256 then s
        else match f.head? with
          | some o => s.writeBack core o.1
          | none => s
      s.setCore core fun c => { c with l1 := { c.l1 with fifo := c.l1.fifo ++ [(l, s.now)] } }) s
  (s1.setCore core fun c => { c with l1 := { c.l1 with
    dirty := c.l1.dirty.putAll bs
    stale := c.l1.stale.filter fun x => !bs.any (·.1 == x.1)
    poison := c.l1.poison.filterMap (mend bs) } }).wakeCore core
      fun l => lines.contains l

/-- Whether the core has written every byte of a granule that has not reached the L2 yet. -/
def L1.coversGranule (l : L1) (g : Nat) : Bool := (List.range 32).all fun i => (l.dirty.get? (32 * g + i)).isSome

/-- Whether a core reads a poisoned granule in a range (R159): one that it has not written wholly itself. (DEDUCED, log 59) -/
def State.poisoned (s : State) (core a n : Nat) : Bool :=
  (List.range n).any fun i =>
    let g := (a + i) / 32
    (s.core core).l1.poison.any (·.1 == g) || (s.mem.poisonFor (s.core core).die g && !(s.core core).l1.coversGranule g)

/-! ### Translation -/

/-- An 8-byte page-table entry read at a die's L2 (R375). -/
def Mem.pte (m : Mem) (d a : Nat) : DWord := BitVec.ofNat 64 (leNat (m.readDie d a 8))

/-- The root table of an address space (R374): the ASTAB entry when VALID. -/
def State.root (s : State) (d asid : Nat) : Option Nat :=
  let e := s.mem.pte d (s.mgmt.astab.toNat + 16 * asid)
  if e.getLsbD 0 then some ((e.extractLsb' 21 27).toNat * 2 ^ 21) else none

/-- The page size of a leaf at a level (R375). -/
def pageSize (lvl : Nat) : Nat := if lvl = 1 then 2 ^ 30 else if lvl = 2 then 2 ^ 21 else 2 ^ 16

/-- The index of a VA into the table of a level (R375). -/
def pteIndex (lvl va : Nat) : Nat :=
  if lvl = 0 then va / 2 ^ 39 % 2 ^ 18
  else if lvl = 1 then va / 2 ^ 30 % 512
  else if lvl = 2 then va / 2 ^ 21 % 512
  else va / 2 ^ 16 % 32

/-- Whether a valid entry is malformed at a level (R375, R376). -/
def State.malformed (s : State) (e : DWord) (lvl : Nat) : Bool :=
  let leaf := e.getLsbD 1
  let pa := (e.extractLsb' 16 32).toNat * 65536
  e.extractLsb' 48 16 != 0 || (leaf && lvl == 0) || (!leaf && lvl == 3) ||
  (if leaf then
    e.extractLsb' 14 2 != 0 || pa % pageSize lvl != 0 || (!e.getLsbD 2 && e.getLsbD 3) ||
      (!e.getLsbD 7 && decide (s.memLimit < pa + pageSize lvl)) ||
      (e.getLsbD 7 && (e.extractLsb' 8 6).toNat == s.devid) ||
      (!e.getLsbD 7 && e.extractLsb' 8 6 != 0)
  else
    e.extractLsb' 2 6 != 0 || (decide (lvl ≤ 1) && e.extractLsb' 8 4 != 0))

/-- The outcome of a walk: a leaf, an absent page, or a malformed entry (R375). -/
inductive WalkRes where
  | leaf (t : TlbEntry)
  | absent
  | malformed
  deriving DecidableEq, Repr, Inhabited

/-- The TLB entry a leaf makes (R376). -/
def leafEntry (asid va lvl : Nat) (e : DWord) : TlbEntry :=
  { asid := asid, base := va / pageSize lvl * pageSize lvl, size := pageSize lvl,
    pa := (e.extractLsb' 16 32).toNat * 65536, r := e.getLsbD 2, w := e.getLsbD 3, x := e.getLsbD 4,
    u := e.getLsbD 5, cmp := e.getLsbD 6, rmt := e.getLsbD 7, home := (e.extractLsb' 8 6).toNat }

/-- The walk from a table down the levels (R375). -/
def State.walkFrom (s : State) (d asid va : Nat) : List Nat → Nat → WalkRes
  | [], _ => .absent
  | lvl :: r, t =>
    let e := s.mem.pte d (t + 8 * pteIndex lvl va)
    if e.getLsbD 0 = false then .absent
    else if s.malformed e lvl then .malformed
    else if e.getLsbD 1 then .leaf (leafEntry asid va lvl e)
    else s.walkFrom d asid va r ((e.extractLsb' 8 40).toNat * 256)

/-- The walk of a VA in an address space (R375). -/
def State.walk (s : State) (d asid va : Nat) : WalkRes :=
  match s.root d asid with
  | some t => s.walkFrom d asid va [0, 1, 2, 3] t
  | none => .absent

/-- The TLB's entry for a VA (R378). -/
def Core.tlbHit (c : Core) (asid va : Nat) : Option TlbEntry :=
  c.tlb.find? fun e => e.asid == asid && e.base ≤ va && va < e.base + e.size

/-- The number of a core's cluster over both dies. -/
def Core.clusterNo (c : Core) : Nat := 20 * c.die + c.cluster

/-- The part of a VA that leads to its table of a level (R375). -/
def walkTag (lvl va : Nat) : Nat := if lvl = 1 then va / 2 ^ 39 else if lvl = 2 then va / 2 ^ 30 else va / 2 ^ 21

/-- The deepest table for a VA that the walkers of a cluster hold an entry for (R378): its level and address. Whether an
entry is still held is a free value. (DESIGN CHOICE, log 34) -/
def State.heldTable (s : State) (cluster asid va : Nat) : Option (Nat × Nat) :=
  [3, 2, 1].findSome? fun lvl =>
    (s.walkers.find? fun w => w.cluster == cluster && w.asid == asid && w.lvl == lvl && w.tag == walkTag lvl va &&
      Config.walkHeld s.now w.table).map fun w => (lvl, w.table)

/-- Where a walk by a core begins: a table its cluster's walkers hold an entry for, else the root (R375, R378). -/
def State.walkStart (s : State) (c : Core) (asid va : Nat) : Option (Nat × Nat) :=
  match s.heldTable c.clusterNo asid va with
  | some x => some x
  | none => (s.root c.die asid).map fun t => (0, t)

/-- Translate a VA on a core: the TLB, else a walk (R375, R378). -/
def State.translate (s : State) (core asid va : Nat) : WalkRes :=
  let c := s.core core
  match c.tlbHit asid va with
  | some e => .leaf e
  | none =>
    match s.walkStart c asid va with
    | some x => s.walkFrom c.die asid va ([0, 1, 2, 3].drop x.1) x.2
    | none => .absent

/-- The entries that a walk ending in a leaf has met above it: the level of each entry's table, and its address. -/
def State.walkPath (s : State) (d va : Nat) : List Nat → Nat → List (Nat × Nat)
  | [], _ => []
  | lvl :: r, t =>
    let e := s.mem.pte d (t + 8 * pteIndex lvl va)
    if e.getLsbD 1 then []
    else
      let n := (e.extractLsb' 8 40).toNat * 256
      (lvl + 1, n) :: s.walkPath d va r n

/-- Hold a translation in a core's TLB of 2,048 entries, and the entries above it in the walkers of its cluster (R378).
(DESIGN CHOICE, log 34) -/
def State.holdTlb (s : State) (core va : Nat) (e : TlbEntry) : State :=
  let c := s.core core
  if c.tlb.contains e then s
  else
    let path := match s.walkStart c e.asid va with
      | some x => s.walkPath c.die va ([0, 1, 2, 3].drop x.1) x.2
      | none => []
    let new := path.map fun x => ⟨c.clusterNo, e.asid, x.1, walkTag x.1 va, x.2⟩
    let s1 := s.setCore core fun c => { c with tlb := (e :: c.tlb).take 2048 }
    { s1 with walkers := new ++ s1.walkers.filter fun (w : WalkEntry) => !new.contains w }

/-- The bytes of a line of code that a core's instruction cache serves: those that it has fetched, if it holds them still
and they differ from the L2's; else none (R367). (DESIGN CHOICE, log 34) -/
def State.codeOld (s : State) (core line : Nat) : Option (List Byte) :=
  let c := s.core core
  match c.icache.find? (·.1 == line) with
  | none => none
  | some x =>
    if x.2 = s.mem.readDie c.die (128 * line) 128 then none
    else if Config.codeHeld s.now line then some x.2 else none

/-- The bytes of a word of code here, as a core fetches them (R98, R367). -/
def State.codeBytes (s : State) (core pa : Nat) : List Byte :=
  match s.codeOld core (lineOf pa) with
  | some bs => (bs.drop (pa % 128)).take 4
  | none => s.mem.readDie (s.core core).die pa 4

/-- Bring a line of code into a core's instruction cache of 128 KiB (R367). (DESIGN CHOICE, log 34) -/
def State.fillCode (s : State) (core line : Nat) : State :=
  if (s.codeOld core line).isSome then s
  else s.setCore core fun c => { c with
    icache := ((line, s.mem.readDie c.die (128 * line) 128) :: c.icache.filter (·.1 != line)).take 1024 }

/-- What an access does, for its permission (R377) and its page-fault record (R355). -/
inductive Access where
  | read | write | fetch | atomic
  deriving DecidableEq, Repr, Inhabited

/-- The ACCESS code of a page-fault record (R355). -/
def Access.code : Access → Nat
  | .read => 0 | .write => 1 | .fetch => 2 | .atomic => 3

/-- The subcode of a missing permission, the lowest first (R106, R377). -/
def permFault (e : TlbEntry) (k : Access) (needU : Bool) : Option Nat :=
  if needU && !e.u then some 0x02
  else match k with
    | .read => if e.r then none else some 0x03
    | .write => if e.w then none else some 0x04
    | .atomic => if e.w && e.r then none else some 0x04
    | .fetch => if e.x then none else some 0x05

/-! ### Windows and the checks of an access -/

/-- What a window decode gives (R33). -/
inductive Window where
  | global (va : Nat)
  | priv (off : Nat)
  | scratch (team off : Nat)
  | chip (off : Nat)
  deriving DecidableEq, Repr, Inhabited

/-- The launch block of a thread's slice. -/
def State.launchOf (s : State) (t : Thread) : Launch := (s.slice t.slice).launch

/-- team_scratch_bytes of R33. -/
def Launch.teamScratch (l : Launch) : Nat := if l.pair then 2 * l.scratchBytes else l.scratchBytes

/-- The generic address decode of R33, with the fault of the address itself. -/
def State.window (s : State) (t : Thread) (a : DWord) : Except FaultInfo Window :=
  let l := s.launchOf t
  let top := (a.extractLsb' 56 8).toNat
  let lo := (a.extractLsb' 0 32).toNat
  let mid := a.extractLsb' 32 24
  if a.extractLsb' 57 7 = 0 then .ok (.global (a.extractLsb' 0 57).toNat)
  else if top = 0xF0 then
    if mid != 0 || decide (l.privateBytes ≤ lo) then .error (accessFault 0x01 a) else .ok (.priv lo)
  else if top = 0xF1 then
    if mid != 0 then .error (accessFault 0x01 a)
    else if l.teamScratch ≤ lo then .error (flt 0x06 0 a) else .ok (.scratch t.team lo)
  else if top = 0xF2 then
    if !l.clusterShared || a.extractLsb' 24 24 != 0 then .error (accessFault 0x01 a)
    else
      match s.teams.find? fun m => m.slice == t.slice && m.idx == (a.extractLsb' 48 8).toNat with
      | none => .error (accessFault 0x01 a)
      | some m =>
        if l.teamScratch ≤ (a.extractLsb' 0 24).toNat then .error (flt 0x06 0 a)
        else .ok (.scratch m.uid (a.extractLsb' 0 24).toNat)
  else if top = 0xF3 then
    if mid != 0 || decide (l.chipScratch ≤ lo) then .error (accessFault 0x01 a) else .ok (.chip lo)
  else .error (accessFault 0x01 a)

/-- REG_BUDGET of a role (R19). -/
def Launch.regBudget (l : Launch) (role : Nat) : Nat := (l.roles.getD role default).regBudget

/-- Threads of a role (R11). -/
def RoleDesc.threads (r : RoleDesc) : Nat := r.groups * 2 ^ r.gwLog2

/-- The global VA of the private area of a thread (R22): SPILL_BASE plus the areas of every lower %tid. -/
def Launch.privateBase (l : Launch) (tid : Nat) : Nat :=
  let area := fun r => l.privateBytes + 4 * l.regBudget r
  let n := fun r => (l.roles.getD r default).threads
  let below := fun r start => min (n r) (tid - start) * area r
  l.spillBase.toNat + below 0 0 + below 1 (n 0) + below 2 (n 0 + n 1)

/-- A checked access: its place, whether its address is global, its page's compressible attribute, the VA translated,
and the translation used. -/
structure Acc where
  place : Place
  isGlobal : Bool
  cmp : Bool
  va : Nat
  tlb : Option TlbEntry
  deriving DecidableEq, Repr, Inhabited

/-- The physical place a translation gives. -/
def TlbEntry.place (e : TlbEntry) (va : Nat) : Place :=
  if e.rmt then .remote e.home (e.pa + va % e.size) else .phys (e.pa + va % e.size)

/-- Translation and permission of a VA for a thread (R148 steps 3 and 4). A Page fault carries its ACCESS
code as its subcode, for the record of R355. -/
def State.checkVa (s : State) (core asid va : Nat) (k : Access) (needU : Bool) (a : DWord) :
    Except FaultInfo Acc :=
  match s.translate core asid va with
  | .absent => .error (flt 0x04 k.code a)
  | .malformed => .error (accessFault 0x22 a)
  | .leaf e =>
    match permFault e k needU with
    | some sub => .error (accessFault sub a)
    | none => .ok ⟨e.place va, true, e.cmp, va, some e⟩

/-- Whether a thread's accesses need U: user and handler mode (R377). -/
def Thread.needU (t : Thread) : Bool := t.mode == .user || t.mode == .handler

/-- The checks of R148 on one access of a thread: window, alignment, translation, permission. -/
def State.check (s : State) (t : Thread) (a : DWord) (align : Nat) (k : Access) :
    Except FaultInfo Acc :=
  let sl := s.slice t.slice
  match s.window t a with
  | .error f => .error f
  | .ok w =>
    if a.toNat % align ≠ 0 then .error (flt 0x03 0 a)
    else match w with
      | .global va => s.checkVa t.core sl.asid va k t.needU a
      | .priv off =>
        match s.checkVa t.core sl.asid (sl.launch.privateBase t.tid.toNat + off) k false a with
        | .error f => .error f
        | .ok c => .ok { c with isGlobal := false }
      | .scratch u off => .ok ⟨.scratch u off, false, false, 0, none⟩
      | .chip off => .ok ⟨.chip t.slice off, false, false, 0, none⟩

/-- Hold the translation that a checked access used (R378). -/
def State.holdAcc (s : State) (core : Nat) (c : Acc) : State :=
  match c.tlb with
  | some e => s.holdTlb core c.va e
  | none => s

/-! ### Reading and writing places -/

/-- A byte of a team's scratchpad; one that nothing has written is undefined (R41). (DESIGN CHOICE, log 2) -/
def Team.scratchByte (m : Team) (o : Nat) : Byte := (m.scratch.get? o).getD (Config.freeAt m.uid o)

/-- A byte of a slice's chip scratchpad. (DESIGN CHOICE, log 2) -/
def Slice.chipByte (x : Slice) (o : Nat) : Byte := (x.chip.get? o).getD (Config.freeAt x.num o)

/-- `n` bytes at a place as a core reads them, through its L1 or, when `l2`, at its L2. A remote place is
not read here. -/
def State.readPlace (s : State) (core : Nat) (p : Place) (n : Nat) (l2 : Bool) : List Byte :=
  match p with
  | .phys a =>
    (List.range n).map fun i =>
      if l2 then s.mem.atDie (s.core core).die (a + i) else s.l1Byte (s.core core) (a + i)
  | .scratch u o => (List.range n).map fun i => (s.team u).scratchByte (o + i)
  | .chip x o => (List.range n).map fun i => (s.slice x).chipByte (o + i)
  | .remote _ _ => List.replicate n 0

/-- Whether a place reads poisoned data (R159, R381). -/
def State.placePoisoned (s : State) (core : Nat) (p : Place) (n : Nat) : Bool :=
  match p with
  | .phys a => s.poisoned core a n
  | .scratch u o => (List.range n).any fun i => (s.team u).scratchPoison.contains ((o + i) / 32)
  | .chip x o => (List.range n).any fun i => (s.slice x).chipPoison.contains ((o + i) / 32)
  | .remote _ _ => false

/-- Write bytes of a team's scratchpad; polls on the words end (R150, R161). -/
def State.scratchStore (s : State) (u o : Nat) (bs : List Byte) : State :=
  let cs := numbered o bs
  (s.setTeam u fun m => { m with
    scratch := m.scratch.putAll cs
    scratchPoison := m.scratchPoison.filter fun g => !(wholeGranules cs).contains g }).wakePolls
      fun _ p _ => match p with
        | .scratch v q => v == u && decide (q < o + bs.length) && decide (o < q + 4)
        | _ => false

/-- Write bytes of a slice's chip scratchpad. -/
def State.chipStore (s : State) (x o : Nat) (bs : List Byte) : State :=
  let cs := numbered o bs
  (s.setSlice x fun l => { l with
    chip := l.chip.putAll cs
    chipPoison := l.chipPoison.filter fun g => !(wholeGranules cs).contains g }).wakePolls
      fun _ p _ => match p with
        | .chip v q => v == x && decide (q < o + bs.length) && decide (o < q + 4)
        | _ => false

/-- A line written under the compressible attribute carries it (R372). -/
def State.markCmp (s : State) (p : Place) (cmp : Bool) : State :=
  match p with
  | .phys a =>
    let l := lineOf a
    { s with mem := { s.mem with cmpLines :=
        if cmp then (if s.mem.cmpLines.contains l then s.mem.cmpLines else l :: s.mem.cmpLines)
        else s.mem.cmpLines.filter (· != l) } }
  | _ => s

/-- An access that stores an 8-byte unit whole, which no load sees in part (R154). (DESIGN CHOICE, log 68) -/
def State.markWide (s : State) (p : Place) (n : Nat) : State :=
  match p with
  | .phys a =>
    let new := ((List.range (n / 8)).map fun k => a / 8 + k).filter fun u => !s.mem.wide.contains u
    if new.isEmpty then s else { s with mem := { s.mem with wide := new ++ s.mem.wide } }
  | _ => s

/-- A store of a core at a place, accepted (R150, R151): `policy` is the CACHE field, and 3 writes
through to the L2 and drops the line. A remote place is not written here. -/
def State.storePlace (s : State) (core : Nat) (p : Place) (bs : List Byte) (policy : Nat) : State :=
  match p with
  | .phys a =>
    if policy = 3 then
      ((s.evict core (lineOf a)).l2Store (s.core core).die (numbered a bs) (some core))
    else s.l1Store core (numbered a bs) policy
  | .scratch u o => s.scratchStore u o bs
  | .chip x o => s.chipStore x o bs
  | .remote _ _ => s

/-! ### HBM (R367, R370, R372, R373) -/

/-- The size at which a line is stored (R372): compressible contents that fit a smaller size take one; the
encoding is not given. (DEDUCED, log 59) -/
def Mem.storedSize (m : Mem) (line fresh : Nat) : Nat :=
  if m.cmpLines.contains line then 32 * ((Config.freeByte fresh).toNat % 4 + 1) else 128

/-- A line that the L2s hold goes to HBM, its data and metadata in one step (R372, R373). -/
def State.hbmWriteBack (s : State) (line : Nat) : State :=
  let bs := s.mem.l2.slice (line * 128) 128
  if bs.isEmpty then s
  else
    let n := s.mem.storedSize line s.fresh
    { s.tick with mem := { s.mem with
        l2 := s.mem.l2.cut (line * 128) 128
        hbm := bs.foldl (fun m (c : Nat × Byte) => Memory.put m c.1 c.2) s.mem.hbm
        comp := (if n = 128 then [] else [(line, n)]) ++ s.mem.comp.filter (·.1 != line) } }

/-- A line leaves the L2s for HBM, which ends the holds of polls there (R161). -/
def State.leaveL2 (s : State) (line : Nat) : State :=
  ((s.hbmWriteBack line).wakePolls fun _ p sc => decide (5 ≤ sc) && p.inLine line).wakeHome (· == line)

/-- The lines that the L2s hold. -/
def Mem.l2Lines (m : Mem) : List Nat := (m.l2.map fun c => lineOf c.1).dedup

/-- Write every byte that the L2s hold back to HBM. -/
def State.flushL2 (s : State) : State := s.mem.l2Lines.foldl State.leaveL2 s

/-- The die whose stacks hold a physical address: block n of 512 bytes lies on the enabled stack whose
rank is n modulo their number, and the four lowest are on die 0 (R6). (DESIGN CHOICE, log 81) -/
def State.homeDie (s : State) (pa : Nat) : Nat := if pa / 512 % s.nstacks < 4 then 0 else 1

/-- The die whose L2 holds a line: its owner's, else that of its home. -/
def State.l2Die (s : State) (line : Nat) : Nat :=
  ((s.mem.owner.find? (·.1 == line)).map (·.2)).getD (s.homeDie (128 * line))

/-- Bytes of chip scratchpad carved on a die, in force (R370). -/
def State.chipCarve (s : State) (die : Nat) : Nat :=
  (s.mgmt.chipSpNow.extractLsb' (8 * die) 5).toNat * 2 ^ 24

/-- The lines that a die's L2 has room for: 768 MiB less the chip scratchpad (R2, R367). -/
def State.l2Cap (s : State) (die : Nat) : Nat := (768 * 2 ^ 20 - s.chipCarve die) / 128

/-- The lines of a set of an L2 that leave it, so that 16 at most stay. (DESIGN CHOICE, log 34) -/
def overWays (ls : List Nat) : List Nat := (ls.rotateLeft (Config.freeVictim ls % (ls.length + 1))).take (ls.length - 16)

/-- A die's L2 evicts the lines that its sets of 16 ways have no room for: its lines spread over the sets in a way that is
not given (R367). (DESIGN CHOICE, log 76) -/
def State.trimDie (s : State) (die : Nat) : State :=
  let ls := s.mem.l2Lines.filter fun l => s.l2Die l == die
  let set := fun l => Config.l2Set l % (s.l2Cap die / 16)
  (((ls.map set).dedup).flatMap fun k => overWays (ls.filter fun l => set l == k)).foldl State.leaveL2 s

/-- The L2s hold no more than they have room for (R2, R367): 16 lines always have room. -/
def State.trimL2 (s : State) : State :=
  if s.mem.l2Lines.length ≤ 16 then s else (s.trimDie 0).trimDie 1

/-! ### Acquire and release -/

/-- The release wait of a scope (R171) by a thread on a core: from core scope the FIFO drains, from
device scope ownership of every drained line is granted. Team scope acts as core for a pair team. -/
def State.release (s : State) (t : Thread) (scope : Nat) : State :=
  let pair := (s.launchOf t).pair
  if 4 ≤ scope || (scope == 3 && pair) then
    let s1 := s.drain t.core
    if 7 ≤ scope then s1.grantAll (s.core t.core).die else s1
  else s

/-- The acquire action of a scope (R171). (DESIGN CHOICE, log 68) -/
def State.acquire (s : State) (t : Thread) (scope : Nat) : State :=
  if 4 ≤ scope || (scope == 3 && (s.launchOf t).pair) then s.dropClean t.core else s

end Sys2Proof.Machine
end

