-- ==== Sys2Proof/Machine/Remote.lean ====
section
/-! DEFINITION. Requests to other devices of the domain (R380, R424): which device can be reached, the sending of a
request, and the memory of other devices that this one's units read. -/

namespace Sys2Proof.Machine

/-! ### Counters (R384) and requests (R380, R424) -/

/-- A RAS counter goes up (R384). -/
def bumpRas : List (Nat × Nat) → Nat → Nat → List (Nat × Nat)
  | [], c, n => [(c, n)]
  | x :: r, c, n => if x.1 = c then (c, min (x.2 + n) 0xFFFFFFFF) :: r else x :: bumpRas r c n

/-- Count events of the RAS log's counters (R384). -/
def State.rasAdd (s : State) (c n : Nat) : State :=
  if n = 0 then s else { s with ras := bumpRas s.ras c n }

/-- Whether a device is a member of the domain and not declared failed (R424, R425). -/
def State.reachable (s : State) (d : Nat) : Bool :=
  s.mgmt.members.getLsbD d && !s.fabric.members.any fun m => m.dev == d && m.failed

/-- Something has arrived from a device (R425). -/
def State.heard (s : State) (d : Nat) : State :=
  { s with fabric := { s.fabric with members := s.fabric.members.map fun (m : Member) =>
      if m.dev = d then { m with heardAt := s.now } else m } }

/-- Send a remote access of a thread: its pending result waits for the reply. -/
def State.sendRemote (s : State) (home pa : Nat) (op : RemoteOp) (w : RemoteWait) : State :=
  let n := s.fabric.nextTxn
  let s1 := s.send (.remote home ⟨s.devid, n, pa, op⟩)
  { s1 with fabric := { s1.fabric with nextTxn := n + 1, remote := s1.fabric.remote ++ [{ w with txn := n }] } }

/-- Whether stores of this device to pages of others, sent before a transaction number, are not acknowledged by their
homes (R171, R177): a release carries the stores that its thread has observed, and those of every thread count. -/
def State.remoteBefore (s : State) (n : Nat) : Bool :=
  s.fabric.remote.any fun w => w.isStore && decide (w.txn < n)

/-- Whether an agent that is no thread, such as an engine, has stores on their way. (DEDUCED, log 38) -/
def State.remoteStores (s : State) (u : Nat) : Bool :=
  s.fabric.remote.any fun w => w.uid == u && w.isStore

/-! ### Reads of other devices' memory by units that are no load (R380) -/

/-- A granule of a device's memory: the home, and the physical address / 32. -/
abbrev Gran := Nat × Nat

/-- A number that no thread has, for the reads of granules. -/
def readUid : Nat := 2 ^ 66

/-- The granules of `n` bytes at a physical address of a home. -/
def grans (home pa n : Nat) : List Gran :=
  if n = 0 then [] else (List.range ((pa + n - 1) / 32 + 1 - pa / 32)).map fun i => (home, pa / 32 + i)

/-- What an owner has read of a granule. -/
def State.granReply (s : State) (owner : Nat) (g : Gran) : Option RemoteReply :=
  ((s.fabric.reads.find? fun x => x.owner == owner && x.home == g.1 && x.gran == g.2).map (·.got)).getD none

/-- The granules of a list that an owner still waits for. A home that cannot be reached answers nothing. -/
def State.missing (s : State) (owner : Nat) (gs : List Gran) : List Gran :=
  gs.filter fun g => s.reachable g.1 && (s.granReply owner g).isNone

/-- Ask the home of a granule for it, once. -/
def State.askGran (s : State) (owner : Nat) (g : Gran) : State :=
  if s.fabric.reads.any fun x => x.owner == owner && x.home == g.1 && x.gran == g.2 then s
  else
    let n := s.fabric.nextTxn
    let s1 := s.sendRemote g.1 (32 * g.2) (.load 32) ⟨n, g.1, readUid, 0, false, [], none, 0⟩
    { s1 with fabric := { s1.fabric with reads := s1.fabric.reads ++ [⟨owner, g.1, g.2, n, none⟩] } }

/-- Ask for granules. (DEDUCED, log 38) -/
def State.ask (s : State) (owner : Nat) (gs : List Gran) : State :=
  (s.missing owner gs).foldl (fun s g => s.askGran owner g) s

/-- Forget what some owners have read: the instruction or the step that needed it is over. -/
def State.forget (s : State) (owners : List Nat) : State :=
  if s.fabric.reads.isEmpty then s
  else { s with fabric := { s.fabric with reads := s.fabric.reads.filter fun (x : RemoteRead) => !owners.contains x.owner } }

/-- Whether an owner does not have a granule of another device: its home cannot be reached, or failed. -/
def State.granFailed (s : State) (owner : Nat) (g : Gran) : Bool :=
  match s.granReply owner g with
  | some r => r.failed
  | none => true

/-- Whether a granule of another device came with poison. -/
def State.granPoisoned (s : State) (owner : Nat) (g : Gran) : Bool :=
  ((s.granReply owner g).map (·.poison)).getD false

/-- `n` bytes of another device's memory as an owner has read them. -/
def State.remoteBytes (s : State) (owner home pa n : Nat) : List Byte :=
  (List.range n).map fun i =>
    ((s.granReply owner (home, (pa + i) / 32)).map fun r => r.bytes.getD ((pa + i) % 32) 0).getD 0

/-- A number that no thread has, for the stores of the device's own hardware to other devices. -/
def hwUid : Nat := 2 ^ 67

/-- A number that no thread has, for the code objects that the device measures. -/
def codeObjUid : Nat := 2 ^ 67 + 1

/-- A number that no thread has, for the code that a group fetches from another device. -/
def codeUid (gid : Nat) : Nat := 2 ^ 68 + gid

/-- Send a write to a page of another device: it is accepted when it leaves, and to a home that cannot be reached none
leaves (R380). -/
def State.remotePut (s : State) (u home pa : Nat) (ea : DWord) (op : RemoteOp) : State :=
  if s.reachable home then s.sendRemote home pa op ⟨0, home, u, 0, true, [], none, ea⟩ else s

/-- Send a store of whole bytes to a page of another device (R380). -/
def State.remoteStore (s : State) (u home pa : Nat) (ea : DWord) (bs : List Byte) : State :=
  s.remotePut u home pa ea (.store bs)

/-- Whether an owner waits for the reply to a read; a home that cannot be reached answers nothing. -/
def State.asking (s : State) (owner : Nat) : Bool :=
  s.fabric.reads.any fun x => x.owner == owner && x.got.isNone && s.reachable x.home

/-! ### Places that may lie on another device -/

/-- A place some bytes on, in the same page. -/
def Place.plus (p : Place) (k : Nat) : Place :=
  match p with
  | .phys a => .phys (a + k)
  | .remote h a => .remote h (a + k)
  | .scratch u o => .scratch u (o + k)
  | .chip x o => .chip x (o + k)

/-- The granules that reading `n` bytes at a place needs from another device. -/
def Place.grans (p : Place) (n : Nat) : List Gran :=
  match p with
  | .remote h pa => Machine.grans h pa n
  | _ => []

/-- `n` bytes at a place, on this device as a core reads them, on another as an owner has read them. -/
def State.readAny (s : State) (owner core : Nat) (p : Place) (n : Nat) (l2 : Bool) : List Byte :=
  match p with
  | .remote h pa => s.remoteBytes owner h pa n
  | p => s.readPlace core p n l2

/-- The fault of data read at a place: poison (R159), or another device that cannot be reached (R380). -/
def State.dataFault (s : State) (owner core : Nat) (p : Place) (n : Nat) (ea : DWord) : Option FaultInfo :=
  if (p.grans n).any (s.granFailed owner) then some (accessFault 0x23 ea)
  else if (p.grans n).any (s.granPoisoned owner) || s.placePoisoned core p n then some (flt 0x0C 0 ea)
  else none

end Sys2Proof.Machine
end

