-- ==== Sys2Proof/Machine/Fault.lean ====
section
/-! DEFINITION. Taking a fault and returning from the handler (R104 to R118, R347), killing a thread
(R101), and parking a thread at an absent page (R114, R355). -/

namespace Sys2Proof.Machine

/-! ### The private area -/

/-- The 0xF0-window address of an offset of the thread's private area (R33). -/
def privAddr (off : Nat) : DWord := 0xF000000000000000 + BitVec.ofNat 64 off

/-- Write bytes at a place for a thread: into its core's L1 or the place itself, or to another device (R150, R380). -/
def State.putAt (s : State) (t : Thread) (p : Place) (cmp : Bool) (ea : DWord) (bs : List Byte) (policy : Nat) : State :=
  match p with
  | .remote h pa => s.remoteStore t.uid h pa ea bs
  | p => ((s.storePlace t.core p bs policy).markCmp p cmp).markWide p bs.length

/-- Write a word of a thread's private area as the hardware does for the fault frame; a word whose page
cannot be written is not written. (DEDUCED, log 16) -/
def State.privStoreWord (s : State) (t : Thread) (off : Nat) (v : Word) : State :=
  match s.check t (privAddr off) 4 .write with
  | .ok c => s.putAt t c.place c.cmp (privAddr off) (leBytes 4 v.toNat) 0
  | .error _ => s

/-- Write consecutive words of a thread's private area. -/
def State.privStoreWords (s : State) (t : Thread) (off : Nat) : List Word → State
  | [] => s
  | v :: r => (s.privStoreWord t off v).privStoreWords t (off + 4) r

/-- A word of a thread's private area (R96, R108); poisoned memory raises Memory Poison. (DEDUCED, log 16) -/
def State.privLoadWord (s : State) (t : Thread) (off : Nat) : Except FaultInfo Word :=
  match s.check t (privAddr off) 4 .read with
  | .ok c =>
    match s.dataFault t.uid t.core c.place 4 (privAddr off) with
    | some f => .error f
    | none => .ok (BitVec.ofNat 32 (leNat (s.readAny t.uid t.core c.place 4 false)))
  | .error f => .error f

/-- The granules of other devices that reading words of the private area needs (R380). -/
def State.privGrans (s : State) (t : Thread) (off n : Nat) : List Gran :=
  (List.range n).flatMap fun k =>
    match s.check t (privAddr (off + 4 * k)) 4 .read with
    | .ok c => c.place.grans 4
    | .error _ => []

/-! ### Runs of a thread -/

/-- Forget k0 to k7 and their poison: they read 0 at the start of a run (R17). -/
def Thread.dropK (t : Thread) : Thread :=
  { t with regs := clearK t.regs, poison := t.poison.filter fun n => !(120 ≤ n && n < 128) }

/-- The poisoned k registers of a thread, with their values (R116). -/
def Thread.kBad (t : Thread) : List (Nat × Word) :=
  (t.poison.filter fun n => 120 ≤ n && n < 128).map fun n => (n, t.g n)

/-- Begin a new run at a PC (R17, R44). -/
def Thread.newRun (t : Thread) (pc : Word) : Thread :=
  { t.dropK with pc := pc, pos := 0, runId := t.runSeq + 1, runSeq := t.runSeq + 1,
                 hints := Hints.zero, after := none }

/-- The value of a hint slot as the fault frame shows it (R108). -/
def hintWord (h : Option Word) : Word := h.getD 0

/-- A hint slot read back from the fault frame (R108). -/
def hintSlot (w : Word) : Option Word := if w = 0 then none else some w

/-! ### Ending a thread -/

/-- Whether a result met a poisoned tile, or a poisoned granule for a tile (R245, R382). -/
def Pending.tileError (p : Pending) : Bool := p.fault.any fun f => f.code == 0x0C && f.tile.isSome

/-- A thread ends: its registers stop being live and its outstanding results are discarded (R100), but for tile reads
that met poison, which are still to be counted (R382). -/
def Thread.quit (t : Thread) (how : Ended) : Thread :=
  { t with ended := some how, regs := [], poison := [], park := .none, hints := Hints.zero,
           pend := t.pend.filter Pending.tileError
           after := none, budgetDue := false }

/-- Kill a thread: it supplies no exit value and its slice is marked faulted (R101). -/
def State.killThread (s : State) (u : Nat) : State :=
  let t := s.thread u
  (s.setThread u fun t => t.quit .killed).setSlice t.slice fun l => { l with faulted := true }

/-! ### Delivery -/

/-- Whether a thread is in handler mode or in the handler state of a supervisor slice (R90, R347). -/
def Thread.inHandler (t : Thread) : Bool := t.mode == .handler || t.mode == .superHandler

/-- What a thread is parked at: itself, or, while it runs a handler for a fault that found it parked, once it comes back
(R159). (DEDUCED, log 27) -/
def Thread.standsAt (t : Thread) : Park := if t.inHandler && t.park == .none then t.resume.park else t.park

/-- The PC of the instruction that a thread is parked at so. -/
def Thread.standsPc (t : Thread) : Word := if t.inHandler && t.park == .none then t.resume.parkPc else t.parkPc

/-- A thread is parked no longer, nor is it when it comes back from its handler. -/
def Thread.unpark (t : Thread) : Thread :=
  if t.inHandler && t.park == .none then { t with resume := { t.resume with park := .none } } else { t with park := .none }

/-- A saturating 32-bit count (R354). -/
def bump32 (n : Nat) : Nat := if n < 0xFFFFFFFF then n + 1 else n

/-- Count a fault of the slice (R354). -/
def State.countFault (s : State) (n : Nat) : State :=
  s.setSlice n fun l => { l with faults := bump32 l.faults }

/-- The record of a delivered fault (R32). -/
def faultRec (f : FaultInfo) (fpc : Word) (fmask : DWord) : FaultRec :=
  ⟨BitVec.ofNat 32 f.code, fpc, f.addr, f.finfo, fmask⟩

/-- The 32 words of the fault frame; its reserved bytes are 0 (R8, R108). -/
def frameWords (t : Thread) (r : FaultRec) (pos : Nat) : List Word :=
  [r.code, r.pc, loWord r.addr, hiWord r.addr, r.info,
    BitVec.ofNat 32 (pos % 256 + t.hints.cover % 256 * 256), loWord r.mask, hiWord r.mask] ++
  ([120, 121, 122, 123, 124, 125, 126, 127].map fun k => t.g k) ++
  [hintWord t.hints.himm, hintWord t.hints.hmod, hintWord t.hints.hgrd, hintWord t.hints.hsch,
    BitVec.ofNat 32 t.csp] ++ List.replicate 11 0

/-- Where a handler starts, if the launch block gives a handler (R109). -/
def Launch.handler (l : Launch) : Option Word :=
  if l.trapVector = 0xFFFFFFFF || l.handlerStack < 128 then none else some l.trapVector

/-- A thread enters its handler (R107 step 3, R347): a new run at TRAP_VECTOR, an empty handler call
stack, and g, w and p registers as they were. -/
def Thread.enterHandler (t : Thread) (vec : Word) (priv : Nat) (r : FaultRec) (res : Resume) : Thread :=
  { t.newRun vec with
    frec := r
    mode := if t.mode = .supervisor then .superHandler else .handler
    userCsp := t.csp
    csp := priv - 128
    resume := res
    park := .none }

/-- How a fault meets a thread: the PC recorded, the run position recorded, whether the faulting
instruction ended its run, and whether it is delivered at a run boundary (R112). -/
structure FaultAt where
  fpc : Word
  pos : Nat
  ends : Bool
  boundary : Bool
  deriving DecidableEq, Repr

/-- Stop a group and the faulting thread for the debugger (R118, R366). The thread goes on, when the
debugger lets it, at the instruction after its BRK, which ended its run. (DEDUCED, log 21) -/
def State.debugHold (s : State) (u : Nat) (w : FaultAt) : State :=
  let t := s.thread u
  let s1 := s.setThread u fun t => if w.boundary then { t with park := .debug }
    else { t.newRun (w.fpc + 4) with park := .debug }
  s1.setGroup t.gid fun g => { g with stopped := true }

/-- Deliver a fault to a thread (R107 to R110, R118, R347). (DEDUCED, log 16) -/
def State.deliver (s : State) (u : Nat) (f : FaultInfo) (w : FaultAt) (fmask : DWord) : State :=
  let t := s.thread u
  let sl := s.slice t.slice
  if f.code = 0x0F && sl.dbgHold then s.debugHold u w
  else if t.inHandler then (s.countFault t.slice).killThread u
  else
    let r := faultRec f w.fpc fmask
    let s1 := s.countFault t.slice
    let s2 := if 128 ≤ sl.launch.handlerStack then
        s1.privStoreWords t (sl.launch.privateBytes - 128) (frameWords t r w.pos)
      else s1
    match sl.launch.handler with
    | none => (s2.setThread u fun t => { t with frec := r }).killThread u
    | some vec =>
      s2.setThread u fun t => t.enterHandler vec sl.launch.privateBytes r
        ⟨if w.boundary then t.pc else w.fpc, w.pos, t.runId, w.ends, w.boundary, t.kBad,
          if w.boundary then t.park else .none, t.parkPc⟩

/-! ### Absent pages -/

/-- The global VA that an address of a thread reaches (R22, R33). -/
def State.faultVa (s : State) (t : Thread) (a : DWord) : Nat :=
  if (a.extractLsb' 56 8).toNat = 0xF0 then
    (s.launchOf t).privateBase t.tid.toNat + (a.extractLsb' 0 32).toNat
  else (a.extractLsb' 0 57).toNat

/-- The bytes of a range cut at granules of 32 bytes: the address and the bytes of each piece. -/
def pieces (va : Nat) (bs : List Byte) : List (Nat × List Byte) :=
  if bs.isEmpty then []
  else (List.range ((va + bs.length - 1) / 32 + 1 - va / 32)).map fun k =>
    let lo := max va (32 * (va / 32 + k))
    (lo, (bs.drop (lo - va)).take (32 * (va / 32 + k + 1) - lo))

/-- Write bytes at a global VA as the device's own hardware does: at the L2 of a die, under ownership, or on another
device over Seam (R380), in the address space given; bytes whose page cannot be written are not written. (DEDUCED, log 17) -/
def State.hwStore (s : State) (d asid va : Nat) (bs : List Byte) : State :=
  (pieces va bs).foldl (fun s c =>
    match s.walk d asid c.1 with
    | .leaf e =>
      let pa := e.pa + c.1 % e.size
      if !e.w then s
      else if e.rmt then s.remoteStore hwUid e.home pa (BitVec.ofNat 64 c.1) c.2
      else (s.ownedStore d (numbered pa c.2) none).markCmp (.phys pa) e.cmp
    | _ => s) s

/-- The 32 bytes of a page-fault record (R355). (DEDUCED, log 17) -/
def PfRecord.bytes (r : PfRecord) (head : Nat) : List Byte :=
  leBytes 8 r.va.toNat ++ leBytes 4 r.slice ++ leBytes 2 r.asid ++ leBytes 1 r.access ++
    leBytes 1 (if r.remote then 1 else 0) ++ leBytes 4 r.uids.length ++
    leBytes 4 ((head + 1) % 2 ^ 31) ++ leBytes 8 0

/-- The number of records written and not yet acknowledged (R355). -/
def PageFaults.unacked (p : PageFaults) : Nat := (p.recs.filter (·.written)).length

/-- The ring's VA (R353). (DEDUCED, log 17) -/
def PageFaults.ring (p : PageFaults) : Nat := (p.baseHi ++ p.base).toNat

/-- Write the oldest pending record that is not in the ring, if the ring has room (R355). (DEDUCED, log 17) -/
def State.pfWriteOne (s : State) : State :=
  let p := s.pf
  if p.size = 0 || decide (p.size.toNat ≤ p.unacked) then s
  else
    match p.recs.find? fun r => !r.written with
    | none => s
    | some r =>
      let s1 := s.hwStore 0 0 (p.ring + 32 * (p.head % p.size.toNat)) (r.bytes p.head)
      let seq := (p.head + 1) % 2 ^ 31
      { s1 with pf := { p with
          head := p.head + 1
          recs := p.recs.map fun x =>
            if x.asid = r.asid && x.va.toNat / 65536 == r.va.toNat / 65536 && !x.written then
              { x with written := true, seq := seq }
            else x } }

/-- Write pending records while the ring has room. -/
def State.pfWrite (s : State) : State := s.pf.recs.foldl (fun s _ => s.pfWriteOne) s

/-- Threads join, or an engine makes, the pending record of an absent page (R355). (DEDUCED, log 18) -/
def State.pfRecord (s : State) (asid va slice access : Nat) (uids : List Nat) : State :=
  let same := fun (r : PfRecord) => r.asid == asid && r.va.toNat / 65536 == va / 65536
  let recs := if s.pf.recs.any same then
      s.pf.recs.map fun r =>
        if same r then { r with uids := r.uids ++ uids } else r
    else s.pf.recs ++ [⟨0, asid, BitVec.ofNat 64 va, slice, access, false, uids, false⟩]
  { s with pf := { s.pf with recs := recs } }

/-- Join or make the record of an absent page, and write it if the ring has room (R355). -/
def State.pfJoin (s : State) (asid va slice access : Nat) (uids : List Nat) : State :=
  (s.pfRecord asid va slice access uids).pfWrite

/-- Park a thread at an absent page and join or make the page's record (R114, R355). (DEDUCED, log 18) -/
def State.parkPage (s : State) (u : Nat) (f : FaultInfo) (w : FaultAt) (m : DWord) : State :=
  let t := s.thread u
  let asid := (s.slice t.slice).asid
  let va := s.faultVa t f.addr
  (s.setThread u fun t => { t with park := .page asid (va / 65536) f.addr w.ends m }).pfRecord asid va t.slice f.sub [u]

/-- A thread takes a fault: a Page fault parks it when the ring exists and becomes an Access fault,
subcode 0x21, when it does not; any other fault is delivered (R107, R114, R355). -/
def State.takeFault (s : State) (u : Nat) (f : FaultInfo) (w : FaultAt) (fmask : DWord) : State :=
  if f.code = 0x04 then
    if s.pf.size = 0 then s.deliver u (accessFault 0x21 f.addr) w fmask else s.parkPage u f w fmask
  else s.deliver u f w fmask

/-- The lanes of some threads, as %fmask shows them (R107). (DEDUCED, log 14) -/
def State.lanesMask (s : State) (us : List Nat) : DWord :=
  us.foldl (fun m u => m ||| BitVec.ofNat 64 (2 ^ (s.thread u).lane)) 0

/-- Some threads of an issue set fault at one instruction: each takes its own fault, and all that park have joined their
page's record when it is written (R107, R114, R355). (DEDUCED, log 14) -/
def State.takeFaults (s : State) (fs : List (Nat × FaultInfo)) (w : FaultAt) : State :=
  let m := s.lanesMask (fs.map (·.1))
  let s1 := fs.foldl (fun s x => s.takeFault x.1 x.2 w m) s
  if fs.any fun x => x.2.code == 0x04 then s1.pfWrite else s1

/-! ### Returning from the handler -/

/-- The run context that a fault frame gives back (R108): k0 to k7, the pending hints and GCOVER. -/
structure FrameCtx where
  k : List Word
  hints : Hints
  deriving DecidableEq, Repr

/-- Read words of the private area, or the fault of a read. -/
def State.privLoadWords (s : State) (t : Thread) (off : Nat) : Nat → Except FaultInfo (List Word)
  | 0 => .ok []
  | n + 1 =>
    match s.privLoadWord t off with
    | .error f => .error f
    | .ok v =>
      match s.privLoadWords t (off + 4) n with
      | .error f => .error f
      | .ok r => .ok (v :: r)

/-- The run context of a thread's fault frame (R108, R112). (DEDUCED, log 15) -/
def State.frameCtx (s : State) (t : Thread) : Except FaultInfo FrameCtx :=
  let base := (s.launchOf t).privateBytes - 128
  match s.privLoadWords t (base + 0x20) 12 with
  | .error f => .error f
  | .ok l =>
    match s.privLoadWord t (base + 0x14) with
    | .error f => .error f
    | .ok p =>
      let h := fun n => l.getD n 0
      let cover := ((p >>> 8).toNat % 256)
      .ok ⟨l.take 8, ⟨hintSlot (h 8), hintSlot (h 9), if cover = 0 then none else hintSlot (h 10),
        hintSlot (h 11), cover⟩⟩

/-- List the k registers that are not 0. -/
def kList (l : List (Nat × Word)) (k : List Word) : List (Nat × Word) :=
  k.zipIdx.foldl (fun r x => if x.1 = 0 then r else regPut r (120 + x.2) x.1) l

/-- Put k0 to k7 back (R51, R112). -/
def Thread.putK (t : Thread) (k : List Word) : Thread :=
  { t.dropK with regs := kList (clearK t.regs) k }

/-- Put the poison of k registers back with them (R117): a register whose word in the frame the handler has changed is
written, and no longer poisoned. (DEDUCED, log 15) -/
def Thread.putKBad (t : Thread) (k : List Word) (bad : List (Nat × Word)) : Thread :=
  let t1 := t.putK k
  { t1 with poison := t1.poison ++ (bad.filter fun x => k.getD (x.1 - 120) 0 == x.2).map (·.1) }

/-- Consume the hints of an instruction and one covered instruction of an HGRD (R54, R58, R112). -/
def Hints.consume (h : Hints) : Hints :=
  ⟨none, none, if h.cover ≤ 1 then none else h.hgrd, none, h.cover - 1⟩

/-- Leave the handler for the code that faulted (R112, R113, R347): a fault delivered at a run boundary resumes the run
that was to begin there, the thread parked as the fault found it (R159), and a debugger's stop inside a run goes on at the
position it stopped at, with the frame's run context. `.skip` of a fault taken at a hint consumes what it would consume at any instruction: the hints pending then and
one covered instruction. (DEDUCED, log 15) -/
def Thread.rfe (t : Thread) (c : FrameCtx) (skip : Bool) : Thread :=
  let r := t.resume
  let t1 := { t with mode := if t.mode = Mode.superHandler then .supervisor else .user, csp := t.userCsp }
  if r.boundary && r.pos == 0 then
    { (t1.newRun r.pc).putK c.k with hints := c.hints, park := r.park, parkPc := r.parkPc }
  else if skip && r.ends && !r.boundary then t1.newRun (r.pc + 4)
  else
    let t2 := { t1.putKBad c.k r.kbad with runId := r.run, after := none }
    if skip && !r.boundary then { t2 with pc := r.pc + 4, pos := r.pos + 1, hints := c.hints.consume }
    else { t2 with pc := r.pc, pos := r.pos, hints := c.hints }

/-- A thread at the instruction that it is to issue, with its run context (R51). -/
def Thread.runCtx (t : Thread) : RunCtx :=
  ⟨t.uid, t.pc, t.pos, t.runId, t.hints, (List.range 8).map fun i => t.g (120 + i), t.kBad⟩

/-- Take a thread back to the instruction at which it faults, its run context as it was (R51). -/
def RunCtx.restore (c : RunCtx) (t : Thread) : Thread :=
  { t.putKBad c.k c.kbad with pc := c.pc, pos := c.pos, runId := c.run, hints := c.hints, after := none }

/-- A run of the thread ends: it goes to the next instruction, to a control transfer's target, or back to
the code that faulted (R44, R45). -/
def Thread.runOver (t : Thread) : Thread :=
  match t.after with
  | none => t.newRun (t.pc + 4)
  | some (.goto pc) => t.newRun pc
  | some (.rfe skip k h) => t.rfe ⟨k, h⟩ skip

end Sys2Proof.Machine
end

