-- ==== Sys2Proof/Machine/Operands.lean ====
section
/-! DEFINITION. What the encoding tables say of each instruction beside its operands (its class, the
modifiers it accepts, whether it ends a run), the operand forms (immediates under HIMM, LAST), and the
checks of an instruction at its issue (R19, R23, R44, R45, R53 to R58, R65, R68, R116). -/

namespace Sys2Proof

/-- The pre-emption class of an instruction word (R39; of the memory instructions R145), as its bit in PCLASS_MASK (R37): A, M, X, L, G, T,
H, E, S. -/
def Instr.klass : Instr → Option Nat
  | .himm .. | .hmod .. | .hgrd .. | .trl .. | .hsch .. | .nop .. | .phaseAnnounce ..
  | .phaseEnd .. | .phaseQuery .. | .trace .. | .add .. | .sub .. | .mul .. | .mulh .. | .mad ..
  | .and .. | .or .. | .xor .. | .andn .. | .shl .. | .shr .. | .sra .. | .min .. | .max ..
  | .abs .. | .clz .. | .popc .. | .brev .. | .bfx .. | .bfi .. | .cmov .. | .div .. | .rem ..
  | .adds .. | .subs .. | .movi .. | .addi .. | .andi .. | .ori .. | .xori .. | .shi ..
  | .cmpi .. | .cmpiV1 .. | .mov .. | .s2g .. | .g2s .. | .ldpc .. | .addw .. | .subw ..
  | .mulw .. | .shlw .. | .shrw .. | .leaw .. | .movw .. | .cmp .. | .cmpw .. | .plog ..
  | .p2g .. | .g2p .. | .fadd .. | .fsub .. | .fmul .. | .ffma .. | .fmin .. | .fmax ..
  | .fcmp .. | .fcvt .. | .icvt .. | .rcp .. | .rsq .. | .sqrt .. | .ex2 .. | .lg2 .. | .sin ..
  | .cos .. | .tanh .. | .dot4 .. | .dot8 .. | .pack .. | .unpk .. | .scl .. | .brk .. | .br ..
  | .jmpi .. | .call .. | .calli .. | .ret .. | .exit .. | .trap .. | .land .. | .rfeReplay ..
  | .rfeSkip .. => some 0
  | .ldb .. | .ldh .. | .ldw .. | .ldd .. | .ldq .. | .stb .. | .sth .. | .stw .. | .std ..
  | .stq .. | .lds .. | .sts .. | .ldpoll .. | .pref .. => some 1
  | .aadd .. | .amm .. | .alog .. | .acas .. | .fenceAcq .. | .fenceRel .. | .fenceAr ..
  | .ofence .. | .ldacq .. | .strel .. | .cflush .. => some 2
  | .join .. | .yield .. | .waitc .. | .cdetect .. | .shfl .. | .bcast .. | .ballot ..
  | .vote .. | .red .. | .scan .. | .topk .. | .matchv .. | .sortkv .. | .bar .. | .cvinit ..
  | .cvsign .. | .elect .. | .twait .. | .qpush .. | .qpushClose .. | .qpop .. | .fgetWait ..
  | .fgetPoll .. => some 3
  | .regroup .. => some 4
  | .tload .. | .tstore .. | .tbind .. | .tzero .. | .tfree .. | .tinfo .. | .tmova ..
  | .tmovr .. | .tcvt .. | .ttran .. | .tset .. | .tcopy .. | .tget .. | .tnorm .. | .tmma ..
  | .tmmas .. | .tadd .. | .tdense .. | .tlrf .. | .tscal .. => some 5
  | .trnd .. | .tlu .. | .ttrs .. => some 6
  | .xform .. | .xwait .. | .xcancel .. | .coll .. | .popenNew .. | .popenReset .. | .pclaim ..
  | .pcloseRet .. | .pcloseSeal .. | .pbias .. | .fnew .. | .invoke .. | .invh .. | .fput ..
  | .fbreak .. | .frel .. | .slice .. => some 7
  | .cwatchSet .. | .cwatchClr .. | .tlbinvPage .. | .tlbinvAsid .. | .tlbinvAll .. | .ctxsv ..
  | .ctxld .. | .cinv .. => some 8
  | _ => none

/-- HIMM, HMOD, HGRD, TRL, HSCH and NOP (R54). -/
def Instr.isHint : Instr → Bool
  | .himm .. | .hmod .. | .hgrd .. | .trl .. | .hsch .. | .nop .. => true
  | _ => false

/-- The stalling instructions (R184), but for TNORM, which is a tile instruction. -/
def Instr.stalling : Instr → Bool
  | .fenceAcq .. | .fenceRel .. | .fenceAr .. | .ofence .. | .cflush .. | .cinv .. | .fgetPoll .. | .cwatchSet ..
  | .cwatchClr .. | .tlbinvPage .. | .tlbinvAsid .. | .tlbinvAll .. | .ctxsv .. | .ctxld .. => true
  | _ => false

/-- The instructions that stand only at the end of a run (R45). -/
def Instr.runEnd : Instr → Bool
  | .br .. | .jmpi .. | .call .. | .calli .. | .ret .. | .join .. | .exit .. | .trap ..
  | .yield .. | .waitc .. | .rfeReplay .. | .rfeSkip .. | .brk .. | .bar .. | .regroup ..
  | .qpush .. | .qpushClose .. | .qpop .. | .fgetWait .. | .xwait .. => true
  | _ => false

/-- The privileged instructions other than RFE (R63, R346). -/
def Instr.privileged : Instr → Bool
  | .cwatchSet .. | .cwatchClr .. | .tlbinvPage .. | .tlbinvAsid .. | .tlbinvAll .. | .ctxsv ..
  | .ctxld .. | .cinv .. => true
  | _ => false

/-- The control transfers, which set the PC of every live thread themselves (R94). -/
def Instr.jumps : Instr → Bool
  | .br .. | .jmpi .. | .call .. | .calli .. | .ret .. | .rfeReplay .. | .rfeSkip .. => true
  | _ => false

/-- The switch bit S of an instruction (R43); a trailer's is always 1 (R53). -/
def Instr.sbit : Instr → Bool
  | .himm e _ => e
  | .hmod e _ => e
  | .hgrd e _ _ _ => e
  | .trl _ => true
  | .hsch e _ _ _ _ => e
  | .nop e => e
  | .phaseAnnounce e _ _ _ _ _ => e
  | .phaseEnd e => e
  | .phaseQuery e => e
  | .brk e _ => e
  | .trace e _ _ => e
  | .add e _ _ _ => e
  | .sub e _ _ _ => e
  | .mul e _ _ _ => e
  | .mulh e _ _ _ _ => e
  | .mad e _ _ _ => e
  | .and e _ _ _ => e
  | .or e _ _ _ => e
  | .xor e _ _ _ => e
  | .andn e _ _ _ => e
  | .shl e _ _ _ => e
  | .shr e _ _ _ => e
  | .sra e _ _ _ => e
  | .min e _ _ _ _ => e
  | .max e _ _ _ _ => e
  | .abs e _ _ => e
  | .clz e _ _ => e
  | .popc e _ _ => e
  | .brev e _ _ => e
  | .bfx e _ _ _ => e
  | .bfi e _ _ _ => e
  | .cmov e _ _ _ => e
  | .div e _ _ _ _ => e
  | .rem e _ _ _ _ => e
  | .adds e _ _ _ _ => e
  | .subs e _ _ _ _ => e
  | .movi e _ _ => e
  | .addi e _ _ _ => e
  | .andi e _ _ _ => e
  | .ori e _ _ _ => e
  | .xori e _ _ _ => e
  | .shi e _ _ _ _ => e
  | .cmpi e _ _ _ _ => e
  | .cmpiV1 e _ _ _ _ => e
  | .mov e _ _ => e
  | .s2g e _ _ => e
  | .g2s e _ _ => e
  | .ldpc e _ _ => e
  | .addw e _ _ _ => e
  | .subw e _ _ _ => e
  | .mulw e _ _ _ _ => e
  | .shlw e _ _ _ => e
  | .shrw e _ _ _ _ => e
  | .leaw e _ _ _ _ => e
  | .movw e _ _ => e
  | .cmp e _ _ _ _ => e
  | .cmpw e _ _ _ _ => e
  | .plog e _ _ _ _ => e
  | .p2g e _ _ => e
  | .g2p e _ _ _ => e
  | .fadd e _ _ _ _ => e
  | .fsub e _ _ _ _ => e
  | .fmul e _ _ _ _ => e
  | .ffma e _ _ _ _ => e
  | .fmin e _ _ _ _ => e
  | .fmax e _ _ _ _ => e
  | .fcmp e _ _ _ _ _ => e
  | .fcvt e _ _ _ _ => e
  | .icvt e _ _ _ _ _ => e
  | .rcp e _ _ _ => e
  | .rsq e _ _ => e
  | .sqrt e _ _ _ => e
  | .ex2 e _ _ => e
  | .lg2 e _ _ => e
  | .sin e _ _ => e
  | .cos e _ _ => e
  | .tanh e _ _ => e
  | .dot4 e _ _ _ _ => e
  | .dot8 e _ _ _ _ => e
  | .pack e _ _ _ _ => e
  | .unpk e _ _ _ _ => e
  | .scl e _ _ _ _ => e
  | .br e _ _ _ => e
  | .jmpi e _ => e
  | .call e _ => e
  | .calli e _ => e
  | .ret e => e
  | .join e _ => e
  | .exit e _ => e
  | .trap e _ => e
  | .land e => e
  | .yield e => e
  | .waitc e _ _ => e
  | .rfeReplay e => e
  | .rfeSkip e => e
  | .ldb e _ _ _ => e
  | .ldh e _ _ _ => e
  | .ldw e _ _ _ => e
  | .ldd e _ _ _ => e
  | .ldq e _ _ _ => e
  | .stb e _ _ _ => e
  | .sth e _ _ _ => e
  | .stw e _ _ _ => e
  | .std e _ _ _ => e
  | .stq e _ _ _ => e
  | .lds e _ _ _ => e
  | .sts e _ _ _ => e
  | .ldpoll e _ _ _ => e
  | .pref e _ _ _ => e
  | .aadd e _ _ _ _ => e
  | .amm e _ _ _ _ => e
  | .alog e _ _ _ _ => e
  | .acas e _ _ _ _ => e
  | .fenceAcq e _ => e
  | .fenceRel e _ => e
  | .fenceAr e _ => e
  | .ofence e => e
  | .cdetect e _ _ => e
  | .ldacq e _ _ _ => e
  | .strel e _ _ _ => e
  | .shfl e _ _ _ _ => e
  | .bcast e _ _ _ _ => e
  | .ballot e _ _ => e
  | .vote e _ _ _ => e
  | .red e _ _ _ _ _ => e
  | .scan e _ _ _ _ _ _ => e
  | .topk e _ _ _ _ => e
  | .matchv e _ _ _ => e
  | .sortkv e _ _ _ _ => e
  | .regroup e _ _ _ => e
  | .bar e => e
  | .cvinit e _ _ => e
  | .cvsign e _ _ => e
  | .elect e _ => e
  | .tload e _ _ _ _ => e
  | .tstore e _ _ _ => e
  | .tbind e _ _ _ => e
  | .tzero e _ _ _ => e
  | .tfree e _ => e
  | .tmma e _ _ _ _ => e
  | .tmmas e _ _ _ => e
  | .tadd e _ _ _ => e
  | .trnd e _ _ _ => e
  | .tdense e _ _ _ => e
  | .tlrf e _ _ _ => e
  | .tscal e _ _ _ _ => e
  | .tinfo e _ _ => e
  | .tmova e _ _ _ => e
  | .tmovr e _ _ _ => e
  | .twait e _ _ _ _ => e
  | .tlu e _ => e
  | .ttrs e _ _ _ => e
  | .tcvt e _ _ _ _ => e
  | .ttran e _ _ _ => e
  | .tset e _ _ _ => e
  | .tcopy e _ _ _ => e
  | .tget e _ _ _ _ => e
  | .tnorm e _ _ _ => e
  | .qpush e _ _ => e
  | .qpushClose e _ => e
  | .qpop e _ _ _ => e
  | .xform e _ _ => e
  | .xwait e _ => e
  | .xcancel e _ _ => e
  | .coll e _ => e
  | .popenNew e _ _ => e
  | .popenReset e _ _ _ => e
  | .pclaim e _ _ _ => e
  | .pcloseRet e _ _ _ => e
  | .pcloseSeal e _ _ _ => e
  | .pbias e _ _ _ => e
  | .fnew e _ => e
  | .invoke e _ _ => e
  | .invh e _ _ _ => e
  | .fput e _ _ _ _ => e
  | .fgetWait e _ _ _ => e
  | .fgetPoll e _ _ _ => e
  | .fbreak e _ _ _ => e
  | .frel e _ _ => e
  | .slice e _ _ => e
  | .cwatchSet e _ _ => e
  | .cwatchClr e _ _ => e
  | .tlbinvPage e _ _ => e
  | .tlbinvAsid e _ => e
  | .tlbinvAll e => e
  | .ctxsv e _ _ _ => e
  | .ctxld e _ _ => e
  | .cflush e _ _ _ => e
  | .cinv e _ _ _ => e
  | _ => false

/-- The width of the immediate field that HIMM widens (R55). -/
def Instr.immWidth : Instr → Option Nat
  | .addi .. | .andi .. | .ori .. | .xori .. | .trap .. | .ldb .. | .ldh .. | .ldw .. | .ldd ..
  | .ldq .. | .stb .. | .sth .. | .stw .. | .std .. | .stq .. | .lds .. | .sts .. | .ldpoll ..
  | .pref .. => some 9
  | .movi .. | .ldpc .. | .br .. => some 16
  | .cmpi .. | .cmpiV1 .. => some 7
  | .call .. => some 23
  | _ => none

/-- The HMOD fields besides LAST that an instruction accepts, as bits of the payload (R56, R68, R128, R145,
R192, R232, R246, R271, R325). -/
def Instr.modMask : Instr → BitVec 23
  | .abs .. | .tcvt .. | .tscal .. => 0x40
  | .fadd .. | .fsub .. | .fmul .. | .ffma .. | .icvt .. | .sqrt .. | .unpk .. | .scl .. => 0x380
  | .fcmp .. => 0x8000
  | .fcvt .. | .pack .. => 0x3C0
  | .rcp _ _ _ f => if f = 1 then 0x380 else 0
  | .dot4 _ _ _ _ f => if f = 2 then 0x40 else 0x380
  | .dot8 _ _ _ _ f => if f = 1 then 0x40 else 0x380
  | .ldb .. | .ldh .. | .ldw .. | .ldd .. | .ldq .. | .stb .. | .sth .. | .stw .. | .std ..
  | .stq .. => 0x30
  | .ldpoll .. | .aadd .. | .amm .. | .alog .. | .acas .. => 0xF
  | .cdetect .. | .shfl .. | .bcast .. | .ballot .. | .vote .. | .red .. | .scan .. | .topk ..
  | .matchv .. | .sortkv .. => 0x20000
  | .tmma .. | .tmmas .. => 0x40000
  | .trnd .. => 0x10000
  | .fput .. | .frel .. => 0x4000
  | .fgetWait .. | .fgetPoll .. => 0x6000
  | _ => 0

/-- Whether an encoding version has the instruction (R64). (DEDUCED, log 31) -/
def Instr.inVersion (i : Instr) (v : Nat) : Bool :=
  match i with
  | .trace .. | .tnorm .. | .xcancel .. => 3 ≤ v
  | .popenNew .. | .popenReset .. | .pclaim .. | .pcloseRet .. | .pcloseSeal .. | .pbias .. | .ldpc ..
  | .cmpi .. => 2 ≤ v
  | .cmpiV1 .. => v == 1
  | _ => true

/-! ### Operands under the modifiers -/

/-- The register operands under an HMOD payload: FCMP reads w registers under F64 (R131), and TRND reads
its b register under TOL alone (R271). -/
def Instr.operandsUnder (i : Instr) (m : BitVec 23) : List Opnd :=
  match i with
  | .fcmp _ p a b _ _ =>
    if m.getLsbD 15 then [.dst .p p.toNat, .srcA .w a.toNat, .srcB .w b.toNat] else i.operands
  | .trnd _ d a b =>
    if m.getLsbD 16 then [.src .t d.toNat, .src .t a.toNat, .srcB .g b.toNat]
    else [.src .t d.toNat, .src .t a.toNat]
  | i => i.operands

/-- The registers an operand names, as SUBCODE of R116 numbers them: a general or k register by its
encoding, a predicate pn as 0x80 + n. A TMOVA or TMOVR range is known at its issue alone (R242). -/
def Opnd.regs (o : Opnd) : List Nat :=
  match o.kind with
  | .g => [o.num]
  | .w => [2 * o.num, 2 * o.num + 1]
  | .wq => [2 * o.num, 2 * o.num + 1, 2 * o.num + 2, 2 * o.num + 3]
  | .p => [0x80 + o.num]
  | .g2 => [o.num, o.num + 1]
  | .g8 => (List.range 8).map (o.num + ·)
  | .gn n => if o.num = 0 then [] else (List.range n).map (o.num + ·)
  | .t | .cv | .q | .gr => []

/-- The register encodings an operand's field names to the budget: the first register of a TMOVA or TMOVR range among
them (R19, R232). -/
def Opnd.named (o : Opnd) : List Nat := if o.kind = .gr then [o.num] else o.regs

/-- Whether every live thread reads its register operands: the row word of TMOVA and TMOVR is read from
one thread alone (R242). -/
def Instr.readsOperands : Instr → Bool
  | .tmova .. | .tmovr .. => false
  | _ => true

/-- The registers read, P2G's bank of predicates included (R88, R116). -/
def Instr.reads (i : Instr) (m : BitVec 23) : List Nat :=
  (if i.readsOperands then ((i.operandsUnder m).filter (·.rd)).flatMap Opnd.regs else []) ++
    (match i with
     | .p2g _ _ f => if f = 0 then (List.range 32).map (0x80 + ·) else (List.range 16).map (0xA0 + ·)
     | _ => [])

/-- Whether a register encoding is above a budget: k0 to k7 never count (R19). -/
def overBudget (budget n : Nat) : Bool := budget < n && n < 120

/-- Whether an instruction names a g register above the budget (R19, R146, R192). -/
def Instr.overBudget (i : Instr) (m : BitVec 23) (budget : Nat) : Bool :=
  ((i.operandsUnder m).any fun o => o.kind != .p && o.named.any (Sys2Proof.overBudget budget)) ||
    (match i with
     | .regroup _ _ _ n => budget < n.toNat
     | _ => false)

/-- Whether a tile handle lies outside a window of `n` entries (R23). (DEDUCED, log 28) -/
def Instr.outOfWindow (i : Instr) (m : BitVec 23) (n : Nat) : Bool :=
  (i.operandsUnder m).any fun o => o.kind == .t && n ≤ o.num

/-- The LAST slots that an instruction reads as registers, as payload bits [12:10] (R56). -/
def Instr.lastMask (i : Instr) (m : BitVec 23) : BitVec 23 :=
  let has := fun s => (i.operandsUnder m).any fun o => o.slot == s && o.rd
  (if has .a then 0x400 else 0) ||| (if has .b then 0x800 else 0) ||| (if has .c then 0x1000 else 0)

/-- Whether a LAST slot is set in a payload (R56). -/
def Slot.set (s : Slot) (m : BitVec 23) : Bool :=
  match s with
  | .none => false
  | .a => m.getLsbD 10
  | .b => m.getLsbD 11
  | .c => m.getLsbD 12

/-- The registers that LAST releases (R18, R56): which slots an entry has, its table says (R145 for the memory
instructions). -/
def Instr.lastRegs (i : Instr) (m : BitVec 23) : List Nat :=
  ((i.operandsUnder m).filter fun o => o.rd && o.slot.set m).flatMap Opnd.regs

/-- Whether a scope code is a scope (R57). -/
def scopeOk (c : Nat) : Bool := c < 10

/-- Whether the payload of an HMOD and the scope fields fit the instruction (R56, R57, R131, R145, R161, R167,
R185 to R187). -/
def Instr.modifierOk (i : Instr) (m : BitVec 23) : Bool :=
  (m &&& ~~~(i.modMask ||| i.lastMask m)) == 0 &&
    (match i with
     | .fcmp _ _ _ _ t _ => !(m.getLsbD 15 && t == 1)
     | .ldpoll .. | .aadd .. | .amm .. | .alog .. | .acas .. =>
       let c := (m.extractLsb' 0 4).toNat
       scopeOk c && c != 1 && c != 2
     | .fenceAcq _ c | .fenceRel _ c | .fenceAr _ c => scopeOk c.toNat
     | .ldacq _ _ _ c | .strel _ _ _ c => scopeOk c.toNat
     | _ => true)

/-- Whether the fields that an HMOD makes reserved are zero: TRND's tb without TOL (R271). -/
def Instr.reservedUnder (i : Instr) (m : BitVec 23) : Bool :=
  i.reservedOk &&
    (match i with
     | .trnd _ _ _ b => m.getLsbD 16 || b == 0
     | _ => true)

/-! ### Immediates -/

/-- An immediate read as signed: the field sign-extended, or imm32 under HIMM (R55). -/
def immS (h : Option (BitVec 23)) {w : Nat} (f : BitVec w) : Word :=
  match h with
  | none => f.signExtend 32
  | some p => (p ++ f).signExtend 32

/-- An immediate read as unsigned: the field zero-extended, or imm32 under HIMM (R55). -/
def immZ (h : Option (BitVec 23)) {w : Nat} (f : BitVec w) : Word :=
  match h with
  | none => f.setWidth 32
  | some p => (p ++ f).signExtend 32

/-- The opcodes HIMM may target under an encoding version (R55, R64). -/
def himmOpcode (v op : Nat) : Bool :=
  assigned v op &&
    (op == 0x30 || (0x31 ≤ op && op ≤ 0x34) || op == 0x36 || op == 0x3A || op == 0x70 || op == 0x72 ||
      op == 0x77 || (0x80 ≤ op && op ≤ 0x8D))

/-- Whether an opcode is a hint's (R54). -/
def hintOpcode (op : Nat) : Bool := 1 ≤ op && op ≤ 6

end Sys2Proof
end

