-- ==== Sys2Proof/Machine/Issue.lean ====
section
/-! DEFINITION. The issue of one instruction by one group (R46, R51, R54 to R60, R65, R116): its context,
the checks every instruction makes, and how the threads of the issue set go on. The meaning of an
instruction is an `Act`: what it does for its live threads. -/

namespace Sys2Proof.Machine

/-- The hints of one thread for the instruction that issues: its uid, the HIMM payload, the HMOD payload and the
registers that HMOD.LAST names. -/
structure Own where
  uid : Nat
  himm : Option (BitVec 23)
  m : BitVec 23
  last : List Nat
  deriving DecidableEq, Repr, Inhabited

/-- The context of an issue: the group, its core, slice and team, the threads that issue together, the
PC, the position, the S bit, the HIMM payload and the HMOD payload of the instruction. `mixed` holds the hints of
each thread where they differ among the threads. -/
structure Cx where
  gid : Nat
  core : Nat
  slice : Nat
  team : Nat
  us : List Nat
  pc : Word
  pos : Nat
  e : Bool
  himm : Option (BitVec 23)
  m : BitVec 23
  last : List Nat
  mixed : List Own
  deriving DecidableEq, Repr, Inhabited

/-- The context as one thread of the issue set has it. -/
def Cx.of (cx : Cx) (t : Thread) : Cx :=
  match cx.mixed.find? (·.uid == t.uid) with
  | none => cx
  | some o => { cx with himm := o.himm, m := o.m, last := o.last }

/-- What an instruction does for its live threads, given as they were before the issue: the new state and
the faults raised; `none` when the instruction is held (R222). A thread that faults is left as it was. -/
abbrev Act := Cx → List Thread → State → Option (State × List (Nat × FaultInfo))

/-- Release the registers that LAST names (R18, R56, R117). -/
def Thread.lastRelease (t : Thread) (l : List Nat) : Thread := l.foldl Thread.release t

/-- Release the LAST registers of one thread; `cx` is its own context. -/
def State.lastRelease (s : State) (cx : Cx) (u : Nat) : State :=
  if cx.last.isEmpty then s else s.setThread u fun t => t.lastRelease cx.last

/-- An operation of each live thread on its own registers: reads from the thread before the issue, writes
after LAST has acted. -/
def lanewise (f : Cx → Thread → Except FaultInfo (Thread → Thread)) : Act := fun cx ts s =>
  some (ts.foldl (fun (r : State × List (Nat × FaultInfo)) t =>
    match f (cx.of t) t with
    | .ok w => (r.1.setThread t.uid fun x => w (x.lastRelease (cx.of t).last), r.2)
    | .error x => (r.1, r.2 ++ [(t.uid, x)])) (s, []))

/-- An operation of each live thread on its own registers that never faults. -/
def alu (f : Cx → Thread → Thread → Thread) : Act := lanewise fun cx t => .ok (f cx t)

/-- An operation of each live thread on shared state, taken in ascending lane order. -/
def eachLane (f : Cx → Thread → State → Except FaultInfo State) : Act := fun cx ts s =>
  some (ts.foldl (fun (r : State × List (Nat × FaultInfo)) t =>
    match f (cx.of t) t (r.1.lastRelease (cx.of t) t.uid) with
    | .ok s => (s, r.2)
    | .error x => (r.1, r.2 ++ [(t.uid, x)])) (s, []))

/-- An operation of the live threads together. -/
def whole (f : Cx → List Thread → State → State) : Act := fun cx ts s =>
  some (f cx ts (ts.foldl (fun s t => s.lastRelease (cx.of t) t.uid) s), [])

/-- An instruction with no effect of its own. -/
def idle : Act := whole fun _ _ s => s

/-! ### Code ahead of the issue -/

/-- The word of the slice's code at a PC, as a thread fetches it; `none` when its page cannot be fetched
(R98). Instruction fetch reads at the L2. -/
def State.codeWord (s : State) (t : Thread) (pc : Word) : Option Word :=
  let sl := s.slice t.slice
  let va := sl.codeBase + pc.setWidth 64
  match s.checkVa t.core sl.asid va.toNat .fetch t.needU va with
  | .ok c =>
    match c.place with
    | .phys a => some (BitVec.ofNat 32 (leNat (s.codeBytes t.core a)))
    | .remote h a =>
      if s.granFailed (codeUid t.gid) (h, a / 32) then none
      else some (BitVec.ofNat 32 (leNat (s.remoteBytes (codeUid t.gid) h a 4)))
    | _ => none
  | .error _ => none

/-- The granules of other devices that `n` words of a thread's code from a PC lie in (R380). -/
def State.codeGrans (s : State) (t : Thread) (pc : Word) (n : Nat) : List Gran :=
  let sl := s.slice t.slice
  (List.range n).flatMap fun k =>
    let va := sl.codeBase + (pc + BitVec.ofNat 32 (4 * k)).setWidth 64
    match s.checkVa t.core sl.asid va.toNat .fetch t.needU va with
    | .ok c => c.place.grans 4
    | .error _ => []

/-- The words after a PC up to the end of the run or position 23; `none` stands for one not readable.
(DEDUCED, log 19) -/
def State.ahead (s : State) (t : Thread) (pc : Word) : Nat → List (Option Word)
  | 0 => []
  | n + 1 =>
    let w := s.codeWord t (pc + 4)
    w :: (match w with
      | some x => if sBit x then [] else s.ahead t (pc + 4) n
      | none => [])

/-- The words after a hint that are no hints: its possible targets (R54). -/
def targets (l : List (Option Word)) : List (Option Word) :=
  l.filter fun w => match w with
    | some x => !hintOpcode (opcodeOf x)
    | none => true

/-! ### Checks -/

/-- The hint checks of R54, R55, R58 and R59 on the threads that issue a hint. (DEDUCED, log 11; DEDUCED, log 19) -/
def State.hintBad (s : State) (cx : Cx) (i : Instr) (ts : List Thread) : Bool :=
  let v := (s.slice cx.slice).launch.version
  let tg := targets (if cx.e then [] else s.ahead (ts.headD default) cx.pc (23 - cx.pos))
  match i with
  | .himm .. =>
    ts.any (·.hints.himm.isSome) ||
      (match tg with
       | [] => true
       | some w :: _ => !himmOpcode v (opcodeOf w)
       | none :: _ => false)
  | .hmod .. => ts.any (·.hints.hmod.isSome) || tg.isEmpty
  | .hgrd _ _ _ c =>
    ts.any (fun t => t.hints.hgrd.isSome || 0 < t.hints.cover) ||
      (tg.length < c.toNat + 1 && !tg.contains none)
  | .hsch _ _ df _ _ => ts.any (·.hints.hsch.isSome) || tg.isEmpty || 4096 < df.toNat
  | _ => false

/-- Whether a run-ending instruction stands where it may (R45). (DEDUCED, log 19) -/
def State.runEndOk (s : State) (cx : Cx) (t : Thread) : Bool :=
  cx.e ||
    (match s.codeWord t (cx.pc + 4) with
     | some w => opcodeOf w == 0x04 && sBit w
     | none => false)

/-- The special registers that user code may name: read-write and read-only (R27). -/
def sregRw (c : Nat) : Bool := 0x20 ≤ c && c ≤ 0x23

/-- The read-only special registers of R27. -/
def sregRo (c : Nat) : Bool :=
  (1 ≤ c && c ≤ 8) || (0x10 ≤ c && c ≤ 0x12) || (0x30 ≤ c && c ≤ 0x36) || (0x40 ≤ c && c ≤ 0x42)

/-- The read-write privileged special registers (R353). -/
def pregRw (c : Nat) : Bool :=
  c == 0x8000 || (0x8010 ≤ c && c ≤ 0x8013) || c == 0x8018 || (0x8020 ≤ c && c ≤ 0x8022) ||
    c == 0x8024

/-- The read-only privileged special registers (R353). -/
def pregRo (c : Nat) : Bool :=
  (0x8001 ≤ c && c ≤ 0x8008) || c == 0x8014 || c == 0x8015 || c == 0x8023 ||
    (0x8030 ≤ c && c ≤ 0x8035)

/-- The special-register code of S2G or G2S. -/
def sregCode : Instr → Option (Nat × Bool)
  | .s2g _ _ c => some (c.toNat, false)
  | .g2s _ _ c => some (c.toNat, true)
  | _ => none

/-- Whether a thread is in user or handler mode (R104). -/
def Thread.unprivileged (t : Thread) : Bool := t.needU

/-- The Privilege checks of R346 step 2. (DEDUCED, log 60) -/
def privilegeBad (i : Instr) (t : Thread) : Bool :=
  (i.privileged && t.unprivileged) ||
    (match i with
     | .rfeReplay _ | .rfeSkip _ => t.mode == .user
     | _ => false) ||
    (match sregCode i with
     | some (c, _) => 0x8000 ≤ c && t.unprivileged
     | none => false)

/-- The Illegal Instruction checks in ascending subcode (R65, R346 step 3). (DEDUCED, log 20) -/
def State.illegalChecks (s : State) (cx : Cx) (i : Instr) (ts : List Thread) : List (Bool × Ill) :=
  let t := ts.headD default
  let l := (s.slice cx.slice).launch
  let m := if i.isHint then 0 else cx.m
  [ ((match sregCode i with
      | some (c, _) => !(sregRw c || sregRo c || pregRw c || pregRo c)
      | none => false) || !i.inVersion l.version, .opcode),
    (!i.reservedUnder m, .reserved),
    (!i.variantOk, .variant),
    (!(i.operandsUnder m).all Opnd.ok, .register),
    (i.overBudget m (l.regBudget t.role), .budget),
    (i.outOfWindow m (l.tileWindow), .tileWindow),
    (!i.modifierOk m, .modifier),
    (s.hintBad cx i ts, .hint),
    (i.runEnd && !s.runEndOk cx t, .runEnd),
    (decide (23 ≤ cx.pos) && !cx.e, .runLength),
    ((match i with
      | .trl msk => (msk >>> cx.pos) != 0
      | _ => false), .trailer),
    ((match sregCode i with
      | some (c, true) => sregRo c || pregRo c
      | _ => false), .readOnly),
    ((match i.klass with
      | some k => !l.pclass.getLsbD k
      | none => false), .klass),
    ((match i with
      | .rfeReplay _ | .rfeSkip _ => t.mode == .supervisor
      | _ => false), .noFrame) ]

/-- The first check that fails. -/
def firstBad : List (Bool × Ill) → Option Ill
  | [] => none
  | (b, x) :: r => if b then some x else firstBad r

/-- The fault that the checks of R346 raise for the threads of a context, if any. (DEDUCED, log 60) -/
def State.illegal (s : State) (cx : Cx) (i : Instr) (ts : List Thread) : Option FaultInfo :=
  let t := ts.headD default
  if privilegeBad i t then some privFault
  else (firstBad (s.illegalChecks cx i ts)).map ill

/-- The guard of a thread for a covered instruction (R58): it acts, it is guarded off, or the guard is
poisoned. Hints are not guarded. -/
inductive Guard where
  | on | off | bad (sub : Nat)
  deriving DecidableEq, Repr

/-- The guard of a thread at an instruction (R58, R116). -/
def Thread.guard (t : Thread) (i : Instr) : Guard :=
  if i.isHint || t.hints.cover = 0 then .on
  else
    match t.hints.hgrd with
    | none => .on
    | some w =>
      let p := (w.extractLsb' 17 6).toNat
      if t.poison.contains (0x80 + p) then .bad (0x80 + p)
      else if t.p p != w.getLsbD 16 then .on
      else .off

/-- A Register Poison fault naming a register (R116). -/
def poisonFault (sub : Nat) : FaultInfo := flt 0x0B sub

/-- The lowest poisoned register that an instruction reads (R116): where poisoned registers stand in several of its slots,
too, the lowest of them all is the one reported, as of the two halves of one w read. (DESIGN CHOICE, log 85) -/
def Thread.poisonRead (t : Thread) (i : Instr) (m : BitVec 23) : Option Nat :=
  ((i.reads m).filter fun n => n != 0 && n != 0x80 && t.poison.contains n).min?

/-! ### Hints that act at their target -/

/-- One higher than any stamp held in a group (R92). (DEDUCED, log 13) -/
def State.nextStamp (s : State) (gid : Nat) : Nat :=
  ((s.groupThreads gid).map (·.stamp)).foldl Nat.max 0 + 1

/-- Demote threads together (R92). (DEDUCED, log 13) -/
def State.demote (s : State) (gid : Nat) (us : List Nat) : State :=
  let n := s.nextStamp gid
  s.setThreads us fun t => { t with stamp := n }

/-- Close the deferral window of a slice; a request it held takes effect at the next boundary (R59). -/
def Slice.closeWindow (l : Slice) (now : Nat) : Slice :=
  { l with window := none, stopReq := l.stopReq.map fun r => (r.1, min r.2 now) }

/-- Open a deferral window, unless one is open (R59). -/
def Slice.openWindow (l : Slice) (now d : Nat) : Slice :=
  match l.window with
  | some _ => l
  | none => { l with window := some (now + d) }

/-- With its slice's window closed, a context save's stop that waited for it begins (R59, R362). -/
def State.ctxClose (s : State) (slice : Nat) : State :=
  { s with ctxAreas := s.ctxAreas.map fun (c : CtxArea) =>
      if c.slice = slice then { c with stopAt := c.stopAt.map (min · s.now) } else c }

/-- HSCH at the issue of its target (R59). -/
def State.hschAct (s : State) (cx : Cx) (w : Word) (live : List Nat) : State :=
  let s1 := if w.getLsbD 0 then s.setGroup cx.gid fun g => { g with yieldEnd := true } else s
  let s2 := if w.getLsbD 1 then s1.demote cx.gid live else s1
  let s3 := if w.getLsbD 15 then (s2.setSlice cx.slice fun l => l.closeWindow s.now).ctxClose cx.slice else s2
  let d := (w.extractLsb' 2 13).toNat
  if d = 0 then s3 else s3.setSlice cx.slice fun l => l.openWindow s.now d

/-! ### The issue -/

/-- The group that issues and the threads of its issue set. -/
def State.issuing (s : State) : Option (Group × List Thread) :=
  match s.cur with
  | none => none
  | some gid =>
    let g := s.group gid
    match g.run with
    | none => none
    | some us => if us.isEmpty then none else some (g, us.map s.thread)

/-- The pending hint words that decide what an instruction does in a thread. (DEDUCED, log 12) -/
def Thread.hintKey (t : Thread) : Option Word × Option Word × Option Word :=
  (t.hints.himm, t.hints.hmod, t.hints.hsch)

/-- The threads of an issue set in classes of equal hint words, by lowest lane (R108, R112). (DEDUCED, log 12) -/
def hintClasses (ts : List Thread) : List (List Thread) :=
  ((ts.map Thread.hintKey).dedup).map fun k => ts.filter fun t => t.hintKey == k

/-- The context of a class of threads. -/
def Group.context (g : Group) (i : Instr) (ts : List Thread) : Cx :=
  let t := ts.headD default
  let m := (t.hints.hmod.getD 0).setWidth 23
  { gid := g.gid, core := g.core, slice := g.slice, team := g.team, us := ts.map (·.uid), pc := t.pc,
    pos := t.pos, e := i.sbit, himm := t.hints.himm.map (·.setWidth 23), m := m,
    last := i.lastRegs m, mixed := [] }

/-- The context of an issue set, whose threads may hold different hints (R108, R112). (DEDUCED, log 12) -/
def Group.contexts (g : Group) (i : Instr) (ts : List Thread) : Cx :=
  match hintClasses ts with
  | [_] => g.context i ts
  | cs =>
    let own := cs.flatMap fun c => c.map fun t =>
      ⟨t.uid, (g.context i c).himm, (g.context i c).m, (g.context i c).last⟩
    { g.context i ts with mixed := own }

/-- What an instruction's effect has made of the machine, and the faults of its threads. -/
structure Issued where
  st : State
  faults : List (Nat × FaultInfo)
  deriving DecidableEq, Repr

/-- The threads of an issue set whose guard lets them act, and the faults of those whose guard is poisoned. -/
def guarded (i : Instr) (ts : List Thread) : List Thread × List (Nat × FaultInfo) :=
  (ts.filter fun t => t.guard i == .on,
    ts.filterMap fun t => match t.guard i with
      | .bad n => some (t.uid, poisonFault n)
      | _ => none)

/-- The faults of the checks of R346 in a class of threads with equal hints. -/
def State.classFaults (s : State) (i : Instr) (g : Group) (ts : List Thread) : List (Nat × FaultInfo) :=
  let on := (guarded i ts).1
  match if on.isEmpty then none else s.illegal (g.context i ts) i on with
  | some f => on.map fun t => (t.uid, f)
  | none => []

/-- How many threads that are not live for an instruction would read a poisoned register (R117): those guarded off, and
those of the group outside the issue set. -/
def State.unread (s : State) (i : Instr) (g : Group) (ts : List Thread) : Nat :=
  let m := (g.context i ts).m
  let off := ts.filter fun t => t.guard i == .off
  let out := (s.groupThreads g.gid).filter fun t => !ts.any (·.uid == t.uid)
  ((off ++ out).filter fun t => (t.poisonRead i m).isSome).length

/-- Whether an instruction acts once for its issue set, with the operands of the lowest live thread (R311). -/
def actsOnce : Instr → Bool
  | .popenNew .. | .popenReset .. => true
  | _ => false

/-- The Register Poison faults of an instruction's reads in the threads that it acts for (R116): those of one that acts with
the lowest thread's operands are that thread's, and every thread takes them (R311). -/
def poisonFaults (i : Instr) (cx : Cx) (ts : List Thread) : List (Nat × FaultInfo) :=
  let bad := fun (t : Thread) => (t.poisonRead i (cx.of t).m).map poisonFault
  if actsOnce i then
    match ts.head?.bind bad with
    | some f => ts.map fun t => (t.uid, f)
    | none => []
  else ts.filterMap fun t => (bad t).map fun f => (t.uid, f)

/-- What stands before an instruction's effect: its context, the faults of its checks, the threads it acts for, and
the poisoned registers that only others would read. -/
structure Prepared where
  cx : Cx
  faults : List (Nat × FaultInfo)
  ok : List Thread
  unread : Nat
  deriving DecidableEq, Repr

/-- The checks of an issue (R46, R58, R65, R116, R117). (DEDUCED, log 12; DEDUCED, log 20) -/
def State.prepare (s : State) (i : Instr) (g : Group) (ts : List Thread) : Prepared :=
  let cx := g.contexts i ts
  let gd := guarded i ts
  let il := (hintClasses ts).flatMap (s.classFaults i g)
  let go := gd.1.filter fun t => !il.any (·.1 == t.uid)
  let bad := poisonFaults i cx go
  ⟨cx, il ++ gd.2 ++ bad, go.filter fun t => !bad.any (·.1 == t.uid), s.unread i g ts⟩

/-- The pending HSCH of a class of threads acts as its target issues (R59): `live` are the threads the target acts for. -/
def State.hschClass (s : State) (i : Instr) (cx : Cx) (ts : List Thread) (live : List Nat) : State :=
  match (ts.headD default).hints.hsch with
  | some w => if i.isHint then s else s.hschAct cx w live
  | none => s

/-- The pending HSCHs of an issue set act, unless the target's checks failed in every thread that holds them (R59). -/
def State.hschAll (s : State) (i : Instr) (g : Group) (ts : List Thread) (bad : List (Nat × FaultInfo))
    (ok : List Thread) : State :=
  (hintClasses ts).foldl (fun s c =>
    if c.all fun t => bad.any (·.1 == t.uid) then s
    else s.hschClass i (g.context i c) c ((ok.filter fun t => t.hintKey == (c.headD default).hintKey).map (·.uid))) s

/-- A thread goes on after an instruction that did not fault in it (R46, R50, R58). A run-ending instruction before a
trailer parks at the trailer's end: a JOIN's thread goes on after the trailer. (DEDUCED, log 20; DEDUCED, log 71) -/
def Thread.advance (t : Thread) (i : Instr) : Thread :=
  if t.live = false then t
  else
    let t1 := if i.isHint then t else { t with hints := t.hints.consume }
    if i.sbit then t1.runOver else { t1 with pc := t.pc + 4, pos := t.pos + 1 }

/-- The threads of the issue set go on, or take their faults and leave the run (R46, R50, R107). -/
def State.finishIssue (i : Instr) (g : Group) (ts : List Thread) (r : Issued) : State :=
  let t0 := ts.headD default
  let bad := r.faults.map (·.1)
  let goOn := (ts.map (·.uid)).filter fun u => !bad.contains u
  let s1 := r.st.setThreads goOn fun t => t.advance i
  let s2 := s1.takeFaults r.faults ⟨t0.pc, t0.pos, i.sbit, false⟩
  let left := goOn.filter fun u => (s2.thread u).live
  (s2.setGroup g.gid fun g => { g with
    issuedAt := s2.now + 1
    held := false
    done := []
    mark := none
    run := if i.sbit || left.isEmpty then none else some left }).forget
      (if i.sbit then codeUid g.gid :: ts.map (·.uid) else ts.map (·.uid))

/-- The number of the next remote transaction when a thread's group first tried the instruction that it is held at, and
the time then: those of now when it has not tried it. -/
def State.markOf (s : State) (t : Thread) : Nat × Nat := (s.group t.gid).mark.getD (s.fabric.nextTxn, s.now)

/-- The group's next instruction is held (R222); `n` is the number of the next remote transaction. -/
def State.holdGroup (s : State) (gid n : Nat) : State :=
  s.setGroup gid fun g => { g with held := true, mark := some (g.mark.getD (n, s.now)) }

/-- Whether a result is still on its way and not computed: a held poll, an open instance, a remote access,
a tile operation. -/
def Pending.waiting (p : Pending) : Bool := p.kind != .ready && !p.returned

/-- Whether an acquire load of the thread is still on its way: later accesses wait for it (R186).
(DEDUCED, log 38) -/
def Thread.acquiring (t : Thread) : Bool := t.pend.any fun p => p.acquire != 0 && p.waiting

/-- What a held instruction asks other devices for. -/
abbrev Ask := Cx → List Thread → State → State

/-- Nothing is asked for. -/
def noAsk : Ask := fun _ _ s => s

/-- Issue an instruction in the group whose run is issuing; with none, nothing happens. One that the checks refuse in
every thread has no effect and is not held; while another is held, the group keeps its place (R222). -/
def State.issue (i : Instr) (act : Act) (ask : Ask) (s : State) : State :=
  match s.issuing with
  | none => s
  | some (g, ts) =>
    let p := s.prepare i g ts
    let o := s.rasAdd 0x03 p.unread
    match if ts.all fun t => p.faults.any (·.1 == t.uid) then some (o, []) else act p.cx p.ok o with
    | none => (ask p.cx p.ok s).holdGroup g.gid s.fabric.nextTxn
    | some r => State.finishIssue i g ts ⟨r.1.hschAll i g ts p.faults p.ok, p.faults ++ r.2⟩

/-- An instruction that is held while a live thread has something outstanding. (DEDUCED, log 39) -/
def holding (p : Thread → State → Bool) (a : Act) : Act := fun cx ts s =>
  if ts.any fun t => p t s then none else a cx ts s

/-- The granules of other devices' memory that an instruction reads for a thread, as far as they are known yet. -/
abbrev Far := Cx → State → Thread → List Gran

/-- An instruction that is held until what it reads from other devices is there (R380). (DEDUCED, log 38) -/
def farHold (w : Far) (a : Act) : Act := fun cx ts s =>
  if ts.any fun t => !(s.missing t.uid (w (cx.of t) s t)).isEmpty then none else a cx ts s

/-- Ask other devices for what an instruction reads; not while an acquire of the thread is on its way (R186). -/
def farAsk (w : Far) : Ask := fun cx ts s =>
  ts.foldl (fun s t => if t.acquiring then s else s.ask t.uid (w (cx.of t) s t)) s

/-- The outcome of an instruction: always a next state. -/
abbrev Out := Host.Outcome State Fault Refusal

/-- An instruction word's meaning from its act. -/
def word (i : Instr) (act : Act) (s : State) : Out := .next (s.issue i act noAsk)

/-- The meaning of an instruction word that may read memory of other devices (R380). -/
def wordFar (i : Instr) (w : Far) (act : Act) (s : State) : Out := .next (s.issue i (farHold w act) (farAsk w))

end Sys2Proof.Machine
end

