-- ==== Sys2Proof/Machine/Num.lean ====
section
/-! DEFINITION. Number formats and exact arithmetic on them (R121 to R127): decoding, the one rounding
rule `roundTo`, sums and products, comparisons, conversions, and the special functions of R134.

A finite value is `(-1)^neg * (m + δ) * 2^e`, where δ is 0, or an unknown real strictly between 0 and 1
when `sticky` is set; arithmetic results are exact, so `sticky` arises from the special functions and
quotients alone. -/

namespace Sys2Proof.Machine

/-- The floating-point formats of R121. -/
inductive Fmt where
  | fp64 | fp32 | fp16 | bf16 | e4m3 | e5m2 | e2m1
  deriving DecidableEq, Repr, Inhabited

namespace Fmt

/-- The format of a code 0 to 6 (R121). -/
def ofCode : Nat → Fmt
  | 0 => .fp64 | 1 => .fp32 | 2 => .fp16 | 3 => .bf16 | 4 => .e4m3 | 5 => .e5m2 | _ => .e2m1

/-- The fraction width M. -/
def frac : Fmt → Nat
  | .fp64 => 52 | .fp32 => 23 | .fp16 => 10 | .bf16 => 7 | .e4m3 => 3 | .e5m2 => 2 | .e2m1 => 1

/-- The exponent width. -/
def expo : Fmt → Nat
  | .fp64 => 11 | .fp32 => 8 | .fp16 => 5 | .bf16 => 8 | .e4m3 => 4 | .e5m2 => 5 | .e2m1 => 2

/-- The exponent bias. -/
def bias : Fmt → Nat
  | .fp64 => 1023 | .fp32 => 127 | .fp16 => 15 | .bf16 => 127 | .e4m3 => 7 | .e5m2 => 15 | .e2m1 => 1

/-- The width of a value in bits. -/
def width (f : Fmt) : Nat := 1 + f.expo + f.frac

/-- Whether the format has infinities (R121). -/
def hasInf : Fmt → Bool
  | .e4m3 | .e2m1 => false
  | _ => true

/-- Whether FTZ acts on the format (R126). -/
def flushes : Fmt → Bool
  | .fp64 | .fp32 | .fp16 | .bf16 => true
  | _ => false

/-- The exponent of the least significant bit of subnormals. -/
def qmin (f : Fmt) : Int := 1 - (f.bias : Int) - f.frac

/-- The largest finite value, as a multiple of a power of two (R121). -/
def maxM : Fmt → Nat
  | .e4m3 => 14
  | f => 2 ^ (f.frac + 1) - 1

/-- The power of two of the largest finite value (R121). -/
def maxE : Fmt → Int
  | .e4m3 => 5
  | .e2m1 => 1
  | f => (2 ^ f.expo - 2 : Nat) - (f.bias : Int) - f.frac

/-- The encoding of the largest finite magnitude. -/
def maxBits : Fmt → Nat
  | .e4m3 => 0x7E
  | .e2m1 => 0x7
  | f => (2 ^ f.expo - 1) * 2 ^ f.frac - 1

/-- The canonical NaN (R123); E2M1 has none, and +0 stands for it. -/
def nanBits : Fmt → Nat
  | .e4m3 => 0x7F
  | .e5m2 => 0x7E
  | .e2m1 => 0
  | f => (2 ^ f.expo - 1) * 2 ^ f.frac + 2 ^ (f.frac - 1)

/-- The encoding of an infinity of a format that has them. -/
def infBits (f : Fmt) : Nat := (2 ^ f.expo - 1) * 2 ^ f.frac

/-- The sign bit as a number. -/
def signBits (f : Fmt) (neg : Bool) : Nat := if neg then 2 ^ (f.width - 1) else 0

end Fmt

/-- An exact value. -/
inductive Val where
  | nan (sig : Bool)
  | inf (neg : Bool)
  | fin (neg : Bool) (m : Nat) (e : Int) (sticky : Bool)
  deriving DecidableEq, Repr, Inhabited

/-- A zero of a sign. -/
def Val.zero (neg : Bool) : Val := .fin neg 0 0 false

/-- The exact value of an encoding (R121). Narrow-format NaNs are quiet (R123). -/
def Fmt.dec (f : Fmt) (b : Nat) : Val :=
  let neg := b / 2 ^ (f.width - 1) % 2 == 1
  let e := b / 2 ^ f.frac % 2 ^ f.expo
  let m := b % 2 ^ f.frac
  if e = 2 ^ f.expo - 1 && f.hasInf then
    if m = 0 then .inf neg else .nan (f.flushes && m / 2 ^ (f.frac - 1) % 2 == 0)
  else if f = .e4m3 && e == 15 && m == 7 then .nan false
  else if e = 0 then .fin neg m f.qmin false
  else .fin neg (2 ^ f.frac + m) ((e : Int) - f.bias - f.frac) false

/-- Whether an encoding is a subnormal. -/
def Fmt.subnormal (f : Fmt) (b : Nat) : Bool :=
  b / 2 ^ f.frac % 2 ^ f.expo == 0 && b % 2 ^ f.frac != 0

/-- An input under FTZ: a subnormal becomes a zero of its sign (R126). -/
def Fmt.input (f : Fmt) (ftz : Bool) (b : Nat) : Val :=
  if ftz && f.flushes && f.subnormal b then .zero (b / 2 ^ (f.width - 1) % 2 == 1) else f.dec b

/-! ### Flags -/

/-- %fpflags.NV. -/
def NV : Word := 1
/-- %fpflags.DZ. -/
def DZ : Word := 2
/-- %fpflags.OF. -/
def OF : Word := 4
/-- %fpflags.UF. -/
def UF : Word := 8
/-- %fpflags.NX. -/
def NX : Word := 16

/-- An encoding with the flags that making it set. -/
abbrev Rd := Nat × Word

/-! ### Rounding -/

/-- How the part below a quantum compares with half of it. -/
inductive Tail where
  | zero | low | half | high
  deriving DecidableEq, Repr

/-- Cut `(m + δ) * 2^e` at the quantum `2^q`: the multiple below and the tail. -/
def cut (m : Nat) (e q : Int) (sticky : Bool) : Nat × Tail :=
  if q ≤ e then (m * 2 ^ (e - q).toNat, if sticky then .low else .zero)
  else
    let k := (q - e).toNat
    let r := m % 2 ^ k
    let h := 2 ^ (k - 1)
    (m / 2 ^ k,
      if r = 0 && !sticky then .zero
      else if r < h then .low
      else if r = h && !sticky then .half
      else .high)

/-- Whether a magnitude with a tail rounds up: modes 0 RNE, 1 RZ, 2 RD, 3 RU (R31, R124). -/
def roundsUp (mode : Nat) (neg odd : Bool) (t : Tail) : Bool :=
  match t with
  | .zero => false
  | t =>
    if mode = 1 then false
    else if mode = 2 then neg
    else if mode = 3 then !neg
    else
      match t with
      | .high => true
      | .half => odd
      | _ => false

/-- Round a magnitude to a multiple of `2^q`; whether the result is inexact. -/
def roundAt (mode : Nat) (neg : Bool) (m : Nat) (e q : Int) (sticky : Bool) : Nat × Bool :=
  let c := cut m e q sticky
  (if roundsUp mode neg (c.1 % 2 == 1) c.2 then c.1 + 1 else c.1, c.2 != .zero)

/-- Whether `a * 2^p < b * 2^q`. -/
def dyLt (a : Nat) (p : Int) (b : Nat) (q : Int) : Bool :=
  if p ≤ q then a < b * 2 ^ (q - p).toNat else a * 2 ^ (p - q).toNat < b

/-- The result for a finite value beyond the largest finite one (R125). -/
def overflowValue (f : Fmt) (neg : Bool) (mode : Nat) (sat : Bool) : Nat :=
  let away := mode = 0 || (mode = 2 && neg) || (mode = 3 && !neg)
  if sat || f = .e2m1 || !away then f.signBits neg + f.maxBits
  else if f = .e4m3 then f.nanBits
  else f.signBits neg + f.infBits

/-- The quantum at which a nonzero magnitude rounds in a format: its precision, with the minimum exponent
(R124). -/
def Fmt.quantum (f : Fmt) (m : Nat) (e : Int) : Int := max ((m.log2 : Int) + e - f.frac) f.qmin

/-- The encoding of `n * 2^q`, a value of the format (R121). -/
def Fmt.enc (f : Fmt) (neg : Bool) (n : Nat) (q : Int) : Nat :=
  f.signBits neg +
    (if n < 2 ^ f.frac then n
     else if n = 2 ^ (f.frac + 1) then (q + 1 + f.frac + f.bias).toNat * 2 ^ f.frac
     else (q + f.frac + f.bias).toNat * 2 ^ f.frac + (n - 2 ^ f.frac))

/-- `round_to` of R124 on a finite value. -/
def roundFin (f : Fmt) (mode : Nat) (sat ftz : Bool) (neg : Bool) (m : Nat) (e : Int) (sticky : Bool) :
    Rd :=
  if m = 0 && !sticky then (f.signBits neg, 0)
  else
    let q := f.quantum m e
    let r := roundAt mode neg m e q sticky
    let y := r.1
    if dyLt f.maxM f.maxE y q then (overflowValue f neg mode sat, OF ||| NX)
    else
      let tiny := dyLt y q 1 (1 - (f.bias : Int))
      if ftz && f.flushes && tiny && y != 0 then (f.signBits neg, UF ||| NX)
      else (f.enc neg y q, if r.2 then (if tiny then UF ||| NX else NX) else 0)

/-- `round_to` of R124: the encoding and the flags set. -/
def roundTo (f : Fmt) (mode : Nat) (sat ftz : Bool) : Val → Rd
  | .nan _ => (f.nanBits, if f = .e2m1 then NV else 0)
  | .inf neg =>
    if f.hasInf then (f.signBits neg + f.infBits, 0)
    else if f = .e2m1 || sat then (f.signBits neg + f.maxBits, NV)
    else (f.nanBits, NV)
  | .fin neg m e s => roundFin f mode sat ftz neg m e s

/-! ### Exact arithmetic -/

/-- Whether a value is a NaN. -/
def Val.isNan : Val → Bool
  | .nan _ => true
  | _ => false

/-- Whether a value is a signalling NaN. -/
def Val.isSig : Val → Bool
  | .nan s => s
  | _ => false

/-- Whether a value is an infinity. -/
def Val.isInf : Val → Bool
  | .inf _ => true
  | _ => false

/-- Whether a value is a zero. -/
def Val.isZero : Val → Bool
  | .fin _ m _ s => m == 0 && !s
  | _ => false

/-- The sign of a value that is no NaN. -/
def Val.neg? : Val → Bool
  | .nan _ => false
  | .inf n => n
  | .fin n _ _ _ => n

/-- The value negated. -/
def Val.neg : Val → Val
  | .nan s => .nan s
  | .inf n => .inf !n
  | .fin n m e s => .fin (!n) m e s

/-- A dyadic number. -/
structure Dy where
  n : Int
  e : Int
  deriving DecidableEq, Repr

/-- The dyadic number of a finite value without a tail. -/
def Val.dy : Val → Dy
  | .fin neg m e _ => ⟨if neg then -(m : Int) else m, e⟩
  | _ => ⟨0, 0⟩

/-- The exact sum of two dyadic numbers. -/
def Dy.add (a b : Dy) : Dy :=
  let e := min a.e b.e
  ⟨a.n * 2 ^ (a.e - e).toNat + b.n * 2 ^ (b.e - e).toNat, e⟩

/-- The exact product of two dyadic numbers. -/
def Dy.mul (a b : Dy) : Dy := ⟨a.n * b.n, a.e + b.e⟩

/-- A dyadic number as a value; a zero is +0. -/
def Dy.val (a : Dy) : Val := .fin (a.n < 0) a.n.natAbs a.e false

/-- The product of two values, none a NaN; `none` for 0 × ∞. A zero has the exclusive-or of the signs
(R129). -/
def Val.mul (x y : Val) : Option Val :=
  let neg := x.neg? != y.neg?
  if x.isInf || y.isInf then
    if x.isZero || y.isZero then none else some (.inf neg)
  else
    let p := Dy.mul x.dy y.dy
    some (.fin neg p.n.natAbs p.e false)

/-- The sum of two values, none a NaN; `none` for ∞ − ∞. The sign of an exact zero follows R129. -/
def Val.add (rd : Bool) (x y : Val) : Option Val :=
  match x, y with
  | .inf a, .inf b => if a = b then some (.inf a) else none
  | .inf a, _ => some (.inf a)
  | _, .inf b => some (.inf b)
  | _, _ =>
    let s := Dy.add x.dy y.dy
    if s.n = 0 then
      if x.isZero && y.isZero && x.neg? == y.neg? then some (.zero x.neg?) else some (.zero rd)
    else some s.val

/-- Compare two finite or infinite values: whether `x < y`. -/
def Val.lt (x y : Val) : Bool :=
  match x, y with
  | .inf a, .inf b => a && !b
  | .inf a, _ => a
  | _, .inf b => !b
  | _, _ => (Dy.add y.dy ⟨-x.dy.n, x.dy.e⟩).n > 0

/-- Whether two values that are no NaNs are equal; +0 equals −0. -/
def Val.eqv (x y : Val) : Bool := !x.lt y && !y.lt x

/-- NV for signalling operands (R123, R127). -/
def sigNV (vs : List Val) : Word := if vs.any Val.isSig then NV else 0

/-- A result of R129: NaN operands and invalid operations give the canonical NaN, any other value is
rounded once. -/
def arith (f : Fmt) (mode : Nat) (ftz : Bool) (ops : List Val) (v : Option Val) : Rd :=
  match v with
  | none => (f.nanBits, NV)
  | some v =>
    if ops.any Val.isNan then (f.nanBits, sigNV ops) else roundTo f mode false ftz v

/-- FADD on encodings (R129). -/
def fpAdd (f : Fmt) (mode : Nat) (ftz : Bool) (a b : Nat) : Rd :=
  let x := f.input ftz a
  let y := f.input ftz b
  if x.isNan || y.isNan then (f.nanBits, sigNV [x, y])
  else arith f mode ftz [x, y] (Val.add (mode == 2) x y)

/-- FSUB on encodings (R129). -/
def fpSub (f : Fmt) (mode : Nat) (ftz : Bool) (a b : Nat) : Rd :=
  let x := f.input ftz a
  let y := f.input ftz b
  if x.isNan || y.isNan then (f.nanBits, sigNV [x, y])
  else arith f mode ftz [x, y] (Val.add (mode == 2) x y.neg)

/-- FMUL on encodings (R129). -/
def fpMul (f : Fmt) (mode : Nat) (ftz : Bool) (a b : Nat) : Rd :=
  let x := f.input ftz a
  let y := f.input ftz b
  if x.isNan || y.isNan then (f.nanBits, sigNV [x, y])
  else arith f mode ftz [x, y] (Val.mul x y)

/-- FFMA on encodings: a·b + z, rounded once; 0 × ∞ sets NV even when z is a NaN (R129). -/
def fpFma (f : Fmt) (mode : Nat) (ftz : Bool) (a b z : Nat) : Rd :=
  let x := f.input ftz a
  let y := f.input ftz b
  let w := f.input ftz z
  if x.isNan || y.isNan then (f.nanBits, sigNV [x, y, w])
  else
    match Val.mul x y with
    | none => (f.nanBits, NV)
    | some p =>
      if w.isNan then (f.nanBits, sigNV [w])
      else arith f mode ftz [] (Val.add (mode == 2) p w)

/-- An operand as FMIN and FMAX return it: a flushed subnormal is a zero (R130). -/
def Fmt.flushed (f : Fmt) (ftz : Bool) (b : Nat) : Nat :=
  if ftz && f.flushes && f.subnormal b then b / 2 ^ (f.width - 1) % 2 * 2 ^ (f.width - 1) else b

/-- Whether x is below y where −0 is below +0 (R130). -/
def Val.below (x y : Val) : Bool :=
  x.lt y || (x.isZero && y.isZero && x.neg? && !y.neg?)

/-- FMIN, or FMAX when `big`, on encodings (R130). -/
def fpPick (big : Bool) (f : Fmt) (ftz : Bool) (a b : Nat) : Rd :=
  let x := f.input ftz a
  let y := f.input ftz b
  let fl := sigNV [x, y]
  if x.isNan && y.isNan then (f.nanBits, fl)
  else if x.isNan then (f.flushed ftz b, fl)
  else if y.isNan then (f.flushed ftz a, fl)
  else if (if big then y.below x else x.below y) then (f.flushed ftz a, fl)
  else (f.flushed ftz b, fl)

/-- FCMP on encodings: the condition and the flags (R131). -/
def fpCmp (f : Fmt) (ftz : Bool) (cond a b : Nat) : Bool × Word :=
  let x := f.input ftz a
  let y := f.input ftz b
  let un := x.isNan || y.isNan
  match cond with
  | 0 => (!un && x.lt y, if un then NV else 0)
  | 1 => (!un && !y.lt x, if un then NV else 0)
  | 2 => (!un && x.eqv y, sigNV [x, y])
  | _ => (un, sigNV [x, y])

/-- FCVT on encodings (R132). -/
def fpCvt (fr tt : Fmt) (mode : Nat) (sat ftz : Bool) (a : Nat) : Rd :=
  let x := fr.input ftz a
  let r := roundTo tt mode sat ftz x
  (r.1, r.2 ||| sigNV [x])

/-- An integer as an exact value. -/
def intVal (n : Int) : Val := .fin (n < 0) n.natAbs 0 false

/-- ICVT .f2i: the value rounded to an integer and brought into `[lo, hi]` (R133). -/
def fpToInt (f : Fmt) (mode : Nat) (ftz : Bool) (lo hi : Int) (a : Nat) : Int × Word :=
  match f.input ftz a with
  | .nan _ => (0, NV)
  | .inf neg => (if neg then lo else hi, NV)
  | .fin neg m e s =>
    let r := roundAt mode neg m e 0 s
    let n : Int := if neg then -(r.1 : Int) else r.1
    if n < lo then (lo, NV)
    else if hi < n then (hi, NV)
    else (n, if r.2 then NX else 0)

/-- A value times a power of two (R136 to R138). -/
def Val.scale (v : Val) (k : Int) : Val :=
  match v with
  | .fin n m e s => .fin n m (e + k) s
  | v => v

/-! ### Special functions (R134)

Fixed-point approximations at the scale 2^P. Each is within 2^20 units of the exact value, and the low
40 bits are dropped, so that the tail of the value is only known to be neither zero nor a whole unit. -/

/-- The scale of the fixed-point approximations. -/
def fixP : Nat := 440

/-- The integer square root by binary digits, from the digit of weight `2^k` down. (DESIGN CHOICE, log 62) -/
def isqrtFrom (n : Nat) : Nat → Nat → Nat
  | 0, r => r
  | k + 1, r => isqrtFrom n k (if (r + 2 ^ k) * (r + 2 ^ k) ≤ n then r + 2 ^ k else r)

/-- The integer square root. -/
def isqrt (n : Nat) : Nat := isqrtFrom n (n.log2 / 2 + 1) 0

/-- Σ z^(2k+1)/(2k+1) from a term on, for z given at the scale: `t` is z^(2k+1), `z2` is z².
(DESIGN CHOICE, log 62) -/
def atanhSum (p z2 : Nat) : Nat → Nat → Nat → Nat
  | 0, _, _ => 0
  | n + 1, k, t => t / (2 * k + 1) + atanhSum p z2 n (k + 1) (t * z2 / 2 ^ p)

/-- atanh z for z at most 1/3, at the scale 2^p. -/
def atanhFix (p z : Nat) : Nat := atanhSum p (z * z / 2 ^ p) (p / 3 + 4) 0 z

/-- ln 2 at the scale 2^p: 2 atanh(1/3). -/
def ln2Fix (p : Nat) : Nat := 2 * atanhFix p (2 ^ p / 3)

/-- Σ (−1)^k z^(2k+1)/(2k+1) for z = 1/d at the scale 2^p: arctan(1/d). (DESIGN CHOICE, log 62) -/
def atanSum (d : Nat) : Nat → Nat → Nat → Int
  | 0, _, _ => 0
  | n + 1, k, t =>
    (if k % 2 = 0 then ((t / (2 * k + 1) : Nat) : Int) else -((t / (2 * k + 1) : Nat) : Int)) +
      atanSum d n (k + 1) (t / (d * d))

/-- arctan(1/d) at the scale 2^p. -/
def atanFix (p d : Nat) : Int := atanSum d (p / 4 + 4) 0 (2 ^ p / d)

/-- π at the scale 2^p, by Machin's formula. -/
def piFix (p : Nat) : Nat := (16 * atanFix p 5 - 4 * atanFix p 239).toNat

/-- Σ y^k/k! from a term on. (DESIGN CHOICE, log 62) -/
def expSum (p y : Nat) : Nat → Nat → Nat → Nat
  | 0, _, _ => 0
  | n + 1, k, t => t + expSum p y n (k + 1) (t * y / 2 ^ p / (k + 1))

/-- e^y for y below 1, at the scale 2^p. -/
def expFix (p y : Nat) : Nat := expSum p y (p / 3 + 4) 0 (2 ^ p)

/-- Σ of a sine (`k` odd) or cosine (`k` even) series from a term on: `t` is r^k/k!. (DESIGN CHOICE, log 62) -/
def trigSum (p r2 : Nat) : Nat → Nat → Bool → Nat → Int
  | 0, _, _, _ => 0
  | n + 1, k, neg, t =>
    (if neg then -(t : Int) else t) +
      trigSum p r2 n (k + 2) (!neg) (t * r2 / 2 ^ p / ((k + 1) * (k + 2)))

/-- sin r for r below π/2, at the scale. -/
def sinFix (p r : Nat) : Int := trigSum p (r * r / 2 ^ p) (p / 4 + 4) 1 false r

/-- cos r for r below π/2, at the scale. -/
def cosFix (p r : Nat) : Int := trigSum p (r * r / 2 ^ p) (p / 4 + 4) 0 false (2 ^ p)

/-- The number of low bits of an approximation that are dropped. -/
def fixDrop : Nat := 40

/-- A magnitude approximated at the scale 2^p. -/
def fixVal (p : Nat) (neg : Bool) (a : Nat) : Val :=
  .fin neg (a / 2 ^ fixDrop) ((fixDrop : Int) - p) true

/-- A value a little below (`under`) or above `m * 2^e`, by less than 2^-60 of it. -/
def nearVal (neg : Bool) (m : Nat) (e : Int) (under : Bool) : Val :=
  .fin neg (m * 2 ^ 60 - (if under then 1 else 0)) (e - 60) true

/-- `m * 2^e` at the scale 2^p, rounded down. -/
def toFix (p : Nat) (m : Nat) (e : Int) : Nat :=
  if 0 ≤ e + p then m * 2 ^ (e + p).toNat else m / 2 ^ (-(e + p)).toNat

/-- Whether `m * 2^e`, with m nonzero, is below 2^k. -/
def below2 (m : Nat) (e k : Int) : Bool := (m.log2 : Int) + e < k

/-- 1/x for x = m·2^e, with 80 bits and the tail. (PRESUMED, log 33) -/
def recip (neg : Bool) (m : Nat) (e : Int) : Val :=
  let k := m.log2 + 80
  .fin neg (2 ^ k / m) (-(k : Int) - e) (2 ^ k % m != 0)

/-- √x for x = m·2^e, with the tail. (PRESUMED, log 33) -/
def root (m : Nat) (e : Int) : Val :=
  let m1 := if e % 2 = 0 then m else 2 * m
  let e1 := if e % 2 = 0 then e else e - 1
  let n := m1 * 2 ^ 160
  let r := isqrt n
  .fin false r (e1 / 2 - 80) (r * r != n)

/-- 1/√x for x = m·2^e, with the tail. (PRESUMED, log 33) -/
def rroot (m : Nat) (e : Int) : Val :=
  let m1 := if e % 2 = 0 then m else 2 * m
  let e1 := if e % 2 = 0 then e else e - 1
  let k := 2 * (m1.log2 + 80)
  let r := isqrt (2 ^ k / m1)
  .fin false r (-(k / 2 : Nat) - e1 / 2) (r * r * m1 != 2 ^ k)

/-- 2^x for a finite x. (PRESUMED, log 33) -/
def exp2Val (neg : Bool) (m : Nat) (e : Int) : Val :=
  if m = 0 then .fin false 1 0 false
  else if below2 m e (-100) then nearVal false 1 0 neg
  else if !below2 m e 8 then
    if neg then .fin false 1 (-400) true else .fin false 1 400 true
  else
    let x : Int := if neg then -(toFix fixP m e : Int) else toFix fixP m e
    let n := x / 2 ^ fixP
    let f := (x % 2 ^ fixP).toNat
    if f = 0 then .fin false 1 n false
    else (fixVal fixP false (expFix fixP (f * ln2Fix fixP / 2 ^ fixP))).scale n

/-- log₂ x for a finite x above 0; of 1 it is +0, a sign that the spec does not give (R134). (PRESUMED, log 33;
DESIGN CHOICE, log 85) -/
def log2Val (m : Nat) (e : Int) : Val :=
  let n : Int := (m.log2 : Int) + e
  if m = 2 ^ m.log2 then .fin (n < 0) n.natAbs 0 false
  else
    let one := 2 ^ fixP
    let x := toFix fixP m (-(m.log2 : Int))
    let z := (x - one) * one / (x + one)
    let fr := 2 * atanhFix fixP z * one / ln2Fix fixP
    let v : Int := n * 2 ^ fixP + fr
    fixVal fixP (v < 0) v.natAbs

/-- The quadrant of x and the rest of x below π/2, at the scale; x is below 2^128. -/
def quadrant (m : Nat) (e : Int) : Nat × Nat :=
  let p := fixP + 140
  let h := piFix p / 2
  let x := toFix p m e
  (x / h % 4, x % h / 2 ^ 140)

/-- sin x for a finite x. (PRESUMED, log 33) -/
def sinVal (neg : Bool) (m : Nat) (e : Int) : Val :=
  if m = 0 then .zero neg
  else if below2 m e (-40) then nearVal neg m e true
  else
    let q := quadrant m e
    let s := if q.1 % 2 = 0 then sinFix fixP q.2 else cosFix fixP q.2
    fixVal fixP (neg != decide (2 ≤ q.1)) s.natAbs

/-- cos x for a finite x. (PRESUMED, log 33) -/
def cosVal (m : Nat) (e : Int) : Val :=
  if m = 0 then .fin false 1 0 false
  else if below2 m e (-40) then nearVal false 1 0 true
  else
    let q := quadrant m e
    let c := if q.1 % 2 = 0 then cosFix fixP q.2 else sinFix fixP q.2
    fixVal fixP (q.1 == 1 || q.1 == 2) c.natAbs

/-- Square a number at the scale, some times over. -/
def squareFix (p : Nat) : Nat → Nat → Nat
  | 0, x => x
  | n + 1, x => squareFix p n (x * x / 2 ^ p)

/-- tanh x for a finite x: (E − 1)/(E + 1) with E = e^(2x). (PRESUMED, log 33) -/
def tanhVal (neg : Bool) (m : Nat) (e : Int) : Val :=
  if m = 0 then .zero neg
  else if below2 m e (-40) then nearVal neg m e true
  else if !below2 m e 5 then nearVal neg 1 0 true
  else
    let y := 2 * toFix fixP m e / 2 ^ 7
    let ex := squareFix fixP 7 (expFix fixP y)
    fixVal fixP neg ((ex - 2 ^ fixP) * 2 ^ fixP / (ex + 2 ^ fixP))

/-- The special functions. -/
inductive SFn where
  | rcp | rsq | sqrt | ex2 | lg2 | sin | cos | tanh
  deriving DecidableEq, Repr, Inhabited

/-- The value of a special function and the flags of the special-input table of R134. (PRESUMED, log 33) -/
def SFn.val (fn : SFn) (x : Val) : Val × Word :=
  match fn, x with
  | _, .nan s => (.nan false, if s then NV else 0)
  | .rcp, .inf n => (.zero n, 0)
  | .rcp, .fin n m e _ => if m = 0 then (.inf n, DZ) else (recip n m e, 0)
  | .rsq, .inf n => if n then (.nan false, NV) else (.zero false, 0)
  | .rsq, .fin n m e _ =>
    if m = 0 then (.inf n, DZ) else if n then (.nan false, NV) else (rroot m e, 0)
  | .sqrt, .inf n => if n then (.nan false, NV) else (.inf false, 0)
  | .sqrt, .fin n m e _ =>
    if m = 0 then (.zero n, 0) else if n then (.nan false, NV) else (root m e, 0)
  | .ex2, .inf n => if n then (.zero false, 0) else (.inf false, 0)
  | .ex2, .fin n m e _ => (exp2Val n m e, 0)
  | .lg2, .inf n => if n then (.nan false, NV) else (.inf false, 0)
  | .lg2, .fin n m e _ =>
    if m = 0 then (.inf true, DZ) else if n then (.nan false, NV) else (log2Val m e, 0)
  | .sin, .inf _ => (.nan false, NV)
  | .sin, .fin n m e _ => (sinVal n m e, 0)
  | .cos, .inf _ => (.nan false, NV)
  | .cos, .fin _ m e _ => (cosVal m e, 0)
  | .tanh, .inf n => (.fin n 1 0 false, 0)
  | .tanh, .fin n m e _ => (tanhVal n m e, 0)

/-- A special function on an encoding, rounded under a mode (R134). (PRESUMED, log 33) -/
def fpSpecial (fn : SFn) (f : Fmt) (mode : Nat) (ftz : Bool) (a : Nat) : Rd :=
  let v := fn.val (f.input ftz a)
  let r := roundTo f mode false ftz v.1
  (r.1, r.2 ||| v.2)

/-! ### Matrix array sums (R139 to R143) -/

/-- An FP32 sum of the array that is subnormal becomes a zero of its sign; FP64 keeps it (R139). -/
def arrayFlush (ps : Fmt) (b : Nat) : Nat :=
  if ps = .fp32 && ps.subnormal b then b / 2 ^ 31 * 2 ^ 31 else b

/-- One step of the array: ps + p rounded RNE in PS and flushed, where p is an exact value (R140). -/
def arrayAcc (ps : Fmt) (acc : Nat) (p : Option Val) : Nat :=
  let x := ps.dec acc
  match p with
  | none => ps.nanBits
  | some p =>
    if x.isNan || p.isNan then ps.nanBits
    else
      match Val.add false x p with
      | none => ps.nanBits
      | some v => arrayFlush ps (roundTo ps 0 false false v).1

/-- The exact product of two values as the array forms it; `none` when it is a NaN (R139, R140). -/
def arrayMul (x y : Val) : Option Val := if x.isNan || y.isNan then none else Val.mul x y

end Sys2Proof.Machine
end

