-- ==== Sys2Proof/Machine/Flags.lean ====
section
/-! DEFINITION. The sticky flags of a thread (R31, R78, R127), the rounding mode of an instruction
(R66), and the results of integer operations that set flags (R73, R76, R77). -/

namespace Sys2Proof.Machine

/-- %iflags.IDZ. -/
def IDZ : Word := 1

/-- %iflags.SAT. -/
def SAT : Word := 2

/-- Merge bits into %iflags (R78). -/
def Thread.orI (t : Thread) (f : Word) : Thread := { t with iflags := t.iflags ||| f }

/-- Merge bits into %fpflags (R127). -/
def Thread.orF (t : Thread) (f : Word) : Thread := { t with fpflags := t.fpflags ||| f }

/-- mode() of R66: HMOD.RM under RMO, else %fpctl.RMODE. -/
def Cx.mode (cx : Cx) (t : Thread) : Nat :=
  if cx.m.getLsbD 7 then (cx.m.extractLsb' 8 2).toNat else (t.fpctl.extractLsb' 0 2).toNat

/-- %fpctl.FTZ (R31, R126). -/
def Thread.ftz (t : Thread) : Bool := t.fpctl.getLsbD 2

/-- HMOD.SAT (R56). -/
def Cx.sat (cx : Cx) : Bool := cx.m.getLsbD 6

/-- sat_s(x, 32) of R66: the value and the flag. -/
def satS (x : Int) : Word × Word :=
  if x < -2147483648 then (0x80000000, SAT)
  else if 2147483647 < x then (0x7FFFFFFF, SAT)
  else (BitVec.ofInt 32 x, 0)

/-- sat_z(x, 32) of R66: the value and the flag. -/
def satZ (x : Int) : Word × Word :=
  if x < 0 then (0, SAT)
  else if 4294967295 < x then (0xFFFFFFFF, SAT)
  else (BitVec.ofInt 32 x, 0)

/-- ABS (R73): the result and the flag. -/
def absRes (sat : Bool) (x : Word) : Word × Word :=
  let v : Int := x.toInt.natAbs
  if sat then satS v else (BitVec.ofInt 32 v, 0)

/-- DIV (R76): the result and the flag. -/
def divRes (signed : Bool) (x y : Word) : Word × Word :=
  if signed then
    if y = 0 then (if 0 ≤ x.toInt then 0x7FFFFFFF else 0x80000000, IDZ)
    else if x = 0x80000000 && y == 0xFFFFFFFF then (0x7FFFFFFF, SAT)
    else (BitVec.ofInt 32 (Int.tdiv x.toInt y.toInt), 0)
  else if y = 0 then (0xFFFFFFFF, IDZ)
  else (BitVec.ofNat 32 (x.toNat / y.toNat), 0)

/-- REM (R76): the result and the flag. -/
def remRes (signed : Bool) (x y : Word) : Word × Word :=
  if y = 0 then (x, IDZ)
  else if signed then
    if x = 0x80000000 && y == 0xFFFFFFFF then (0, 0)
    else (BitVec.ofInt 32 (x.toInt - Int.tdiv x.toInt y.toInt * y.toInt), 0)
  else (BitVec.ofNat 32 (x.toNat % y.toNat), 0)

/-- ADDS and SUBS (R77): the result and the flag. -/
def addsRes (sub signed : Bool) (x y : Word) : Word × Word :=
  let op := fun (a b : Int) => if sub then a - b else a + b
  if signed then satS (op x.toInt y.toInt) else satZ (op x.toNat y.toNat)

/-- Write a result and merge its flag into %iflags. -/
def Thread.setGI (t : Thread) (n : Nat) (r : Word × Word) : Thread := (t.setG n r.1).orI r.2

/-- Write a 32-bit floating-point result and merge its flags. -/
def Thread.setGF (t : Thread) (n : Nat) (r : Rd) : Thread := (t.setG n (BitVec.ofNat 32 r.1)).orF r.2

/-- Write a 64-bit floating-point result and merge its flags. -/
def Thread.setWF (t : Thread) (n : Nat) (r : Rd) : Thread := (t.setW n (BitVec.ofNat 64 r.1)).orF r.2

end Sys2Proof.Machine
end

