-- ==== Sys2Proof/Machine/Result.lean ====
section
/-! DEFINITION. Long-latency results (R47 to R50, R159, R161, R166): issuing them, their return, and the
messages of remote accesses (R380). -/

namespace Sys2Proof.Machine

/-- A result in flight of a thread's run at an instruction (R47). -/
def Cx.pending (cx : Cx) (t : Thread) (id : Nat) (cls : CClass) (dests : List (Dest × Word)) : Pending :=
  { id := id, run := t.runId, pos := cx.pos, pc := cx.pc, cls := cls, detached := false, dests := dests,
    kind := .ready, fault := none, demote := false, acquire := 0, reload := none,
    returned := false, early := none }

/-- The id of a thread's next pending result. -/
def Thread.nextPend (t : Thread) : Nat := (t.pend.map (·.id)).foldl Nat.max 0 + 1

/-- Put a result in flight. -/
def Thread.addPend (t : Thread) (p : Pending) : Thread := { t with pend := t.pend ++ [p] }

/-- Issue a long-latency result that is computed. -/
def Thread.launch (t : Thread) (cx : Cx) (cls : CClass) (dests : List (Dest × Word)) : Thread :=
  t.addPend (cx.pending t t.nextPend cls dests)

/-! ### Counters (R26) -/

/-- A completion counter. -/
def Counters.get (c : Counters) : CClass → Nat
  | .ld => c.ld | .st => c.st | .tm => c.tm | .ax => c.ax

/-- Change a completion counter. -/
def Counters.upd (c : Counters) (k : CClass) (f : Nat → Nat) : Counters :=
  match k with
  | .ld => { c with ld := f c.ld }
  | .st => { c with st := f c.st }
  | .tm => { c with tm := f c.tm }
  | .ax => { c with ax := f c.ax }

/-! ### Return -/

/-- Whether a destination may still be written: a k register only inside its own run (R17). -/
def Thread.landable (t : Thread) (p : Pending) (d : Dest × Word) : Bool :=
  match d.1 with
  | .reg n => n < 120 || p.run == t.runId
  | .pred _ => true

/-- The destinations of a result that are written now (R17). -/
def Thread.landing (t : Thread) (p : Pending) : List (Dest × Word) := p.dests.filter (t.landable p)

/-- Write some destinations of a result: older results, which return later, no longer write them (R49). -/
def Thread.landSome (t : Thread) (p : Pending) (ds : List (Dest × Word)) : Thread :=
  let t1 := ds.foldl Thread.land t
  { t1 with pend := t1.pend.map fun q =>
      if q.id < p.id then { q with dests := q.dests.filter fun d => !(ds.map (·.1)).contains d.1 } else q }

/-- A result leaves the thread: one that returned with a fault stays, as returned, until it is awaited
(R159). -/
def Thread.retire (t : Thread) (p : Pending) : Thread :=
  { t with
    ctr := if p.detached then t.ctr.upd p.cls (· - 1) else t.ctr
    pend :=
      match p.fault with
      | none => t.pend.filter (·.id != p.id)
      | some _ => t.pend.map fun q => if q.id = p.id then { q with returned := true, dests := [] } else q }

/-- A result returns to its thread (R26, R49, R50). -/
def Thread.ret (t : Thread) (p : Pending) : Thread :=
  let t1 := match p.fault with
    | none => t.landSome p (t.landing p)
    | some _ => t
  t1.retire p

/-- The result of a thread with an id. -/
def Thread.pendOf (t : Thread) (id : Nat) : Option Pending :=
  t.pend.find? fun p => p.id == id && !p.returned

/-- A result returns; a failed ACAS demotes its thread now (R166). (DEDUCED, log 13) -/
def State.landOne (s : State) (u : Nat) (p : Pending) : State :=
  let s1 := s.setThread u fun t => t.ret p
  if p.demote then s1.demote (s.thread u).gid [u] else s1

/-- Every computed result of a thread returns (R185). -/
def State.landReady (s : State) (u : Nat) : State :=
  ((s.thread u).pend.filter fun p => p.kind == .ready && !p.returned).foldl
    (fun s p => s.landOne u p) s

/-- Whether a memory access of the thread has not returned and its return needs another step. (DEDUCED, log 39) -/
def Thread.memoryOpen (t : Thread) : Bool :=
  t.pend.any fun p => p.waiting &&
    (match p.kind with
     | .poll .. | .remote .. => true
     | _ => false)

end Sys2Proof.Machine
end

