-- ==== Sys2Proof/Machine/Fp.lean ====
section
/-! DEFINITION. The floating-point instructions (R128 to R138). -/

namespace Sys2Proof.Machine

/-- Two 16-bit results as one word, their flags merged. -/
def pairRd (lo hi : Rd) : Rd := (hi.1 % 65536 * 65536 + lo.1 % 65536, lo.2 ||| hi.2)

/-- A two-operand operation on encodings of a format. -/
abbrev FpOp2 := Fmt → Nat → Nat → Rd

/-- Write d := op(a, b) under a variant: 0 .f32, 1 .f64, 2 .bf16x2 (R128). -/
def fpBin (op : FpOp2) (f : BitVec 2) (d a b : Nat) (t w : Thread) : Thread :=
  if f = 0 then w.setGF d (op .fp32 (t.g a).toNat (t.g b).toNat)
  else if f = 1 then w.setWF d (op .fp64 (t.w a).toNat (t.w b).toNat)
  else
    let x := (t.g a).toNat
    let y := (t.g b).toNat
    w.setGF d (pairRd (op .bf16 (x % 65536) (y % 65536)) (op .bf16 (x / 65536) (y / 65536)))

/-- FADD (R129). -/
def execFadd (e : Bool) (d a b : BitVec 7) (f : BitVec 2) (s : State) : Out :=
  word (.fadd e d a b f)
    (alu fun cx t => fpBin (fun fm => fpAdd fm (cx.mode t) t.ftz) f d.toNat a.toNat b.toNat t) s

/-- FSUB (R129). -/
def execFsub (e : Bool) (d a b : BitVec 7) (f : BitVec 2) (s : State) : Out :=
  word (.fsub e d a b f)
    (alu fun cx t => fpBin (fun fm => fpSub fm (cx.mode t) t.ftz) f d.toNat a.toNat b.toNat t) s

/-- FMUL (R129). -/
def execFmul (e : Bool) (d a b : BitVec 7) (f : BitVec 2) (s : State) : Out :=
  word (.fmul e d a b f)
    (alu fun cx t => fpBin (fun fm => fpMul fm (cx.mode t) t.ftz) f d.toNat a.toNat b.toNat t) s

/-- FFMA's write (R129): d := a·b + d. -/
def ffmaWrite (cx : Cx) (f : BitVec 2) (d a b : Nat) (t w : Thread) : Thread :=
  let op := fun fm => fpFma fm (cx.mode t) t.ftz
  if f = 0 then w.setGF d (op .fp32 (t.g a).toNat (t.g b).toNat (t.g d).toNat)
  else if f = 1 then w.setWF d (op .fp64 (t.w a).toNat (t.w b).toNat (t.w d).toNat)
  else
    let x := (t.g a).toNat
    let y := (t.g b).toNat
    let z := (t.g d).toNat
    w.setGF d (pairRd (op .bf16 (x % 65536) (y % 65536) (z % 65536))
      (op .bf16 (x / 65536) (y / 65536) (z / 65536)))

/-- FFMA (R129). -/
def execFfma (e : Bool) (d a b : BitVec 7) (f : BitVec 2) (s : State) : Out :=
  word (.ffma e d a b f) (alu fun cx => ffmaWrite cx f d.toNat a.toNat b.toNat) s

/-- FMIN (R130). -/
def execFmin (e : Bool) (d a b : BitVec 7) (f : BitVec 2) (s : State) : Out :=
  word (.fmin e d a b f)
    (alu fun _ t => fpBin (fun fm => fpPick false fm t.ftz) f d.toNat a.toNat b.toNat t) s

/-- FMAX (R130). -/
def execFmax (e : Bool) (d a b : BitVec 7) (f : BitVec 2) (s : State) : Out :=
  word (.fmax e d a b f)
    (alu fun _ t => fpBin (fun fm => fpPick true fm t.ftz) f d.toNat a.toNat b.toNat t) s

/-- FCMP's condition and flags (R131): ty is 0 for FP32 and 1 for FP16, and F64 selects FP64. -/
def fcmpRes (cx : Cx) (ty : BitVec 1) (c : BitVec 2) (a b : Nat) (t : Thread) : Bool × Word :=
  if cx.m.getLsbD 15 then fpCmp .fp64 t.ftz c.toNat (t.w a).toNat (t.w b).toNat
  else if ty = 0 then fpCmp .fp32 t.ftz c.toNat (t.g a).toNat (t.g b).toNat
  else fpCmp .fp16 t.ftz c.toNat ((t.g a).toNat % 65536) ((t.g b).toNat % 65536)

/-- FCMP (R131). -/
def execFcmp (e : Bool) (p : BitVec 6) (a b : BitVec 7) (ty : BitVec 1) (c : BitVec 2) (s : State) :
    Out :=
  word (.fcmp e p a b ty c)
    (alu fun cx t w =>
      let r := fcmpRes cx ty c a.toNat b.toNat t
      (w.setP p.toNat r.1).orF r.2) s

/-- A scalar operand of a format: a w register for FP64, else the low bits of a g register (R128). -/
def Thread.fpIn (t : Thread) (f : Fmt) (a : Nat) : Nat :=
  if f = .fp64 then (t.w a).toNat else (t.g a).toNat % 2 ^ f.width

/-- Write a scalar result of a format; bits above its width are 0 (R128). -/
def Thread.fpOut (t : Thread) (f : Fmt) (d : Nat) (r : Rd) : Thread :=
  if f = .fp64 then t.setWF d r else t.setGF d r

/-- FCVT (R132). -/
def execFcvt (e : Bool) (d a : BitVec 7) (fr tt : BitVec 3) (s : State) : Out :=
  word (.fcvt e d a fr tt)
    (alu fun cx t w =>
      let x := Fmt.ofCode fr.toNat
      let y := Fmt.ofCode tt.toNat
      w.fpOut y d.toNat (fpCvt x y (cx.mode t) cx.sat t.ftz (t.fpIn x a.toNat))) s

/-- The range of an IKIND (R133): 0 s32, 1 z32, 2 s64, 3 z64. -/
def ikindRange (k : BitVec 2) : Int × Int :=
  if k = 0 then (-2147483648, 2147483647)
  else if k = 1 then (0, 4294967295)
  else if k = 2 then (-9223372036854775808, 9223372036854775807)
  else (0, 18446744073709551615)

/-- The integer operand of an IKIND (R133). -/
def Thread.ikindIn (t : Thread) (k : BitVec 2) (a : Nat) : Int :=
  if k = 0 then (t.g a).toInt
  else if k = 1 then (t.g a).toNat
  else if k = 2 then (t.w a).toInt
  else (t.w a).toNat

/-- ICVT's write (R133): f is 0 for .i2f and 1 for .f2i. -/
def icvtWrite (cx : Cx) (d a : Nat) (m : BitVec 3) (k f : BitVec 2) (t w : Thread) : Thread :=
  let fm := Fmt.ofCode m.toNat
  if f = 0 then
    w.fpOut fm d (roundTo fm (cx.mode t) false t.ftz (intVal (t.ikindIn k a)))
  else
    let r := fpToInt fm (cx.mode t) t.ftz (ikindRange k).1 (ikindRange k).2 (t.fpIn fm a)
    let w1 := if k.getLsbD 1 then w.setW d (BitVec.ofInt 64 r.1) else w.setG d (BitVec.ofInt 32 r.1)
    w1.orF r.2

/-- ICVT (R133). -/
def execIcvt (e : Bool) (d a : BitVec 7) (m : BitVec 3) (k f : BitVec 2) (s : State) : Out :=
  word (.icvt e d a m k f) (alu fun cx => icvtWrite cx d.toNat a.toNat m k f) s

/-! ### Special functions (R134) -/

/-- A special function of one thread: its flags at once, its result in flight (R134). -/
def specialWrite (fn : SFn) (f : BitVec 2) (mode : Nat) (cx : Cx) (d a : Nat) (t w : Thread) : Thread :=
  if f = 1 then
    let r := fpSpecial fn .fp64 mode t.ftz (t.w a).toNat
    (w.launch cx .ax (wDests d (BitVec.ofNat 64 r.1))).orF r.2
  else
    let r := fpSpecial fn .fp32 mode t.ftz (t.g a).toNat
    (w.launch cx .ax (gDests d (BitVec.ofNat 32 r.1))).orF r.2

/-- RCP (R134): .f32 rounds RNE, .f64 under mode(). -/
def execRcp (e : Bool) (d a : BitVec 7) (f : BitVec 2) (s : State) : Out :=
  word (.rcp e d a f)
    (alu fun cx t => specialWrite .rcp f (if f = 1 then cx.mode t else 0) cx d.toNat a.toNat t) s

/-- RSQ (R134). -/
def execRsq (e : Bool) (d a : BitVec 7) (s : State) : Out :=
  word (.rsq e d a) (alu fun cx => specialWrite .rsq 0 0 cx d.toNat a.toNat) s

/-- SQRT (R134). -/
def execSqrt (e : Bool) (d a : BitVec 7) (f : BitVec 2) (s : State) : Out :=
  word (.sqrt e d a f) (alu fun cx t => specialWrite .sqrt f (cx.mode t) cx d.toNat a.toNat t) s

/-- EX2 (R134). -/
def execEx2 (e : Bool) (d a : BitVec 7) (s : State) : Out :=
  word (.ex2 e d a) (alu fun cx => specialWrite .ex2 0 0 cx d.toNat a.toNat) s

/-- LG2 (R134). -/
def execLg2 (e : Bool) (d a : BitVec 7) (s : State) : Out :=
  word (.lg2 e d a) (alu fun cx => specialWrite .lg2 0 0 cx d.toNat a.toNat) s

/-- SIN (R134). -/
def execSin (e : Bool) (d a : BitVec 7) (s : State) : Out :=
  word (.sin e d a) (alu fun cx => specialWrite .sin 0 0 cx d.toNat a.toNat) s

/-- COS (R134). -/
def execCos (e : Bool) (d a : BitVec 7) (s : State) : Out :=
  word (.cos e d a) (alu fun cx => specialWrite .cos 0 0 cx d.toNat a.toNat) s

/-- TANH (R134). -/
def execTanh (e : Bool) (d a : BitVec 7) (s : State) : Out :=
  word (.tanh e d a) (alu fun cx => specialWrite .tanh 0 0 cx d.toNat a.toNat) s

/-! ### Dot products, packing, scaling (R135 to R138) -/

/-- Element j of w-bit data packed in a number (R122). -/
def elemAt (w x j : Nat) : Nat := x / 2 ^ (w * j) % 2 ^ w

/-- A two's-complement element of w bits. -/
def signedElem (w x : Nat) : Int := if 2 ^ (w - 1) ≤ x then (x : Int) - 2 ^ w else x

/-- Whether values hold an infinity of a sign. -/
def anyInf (neg : Bool) (l : List Val) : Bool := l.any fun v => v == .inf neg

/-- The exact sum of finite values as a dyadic number. (PRESUMED, log 33) -/
def sumDy (l : List Val) : Dy := l.foldl (fun a v => Dy.add a v.dy) ⟨0, 0⟩

/-- A floating-point dot product (R135): every element product is exact, and the sum is rounded once. The
zero sum is a zero of the sign R129 gives to the sum of z and the products. -/
def dotFloat (f : Fmt) (n : Nat) (mode : Nat) (ftz : Bool) (z a b : Nat) : Rd :=
  let xs := (List.range n).map fun j => f.dec (elemAt f.width a j)
  let ys := (List.range n).map fun j => f.dec (elemAt f.width b j)
  let w := Fmt.fp32.input ftz z
  let ops := xs ++ ys ++ [w]
  let ps := (List.zip xs ys).map fun p => if p.1.isNan || p.2.isNan then some (.nan false)
    else Val.mul p.1 p.2
  let vals := ps.map (·.getD (.nan false)) ++ [w]
  let invalid := ps.any Option.isNone || (anyInf true vals && anyInf false vals)
  if ops.any Val.isNan || invalid then
    (Fmt.fp32.nanBits, sigNV ops ||| (if invalid then NV else 0))
  else if anyInf true vals then roundTo .fp32 mode false ftz (.inf true)
  else if anyInf false vals then roundTo .fp32 mode false ftz (.inf false)
  else
    let sm := sumDy vals
    if sm.n = 0 then
      let allNeg := vals.all fun v => v.isZero && v.neg?
      let allPos := vals.all fun v => v.isZero && !v.neg?
      roundTo .fp32 mode false ftz (.zero (allNeg || (!allPos && mode == 2)))
    else roundTo .fp32 mode false ftz sm.val

/-- An integer dot product (R135). -/
def dotInt (w n : Nat) (sat : Bool) (z : Word) (a b : Nat) : Word × Word :=
  let v := z.toInt + ((List.range n).map fun j =>
    signedElem w (elemAt w a j) * signedElem w (elemAt w b j)).sum
  if sat then satS v else (BitVec.ofInt 32 v, 0)

/-- DOT4 (R135): f is 0 .e4m3, 1 .e5m2, 2 .s8. -/
def execDot4 (e : Bool) (d a b : BitVec 7) (f : BitVec 2) (s : State) : Out :=
  word (.dot4 e d a b f)
    (alu fun cx t w =>
      if f = 2 then
        w.setGI d.toNat (dotInt 8 4 cx.sat (t.g d.toNat) (t.g a.toNat).toNat (t.g b.toNat).toNat)
      else
        w.setGF d.toNat (dotFloat (if f = 0 then .e4m3 else .e5m2) 4 (cx.mode t) t.ftz
          (t.g d.toNat).toNat (t.g a.toNat).toNat (t.g b.toNat).toNat)) s

/-- DOT8 (R135): f is 0 .e2m1, 1 .s4. -/
def execDot8 (e : Bool) (d a b : BitVec 7) (f : BitVec 2) (s : State) : Out :=
  word (.dot8 e d a b f)
    (alu fun cx t w =>
      if f = 1 then
        w.setGI d.toNat (dotInt 4 8 cx.sat (t.g d.toNat) (t.g a.toNat).toNat (t.g b.toNat).toNat)
      else
        w.setGF d.toNat (dotFloat .e2m1 8 (cx.mode t) t.ftz
          (t.g d.toNat).toNat (t.g a.toNat).toNat (t.g b.toNat).toNat)) s

/-- The format of PACK and UNPK (R136): f is 0 .e4m3, 1 .e5m2, 2 .e2m1, 3 .bf16. -/
def packFmt (f : BitVec 2) : Fmt :=
  if f = 0 then .e4m3 else if f = 1 then .e5m2 else if f = 2 then .e2m1 else .bf16

/-- The bit offset of the slot a control word selects (R136). -/
def packShift (f : BitVec 2) (c : Word) : Nat :=
  let slot := (c.extractLsb' 8 3).toNat
  if f = 2 then 8 * (slot % 4) else if f = 3 then 0 else 16 * (slot % 2)

/-- E of a scale control word (R136). -/
def scaleE (c : Word) : Nat := (c.extractLsb' 0 8).toNat

/-- One element as PACK converts it (R136). -/
def packElem (f : Fmt) (mode : Nat) (sat ftz : Bool) (ev x : Nat) : Rd :=
  if ev = 0xFF then (f.nanBits, NV)
  else
    let v := Fmt.fp32.input ftz x
    let r := roundTo f mode sat ftz (v.scale (127 - (ev : Int)))
    (r.1, r.2 ||| sigNV [v])

/-- PACK's result (R136). -/
def packRes (f : BitVec 2) (mode : Nat) (sat ftz : Bool) (old : Nat) (c : Word) (x : Nat) : Rd :=
  let fm := packFmt f
  let q0 := packElem fm mode sat ftz (scaleE c) (x % 2 ^ 32)
  let q1 := packElem fm mode sat ftz (scaleE c) (x / 2 ^ 32)
  let k := packShift f c
  let w := 2 * fm.width
  let new := q0.1 + q1.1 * 2 ^ fm.width
  (old % 2 ^ k + new * 2 ^ k + old / 2 ^ (k + w) * 2 ^ (k + w), q0.2 ||| q1.2)

/-- PACK (R136). -/
def execPack (e : Bool) (d a b : BitVec 7) (f : BitVec 2) (s : State) : Out :=
  word (.pack e d a b f)
    (alu fun cx t w => w.setGF d.toNat (packRes f (cx.mode t) cx.sat t.ftz (t.g d.toNat).toNat
      (t.g b.toNat) (t.w a.toNat).toNat)) s

/-- One element as UNPK converts it (R137). -/
def unpkElem (f : Fmt) (mode : Nat) (ftz : Bool) (ev x : Nat) : Rd :=
  let v := f.input ftz x
  if v.isNan || ev = 0xFF then (Fmt.fp32.nanBits, sigNV [v])
  else roundTo .fp32 mode false ftz (v.scale ((ev : Int) - 127))

/-- UNPK's result (R137): u_1 above u_0. -/
def unpkRes (f : BitVec 2) (mode : Nat) (ftz : Bool) (c : Word) (x : Nat) : Rd :=
  let fm := packFmt f
  let y := x / 2 ^ packShift f c
  let u0 := unpkElem fm mode ftz (scaleE c) (y % 2 ^ fm.width)
  let u1 := unpkElem fm mode ftz (scaleE c) (y / 2 ^ fm.width % 2 ^ fm.width)
  (u0.1 + u1.1 * 2 ^ 32, u0.2 ||| u1.2)

/-- UNPK (R137). -/
def execUnpk (e : Bool) (d a b : BitVec 7) (f : BitVec 2) (s : State) : Out :=
  word (.unpk e d a b f)
    (alu fun cx t w => w.setWF d.toNat (unpkRes f (cx.mode t) t.ftz (t.g b.toNat) (t.g a.toNat).toNat)) s

/-- One element as SCL converts it (R138). -/
def sclElem (mode : Nat) (ftz : Bool) (c : Word) (f : Fmt) (x : Nat) : Rd :=
  if scaleE c = 0xFF then (f.nanBits, NV)
  else
    let v := f.input ftz x
    let r := roundTo f mode false ftz (v.scale ((scaleE c : Int) - 127))
    (r.1, r.2 ||| sigNV [v])

/-- SCL (R138). -/
def execScl (e : Bool) (d a b : BitVec 7) (f : BitVec 2) (s : State) : Out :=
  word (.scl e d a b f)
    (alu fun cx t w =>
      let op := sclElem (cx.mode t) t.ftz (t.g b.toNat)
      if f = 0 then w.setGF d.toNat (op .fp32 (t.g a.toNat).toNat)
      else if f = 1 then w.setWF d.toNat (op .fp64 (t.w a.toNat).toNat)
      else
        let x := (t.g a.toNat).toNat
        w.setGF d.toNat (pairRd (op .bf16 (x % 65536)) (op .bf16 (x / 65536)))) s

end Sys2Proof.Machine
end

