-- ==== Sys2Proof/Machine/Memory.lean ====
section
/-! DEFINITION. Loads, stores, the polling load, prefetch and atomics (R145 to R169). -/

namespace Sys2Proof.Machine

/-! ### Addresses and checks -/

/-- A memory instruction: every live thread's check is made before any of them acts (R148), and the
threads act in ascending lane order (R153). It is held while an acquire load of a live thread is on its
way (R186). -/
def memAct {α : Type} (chk : Cx → State → Thread → Except FaultInfo α)
    (eff : Cx → Thread → α → State → State) : Act := fun cx ts s =>
  if ts.any Thread.acquiring then none
  else
  let rs := ts.map fun t => (t, chk (cx.of t) s t)
  some (rs.foldl (fun (r : State × List (Nat × FaultInfo)) x =>
    match x.2 with
    | .ok c => (eff (cx.of x.1) x.1 c (r.1.lastRelease (cx.of x.1) x.1.uid), r.2)
    | .error f => (r.1, r.2 ++ [(x.1.uid, f)])) (s, []))

/-- The address of a generic access: base plus the offset scaled by the size (R147). -/
def genericEa (cx : Cx) (t : Thread) (base : Nat) (o : BitVec 9) (size : Nat) : DWord :=
  t.w base + BitVec.ofNat 64 size * (immS cx.himm o).signExtend 64

/-- An access that has been checked: its address and where it goes. -/
structure Chk where
  ea : DWord
  acc : Acc
  deriving DecidableEq, Repr

/-- Check one access of a thread (R148). -/
def State.checkAt (s : State) (t : Thread) (ea : DWord) (size : Nat) (k : Access) :
    Except FaultInfo Chk :=
  match s.check t ea size k with
  | .ok a => .ok ⟨ea, a⟩
  | .error f => .error f

/-- The exact scratchpad offset of LDS and STS (R147). -/
def scratchOff (cx : Cx) (t : Thread) (b : Nat) (o : BitVec 9) : Int :=
  (t.g b).toNat + 4 * (immS cx.himm o).toInt

/-- Check an LDS or STS (R147, R148). -/
def checkScratch (cx : Cx) (s : State) (t : Thread) (b : Nat) (o : BitVec 9) : Except FaultInfo Chk :=
  let off := scratchOff cx t b o
  let ea : DWord := 0xF100000000000000 + (BitVec.ofInt 32 off).setWidth 64
  if off < 0 || ((s.launchOf t).teamScratch : Int) ≤ off then .error (flt 0x06 0 ea)
  else s.checkAt t ea 4 .read

/-! ### Results of accesses -/

/-- The CACHE field of HMOD (R151). (DEDUCED, log 69) -/
def Cx.cache (cx : Cx) : Nat := (cx.m.extractLsb' 4 2).toNat

/-- The SCOPE field of HMOD, with a default (R57). -/
def Cx.scope (cx : Cx) (dflt : Nat) : Nat :=
  let c := (cx.m.extractLsb' 0 4).toNat
  if c = 0 then dflt else c

/-- The Memory Poison fault of an access (R159). -/
def memPoison (ea : DWord) : FaultInfo := flt 0x0C 0 ea

/-- Put the result of an access of a thread in flight. -/
def State.pendResult (s : State) (cx : Cx) (u : Nat) (cls : CClass) (dests : List (Dest × Word))
    (upd : Pending → Pending) : State :=
  s.setThread u fun t => t.addPend (upd (cx.pending t t.nextPend cls dests))

/-- Whether a remote request is a polling load. -/
def polls : RemoteOp → Bool
  | .poll _ => true
  | _ => false

/-- Put the result of a remote access in flight; one whose home cannot be reached fails (R380). -/
def State.pendRemote (s : State) (cx : Cx) (u : Nat) (cls : CClass) (ds : List Dest) (ea : DWord)
    (home pa : Nat) (op : RemoteOp) (cmp : Option DWord) : State :=
  let id := (s.thread u).nextPend
  if s.reachable home then
    let n := s.fabric.nextTxn
    (s.pendResult cx u cls (ds.map fun d => (d, 0)) fun p => { p with kind := .remote n (polls op) }).sendRemote
      home pa op ⟨n, home, u, id, false, ds, cmp, ea⟩
  else s.pendResult cx u cls (ds.map fun d => (d, 0)) fun p => { p with fault := some (accessFault 0x23 ea) }

/-- The value that little-endian bytes give to a list of destinations of 32 bits each. -/
def destVals (ds : List Dest) (bs : List Byte) : List (Dest × Word) :=
  ds.zipIdx.map fun d => (d.1, BitVec.ofNat 32 (fieldAt bs (4 * d.2) 4))

/-- The destinations that a loaded value is written to, with their values (R14, R15). -/
inductive LoadTo where
  | byte (n : Nat) | half (n : Nat) | word (n : Nat) | dword (n : Nat) | quad (n : Nat)
  deriving DecidableEq, Repr

/-- The bytes a load reads (R145). (DEDUCED, log 32) -/
def LoadTo.size : LoadTo → Nat
  | .byte _ => 1 | .half _ => 2 | .word _ => 4 | .dword _ => 8 | .quad _ => 16

/-- The destinations of loaded bytes (R146, R149). -/
def LoadTo.dests (l : LoadTo) (bs : List Byte) : List (Dest × Word) :=
  match l with
  | .byte n | .half n | .word n => gDests n (BitVec.ofNat 32 (leNat bs))
  | .dword n => wDests n (BitVec.ofNat 64 (leNat bs))
  | .quad n => wDests n (BitVec.ofNat 64 (fieldAt bs 0 8)) ++
      wDests (n + 1) (BitVec.ofNat 64 (fieldAt bs 8 8))

/-- A load of class M is issued again when its group is stopped before it has returned (R160). -/
def State.reissuable (s : State) (u id : Nat) (r : Reload) : State :=
  s.setThread u fun t => { t with pend := t.pend.map fun p => if p.id = id then { p with reload := some r } else p }

/-- A core that has read bytes of a line at the L2 shows no older ones of that line (R151, R154, R178).
(DEDUCED, log 78) -/
def State.freshen (s : State) (core line : Nat) : State :=
  s.setCore core fun c => { c with l1 := { c.l1 with stale := c.l1.stale.cut (line * 128) 128 } }

/-- A core that still shows older bytes of a line may see the newer ones of what it loads: each part of its own, as a
free value decides (R180, R181). (DESIGN CHOICE, log 68) -/
def State.maySee (s : State) (core a n : Nat) : State :=
  ((s.viewParts a n).filter fun u => !((s.core core).l1.stale.slice u.1 u.2).isEmpty).foldl (fun s u =>
    let s1 := s.tick
    if Config.seesNew s.fresh then s1.setCore core fun c => { c with l1 := { c.l1 with stale := c.l1.stale.cut u.1 u.2 } }
    else s1) s

/-- Read an access's bytes as a load does under a cache policy (R151): the state with the line filled, the
bytes, and whether they are poisoned (R159). -/
def State.loadBytes (s : State) (core : Nat) (a : Acc) (size policy : Nat) : State × List Byte × Bool :=
  match a.place with
  | .phys pa =>
    let p := if a.isGlobal then policy else 0
    let s1 := if p = 3 then (s.writeBack core (lineOf pa)).freshen core (lineOf pa)
      else (s.fill core (lineOf pa) p).maySee core pa size
    (s1, s1.readPlace core a.place size (p == 3), s1.placePoisoned core a.place size)
  | _ => (s, s.readPlace core a.place size false, s.placePoisoned core a.place size)

/-- What a checked load of one thread reads goes in flight (R149, R159). (DEDUCED, log 32) -/
def readEff (l : LoadTo) (cx : Cx) (t : Thread) (c : Chk) (s : State) : State :=
  let s0 := s.holdAcc t.core c.acc
  match c.acc.place with
  | .remote home pa =>
    s0.pendRemote cx t.uid .ld ((l.dests []).map fun (d : Dest × Word) => d.1) c.ea home pa (.load l.size) none
  | _ =>
    let r := s0.loadBytes t.core c.acc l.size cx.cache
    r.1.pendResult cx t.uid .ld (l.dests r.2.1) fun p =>
      { p with fault := if r.2.2 then some (memPoison c.ea) else none }

/-- A checked load of one thread (R149, R159, R160). -/
def loadEff (l : LoadTo) (cx : Cx) (t : Thread) (c : Chk) (s : State) : State :=
  (readEff l cx t c s).reissuable t.uid (s.thread t.uid).nextPend
    ⟨c.ea, l.size, cx.cache, (l.dests []).map fun (d : Dest × Word) => d.1, none⟩

/-- A load from a generic address. -/
def loadAct (l : LoadTo) (b : Nat) (o : BitVec 9) : Act :=
  memAct (fun cx s t => s.checkAt t (genericEa cx t b o l.size) l.size .read) (loadEff l)

/-- The fault of a store to a page of another device that cannot be reached, due where its result is awaited (R380,
R424). -/
def State.lostStore (s : State) (c : Chk) : Option FaultInfo :=
  match c.acc.place with
  | .remote home _ => if s.reachable home then none else some (accessFault 0x23 c.ea)
  | _ => none

/-- A checked store of one thread (R149, R150). (DEDUCED, log 32) -/
def storeEff (bs : Cx → Thread → List Byte) (policy : Cx → Nat) (cx : Cx) (t : Thread) (c : Chk)
    (s : State) : State :=
  let s0 := s.holdAcc t.core c.acc
  match s.lostStore c with
  | some f => s0.pendResult cx t.uid .st [] fun p => { p with fault := some f }
  | none =>
    (s0.putAt t c.acc.place c.acc.cmp c.ea (bs cx t) (if c.acc.isGlobal then policy cx else 0)).pendResult cx t.uid .st [] id

/-- A store to a generic address. -/
def storeAct (size : Nat) (val : Thread → Nat) (b : Nat) (o : BitVec 9) : Act :=
  memAct (fun cx s t => s.checkAt t (genericEa cx t b o size) size .write)
    (storeEff (fun _ t => leBytes size (val t)) Cx.cache)

/-! ### Loads and stores -/

/-- LDB (R149). -/
def execLdb (e : Bool) (v b : BitVec 7) (o : BitVec 9) (s : State) : Out :=
  word (.ldb e v b o) (loadAct (.byte v.toNat) b.toNat o) s

/-- LDH (R149). -/
def execLdh (e : Bool) (v b : BitVec 7) (o : BitVec 9) (s : State) : Out :=
  word (.ldh e v b o) (loadAct (.half v.toNat) b.toNat o) s

/-- LDW (R149). -/
def execLdw (e : Bool) (v b : BitVec 7) (o : BitVec 9) (s : State) : Out :=
  word (.ldw e v b o) (loadAct (.word v.toNat) b.toNat o) s

/-- LDD (R149). -/
def execLdd (e : Bool) (v b : BitVec 7) (o : BitVec 9) (s : State) : Out :=
  word (.ldd e v b o) (loadAct (.dword v.toNat) b.toNat o) s

/-- LDQ (R149). -/
def execLdq (e : Bool) (v b : BitVec 7) (o : BitVec 9) (s : State) : Out :=
  word (.ldq e v b o) (loadAct (.quad v.toNat) b.toNat o) s

/-- STB (R149). -/
def execStb (e : Bool) (v b : BitVec 7) (o : BitVec 9) (s : State) : Out :=
  word (.stb e v b o) (storeAct 1 (fun t => (t.g v.toNat).toNat) b.toNat o) s

/-- STH (R149). -/
def execSth (e : Bool) (v b : BitVec 7) (o : BitVec 9) (s : State) : Out :=
  word (.sth e v b o) (storeAct 2 (fun t => (t.g v.toNat).toNat) b.toNat o) s

/-- STW (R149). -/
def execStw (e : Bool) (v b : BitVec 7) (o : BitVec 9) (s : State) : Out :=
  word (.stw e v b o) (storeAct 4 (fun t => (t.g v.toNat).toNat) b.toNat o) s

/-- STD (R149). -/
def execStd (e : Bool) (v b : BitVec 7) (o : BitVec 9) (s : State) : Out :=
  word (.std e v b o) (storeAct 8 (fun t => (t.w v.toNat).toNat) b.toNat o) s

/-- STQ (R149). -/
def execStq (e : Bool) (v b : BitVec 7) (o : BitVec 9) (s : State) : Out :=
  word (.stq e v b o)
    (storeAct 16 (fun t => (t.w v.toNat).toNat + (t.w (v.toNat + 1)).toNat * 2 ^ 64) b.toNat o) s

/-- LDS (R147, R149). -/
def execLds (e : Bool) (v b : BitVec 7) (o : BitVec 9) (s : State) : Out :=
  word (.lds e v b o)
    (memAct (fun cx s t => checkScratch cx s t b.toNat o) (loadEff (.word v.toNat))) s

/-- STS (R147, R149). -/
def execSts (e : Bool) (v b : BitVec 7) (o : BitVec 9) (s : State) : Out :=
  word (.sts e v b o)
    (memAct (fun cx s t => checkScratch cx s t b.toNat o)
      (storeEff (fun _ t => leBytes 4 (t.g v.toNat).toNat) fun _ => 0)) s

/-! ### The polling load (R161, R162) and reads at a scope -/

/-- Read a word at the point of a scope (R161): in the core's L1 up to core scope, at the L2 beyond, after
the L1 copy of the line is written back and dropped; a scratchpad word where it is. -/
def State.loadAtScope (s : State) (core : Nat) (p : Place) (scope : Nat) : State × Word × Bool :=
  let s1 := match p with
    | .phys pa => if scope ≤ 4 then s.fill core (lineOf pa) 0 else s.evict core (lineOf pa)
    | _ => s
  (s1, BitVec.ofNat 32 (leNat (s1.readPlace core p 4 (decide (5 ≤ scope)))), s1.placePoisoned core p 4)

/-- The cycles an LDPOLL is held at most (R161). -/
def pollCycles : Nat := 16384

/-- Whether the trailer of the run detaches the result of the load that a thread issues, where the words of the run can be
read and no guard stands before it (R53, R58). (DEDUCED, log 50) -/
def State.detaches (s : State) (cx : Cx) (t : Thread) : Bool :=
  let ws := if cx.e then [] else s.ahead t cx.pc (23 - cx.pos)
  match ws.getLast? with
  | some (some w) =>
    opcodeOf w == 0x04 && sBit w && !w.getLsbD cx.pos && decide (t.ctr.ld < 63) && decide (t.hints.cover ≤ 1) &&
      !ws.any fun x => (x.map opcodeOf) == some 0x03
  | _ => false

/-- A checked LDPOLL of one thread (R161): it is demoted, and its result returns at once when the word
differs from the register or the trailer detaches it, or is held. (DEDUCED, log 32) -/
def pollEff (v : Nat) (cx : Cx) (t : Thread) (c : Chk) (s : State) : State :=
  let s0 := (s.holdAcc t.core c.acc).demote cx.gid [t.uid]
  let scope := cx.scope 6
  let s1 := match c.acc.place with
    | .remote home pa =>
      s0.pendRemote cx t.uid .ld ((gDests v 0).map fun (d : Dest × Word) => d.1) c.ea home pa
        (if s.detaches cx t then .load 4 else .poll (t.g v)) none
    | p =>
      let r := s0.loadAtScope t.core p scope
      if r.2.2 then r.1.pendResult cx t.uid .ld (gDests v 0) fun q => { q with fault := some (memPoison c.ea) }
      else if r.2.1 != t.g v || s.detaches cx t then r.1.pendResult cx t.uid .ld (gDests v r.2.1) id
      else r.1.pendResult cx t.uid .ld (gDests v r.2.1) fun q =>
        { q with kind := .poll p scope (s.now + pollCycles) c.ea }
  s1.reissuable t.uid (s0.thread t.uid).nextPend
    ⟨c.ea, 4, 0, (gDests v 0).map fun (d : Dest × Word) => d.1, some (scope, t.g v)⟩

/-! ### Loads issued again after a save (R160) -/

/-- The values that a reply's bytes give to the destinations of a load: registers of w views take the half
that is theirs (R15). -/
def replyDests (ds : List Dest) (bs : List Byte) : List (Dest × Word) :=
  let base := (ds.map fun d => match d with
    | .reg n => n
    | .pred n => n).foldl min 127 / 2 * 2
  ds.map fun d => match d with
    | .reg n => (d, BitVec.ofNat 32 (fieldAt bs (if bs.length ≤ 4 then 0 else 4 * (n - base)) 4))
    | .pred _ => (d, 0)

/-- A result of some bytes for the registers that it still names (R49). -/
def Pending.filled (p : Pending) (ds : List Dest) (bs : List Byte) (poison : Option FaultInfo) : Pending :=
  match poison with
  | some f => { p with kind := .ready, fault := some f }
  | none => { p with
      kind := .ready, fault := none, dests := (replyDests ds bs).filter fun d => p.dests.any fun x => x.1 == d.1 }

/-- Change a result of a thread. -/
def State.setPend (s : State) (u id : Nat) (f : Pending → Pending) : State :=
  s.setThread u fun t => { t with pend := t.pend.map fun p => if p.id = id then f p else p }

/-- Issue a load again at a place (R160): an LDPOLL compares again, and may be held again (R161). -/
def State.reissueAt (s : State) (u : Nat) (p : Pending) (r : Reload) (a : Acc) : State :=
  let t := s.thread u
  match a.place, r.poll with
  | .remote home pa, q =>
    if s.reachable home then
      let n := s.fabric.nextTxn
      let op := match q with
        | some x => if p.detached then .load r.size else RemoteOp.poll x.2
        | none => .load r.size
      (s.setPend u p.id fun x => { x with kind := .remote n (polls op) }).sendRemote home pa op
        ⟨n, home, u, p.id, false, r.regs, none, r.ea⟩
    else s.setPend u p.id fun x => x.filled r.regs [] (some (accessFault 0x23 r.ea))
  | _, none =>
    let x := s.loadBytes t.core a r.size r.policy
    x.1.setPend u p.id fun q => q.filled r.regs x.2.1 (if x.2.2 then some (memPoison r.ea) else none)
  | pl, some q =>
    let x := s.loadAtScope t.core pl q.1
    x.1.setPend u p.id fun y =>
      let z := y.filled r.regs (leBytes 4 x.2.1.toNat) (if x.2.2 then some (memPoison r.ea) else none)
      if x.2.1 != q.2 || x.2.2 || p.detached then z
      else { z with kind := .poll pl q.1 (s.now + pollCycles) r.ea }

/-- A restored thread issues an abandoned load again, with the same address (R160). A check that now fails is due where
the result is awaited. (DESIGN CHOICE, log 49) -/
def State.reissue (s : State) (u : Nat) (p : Pending) (r : Reload) : State :=
  match s.check (s.thread u) r.ea r.size .read with
  | .error f => s.setPend u p.id fun x => x.filled r.regs [] (some (if f.code = 4 then accessFault 0x21 r.ea else f))
  | .ok a => (s.holdAcc (s.thread u).core a).reissueAt u p r a

/-- Whether a save abandons a result: a load's or an LDPOLL's that has not returned (R160). One that has been written in
part has begun to return, and is not issued again. (DESIGN CHOICE, log 77) -/
def Pending.abandons (p : Pending) : Bool := p.reload.isSome && !p.returned && p.early.isNone

/-- A save abandons a thread's loads (R160): the replies that they wait for are no longer theirs. -/
def State.abandonLoads (s : State) (u : Nat) : State :=
  let ids := ((s.thread u).pend.filter Pending.abandons).map (·.id)
  let s1 := { s with fabric := { s.fabric with remote := s.fabric.remote.filter fun (w : RemoteWait) =>
    !(w.uid == u && !w.isStore && ids.contains w.pend) } }
  s1.setThread u fun t => { t with pend := t.pend.map fun p => if p.abandons then { p with kind := .again, fault := none } else p }

/-- A restored thread issues its abandoned loads again, in their order (R160). -/
def State.reissueLoads (s : State) (u : Nat) : State :=
  ((s.thread u).pend.filter fun p => p.kind == .again).foldl (fun s p =>
    match p.reload with
    | some r => s.reissue u p r
    | none => s) s

/-- The transaction of a polling load at another device that its trailer has detached. -/
def Pending.recalled (p : Pending) : Option Nat :=
  match p.kind with
  | .remote n true => if p.detached && !p.returned then some n else none
  | _ => none

/-- A detached poll returns at once (R161): one held at another device, whose trailer could not be read as it was issued,
reads there again without waiting, and the answer to the first is no longer its own. (DEDUCED, log 54) -/
def State.recallPolls (s : State) : State :=
  s.threads.foldl (fun s t => t.pend.foldl (fun s p =>
    match p.recalled, p.reload with
    | some n, some r =>
      State.reissue { s with fabric := { s.fabric with remote := s.fabric.remote.filter fun (w : RemoteWait) =>
        w.txn != n } } t.uid p r
    | _, _ => s) s) s

/-- LDPOLL (R161). -/
def execLdpoll (e : Bool) (v b : BitVec 7) (o : BitVec 9) (s : State) : Out :=
  word (.ldpoll e v b o)
    (memAct (fun cx s t => s.checkAt t (genericEa cx t b.toNat o 4) 4 .read) (pollEff v.toNat)) s

/-! ### Prefetch (R164) -/

/-- One thread's PREF: kind 0 brings the line into the L1; kinds 1 and 2 touch the L2, which changes no
value. (DEDUCED, log 69) -/
def prefEff (kind : Nat) (ea : DWord) (t : Thread) (s : State) : State :=
  if ea.extractLsb' 57 7 != 0 || kind != 0 then s
  else
    let va := ea.toNat / 128 * 128
    match s.checkVa t.core (s.slice t.slice).asid va .read t.needU ea with
    | .error _ => s
    | .ok a =>
      match a.place with
      | .phys pa => if s.placePoisoned t.core a.place 128 then s else s.fill t.core (lineOf pa) 0
      | _ => s

/-- PREF (R164). -/
def execPref (e : Bool) (v b : BitVec 7) (o : BitVec 9) (s : State) : Out :=
  word (.pref e v b o)
    (eachLane fun cx t s => .ok (prefEff v.toNat (genericEa cx t b.toNat o 128) t s)) s

/-! ### Atomics (R165 to R169) -/

/-- FADD of an atomic: RNE, no FTZ, no flags (R165). -/
def faddRne (f : Fmt) (x y : Nat) : Nat := (fpAdd f 0 false x y).1

/-- The value an atomic writes, from the old value, its operand and the comparison value; `none` when an
ACAS fails (R165). `op` is the opcode: 0x90 AADD, 0x91 AMM, 0x92 ALOG, 0x93 ACAS. -/
def atomicNew (op f : Nat) (old b c : Nat) : Option Nat :=
  let o := BitVec.ofNat 32 old
  let x := BitVec.ofNat 32 b
  if op = 0x90 then
    some (if f = 0 then (old + b) % 2 ^ 32
      else if f = 1 then faddRne .fp32 old b
      else if f = 2 then (old + b) % 2 ^ 64
      else faddRne .bf16 (old % 65536) (b % 65536) +
        65536 * faddRne .bf16 (old / 65536) (b / 65536))
  else if op = 0x91 then
    some (if f = 0 then (if x.slt o then b else old)
      else if f = 1 then (if o.slt x then b else old)
      else if f = 2 then min old b
      else max old b)
  else if op = 0x92 then
    some (if f = 0 then (o &&& x).toNat else if f = 1 then (o ||| x).toNat
      else if f = 2 then (o ^^^ x).toNat else b)
  else if old = c then some b else none

/-- An atomic at a place of this device (R167): the state, the old value, and whether it is poisoned. -/
def State.atomicAt (s : State) (core : Nat) (a : Acc) (size scope op f b c : Nat) :
    State × Nat × Bool × Bool :=
  match a.place with
  | .phys pa =>
    let l1 := scope ≤ 4 || !a.isGlobal
    let s1 := if l1 then s.fill core (lineOf pa) 0
      else
        let s2 := s.evict core (lineOf pa)
        let d := (s2.core core).die
        if s2.mem.owns d (lineOf pa) then s2 else s2.grantLine d (lineOf pa)
    let old := leNat (s1.readPlace core a.place size (!l1))
    if s1.placePoisoned core a.place size then (s1, old, true, false)
    else
      match atomicNew op f old b c with
      | none => (s1, old, false, true)
      | some v =>
        let bs := leBytes size v
        (((if l1 then s1.l1Store core (numbered pa bs) 0
          else s1.ownedStore (s1.core core).die (numbered pa bs) (some core)).markCmp a.place a.cmp).markWide a.place size,
          old, false, false)
  | p =>
    let old := leNat (s.readPlace core p size false)
    if s.placePoisoned core p size then (s, old, true, false)
    else
      match atomicNew op f old b c with
      | none => (s, old, false, true)
      | some v => (s.storePlace core p (leBytes size v) 0, old, false, false)

/-- The operands of an atomic of one thread: opcode, variant, size, operand, comparison, destinations. -/
structure AtomicOp where
  op : Nat
  f : Nat
  size : Nat
  b : Nat
  c : Nat
  dests : Nat → List (Dest × Word)

/-- A checked atomic of one thread (R165 to R167). -/
def atomicEff (mk : Thread → AtomicOp) (cx : Cx) (t : Thread) (c : Chk) (s : State) : State :=
  let o := mk t
  let s0 := s.holdAcc t.core c.acc
  let scope := cx.scope (if c.acc.isGlobal then 6 else 3)
  match c.acc.place with
  | .remote home pa =>
    s0.pendRemote cx t.uid .ax ((o.dests 0).map (·.1)) c.ea home pa
      (.atomic o.op o.f o.size (BitVec.ofNat 64 o.b) (BitVec.ofNat 64 o.c))
      (if o.op = 0x93 then some (BitVec.ofNat 64 o.c) else none)
  | _ =>
    let r := s0.atomicAt t.core c.acc o.size scope o.op o.f o.b o.c
    if r.2.2.1 then r.1.pendResult cx t.uid .ax [] fun p => { p with fault := some (memPoison c.ea) }
    else r.1.pendResult cx t.uid .ax (o.dests r.2.1) fun p => { p with demote := r.2.2.2 }

/-- An atomic at the address in a w register. -/
def atomicAct (size base : Nat) (ops : Thread → AtomicOp) : Act :=
  memAct (fun _ s t => s.checkAt t (t.w base) size .atomic) (atomicEff ops)

/-- The destinations of an atomic's old value. -/
def oldDests (size d old : Nat) : List (Dest × Word) :=
  if size = 8 then wDests d (BitVec.ofNat 64 old) else gDests d (BitVec.ofNat 32 old)

/-- A register operand of 4 or 8 bytes. -/
def Thread.sized (t : Thread) (size n : Nat) : Nat := if size = 8 then (t.w n).toNat else (t.g n).toNat

/-- AADD (R165): f is 0 .z32, 1 .f32, 2 .w64, 3 .bf16x2. -/
def execAadd (e : Bool) (d a b : BitVec 7) (f : BitVec 2) (s : State) : Out :=
  let n := if f = 2 then 8 else 4
  word (.aadd e d a b f)
    (atomicAct n a.toNat fun t => ⟨0x90, f.toNat, n, t.sized n b.toNat, 0, oldDests n d.toNat⟩) s

/-- AMM (R165): f is 0 .min.s, 1 .max.s, 2 .min.z, 3 .max.z. -/
def execAmm (e : Bool) (d a b : BitVec 7) (f : BitVec 2) (s : State) : Out :=
  word (.amm e d a b f)
    (atomicAct 4 a.toNat fun t => ⟨0x91, f.toNat, 4, t.sized 4 b.toNat, 0, oldDests 4 d.toNat⟩) s

/-- ALOG (R165): f is 0 .and, 1 .or, 2 .xor, 3 .xchg. -/
def execAlog (e : Bool) (d a b : BitVec 7) (f : BitVec 2) (s : State) : Out :=
  word (.alog e d a b f)
    (atomicAct 4 a.toNat fun t => ⟨0x92, f.toNat, 4, t.sized 4 b.toNat, 0, oldDests 4 d.toNat⟩) s

/-- ACAS (R165, R166): f is 0 .32, 1 .64. -/
def execAcas (e : Bool) (d a b : BitVec 7) (f : BitVec 2) (s : State) : Out :=
  let n := if f = 1 then 8 else 4
  word (.acas e d a b f)
    (atomicAct n a.toNat fun t =>
      ⟨0x93, f.toNat, n, t.sized n b.toNat, t.sized n d.toNat, oldDests n d.toNat⟩) s

end Sys2Proof.Machine
end

