-- ==== Sys2Proof/Machine/Control.lean ====
section
/-! DEFINITION. Hints (R53 to R60), control transfers, parking and ending instructions, traps and the
return from the handler (R94 to R118). -/

namespace Sys2Proof.Machine

/-! ### Hints -/

/-- The word of a hint, as it stays pending (R108). -/
def hintWordOf (i : Instr) : Word := (encode i).getD 0

/-- HIMM (R55): its payload waits for the target. -/
def execHimm (e : Bool) (pl : BitVec 23) (s : State) : Out :=
  word (.himm e pl) (alu fun _ _ x =>
    { x with hints := { x.hints with himm := some (hintWordOf (.himm e pl)) } }) s

/-- HMOD (R56): its payload waits for the target. -/
def execHmod (e : Bool) (pl : BitVec 23) (s : State) : Out :=
  word (.hmod e pl) (alu fun _ _ x =>
    { x with hints := { x.hints with hmod := some (hintWordOf (.hmod e pl)) } }) s

/-- HGRD (R58): its coverage opens. -/
def execHgrd (e : Bool) (p : BitVec 6) (n : BitVec 1) (c : BitVec 2) (s : State) : Out :=
  word (.hgrd e p n c) (alu fun _ _ x =>
    { x with hints := { x.hints with
        hgrd := some (hintWordOf (.hgrd e p n c)), cover := c.toNat + 1 } }) s

/-- HSCH (R59): it acts when its target issues. -/
def execHsch (e : Bool) (cl : BitVec 1) (df : BitVec 13) (dm yl : BitVec 1) (s : State) : Out :=
  word (.hsch e cl df dm yl) (alu fun _ _ x =>
    { x with hints := { x.hints with hsch := some (hintWordOf (.hsch e cl df dm yl)) } }) s

/-- NOP (R60). -/
def execNop (e : Bool) (s : State) : Out := word (.nop e) idle s

/-- A detached poll returns at once, with the word that it read (R161). -/
def RKind.detach : RKind → RKind
  | .poll .. => .ready
  | k => k

/-- Detach one result of a run if its counter allows (R26, R53). -/
def Thread.detachOne (t : Thread) (p : Pending) : Thread :=
  if p.returned then
    { t with pend := t.pend.map fun q => if q.id = p.id then { q with detached := true } else q }
  else if 63 ≤ t.ctr.get p.cls then t
  else
    { t with
      ctr := t.ctr.upd p.cls (· + 1)
      pend := t.pend.map fun q =>
        if q.id = p.id then { q with detached := true, kind := q.kind.detach } else q }

/-- The results of the thread's run that a trailer at position `j` detaches, in ascending position
(R53). -/
def Thread.detachable (t : Thread) (msk : BitVec 23) (j : Nat) : List Pending :=
  sortBy (fun x y => decide (x.pos ≤ y.pos)) (t.pend.filter fun p =>
    p.run == t.runId && decide (p.pos < j) && !p.detached && !msk.getLsbD p.pos)

/-- A trailer's effect in one thread (R53). -/
def Thread.trailer (t : Thread) (msk : BitVec 23) (j : Nat) : Thread :=
  (t.detachable msk j).foldl Thread.detachOne t

/-- TRL (R53): it detaches the results that its mask does not name. -/
def execTrl (m : BitVec 23) (s : State) : Out :=
  word (.trl m) (alu fun cx _ x => x.trailer m cx.pos) s

/-! ### Branches and the call stack -/

/-- Where a control transfer sends the thread once its run ends (R45). -/
def Thread.goto (t : Thread) (pc : Word) : Thread := { t with after := some (.goto pc) }

/-- The target of a relative transfer: the offset counts words from the instruction (R95, R96). -/
def relTarget (cx : Cx) {w : Nat} (o : BitVec w) : Word := cx.pc + 4 * immS cx.himm o

/-- BR (R95). A thread that does not take the branch goes on at its PC + 4, which is a trailer's own address when one
follows: the trailer then begins that thread's next run. (DEDUCED, log 71) -/
def execBr (e : Bool) (p : BitVec 6) (n : BitVec 1) (o : BitVec 16) (s : State) : Out :=
  word (.br e p n o) (alu fun cx t x =>
    x.goto (if t.p p.toNat != (n == 1) then relTarget cx o else cx.pc + 4)) s

/-- A Landing fault (R98). -/
def landingFault (sub : Nat) (v : DWord) : FaultInfo := flt 0x07 sub v

/-- landing_check of R97: the offset of a landing pad, and the translation used. -/
def State.landingCheck (s : State) (t : Thread) (v : DWord) : Except FaultInfo (Word × Acc) :=
  let sl := s.slice t.slice
  if v.extractLsb' 57 7 != 0 then .error (landingFault 0x01 v)
  else if v < sl.codeBase || decide (2 ^ 32 - 4 ≤ (v - sl.codeBase).toNat) then
    .error (landingFault 0x02 v)
  else if (v - sl.codeBase).toNat % 4 != 0 then .error (landingFault 0x03 v)
  else
    match s.checkVa t.core sl.asid v.toNat .fetch t.needU v with
    | .error f => .error f
    | .ok a =>
      match a.place with
      | .phys pa =>
        if opcodeOf (BitVec.ofNat 32 (leNat (s.mem.readDie (s.core t.core).die pa 4))) = 0x78 then
          .ok (loWord (v - sl.codeBase), a)
        else .error (landingFault 0x04 v)
      | p =>
        match s.dataFault t.uid t.core p 4 v with
        | some f => .error f
        | none =>
          if opcodeOf (BitVec.ofNat 32 (leNat (s.readAny t.uid t.core p 4 true))) = 0x78 then
            .ok (loWord (v - sl.codeBase), a)
          else .error (landingFault 0x04 v)

/-- The granules of another device that the word at a target lies in (R380). -/
def State.landingGrans (s : State) (t : Thread) (v : DWord) : List Gran :=
  match s.checkVa t.core (s.slice t.slice).asid v.toNat .fetch t.needU v with
  | .ok a => if v.toNat % 4 = 0 then a.place.grans 4 else []
  | .error _ => []

/-- JMPI (R97). -/
def execJmpi (e : Bool) (a : BitVec 7) (s : State) : Out :=
  wordFar (.jmpi e a) (fun _ s t => s.landingGrans t (t.w a.toNat))
    (memAct (fun _ s t => s.landingCheck t (t.w a.toNat)) fun _ t r s =>
      (s.holdAcc t.core r.2).setThread t.uid fun x => x.goto r.1) s

/-- Where the call stack of a thread's mode starts (R96). -/
def Launch.stackStart (l : Launch) (t : Thread) : Nat :=
  if t.inHandler then l.privateBytes - 128 else l.privateBytes - l.handlerStack

/-- The lower bound of the call stack of a thread's mode (R96). -/
def Launch.stackLow (l : Launch) (t : Thread) : Nat :=
  if t.inHandler then l.privateBytes - l.handlerStack
  else if l.callStackBytes = 0 then 0 else l.privateBytes - l.handlerStack - l.callStackBytes

/-- The address that a push would write. -/
def Thread.pushAddr (t : Thread) : DWord :=
  0xF000000000000000 + (BitVec.ofInt 32 ((t.csp : Int) - 4)).setWidth 64

/-- The checks of a push on the call stack (R96). -/
def State.pushCheck (s : State) (t : Thread) : Except FaultInfo Chk :=
  if (t.csp : Int) - 4 < ((s.launchOf t).stackLow t : Int) then .error (accessFault 0x20 t.pushAddr)
  else s.checkAt t t.pushAddr 4 .write

/-- Push a return offset and go to a target (R96). The offset is the PC + 4, which is a trailer's own address when one
follows. (DEDUCED, log 71) -/
def pushGo (cx : Cx) (t : Thread) (c : Chk) (target : Word) (s : State) : State :=
  ((s.holdAcc t.core c.acc).putAt t c.acc.place c.acc.cmp c.ea (leBytes 4 (cx.pc + 4).toNat) 0).setThread
    t.uid fun x => { x.goto target with csp := x.csp - 4 }

/-- CALL (R96). -/
def execCall (e : Bool) (o : BitVec 23) (s : State) : Out :=
  word (.call e o)
    (memAct (fun _ s t => s.pushCheck t) fun cx t c s => pushGo cx t c (relTarget cx o) s) s

/-- The checks of a CALLI: the landing pad, then the push (R96). -/
def calliCheck (a : Nat) (s : State) (t : Thread) : Except FaultInfo ((Word × Acc) × Chk) :=
  match s.landingCheck t (t.w a) with
  | .error f => .error f
  | .ok r =>
    match s.pushCheck t with
    | .error f => .error f
    | .ok c => .ok (r, c)

/-- CALLI (R96, R97). -/
def execCalli (e : Bool) (a : BitVec 7) (s : State) : Out :=
  wordFar (.calli e a) (fun _ s t => s.landingGrans t (t.w a.toNat))
    (memAct (fun _ s t => calliCheck a.toNat s t) fun cx t r s =>
      pushGo cx t r.2 r.1.1 (s.holdAcc t.core r.1.2)) s

/-- What RET does in a thread: it ends on an empty stack, or goes to the popped offset (R96). A Landing fault gives the
offset as popped in %faddr (R98). (DESIGN CHOICE, log 81) -/
def State.retCheck (s : State) (t : Thread) : Except FaultInfo (Option Word) :=
  if t.csp = (s.launchOf t).stackStart t then .ok none
  else
    match s.privLoadWord t t.csp with
    | .error f => .error f
    | .ok v => if v.toNat % 4 != 0 then .error (landingFault 0x05 (v.setWidth 64)) else .ok (some v)

/-- A RET that pops an offset that is no multiple of 4 has moved the stack pointer when it faults (R96). -/
def popped (a : Act) : Act := fun cx ts s =>
  (a cx ts s).map fun r =>
    (r.1.setThreads ((r.2.filter (·.2.code == 0x07)).map (·.1)) fun x => { x with csp := x.csp + 4 }, r.2)

/-- The granules of other devices that a RET pops from (R380). -/
def State.retGrans (s : State) (t : Thread) : List Gran :=
  if t.csp = (s.launchOf t).stackStart t then [] else s.privGrans t t.csp 1

/-- RET (R96). (DEDUCED, log 16) -/
def execRet (e : Bool) (s : State) : Out :=
  wordFar (.ret e) (fun _ s t => s.retGrans t)
    (popped (memAct (fun _ s t => s.retCheck t) fun _ t r s => s.setThread t.uid fun x =>
      match r with
      | none => x.quit (.exited 0)
      | some v => { x.goto v with csp := x.csp + 4 })) s

/-! ### Rejoining, ending, parking -/

/-- JOIN (R99): the thread parks with its rejoin mask. -/
def execJoin (e : Bool) (a : BitVec 7) (s : State) : Out :=
  word (.join e a) (alu fun cx t x => { x with park := .join (t.w a.toNat), parkPc := cx.pc }) s

/-- EXIT (R100). -/
def execExit (e : Bool) (a : BitVec 7) (s : State) : Out :=
  word (.exit e a) (alu fun _ t x => x.quit (.exited (t.g a.toNat))) s

/-- TRAP (R111). -/
def execTrap (e : Bool) (i : BitVec 9) (s : State) : Out :=
  word (.trap e i) (lanewise fun cx _ => .error (flt 0x10 0 ((immZ cx.himm i).setWidth 64))) s

/-- BRK (R118). (DEDUCED, log 21) -/
def execBrk (e : Bool) (c : BitVec 23) (s : State) : Out :=
  word (.brk e c) (lanewise fun _ _ => .error (flt 0x0F 1 (c.setWidth 64))) s

/-- LAND (R97). -/
def execLand (e : Bool) (s : State) : Out := word (.land e) idle s

/-- YIELD (R103): the thread parks until the slice's next release. -/
def execYield (e : Bool) (s : State) : Out :=
  word (.yield e) (alu fun cx _ x => { x with park := .yield, parkPc := cx.pc }) s

/-- Add a wait of a group. -/
def State.addWait (s : State) (g : Nat) (w : GWait) : State :=
  s.setGroup g fun x => { x with waits := x.waits ++ [w] }

/-- WAITC (R102): the group parks until the named counters of its live threads have fallen. -/
def execWaitc (e : Bool) (m : BitVec 4) (t : BitVec 6) (s : State) : Out :=
  word (.waitc e m t)
    (whole fun cx ts s => s.addWait cx.gid (.counters m t.toNat (ts.map (·.uid)) cx.pc)) s

/-! ### Return from the handler -/

/-- The gathering instructions (R193). -/
def gathers : Instr → Bool
  | .cdetect .. | .shfl .. | .bcast .. | .ballot .. | .vote .. | .red .. | .scan .. | .topk ..
  | .matchv .. | .sortkv .. => true
  | _ => false

/-- The gathering instruction that an RFE.skip of a thread skips, without PART: the thread arrives at its
instance, and contributes and receives nothing (R193). -/
def State.skipArrival (s : State) (t : Thread) (c : FrameCtx) : List Contribution :=
  if t.resume.boundary || (c.hints.hmod.getD 0).getLsbD 17 then []
  else
    match s.codeWord t t.resume.pc with
    | none => []
    | some w =>
      match decode (s.launchOf t).version w with
      | .error _ => []
      | .ok i => if gathers i then [⟨t.resume.pc, false, true, i, 0, 0, 0⟩] else []

/-- Leave the handler once the run ends, with the run context of the frame (R112). (DEDUCED, log 16) -/
def rfeAct (skip : Bool) : Act :=
  memAct (fun _ s t => s.frameCtx t) fun _ t c s =>
    s.setThread t.uid fun x => { x with
      after := some (.rfe skip c.k c.hints)
      gather := if skip then x.gather ++ s.skipArrival t c else x.gather }

/-- The granules of other devices that a thread's fault frame lies in (R380). -/
def State.frameGrans (s : State) (t : Thread) : List Gran := s.privGrans t ((s.launchOf t).privateBytes - 128 + 0x14) 15

/-- RFE.replay (R112). -/
def execRfeReplay (e : Bool) (s : State) : Out :=
  wordFar (.rfeReplay e) (fun _ s t => s.frameGrans t) (rfeAct false) s

/-- RFE.skip (R112). -/
def execRfeSkip (e : Bool) (s : State) : Out := wordFar (.rfeSkip e) (fun _ s t => s.frameGrans t) (rfeAct true) s

end Sys2Proof.Machine
end

