-- ==== Sys2Proof/Machine/Fence.lean ====
section
/-! DEFINITION. Fences, acquire loads, release stores and cache maintenance (R171, R183 to R191). -/

namespace Sys2Proof.Machine

/-- The scope code of a fence or a release: 0 selects die (R183). -/
def scopeOf (c : BitVec 4) : Nat := if c = 0 then 6 else c.toNat

/-- Whether a release at a scope must wait for a thread's outstanding accesses (R171, R185), and from domain scope for
the stores to other devices that any thread had sent when the release was first tried: those that the thread has
observed are among them (R177). (DEDUCED, log 38) -/
def releaseWaits (scope : Nat) (t : Thread) (s : State) : Bool :=
  t.memoryOpen || (decide (8 ≤ scope) && s.remoteBefore (s.markOf t).1)

/-- What a fence does for one thread once its waits are over (R185). -/
def fenceEff (rel acq : Bool) (scope : Nat) (t : Thread) (s : State) : State :=
  let s1 := s.landReady t.uid
  let s2 := if rel then s1.release t scope else s1
  if acq then s2.acquire t scope else s2

/-- A fence of a kind at a scope (R185). -/
def fenceAct (rel acq : Bool) (c : BitVec 4) : Act :=
  let scope := scopeOf c
  if scope < 2 then idle
  else holding (fun t s => if rel then releaseWaits scope t s else t.memoryOpen)
    (eachLane fun _ t s => .ok (fenceEff rel acq scope t s))

/-- FENCE.acq (R185). -/
def execFenceAcq (e : Bool) (sc : BitVec 4) (s : State) : Out :=
  word (.fenceAcq e sc) (fenceAct false true sc) s

/-- FENCE.rel (R185). -/
def execFenceRel (e : Bool) (sc : BitVec 4) (s : State) : Out :=
  word (.fenceRel e sc) (fenceAct true false sc) s

/-- FENCE.ar (R179, R185). -/
def execFenceAr (e : Bool) (sc : BitVec 4) (s : State) : Out :=
  word (.fenceAr e sc) (fenceAct true true sc) s

/-- OFENCE (R188): earlier stores are accepted at their issue, and the core's FIFO drains. -/
def execOfence (e : Bool) (s : State) : Out :=
  word (.ofence e)
    (holding (fun t _ => t.memoryOpen) (eachLane fun _ t s => .ok (s.drain t.core))) s

/-- A remote access of a thread is an acquire at a scope: later accesses wait for its reply (R186). -/
def State.markAcquire (s : State) (u id scope : Nat) : State :=
  s.setThread u fun x => { x with pend := x.pend.map fun p =>
    if p.id = id && p.waiting then { p with acquire := scope } else p }

/-- A checked LDACQ of one thread (R186). -/
def ldacqEff (v scope : Nat) (cx : Cx) (t : Thread) (c : Chk) (s : State) : State :=
  if scope < 3 then
    match c.acc.place with
    | .remote home pa =>
      let s1 := s.pendRemote cx t.uid .ld ((gDests v 0).map fun (d : Dest × Word) => d.1) c.ea home pa (.load 4) none
      if scope < 2 then s1 else s1.markAcquire t.uid (s.thread t.uid).nextPend scope
    | _ => readEff (.word v) cx t c s
  else
    let s0 := s.holdAcc t.core c.acc
    match c.acc.place with
    | .remote home pa =>
      (s0.pendRemote cx t.uid .ld ((gDests v 0).map fun (d : Dest × Word) => d.1) c.ea home pa (.load 4) none).markAcquire
        t.uid (s0.thread t.uid).nextPend scope
    | p =>
      let r := s0.loadAtScope t.core p scope
      let s1 := if r.2.2 then
          r.1.pendResult cx t.uid .ld (gDests v 0) fun q => { q with fault := some (memPoison c.ea) }
        else r.1.pendResult cx t.uid .ld (gDests v r.2.1) id
      s1.acquire t scope

/-- LDACQ (R186). -/
def execLdacq (e : Bool) (v b : BitVec 7) (sc : BitVec 4) (s : State) : Out :=
  word (.ldacq e v b sc)
    (memAct (fun _ s t => s.checkAt t (t.w b.toNat) 4 .read) (ldacqEff v.toNat (scopeOf sc))) s

/-- A checked STREL of one thread (R187): the release part, then the store. -/
def strelEff (v scope : Nat) (cx : Cx) (t : Thread) (c : Chk) (s : State) : State :=
  storeEff (fun _ t => leBytes 4 (t.g v).toNat) (fun _ => if 5 ≤ scope then 3 else 0) cx t c
    (if scope < 2 then s else s.release t scope)

/-- STREL (R187). -/
def execStrel (e : Bool) (v b : BitVec 7) (sc : BitVec 4) (s : State) : Out :=
  word (.strel e v b sc)
    (holding (fun t s => decide (2 ≤ scopeOf sc) && releaseWaits (scopeOf sc) t s)
      (memAct (fun _ s t => s.checkAt t (t.w b.toNat) 4 .write) (strelEff v.toNat (scopeOf sc)))) s

/-! ### Cache maintenance -/

/-- The pieces of a range of VAs, cut at 64 KiB pages, below 2^57: address and length. -/
def pagesOf (b n : Nat) : List (Nat × Nat) :=
  let hi := min (b + n) (2 ^ 57)
  if hi ≤ b then []
  else
    (List.range ((hi - 1) / 65536 + 1 - b / 65536)).map fun k =>
      let lo := max b ((b / 65536 + k) * 65536)
      (lo, min hi ((b / 65536 + k + 1) * 65536) - lo)

/-- The physical ranges of this device's memory under a range of VAs of a thread. A page that is absent, malformed or of
another device gives none: CFLUSH raises no such fault (R190), and neither does CINV here, of which the specification
says nothing. (DESIGN CHOICE, log 74) -/
def State.physRanges (s : State) (t : Thread) (b n : Nat) : List (Nat × Nat) :=
  (pagesOf b n).filterMap fun p =>
    match s.translate t.core (s.slice t.slice).asid p.1 with
    | .leaf e => if e.rmt then none else some (e.pa + p.1 % e.size, p.2)
    | _ => none

/-- The lines present in a core's L1 that meet a physical range. -/
def Core.linesIn (c : Core) (r : Nat × Nat) : List Nat :=
  (c.l1.lines.map (·.line)).filter fun l => l * 128 < r.1 + r.2 && r.1 < l * 128 + 128

/-- Act on the L1 lines of a thread's core under a range of VAs. -/
def State.overLines (s : State) (t : Thread) (b n : Nat) (f : State → Nat → State) : State :=
  (s.physRanges t b n).foldl (fun s r => ((s.core t.core).linesIn r).foldl f s) s

/-- CFLUSH in one thread (R190). -/
def cflushEff (drop : Bool) (b : DWord) (n : Nat) (t : Thread) (s : State) : State :=
  if b.extractLsb' 57 7 != 0 then s
  else s.overLines t b.toNat n fun s l => if drop then s.evict t.core l else s.writeBack t.core l

/-- CFLUSH (R190). -/
def execCflush (e : Bool) (a b : BitVec 7) (f : BitVec 2) (s : State) : Out :=
  word (.cflush e a b f)
    (eachLane fun _ t s => .ok (cflushEff (f == 1) (t.w a.toNat) (t.g b.toNat).toNat t s)) s

/-- Drop the L2s' lines of a physical range: what had not reached HBM is lost, and cores keep the values
their L1s show (R191). Polls at the L2s on those lines end (R161). (DEDUCED, log 37) -/
def State.dropL2 (s : State) (r : Nat × Nat) : State :=
  let lo := r.1 / 128 * 128
  let n := (r.1 + r.2 + 127) / 128 * 128 - lo
  if r.2 = 0 then s
  else
    let hit := fun a => decide (lo ≤ a) && decide (a < lo + n)
    let lost := (s.mem.l2.slice lo n).map (·.1)
    let held := s.mem.dies.flatMap fun d => (d.held.filter fun h => hit h.addr).map (·.addr)
    let dies := s.mem.dies.map fun d =>
      { d with held := d.held.filter fun h => !hit h.addr
               requests := d.requests.filter fun q => !hit (q.1 * 128)
               clears := d.clears.filter fun g => !hit (32 * g)
               spoils := d.spoils.filter fun g => !hit (32 * g) }
    let gone := (lost.map (· / 32)).dedup
    let mem := { s.mem with
      l2 := s.mem.l2.cut lo n, dies := dies
      poison := s.mem.poison.filter fun g => !gone.contains g }
    (({ s with mem := mem }).keepViews s.mem none (lost ++ held).dedup).wakePolls (fun _ p sc =>
      decide (5 ≤ sc) && (match p with | .phys a => hit a | _ => false)) |>.wakeHome fun l => hit (l * 128)

/-- CINV in one thread (R191): f is 0 .l1, 1 .l1all, 2 .l2. -/
def cinvEff (f : Nat) (b : DWord) (n : Nat) (t : Thread) (s : State) : State :=
  if f = 1 then ((s.core t.core).l1.lines.map (·.line)).foldl (fun s l => s.dropLine t.core l) s
  else if f = 0 then s.overLines t b.toNat n fun s l => s.dropLine t.core l
  else (s.physRanges t b.toNat n).foldl State.dropL2 s

/-- CINV (R191). -/
def execCinv (e : Bool) (a b : BitVec 7) (f : BitVec 2) (s : State) : Out :=
  word (.cinv e a b f)
    (eachLane fun _ t s => .ok (cinvEff f.toNat (t.w a.toNat) (t.g b.toNat).toNat t s)) s

end Sys2Proof.Machine
end

