-- ==== Sys2Proof/Machine/Group.lean ====
section
/-! DEFINITION. Cross-lane, team and regrouping instructions (R170, R192 to R214). -/

namespace Sys2Proof.Machine

/-! ### Results of gathering instructions -/

/-- What a contributor supplies: its group position and its source values (R195). -/
structure Lane where
  pos : Nat
  a : DWord
  b : Word
  deriving DecidableEq, Repr, Inhabited

/-- The contributor at a position. -/
def laneAt (cs : List Lane) (q : Nat) : Option Lane := cs.find? (·.pos == q)

/-- The mask of the positions of some contributors. -/
def laneMask (cs : List Lane) (p : Lane → Bool) : DWord :=
  (cs.filter p).foldl (fun m c => m ||| BitVec.ofNat 64 (2 ^ c.pos)) 0

/-- The position that SHFL takes from (R197): f is 0 .up, 1 .down, 2 .xor, 3 .idx. -/
def shflFrom (f w k : Nat) (c : Nat) : Int :=
  if f = 0 then (k : Int) - c else if f = 1 then (k : Int) + c
  else if f = 2 then (Nat.xor k c : Nat) else (c % w : Nat)

/-- SHFL's value for a receiver (R197). -/
def shflRes (f w : Nat) (cs : List Lane) (own : Lane) : Word :=
  let q := shflFrom f w own.pos own.b.toNat
  if q < 0 then loWord own.a
  else match laneAt cs q.toNat with
    | some c => loWord c.a
    | none => loWord own.a

/-- BCAST's value for a receiver (R197): f is 0 .idx, 1 .first. -/
def bcastRes (f w : Nat) (cs : List Lane) (own : Lane) : Word :=
  match cs.head? with
  | none => loWord own.a
  | some l =>
    let q := if f = 0 then l.b.toNat % w else l.pos
    match laneAt cs q with
    | some c => loWord c.a
    | none => loWord own.a

/-- BALLOT's mask (R198). -/
def ballotRes (cs : List Lane) : DWord := laneMask cs fun c => c.a != 0

/-- VOTE's value (R198): f is 0 .any, 1 .all, 2 .uni. -/
def voteRes (f : Nat) (cs : List Lane) : Bool :=
  if f = 0 then cs.any fun c => c.a != 0
  else if f = 1 then cs.all fun c => c.a != 0
  else cs.all fun c => c.a == (cs.headD default).a

/-- The operation of RED and SCAN (R199). (DEDUCED, log 24) -/
def redOp (op f : Nat) (x y : Word) : Word :=
  if op = 0 then (if f = 2 then BitVec.ofNat 32 (faddRne .fp32 x.toNat y.toNat) else x + y)
  else if op = 1 then
    (if f = 2 then BitVec.ofNat 32 (fpPick false .fp32 false x.toNat y.toNat).1
     else if f = 0 then (if x.slt y then x else y)
     else if x.ult y then x else y)
  else if op = 2 then
    (if f = 2 then BitVec.ofNat 32 (fpPick true .fp32 false x.toNat y.toNat).1
     else if f = 0 then (if x.slt y then y else x)
     else if x.ult y then y else x)
  else if op = 3 then x &&& y
  else if op = 4 then x ||| y
  else x ^^^ y

/-- The identity of an operation (R199). -/
def redIdent (op f : Nat) : Word :=
  if op = 1 then (if f = 0 then 0x7FFFFFFF else if f = 1 then 0xFFFFFFFF else 0x7F800000)
  else if op = 2 then (if f = 0 then 0x80000000 else if f = 1 then 0 else 0xFF800000)
  else if op = 3 then 0xFFFFFFFF
  else 0

/-- An operation on values of which either may be the empty mark (R200). -/
def optOp (o : Word → Word → Word) : Option Word → Option Word → Option Word
  | some x, some y => some (o x y)
  | some x, none => some x
  | none, y => y

/-- The values by position, empty where no contributor stands (R200). -/
def laneVals (w : Nat) (cs : List Lane) : List (Option Word) :=
  (List.range w).map fun q => (laneAt cs q).map fun c => loWord c.a

/-- One step of RED: neighbours are combined (R200). -/
def pairUp (o : Word → Word → Word) : List (Option Word) → List (Option Word)
  | x :: y :: r => optOp o x y :: pairUp o r
  | l => l

/-- RED's log-steps (R200). -/
def redSteps (o : Word → Word → Word) : Nat → List (Option Word) → List (Option Word)
  | 0, l => l
  | n + 1, l => redSteps o n (pairUp o l)

/-- RED's result (R200): none is the empty mark. -/
def redRes (op f w : Nat) (cs : List Lane) : Option Word :=
  ((redSteps (redOp op f) w.log2 (laneVals w cs)).headD none)

/-- One step of SCAN with distance `d` (R201). -/
def scanStep (o : Word → Word → Word) (d : Nat) (v : List (Option Word)) : List (Option Word) :=
  v.zipIdx.map fun x => if x.2 < d then x.1 else optOp o (v.getD (x.2 - d) none) x.1

/-- SCAN's log-steps from distance `d` (R201). -/
def scanSteps (o : Word → Word → Word) : Nat → Nat → List (Option Word) → List (Option Word)
  | 0, _, v => v
  | n + 1, d, v => scanSteps o n (2 * d) (scanStep o d v)

/-- SCAN's result at a position (R201). -/
def scanRes (op f : Nat) (excl : Bool) (w : Nat) (cs : List Lane) (k : Nat) : Option Word :=
  let v := scanSteps (redOp op f) w.log2 1 (laneVals w cs)
  if excl then (if k = 0 then none else v.getD (k - 1) none) else v.getD k none

/-- A number that orders FP32 values, with every NaN at `nan` (R202, R204). -/
def fpRank (nan : Int) (x : Word) : Int :=
  let mag := (x.extractLsb' 0 31).toNat
  if 0x7F800000 < mag then nan else if x.getLsbD 31 then -1 - (mag : Int) else mag

/-- TOPK's ranked pairs (R202). -/
def topkOrder (cs : List Lane) : List Lane :=
  sortBy (fun x y =>
    let rx := fpRank (-(2 ^ 33)) (loWord x.a)
    let ry := fpRank (-(2 ^ 33)) (loWord y.a)
    decide (ry < rx) || (rx == ry &&
      (x.b.ult y.b || (x.b == y.b && decide (x.pos ≤ y.pos))))) cs

/-- TOPK's pair for a position (R202). -/
def topkRes (f : Nat) (cs : List Lane) (k : Nat) : Word × Word :=
  match (topkOrder cs)[k % 2 ^ f]? with
  | some c => (loWord c.a, c.b)
  | none => (0x7FC00000, 0xFFFFFFFF)

/-- MATCH's mask (R203). -/
def matchRes (cs : List Lane) (own : Lane) : DWord := laneMask cs fun c => c.a == own.a

/-- CDETECT's mask (R170). -/
def cdetectRes (cs : List Lane) (own : Lane) : DWord :=
  laneMask cs fun c => decide (c.pos < own.pos) && c.a == own.a

/-- SORTKV's order of keys (R204): f is 0 .z, 1 .s, 2 .f32. -/
def sortKey (f : Nat) (x : Word) : Int :=
  if f = 0 then x.toNat else if f = 1 then x.toInt else fpRank (2 ^ 33) x

/-- SORTKV's pair for a receiver: contributors stand in ascending position (R204). -/
def sortRes (f : Nat) (cs : List Lane) (own : Lane) : Word × Word :=
  let sorted := sortBy (fun x y => decide (sortKey f (loWord x.a) ≤ sortKey f (loWord y.a))) cs
  let r := sorted.getD ((cs.map (·.pos)).idxOf own.pos) own
  (loWord r.a, r.b)

/-- The destinations of a value that may be the empty mark, and of its predicate (R200). -/
def markDests (op f d p : Nat) (r : Option Word) : List (Dest × Word) :=
  gDests d (r.getD (redIdent op f)) ++ pDests p r.isSome

/-- The results of a gathering instruction for one receiver (R197 to R204): `w` is the group width, `cs`
the contributors in ascending position. -/
def gatherRes (i : Instr) (w : Nat) (cs : List Lane) (own : Lane) : List (Dest × Word) :=
  match i with
  | .shfl _ d _ _ f => gDests d.toNat (shflRes f.toNat w cs own)
  | .bcast _ d _ _ f => gDests d.toNat (bcastRes f.toNat w cs own)
  | .ballot _ d _ => wDests d.toNat (ballotRes cs)
  | .vote _ d _ f => pDests d.toNat (voteRes f.toNat cs)
  | .red _ d _ o v f => markDests o.toNat f.toNat d.toNat v.toNat (redRes o.toNat f.toNat w cs)
  | .scan _ d _ o x v f =>
    markDests o.toNat f.toNat d.toNat v.toNat (scanRes o.toNat f.toNat (x == 1) w cs own.pos)
  | .topk _ d _ _ f =>
    let r := topkRes f.toNat cs own.pos
    gDests d.toNat r.1 ++ gDests (d.toNat + 1) r.2
  | .matchv _ d _ _ => wDests d.toNat (matchRes cs own)
  | .sortkv _ d _ _ f =>
    let r := sortRes f.toNat cs own
    gDests d.toNat r.1 ++ gDests (d.toNat + 1) r.2
  | .cdetect _ d _ => wDests d.toNat (cdetectRes cs own)
  | _ => []

/-- The source values a thread supplies (R195). -/
def gatherSrc (i : Instr) (t : Thread) : DWord × Word :=
  match i with
  | .shfl _ _ a b _ | .bcast _ _ a b _ | .topk _ _ a b _ | .sortkv _ _ a b _ =>
    ((t.g a.toNat).setWidth 64, t.g b.toNat)
  | .ballot _ _ a | .vote _ _ a _ => (if t.p a.toNat then 1 else 0, 0)
  | .red _ _ a _ _ _ | .scan _ _ a _ _ _ _ | .cdetect _ _ a => ((t.g a.toNat).setWidth 64, 0)
  | .matchv _ _ a f => (if f = 1 then t.w a.toNat else (t.g a.toNat).setWidth 64, 0)
  | _ => (0, 0)

/-- The instructions that write guarded-off threads too (R195). -/
def writesOff : Instr → Bool
  | .red .. | .scan .. | .ballot .. | .vote .. => true
  | _ => false

/-! ### Instances -/

/-- The contributors of an instance among threads that arrived at a PC, in ascending position. -/
def State.instanceLanes (s : State) (ts : List Thread) (pc : Word) : List Lane :=
  sortBy (fun x y => decide (x.pos ≤ y.pos)) (ts.flatMap fun t =>
    (t.gather.filter fun c => c.pc == pc && c.live).map fun c => ⟨s.position t, c.a, c.b⟩)

/-- A thread receives the results of its instance at a PC (R193, R195). -/
def State.receive (s : State) (w : Nat) (cs : List Lane) (pc : Word) (t : Thread) : State :=
  match t.gather.find? fun c => c.pc == pc with
  | none => s
  | some c =>
    let res := gatherRes c.instr w cs ⟨s.position t, c.a, c.b⟩
    let s1 := s.setThread t.uid fun x => { x with gather := x.gather.filter fun c => c.pc != pc }
    match (s1.thread t.uid).pendOf c.pendId with
    | none => s1
    | some p =>
      if p.kind = .gather then
        s1.landOne t.uid { p with
          dests := p.dests.map fun d => (d.1, ((res.find? (·.1 == d.1)).map (·.2)).getD d.2) }
      else s1

/-- Complete the instance of a group at a PC once every thread of the group that has not ended has arrived
there (R193). -/
def State.completeInstance (s : State) (gid : Nat) (pc : Word) : State :=
  let ts := s.groupThreads gid
  if ts.all fun t => t.gather.any fun c => c.pc == pc then
    ts.foldl (fun r t => r.receive (s.group gid).width (s.instanceLanes ts pc) pc t) s
  else s

/-- A live thread arrives: its sources are read now (R193). One that RFE.skip took past the instruction before, and that
now issues it while the instance is open, takes part after all. (DESIGN CHOICE, log 80) -/
def Thread.arrive (cx : Cx) (i : Instr) (t x : Thread) : Thread :=
  let v := gatherSrc i t
  let n := x.nextPend
  { x.addPend { cx.pending t n .ax ((gatherRes i 1 [] ⟨0, 0, 0⟩).map fun d => (d.1, 0)) with
      kind := .gather } with
    gather := (x.gather.filter fun c => c.pc != cx.pc) ++ [⟨cx.pc, true, false, i, v.1, v.2, n⟩] }

/-- A guarded-off thread arrives: it contributes nothing, and its result is not counted by a trailer
(R58, R195). -/
def Thread.arriveOff (cx : Cx) (i : Instr) (x : Thread) : Thread :=
  let n := x.nextPend
  let ds := if writesOff i then (gatherRes i 1 [] ⟨0, 0, 0⟩).map fun d => (d.1, (0 : Word)) else []
  { x.addPend { cx.pending x n .ax ds with kind := .gather, pos := 24 } with
    gather := (x.gather.filter fun c => c.pc != cx.pc) ++ [⟨cx.pc, false, false, i, 0, 0, n⟩] }

/-- The threads of a context that are guarded off for an instruction (R58). -/
def State.offThreads (s : State) (cx : Cx) (i : Instr) : List Thread :=
  (cx.us.map s.thread).filter fun t => t.guard i == .off

/-- A gathering instruction without PART (R193). -/
def gatherAll (i : Instr) : Act := fun cx ts s =>
  let off := s.offThreads cx i
  let s1 := ts.foldl (fun s t =>
    s.setThread t.uid fun x => (t.arrive cx i x).lastRelease (cx.of t).last) s
  let s2 := off.foldl (fun s t => s.setThread t.uid fun x => x.arriveOff cx i) s1
  some (s2.completeInstance cx.gid cx.pc, [])

/-- Put the result of an instance under PART in flight, by the instance's number (R194). -/
def Thread.launchPart (t : Thread) (cx : Cx) (n : Nat) (ds : List (Dest × Word)) : Thread :=
  t.addPend { cx.pending t t.nextPend .ax ds with kind := .part n }

/-- A gathering instruction under PART: the issue set alone. Its results return to every receiver together, as the
instance's number ties them (R194). -/
def gatherPart (i : Instr) : Act := fun cx ts s =>
  let w := (s.group cx.gid).width
  let lane := fun (t : Thread) => (⟨s.position t, (gatherSrc i t).1, (gatherSrc i t).2⟩ : Lane)
  let cs := sortBy (fun x y => decide (x.pos ≤ y.pos)) (ts.map lane)
  let s1 := ts.foldl (fun r t => r.setThread t.uid fun x =>
    (x.lastRelease (cx.of t).last).launchPart cx s.fresh (gatherRes i w cs (lane t))) s
  let off := if writesOff i then s.offThreads cx i else []
  let s2 := off.foldl (fun r t => r.setThread t.uid fun x =>
    x.launchPart cx s.fresh (gatherRes i w cs ⟨s.position t, 0, 0⟩)) s1
  some (s2.tick, [])

/-- Whether a thread's HMOD asks for PART (R194). -/
def Cx.part (cx : Cx) (t : Thread) : Bool := (cx.of t).m.getLsbD 17

/-- The context of some of the threads of an issue set. -/
def Cx.only (cx : Cx) (us : List Nat) : Cx := { cx with us := us }

/-- A gathering instruction: HMOD.PART picks the form (R193, R194), for each thread of an issue set whose hints
differ. (DEDUCED, log 12) -/
def gatherAct (i : Instr) : Act := fun cx ts s =>
  if cx.mixed.isEmpty then
    if cx.m.getLsbD 17 then gatherPart i cx ts s else gatherAll i cx ts s
  else
    let us := (cx.us.map s.thread).filter cx.part
    let part := us.map (·.uid)
    match if us.isEmpty then some (s, []) else gatherPart i (cx.only part) (ts.filter cx.part) s with
    | none => none
    | some r => gatherAll i (cx.only (cx.us.filter fun u => !part.contains u)) (ts.filter fun t => !cx.part t) r.1

/-- CDETECT (R170). -/
def execCdetect (e : Bool) (d a : BitVec 7) (s : State) : Out :=
  word (.cdetect e d a) (gatherAct (.cdetect e d a)) s

/-- SHFL (R197). -/
def execShfl (e : Bool) (d a b : BitVec 7) (f : BitVec 2) (s : State) : Out :=
  word (.shfl e d a b f) (gatherAct (.shfl e d a b f)) s

/-- BCAST (R197). -/
def execBcast (e : Bool) (d a b : BitVec 7) (f : BitVec 2) (s : State) : Out :=
  word (.bcast e d a b f) (gatherAct (.bcast e d a b f)) s

/-- BALLOT (R198). -/
def execBallot (e : Bool) (d a : BitVec 7) (s : State) : Out :=
  word (.ballot e d a) (gatherAct (.ballot e d a)) s

/-- VOTE (R198). -/
def execVote (e : Bool) (d a : BitVec 7) (f : BitVec 2) (s : State) : Out :=
  word (.vote e d a f) (gatherAct (.vote e d a f)) s

/-- RED (R199, R200). (DEDUCED, log 24) -/
def execRed (e : Bool) (d a : BitVec 7) (o v : BitVec 3) (f : BitVec 2) (s : State) : Out :=
  word (.red e d a o v f) (gatherAct (.red e d a o v f)) s

/-- SCAN (R199, R201). -/
def execScan (e : Bool) (d a : BitVec 7) (o : BitVec 3) (ex : BitVec 1) (v : BitVec 3) (f : BitVec 2)
    (s : State) : Out :=
  word (.scan e d a o ex v f) (gatherAct (.scan e d a o ex v f)) s

/-- TOPK (R202). -/
def execTopk (e : Bool) (d a b : BitVec 7) (f : BitVec 2) (s : State) : Out :=
  word (.topk e d a b f) (gatherAct (.topk e d a b f)) s

/-- MATCH (R203). -/
def execMatchv (e : Bool) (d a : BitVec 7) (f : BitVec 2) (s : State) : Out :=
  word (.matchv e d a f) (gatherAct (.matchv e d a f)) s

/-- SORTKV (R204). -/
def execSortkv (e : Bool) (d a b : BitVec 7) (f : BitVec 2) (s : State) : Out :=
  word (.sortkv e d a b f) (gatherAct (.sortkv e d a b f)) s

/-! ### Barrier, convergence registers, ELECT -/

/-- BAR (R205, R206): a release at team scope, then the thread parks. -/
def execBar (e : Bool) (s : State) : Out :=
  word (.bar e) (eachLane fun cx t s =>
    .ok ((s.release t 3).setThread t.uid fun x => { x with park := .bar, parkPc := cx.pc })) s

/-- A convergence register: its expected count and its signatures (R25). -/
def Team.cvGet (m : Team) (c : Nat) : Nat × Nat :=
  match m.cv.find? (·.1 == c) with
  | some x => x.2
  | none => (0, 0)

/-- Set a convergence register. -/
def Team.cvPut (m : Team) (c : Nat) (v : Nat × Nat) : Team :=
  { m with cv := (c, v) :: m.cv.filter (·.1 != c) }

/-- CVINIT (R207): the lowest live thread's count. -/
def execCvinit (e : Bool) (d a : BitVec 7) (s : State) : Out :=
  word (.cvinit e d a) (whole fun cx ts s =>
    match ts.head? with
    | none => s
    | some l => s.setTeam cx.team fun m => m.cvPut d.toNat (min (l.g a.toNat).toNat 1024, 0)) s

/-- CVSIGN in one thread (R208, R209): a release at team scope; the last signer also acquires. -/
def cvsignEff (d a : Nat) (cx : Cx) (t : Thread) (s : State) : State :=
  let s0 := s.release t 3
  let v := (s0.team cx.team).cvGet a
  if v.1 = 0 then s0.pendResult cx t.uid .ax (pDests d false) id
  else if v.2 + 1 = v.1 then
    ((s0.setTeam cx.team fun m => m.cvPut a (v.1, 0)).acquire t 3).pendResult
      cx t.uid .ax (pDests d true) id
  else (s0.setTeam cx.team fun m => m.cvPut a (v.1, v.2 + 1)).pendResult cx t.uid .ax (pDests d false) id

/-- CVSIGN (R208). -/
def execCvsign (e : Bool) (d a : BitVec 7) (s : State) : Out :=
  word (.cvsign e d a)
    (holding (fun t _ => t.memoryOpen)
      (eachLane fun cx t s => .ok (cvsignEff d.toNat a.toNat cx t s))) s

/-- ELECT (R210). -/
def execElect (e : Bool) (d : BitVec 7) (s : State) : Out :=
  word (.elect e d) (whole fun _ ts s =>
    let l := (ts.headD default).uid
    ts.foldl (fun s t => s.setThread t.uid fun x => x.setP d.toNat (t.uid == l)) s) s

/-! ### Regrouping -/

/-- REGROUP (R211): live threads arrive with their key, guarded-off threads with 0xFFFFFFFF; each arrival
is a release at team scope (R214). -/
def execRegroup (e : Bool) (d a n : BitVec 7) (s : State) : Out :=
  let i := Instr.regroup e d a n
  word i (fun cx ts s =>
    let s1 := ts.foldl (fun s t => (s.release t 3).setThread t.uid fun x =>
      { x.lastRelease (cx.of t).last with
        park := .regroup (t.g a.toNat) n.toNat d.toNat, parkPc := cx.pc }) s
    some ((s.offThreads cx i).foldl (fun s t => (s.release t 3).setThread t.uid fun x =>
      { x with park := .regroup 0xFFFFFFFF 0 0, parkPc := cx.pc }) s1, [])) s

/-- The regrouping a thread has arrived at, once its results have returned (R211) and no fault of its run is still to be
delivered (R159). -/
def Thread.arrivedAt (t : Thread) : Option (Nat × Nat × Nat) :=
  match t.park with
  | .regroup key n d =>
    if t.pend.all fun p => p.returned && (p.detached || p.fault.isNone) then some (key.toNat, n, d) else none
  | _ => none

/-- An arrived thread that goes on, with its key, count and destination. -/
structure Mover where
  key : Nat
  n : Nat
  d : Nat
  t : Thread
  deriving DecidableEq, Repr

/-- The sizes of the runs of equal values in a list. -/
def runLengths : List Nat → List (Nat × Nat)
  | [] => []
  | k :: r =>
    match runLengths r with
    | (k', n) :: rest => if k = k' then (k, n + 1) :: rest else (k, 1) :: (k', n) :: rest
    | [] => [(k, 1)]

/-- The groups that sorted keys need at a shift (R212). -/
def groupsNeeded (w s : Nat) (keys : List Nat) : Nat :=
  ((runLengths (keys.map (· / 2 ^ s))).map fun c => (c.2 + w - 1) / w).sum

/-- The smallest shift whose classes fit (R212). -/
def regroupShift (w c : Nat) (keys : List Nat) : Nat :=
  ((List.range 11).find? fun s => groupsNeeded w s keys ≤ c).getD 10

/-- Group number and position of each sorted thread (R212): `h` is the group being filled, `q` its next
position, `prev` the class it belongs to. -/
def seats (w : Nat) : List Nat → Nat → Nat → Option Nat → List (Nat × Nat)
  | [], _, _, _ => []
  | k :: r, h, q, none => (h, q) :: seats w r h (q + 1) (some k)
  | k :: r, h, q, some p =>
    if k = p && q < w then (h, q) :: seats w r h (q + 1) (some k)
    else (h + 1, 0) :: seats w r (h + 1) 1 (some k)

/-- A thread as a launch or a regrouping starts it: nothing live, everything else 0 (R40, R213).
(DESIGN CHOICE, log 63) -/
def Thread.start (uid slice team role core gid lane : Nat) (tid orig pc : Word) (csp : Nat) (mode : Mode) :
    Thread :=
  { (default : Thread) with
    uid := uid, slice := slice, team := team, gid := gid, role := role, tid := tid, orig := orig,
    core := core, lane := lane, pc := pc, csp := csp, userCsp := csp, mode := mode,
    ssel := BitVec.ofNat 32 slice }

/-- The successor of a thread (R212, R213): in supervisor mode in a slice that runs in it (R345). Where a TRL follows the
REGROUP, the successor goes on after it, as a JOIN's thread does. (DEDUCED, log 61; DEDUCED, log 71) -/
def Mover.successor (m : Mover) (l : Launch) (sup : Bool) (uid : Nat) (g : Group) (q shift : Nat)
    (tid : Word) : Thread :=
  let x := m.t
  let y := Thread.start uid x.slice x.team x.role g.core g.gid (g.base + q) tid x.tid x.pc
    (l.privateBytes - l.handlerStack) (if sup then .supervisor else .user)
  (({ y with
    regs := x.regs.filter fun r => decide (r.1 ≤ m.n)
    poison := x.poison.filter fun r => decide (r ≤ m.n)
    fpctl := x.fpctl, fpflags := x.fpflags, iflags := x.iflags }).putG m.d
      (BitVec.ofNat 32 (shift * 65536 + m.key))).dropK

/-- The private area of a thread has undefined contents from its start (R40, R213). (DESIGN CHOICE, log 2) -/
def State.freePrivate (s : State) (t : Thread) : State :=
  let l := s.launchOf t
  let bs := (List.range l.privateBytes).map fun k => Config.freeByte (s.fresh + k)
  { (s.hwStore (s.core t.core).die (s.slice t.slice).asid (l.privateBase t.tid.toNat) bs) with
    fresh := s.fresh + l.privateBytes }

/-- The Teasel's operation on a team whose threads have all arrived (R212, R214): what they have observed since they issued
their REGROUPs goes with the operation. (DEDUCED, log 61) -/
def State.regroup (s : State) (team : Nat) (arrived : List (Thread × Nat × Nat × Nat)) : State :=
  let m := s.team team
  let l := (s.slice m.slice).launch
  let gs := sortBy (fun x y => decide (x.idx ≤ y.idx)) (s.groups.filter (·.team == team))
  let w := (gs.headD default).width
  let movers := sortBy (fun (x y : Mover) =>
      decide (x.key < y.key) || (x.key == y.key && decide (x.t.tid.toNat ≤ y.t.tid.toNat)))
    ((arrived.filter fun a => a.2.1 < 1024).map fun a => ⟨a.2.1, a.2.2.1, a.2.2.2, a.1⟩)
  let keys := movers.map (·.key)
  let shift := regroupShift w gs.length keys
  let places := seats w (keys.map (· / 2 ^ shift)) 0 0 none
  let ids := sortBy (fun (x y : Word) => decide (x.toNat ≤ y.toNat)) (movers.map (·.t.tid))
  let succ := (movers.zip (places.zip ids)).zipIdx.map fun x =>
    x.1.1.successor l (s.slice m.slice).super (s.nextUid + x.2) (gs.getD x.1.2.1.1 default) x.1.2.1.2
      shift x.1.2.2
  let s0 := arrived.foldl (fun s a => s.release a.1 3) s
  let s1 := s0.setThreads (arrived.map (·.1.uid)) fun t => t.quit .regrouped
  let s2 := { s1 with threads := s1.threads ++ succ, nextUid := s1.nextUid + succ.length }
  let s3 := { s2 with groups := s2.groups.map fun g =>
    if g.team = team then { g with run := none, waits := [], held := false, mark := none } else g }
  succ.foldl (fun s t => (s.freePrivate t).acquire t 3) s3

/-- REGROUP_OPERATION (R212): once every thread of the team that has not ended has arrived. -/
def execRegroupOperation (team : Nat) (s : State) : Out :=
  let ts := s.teamThreads team
  let arrived := ts.filterMap fun t => t.arrivedAt.map fun a => (t, a)
  if ts.isEmpty || decide (arrived.length < ts.length) || (s.team team).at_ != .resident ||
      s.groups.any fun g => g.team == team && g.run.isSome then .next s
  else .next (s.regroup team arrived)

end Sys2Proof.Machine
end

