-- ==== Sys2Proof/Machine/TileNum.lean ====
section
/-! DEFINITION. Values of tiles: elements, expansions, array products and Hem arithmetic
(R139 to R143, R218, R219, R249 to R259, R270 to R276). -/

namespace Sys2Proof.Machine

/-- A matrix of exact values. -/
abbrev VMat := List (List Val)

/-! ### Matrices -/

/-- The matrix of a function of row and column. -/
def matOf {α : Type} (m n : Nat) (f : Nat → Nat → α) : List (List α) :=
  (List.range m).map fun i => (List.range n).map fun j => f i j

/-- An element of a matrix. -/
def elemOf {α : Type} [Inhabited α] (x : List (List α)) (i j : Nat) : α := (x.getD i []).getD j default

/-- The transpose of a matrix of `n` columns. -/
def matT {α : Type} [Inhabited α] (n : Nat) (x : List (List α)) : List (List α) :=
  (List.range n).map fun j => x.map fun r => r.getD j default

/-! ### Elements (R218, R224) -/

/-- The bits of an element of a format code (R218). -/
def fmtBits (f : Nat) : Nat :=
  if f = 0 then 64 else if f = 1 then 32 else if f = 2 || f = 3 then 16
  else if f = 6 || f = 8 then 4 else 8

/-- The bytes that an element occupies in memory; a 4-bit element shares its byte (R229). -/
def fmtBytes (f : Nat) : Nat := max 1 (fmtBits f / 8)

/-- Whether a format code is INT8 or INT4. -/
def fmtInt (f : Nat) : Bool := f == 7 || f == 8

/-- The formats of a low-rank tile: FP64, FP32 and BF16 (R218). -/
def fmtLow (f : Nat) : Bool := f == 0 || f == 1 || f == 3

/-- The formats of an ACC tile: FP64, FP32 and INT8 (R224). -/
def fmtAcc (f : Nat) : Bool := f == 0 || f == 1 || f == 7

/-- The value of an element; an INT8 element in ACC has 32 bits (R224). -/
def elemVal (f : Nat) (acc : Bool) (b : Nat) : Val :=
  if f = 7 then intVal (signedElem (if acc then 32 else 8) b)
  else if f = 8 then intVal (signedElem 4 b)
  else (Fmt.ofCode f).dec b

/-- A value rounded RNE to an integer within bounds; a NaN is 0 (R237). -/
def valToInt (lo hi : Int) (v : Val) : Int :=
  match v with
  | .nan _ => 0
  | .inf neg => if neg then lo else hi
  | .fin neg m e s =>
    let r := (roundAt 0 neg m e 0 s).1
    max lo (min hi (if neg then -(r : Int) else r))

/-- The encoding of a value in a format code (R237): floats round RNE, integers round and saturate, and an
INT8 element in ACC is sign-extended: it is held to −128 to 127 there too, since the rules give a conversion to INT8 no
other range. (DESIGN CHOICE, log 81) -/
def elemEnc (f : Nat) (acc sat : Bool) (v : Val) : Nat :=
  if f = 7 then ((valToInt (-128) 127 v) % (2 ^ (if acc then 32 else 8))).toNat
  else if f = 8 then ((valToInt (-8) 7 v) % 16).toNat
  else (roundTo (Fmt.ofCode f) 0 sat false v).1

/-- The values of a matrix of encodings. -/
def matVals (f : Nat) (acc : Bool) (x : Mat) : VMat := x.map fun r => r.map (elemVal f acc)

/-- The encodings of a matrix of values. -/
def matEnc (f : Nat) (acc sat : Bool) (x : VMat) : Mat := x.map fun r => r.map (elemEnc f acc sat)

/-! ### The array (R139 to R143) -/

/-- The partial-sum format for a format code (R139). -/
def psOf (f : Nat) : Fmt := if f = 0 then .fp64 else .fp32

/-- The partial sum of one output element over its terms in ascending k (R140). -/
def arrayDot (ps : Fmt) (xs ys : List Val) : Nat :=
  (xs.zip ys).foldl (fun a p => arrayAcc ps a (arrayMul p.1 p.2)) 0

/-- A sum of an exact value and a partial sum, which may be negated (R140, R249). -/
def arrayAdd (ps : Fmt) (c : Val) (neg : Bool) (sum : Nat) : Nat :=
  let p := ps.dec sum
  arrayAcc ps (roundTo ps 0 false false c).1 (some (if neg then p.neg else p))

/-- Array products (R140): `x` holds rows, `yt` the columns of the second operand, `c` what is added
to. -/
def arrayMat (ps : Fmt) (x yt : VMat) (c : Nat → Nat → Val) (neg : Bool) : Mat :=
  x.zipIdx.map fun r => yt.zipIdx.map fun k => arrayAdd ps (c r.2 k.2) neg (arrayDot ps r.1 k.1)

/-- +0 everywhere. -/
def zeroC : Nat → Nat → Val := fun _ _ => .zero false

/-- Array(X, Y) of R249: the product with C = +0, rounded RNE to a format code. -/
def arrayProd (f : Nat) (x yt : VMat) : Mat :=
  (arrayMat (psOf f) x yt zeroC false).map fun r =>
    r.map fun b => elemEnc f false false ((psOf f).dec b)

/-- An integer element of an exact value. -/
def valInt (v : Val) : Int := valToInt (-(2 ^ 31)) (2 ^ 31 - 1) v

/-- Integer products, added to C modulo 2^32 (R143). -/
def intMat (x yt : VMat) (c : Nat → Nat → Val) (neg : Bool) : Mat :=
  x.zipIdx.map fun r => yt.zipIdx.map fun k =>
    let q := ((r.1.zip k.1).map fun p => valInt p.1 * valInt p.2).sum
    ((valInt (c r.2 k.2) + (if neg then -q else q)) % 2 ^ 32).toNat

/-- Cut a list into blocks of 32 (R142). -/
def blocks32 {α : Type} (l : List α) : List (List α) :=
  (List.range ((l.length + 31) / 32)).map fun b => (l.drop (32 * b)).take 32

/-- The exact sum of the products of a block; `none` for a NaN (R142). A sum that is exactly zero is +0, a sign that the spec
does not give. (DESIGN CHOICE, log 85) -/
def blockSum (ps : List (Val × Val)) : Option Val :=
  let l := ps.map fun p => arrayMul p.1 p.2
  if l.any Option.isNone then none
  else
    let vs := l.filterMap id
    let pos := vs.any fun v => v == .inf false
    let neg := vs.any fun v => v == .inf true
    if pos && neg then none
    else if pos then some (.inf false)
    else if neg then some (.inf true)
    else some (sumDy vs).val

/-- The partial sum of one output element of TMMAS (R142): the elements of A's row and B's column with
their scale bytes. Where the bytes of a block's elements differ, which R253 leaves to software, the block takes the byte
of its first element, and is NaN when any of them is 0xFF. (DESIGN CHOICE, log 72) -/
def scaledDot (xs ys : List (Val × Nat)) : Nat :=
  (blocks32 (xs.zip ys)).foldl (fun a b =>
    let ea := ((b.headD default).1.2 : Int) - 127
    let eb := ((b.headD default).2.2 : Int) - 127
    if b.any fun p => p.1.2 == 0xFF || p.2.2 == 0xFF then Fmt.fp32.nanBits
    else arrayAcc .fp32 a
      ((blockSum (b.map fun p => (p.1.1, p.2.1))).map fun v => v.scale (ea + eb))) 0

/-! ### Expansions (R219) -/

/-- The expansion of factors in the partial-sum format, without its final rounding. -/
def lowExpand (f : Nat) (u v : Mat) : Mat :=
  arrayMat (psOf f) (matVals f false u) (matVals f false v) zeroC false

/-- The exact values of a tile's expansion, without its final rounding (R254). -/
def Tile.exact (t : Tile) : VMat :=
  match t.kind with
  | .z => matOf t.m t.n fun _ _ => .zero false
  | .d => matVals t.fmt (t.loc == .acc) t.rows
  | .l => (lowExpand t.fmt t.u t.v).map fun r => r.map (psOf t.fmt).dec

/-- The encodings of a tile's expansion in its format (R219). -/
def Tile.bits (t : Tile) : Mat :=
  match t.kind with
  | .z => matOf t.m t.n fun _ _ => 0
  | .d => t.rows
  | .l => (lowExpand t.fmt t.u t.v).map fun r =>
      r.map fun b => elemEnc t.fmt false false ((psOf t.fmt).dec b)

/-- The values of a tile's expansion (R219). -/
def Tile.vals (t : Tile) : VMat := matVals t.fmt (t.kind == .d && t.loc == .acc) t.bits

/-! ### Arithmetic with one rounding -/

/-- A value rounded RNE to a format, with subnormals kept (R258, R270). -/
def rnd (f : Fmt) (v : Val) : Val := f.dec (roundTo f 0 false false v).1

/-- Product, a NaN for 0 × ∞ and for NaN operands. -/
def vmul (x y : Val) : Val :=
  if x.isNan || y.isNan then .nan false else (Val.mul x y).getD (.nan false)

/-- Sum, a NaN for ∞ − ∞ and for NaN operands. -/
def vadd (x y : Val) : Val :=
  if x.isNan || y.isNan then .nan false else (Val.add false x y).getD (.nan false)

/-- x + y·z, rounded once (R270). -/
def vfma (f : Fmt) (x y z : Val) : Val := rnd f (vadd x (vmul y z))

/-- x − y·z, rounded once (R258). -/
def vfms (f : Fmt) (x y z : Val) : Val := vfma f x y.neg z

/-- The quotient of two finite values, with 80 bits and the tail. -/
def divFin (neg : Bool) (m1 : Nat) (e1 : Int) (m2 : Nat) (e2 : Int) : Val :=
  let k := m2.log2 + 80
  .fin neg (m1 * 2 ^ k / m2) (e1 - e2 - (k : Int)) (m1 * 2 ^ k % m2 != 0)

/-- The IEEE quotient, rounded once (R258). -/
def vdiv (f : Fmt) (x y : Val) : Val :=
  let neg := x.neg? != y.neg?
  match x, y with
  | .nan _, _ => .nan false
  | _, .nan _ => .nan false
  | .inf _, .inf _ => .nan false
  | .inf _, _ => .inf neg
  | _, .inf _ => .zero neg
  | .fin _ m1 e1 _, .fin _ m2 e2 _ =>
    if m2 = 0 then (if m1 = 0 then .nan false else .inf neg)
    else if m1 = 0 then .zero neg
    else rnd f (divFin neg m1 e1 m2 e2)

/-- The IEEE square root, rounded once (R270). -/
def vsqrt (f : Fmt) (x : Val) : Val := rnd f (SFn.val .sqrt x).1

/-- The absolute value. -/
def vabs : Val → Val
  | .nan s => .nan s
  | .inf _ => .inf false
  | .fin _ m e s => .fin false m e s

/-- A chained sum in ascending index (R270): the first product rounded once, then fused steps. -/
def chain (f : Fmt) : List (Val × Val) → Val
  | [] => .zero false
  | p :: r => r.foldl (fun s q => vfma f s q.1 q.2) (rnd f (vmul p.1 p.2))

/-- A chained sum that starts from a value. -/
def chainFrom (f : Fmt) (s : Val) (l : List (Val × Val)) : Val :=
  l.foldl (fun s q => vfma f s q.1 q.2) s

/-! ### The Frobenius norm (R241) -/

/-- The norm of a matrix in a format. -/
def frobenius (f : Fmt) (x : VMat) : Nat :=
  let l := x.flatten
  if l.any Val.isNan then f.nanBits
  else if l.any Val.isInf then (roundTo f 0 false false (.inf false)).1
  else
    let s := l.foldl (fun a v => Dy.add a (Dy.mul v.dy v.dy)) ⟨0, 0⟩
    if s.n = 0 then 0 else (roundTo f 0 false false (root s.n.natAbs s.e)).1

/-! ### Elimination (R258, R259) -/

/-- Whether a pivot candidate is larger: a NaN counts above +∞. -/
def pivotAbove (x y : Val) : Bool :=
  if y.isNan then false else if x.isNan then true else (vabs y).lt (vabs x)

/-- The pivot row of column `j`: the largest magnitude at or below row `j`, ties the lowest. -/
def pivotRow (a : VMat) (j n : Nat) : Nat :=
  ((List.range n).filter (j < ·)).foldl (fun p q =>
    if pivotAbove (elemOf a q j) (elemOf a p j) then q else p) j

/-- Exchange two entries of a list. -/
def swap {α : Type} [Inhabited α] (l : List α) (i j : Nat) : List α :=
  (l.set i (l.getD j default)).set j (l.getD i default)

/-- One row of the elimination by a pivot row (R258). -/
def luRow (f : Fmt) (j : Nat) (piv r : List Val) : List Val :=
  let q := vdiv f (r.getD j default) (piv.getD j default)
  r.zipIdx.map fun x =>
    if x.2 < j then x.1
    else if x.2 = j then q
    else vfms f x.1 q (piv.getD x.2 default)

/-- The factorisation's state: the matrix, the permutation, and whether a pivot was zero. -/
structure LuState where
  a : VMat
  perm : List Nat
  zpiv : Bool

/-- One column of TLU (R258). -/
def luCol (f : Fmt) (n : Nat) (x : LuState) (j : Nat) : LuState :=
  let p := pivotRow x.a j n
  let z := (elemOf x.a p j).isZero
  let a := swap x.a p j
  let piv := a.getD j []
  { a := a.zipIdx.map fun r => if j < r.2 then luRow f j piv r.1 else r.1
    perm := swap x.perm p j
    zpiv := x.zpiv || z }

/-- TLU on a square matrix (R258). -/
def luFactor (f : Fmt) (n : Nat) (a : VMat) : LuState :=
  (List.range n).foldl (luCol f n) ⟨a, List.range n, false⟩

/-- One row of the forward solve, from the rows already solved (R259). -/
def lluRow (f : Fmt) (l : List Val) (done : VMat) (r : List Val) : List Val :=
  r.zipIdx.map fun x =>
    done.zipIdx.foldl (fun v d => vfms f v (l.getD d.2 default) (d.1.getD x.2 default)) x.1

/-- .llu: the rows of X permuted, then solved from the top (R259). -/
def lluSolve (f : Fmt) (a : VMat) (perm : List Nat) (x : VMat) : VMat :=
  (perm.map fun p => x.getD p []).zipIdx.foldl
    (fun done r => done ++ [lluRow f (a.getD r.2 []) done r.1]) []

/-- .ru in one row of X (R259). -/
def ruRow (f : Fmt) (u : VMat) (n : Nat) (r : List Val) : List Val :=
  (List.range n).foldl (fun row j =>
    let s := (List.range j).foldl
      (fun v i => vfms f v (row.getD i default) (elemOf u i j)) (row.getD j default)
    row.set j (vdiv f s (elemOf u j j))) r

/-- .ru (R259). -/
def ruSolve (f : Fmt) (u : VMat) (n : Nat) (x : VMat) : VMat := x.map (ruRow f u n)

/-! ### Rank rounding (R270 to R277) -/

/-- Whether a value is finite. -/
def vfinite (v : Val) : Bool := !v.isNan && !v.isInf

/-- A column of a matrix. -/
def colOf (a : VMat) (c : Nat) : List Val := a.map fun r => r.getD c default

/-- Put a column into a matrix. -/
def setCol (a : VMat) (c : Nat) (x : List Val) : VMat :=
  a.zipIdx.map fun r => r.1.set c (x.getD r.2 default)

/-- H_j applied to a column (R271): `v` is indexed by row and used below row `j`. -/
def reflect (f : Fmt) (j : Nat) (v : List Val) (tau : Val) (x : List Val) : List Val :=
  let s0 := chainFrom f (x.getD j default) ((v.zip x).drop (j + 1))
  let s := rnd f (vmul tau s0)
  x.zipIdx.map fun y =>
    if y.2 < j then y.1
    else if y.2 = j then rnd f (vadd y.1 s.neg)
    else vfms f y.1 (v.getD y.2 default) s

/-- The reflections made so far: the working copy, and for each column its vector and τ. -/
structure QrState where
  a : VMat
  refl : List (Nat × List Val × Val)

/-- One column of the QR factorisation (R271). -/
def qrCol (f : Fmt) (h k : Nat) (x : QrState) (j : Nat) : QrState :=
  let col := colOf x.a j
  let below := col.drop (j + 1)
  let s := if j + 1 = h then Val.zero false else chain f (below.map fun y => (y, y))
  let x0 := col.getD j default
  if s.isZero then { x with refl := x.refl ++ [(j, [], Val.zero false)] }
  else
    let nrm := vsqrt f (vfma f s x0 x0)
    let beta := if x0.neg? then nrm else nrm.neg
    let den := rnd f (vadd x0 beta.neg)
    let v := col.zipIdx.map fun y => if j < y.2 then vdiv f y.1 den else .zero false
    let tau := vdiv f (rnd f (vadd beta x0.neg)) beta
    let a1 := setCol x.a j (col.zipIdx.map fun y =>
      if y.2 < j then y.1 else if y.2 = j then beta else .zero false)
    let a2 := ((List.range k).filter (j < ·)).foldl
      (fun a c => setCol a c (reflect f j v tau (colOf a c))) a1
    { a := a2, refl := x.refl ++ [(j, v, tau)] }

/-- The QR factorisation of a matrix of `h` rows and `k` columns (R271): Q and R. -/
def qr (f : Fmt) (h k : Nat) (a : VMat) : VMat × VMat :=
  let p := min h k
  let x := (List.range p).foldl (qrCol f h k) ⟨a, []⟩
  let r := x.a.take p
  let one := rnd f (intVal 1)
  let q0 := matOf h p fun i j => if i = j then one else Val.zero false
  let q := x.refl.reverse.foldl (fun q c =>
    if c.2.2.isZero then q
    else (List.range p).foldl (fun q b => setCol q b (reflect f c.1 c.2.1 c.2.2 (colOf q b))) q) q0
  let flips := (List.range p).filter fun j => (elemOf r j j).neg?
  (q.map fun row => row.zipIdx.map fun y => if flips.contains y.2 then y.1.neg else y.1,
   r.zipIdx.map fun row => if flips.contains row.2 then row.1.map Val.neg else row.1)

/-- The state of the Jacobi sweeps: the columns of M and of Z, whether the sweep rotated, and whether
every stored value so far is finite. -/
structure JacobiState where
  mc : VMat
  zc : VMat
  rotated : Bool
  ok : Bool

/-- ε of a working precision (R270). -/
def hemEps (f : Fmt) : Val := .fin false 1 (if f = .fp64 then -53 else -24) false

/-- The bound H of R272. -/
def hemH (f : Fmt) : Val := .fin false 1 (if f = .fp64 then 512 else 64) false

/-- The tangent of a rotation (R272). -/
def hemT (f : Fmt) (zeta : Val) : Val :=
  let one := intVal 1
  let sg := if zeta.neg? then one.neg else one
  let az := vabs zeta
  if !zeta.isNan && !az.lt (hemH f) then vdiv f sg (rnd f (vmul (intVal 2) az))
  else vdiv f sg (rnd f (vadd az (vsqrt f (vfma f one zeta zeta))))

/-- Rotate two columns (R272). -/
def rotate (f : Fmt) (c s : Val) (x y : List Val) : List Val × List Val :=
  ((x.zip y).map fun p => vfms f (rnd f (vmul c p.1)) s p.2,
   (x.zip y).map fun p => vfma f (rnd f (vmul s p.1)) c p.2)

/-- One pair of a sweep (R272). -/
def jacobiPair (f : Fmt) (x : JacobiState) (ij : Nat × Nat) : JacobiState :=
  let mi := x.mc.getD ij.1 []
  let mj := x.mc.getD ij.2 []
  let alpha := chain f (mi.zip mi)
  let beta := chain f (mj.zip mj)
  let gamma := chain f (mi.zip mj)
  let ok := x.ok && vfinite alpha && vfinite beta && vfinite gamma
  let lim := rnd f (vmul (hemEps f) (rnd f (vmul (vsqrt f alpha) (vsqrt f beta))))
  if !gamma.isNan && !lim.isNan && !lim.lt (vabs gamma) then { x with ok := ok }
  else
    let zeta := vdiv f (rnd f (vadd beta alpha.neg)) (rnd f (vmul (intVal 2) gamma))
    let t := hemT f zeta
    let c := vdiv f (intVal 1) (vsqrt f (vfma f (intVal 1) t t))
    let s := rnd f (vmul c t)
    let m := rotate f c s mi mj
    let z := rotate f c s (x.zc.getD ij.1 []) (x.zc.getD ij.2 [])
    { mc := (x.mc.set ij.1 m.1).set ij.2 m.2, zc := (x.zc.set ij.1 z.1).set ij.2 z.2,
      rotated := true, ok := ok && m.1.all vfinite && m.2.all vfinite }

/-- The pairs of a sweep in row-major order (R272). -/
def jacobiPairs (q : Nat) : List (Nat × Nat) :=
  (List.range q).flatMap fun i => ((List.range q).filter (i < ·)).map fun j => (i, j)

/-- The sweeps, at most `n` (R272). -/
def jacobi (f : Fmt) (q : Nat) : Nat → JacobiState → JacobiState
  | 0, x => x
  | n + 1, x =>
    let y := (jacobiPairs q).foldl (jacobiPair f) { x with rotated := false }
    if y.rotated then jacobi f q n y else y

/-- The result of TRND on factors: the kind rule, the rank, the factors, and the flags (R274 to R277).
`kind` is 0 for Z, 1 for dense, 2 for low-rank, 3 for left as it was. -/
structure RndRes where
  kind : Nat
  rank : Nat
  u : Mat
  v : Mat
  rdens : Bool
  rcap : Bool
  deriving DecidableEq, Repr

/-- The tail sums from index `c` up, for sorted singular values (R274). -/
def tails (f : Fmt) : List Val → List Val
  | [] => [.zero false]
  | s :: r => let t := tails f r; vfma f (t.headD default) s s :: t

/-- A factor element in format code `f` as a value of the working precision (R270). -/
def factorVals (f : Nat) (x : Mat) : VMat := matVals f false x

/-- TRND of L(U, V) of rank `k` in format code `fc` (R271 to R277). -/
def rankRound (fc m n k : Nat) (u v : Mat) (tau : Val) (abs : Bool) (kdense : Nat) (cap : Bool) :
    RndRes :=
  let f := psOf fc
  let keep : RndRes := ⟨3, k, u, v, false, false⟩
  let uv := factorVals fc u
  let vv := factorVals fc v
  let q := min n k
  let qu := qr f m k uv
  let qv := qr f n k vv
  let mcol := (List.range q).map fun b => qu.2.map fun ra => chain f (ra.zip (qv.2.getD b []))
  let fin0 := (uv ++ vv ++ qu.2 ++ qv.2 ++ mcol).all fun r => r.all vfinite
  let one := intVal 1
  let z0 := (List.range q).map fun b => (List.range q).map fun l => if l = b then one else Val.zero false
  let x := if q = 1 then (⟨mcol, z0, false, true⟩ : JacobiState)
    else jacobi f q (if f = .fp64 then 12 else 8) ⟨mcol, z0, false, true⟩
  let sigma := x.mc.map fun c => vsqrt f (chain f (c.zip c))
  let order := sortBy (fun a b => !(sigma.getD a default).lt (sigma.getD b default)) (List.range q)
  let sorted := order.map fun b => sigma.getD b default
  let tl := tails f sorted
  if !fin0 || !x.ok || !sigma.all vfinite || !tl.all vfinite then keep
  else
    let tw := rnd f tau
    let thr := rnd f (vmul (rnd f (vmul tw tw)) (if abs then one else tl.headD default))
    let r := ((List.range (q + 1)).find? fun r => !thr.lt (tl.getD r default)).getD q
    let rcap := decide (32 < r) && !cap
    let r1 := if rcap then 32 else r
    let dense := (decide (32 < r) && cap) || decide (kdense < r1)
    let col := fun (qm : VMat) (cs : VMat) => qm.map fun row =>
      (order.take r1).map fun c => elemEnc fc false false (chain f (row.zip (cs.getD c [])))
    let u' := col qu.1 x.mc
    let v' := col qv.1 x.zc
    let bad := fun (y : Mat) => y.any fun row => row.any fun b => !vfinite (elemVal fc false b)
    if r = 0 then ⟨0, 0, [], [], false, false⟩
    else if bad u' || bad v' then keep
    else if dense then
      let d := (lowExpand fc u' v').map fun row => row.map fun b => elemEnc fc false false (f.dec b)
      if bad d then keep else ⟨1, r1, d, [], true, rcap⟩
    else ⟨2, r1, u', v', false, rcap⟩

end Sys2Proof.Machine
end

