-- ==== Sys2Proof/Machine/Tile.lean ====
section
/-! DEFINITION. The tile table, storage, layout records and the movement of tiles (R218 to R245), and the
completion of tile operations. -/

namespace Sys2Proof.Machine

/-! ### The tile table -/

/-- An EMPTY entry with the default policy (R220, R238). -/
def Tile.blank : Tile :=
  { st := .empty, kind := .z, fmt := 0, rank := 0, m := 1, n := 1, loc := .pool, slots := [], rows := [], u := [],
    v := [], bind := none, perm := [], poison := [], tolSet := false, tau := 0x35800000, kdense := 32,
    absMode := false, denseOnCap := true }

/-- A tile-table entry; one not listed is EMPTY. -/
def Team.tile (m : Team) (h : Nat) : Tile :=
  ((m.tiles.find? (·.1 == h)).map (·.2)).getD Tile.blank

/-- Set a tile-table entry. -/
def Team.putTile (m : Team) (h : Nat) (t : Tile) : Team :=
  { m with tiles := (h, t) :: m.tiles.filter (·.1 != h) }

/-- A tile with contents, storage and a place, under the policy of an entry (R238). -/
def Tile.over (old new : Tile) : Tile :=
  { new with tolSet := old.tolSet, tau := old.tau, kdense := old.kdense, absMode := old.absMode,
             denseOnCap := old.denseOnCap }

/-- A Z tile. -/
def Tile.mkZ (f m n : Nat) : Tile := { Tile.blank with st := .ready, kind := .z, fmt := f, m := m, n := n }

/-- A D tile of encodings. -/
def Tile.mkD (f : Nat) (loc : TLoc) (m n : Nat) (rows : Mat) : Tile :=
  { Tile.blank with st := .ready, kind := .d, fmt := f, m := m, n := n, loc := loc, rows := rows }

/-- An L tile of factors. -/
def Tile.mkL (f m n k : Nat) (u v : Mat) : Tile :=
  { Tile.blank with st := .ready, kind := .l, fmt := f, rank := k, m := m, n := n, u := u, v := v }

/-- The code of a location (R224). -/
def TLoc.code : TLoc → Nat
  | .pool => 0 | .acc => 1 | .bonnet => 2 | .global => 3

/-- The location of a code (R224). -/
def TLoc.ofCode (n : Nat) : TLoc :=
  if n = 0 then .pool else if n = 1 then .acc else if n = 2 then .bonnet else .global

/-- The entry word that TINFO reports (R220), for an entry not FILLING. -/
def Tile.word (t : Tile) : Word :=
  if t.st = .empty then 0
  else
    let st := match t.st with | .empty => 0 | .filling => 1 | .ready => 2 | .draining => 3
    let kind := match t.kind with | .z => 0 | .d => 1 | .l => 2
    let loc := if t.kind = .z then 0 else t.loc.code
    let rank := if t.kind = .l then t.rank else 0
    BitVec.ofNat 32 (st + 4 * kind + 16 * rank + 2048 * t.fmt + 32768 * loc + 2 ^ 17 * (t.m - 1) +
      2 ^ 24 * (t.n - 1) + (if t.tolSet then 2 ^ 31 else 0))

/-! ### Storage (R224 to R227) -/

/-- Storage needed or held: panels, accumulator slots, Bonnet units. -/
abbrev Need := Nat × Nat × Nat

/-- The factor columns per panel (R225). -/
def panelCols (f : Nat) : Nat := if f = 0 then 4 else if f = 1 then 8 else 16

/-- The panels of a low-rank tile (R225). -/
def lowPanels (f k : Nat) : Nat := 2 * ((k + panelCols f - 1) / panelCols f)

/-- The storage of a tile (R224, R225). (DEDUCED, log 36) -/
def Tile.need (t : Tile) : Need :=
  if t.st = .empty then (0, 0, 0)
  else match t.kind, t.loc with
    | .z, _ => (0, 0, 0)
    | .l, _ => (lowPanels t.fmt t.rank, 0, 0)
    | .d, .pool => (fmtBits t.fmt / 2, 0, 0)
    | .d, .acc => (0, if t.fmt = 0 then 2 else 1, 0)
    | .d, .bonnet => (0, 0, fmtBits t.fmt / 4)
    | .d, .global => (0, 0, 0)

/-- Sum of storage. -/
def Need.add (a b : Need) : Need := (a.1 + b.1, a.2.1 + b.2.1, a.2.2 + b.2.2)

/-- Storage less storage. -/
def Need.sub (a b : Need) : Need := (a.1 - b.1, a.2.1 - b.2.1, a.2.2 - b.2.2)

/-- The core of a team that holds a handle (R12). -/
def Team.homeCore (m : Team) (h : Nat) : Nat :=
  if m.cores.length = 2 && 64 ≤ h then m.cores.getD 1 0 else m.cores.headD 0

/-- Whether a team's storage is on its cores. -/
def Team.onCore (m : Team) : Bool := m.at_ == .resident || m.at_ == .saving

/-- The storage that some entries and operations of one team take on a core, `skip` being a destination
whose own operations are not counted. (DEDUCED, log 36) -/
def State.teamUse (s : State) (m : Team) (core : Nat) (skip : Option Nat) : Need :=
  let e := (m.tiles.filter fun t => m.homeCore t.1 == core).map (·.2.need)
  let o := (s.ops.filter fun o => o.team == m.uid && !o.finished && o.td != none && o.td != skip &&
    m.homeCore (o.td.getD 0) == core).map (·.hold)
  (e ++ o).foldl Need.add (0, 0, 0)

/-- The panels of a team's pool on a core (R226). (DEDUCED, log 36) -/
def State.poolShare (s : State) (m : Team) (core : Nat) : Nat :=
  let l := (s.slice m.slice).launch
  if l.pair then (if m.cores.headD 0 = core then (l.poolPanels + 1) / 2 else l.poolPanels / 2)
  else l.poolPanels

/-- Whether a contract is admitted on a core (R393, R396): it takes the first cores of its cluster. -/
def State.contractOn (s : State) (core : Nat) : Bool :=
  let c := s.core core
  s.contracts.any fun k => k.cluster == 20 * c.die + c.cluster && decide (core % 4 < k.cores)

/-- The contract of a number. -/
def State.contract? (s : State) (k : Nat) : Option Contract := s.contracts.find? (·.id == k)

/-- Whether a slice is a contract slice: until its contract ends, which may be before the slice does (R393, R396). -/
def State.contracted (s : State) (l : Slice) : Bool := (l.contract.bind s.contract?).isSome

/-- Whether a team belongs to a contract slice. -/
def State.contractTeam (s : State) (m : Team) : Bool := s.contracted (s.slice m.slice)

/-- What is free for a team on a core (R227): the team's pool, the core's accumulator store of 16 slots
(R418), and its B store of 512 units less the staging area (R247). On a core with a contract, contract
slices have one half of both stores and the other slices the other (R396). -/
def State.free (s : State) (m : Team) (core : Nat) (skip : Nat) : Need :=
  let mine := (s.teamUse m core (some skip)).1
  let half := s.contractOn core
  let others := (s.teams.filter fun x => x.onCore && x.cores.contains core &&
      (!half || s.contractTeam x == s.contractTeam m)).foldl
    (fun a x => Need.add a (s.teamUse x core (if x.uid = m.uid then some skip else none))) (0, 0, 0)
  (s.poolShare m core - mine, (if half then 8 else 16) - others.2.1, (if half then 240 else 480) - others.2.2)

/-- The accumulator slots taken on a core (R418): those that entries lie in, and those that the operations in flight give
back, but for a destination `skip` of the team `mine` and what operations on it give back (R227). -/
def State.accTaken (s : State) (core mine skip : Nat) : List Nat :=
  (s.teams.filter fun x => x.onCore && x.cores.contains core).flatMap fun x =>
    (x.tiles.filter fun t => x.homeCore t.1 == core && !(x.uid == mine && t.1 == skip)).flatMap (·.2.slots) ++
      (s.ops.filter fun o => o.team == x.uid && !o.finished && x.homeCore (o.td.getD 0) == core &&
        !(x.uid == mine && o.td == some skip)).flatMap (·.slots)

/-- The lowest accumulator slots that some taken ones leave: one, or an even slot and the odd slot after it (R224, R418);
which of several is not said. (DESIGN CHOICE, log 81) -/
def accPlace (taken : List Nat) (n : Nat) : Option (List Nat) :=
  if n = 0 then some []
  else if n = 1 then ((List.range 16).find? fun k => !taken.contains k).map fun k => [k]
  else ((List.range 8).find? fun k => !taken.contains (2 * k) && !taken.contains (2 * k + 1)).map fun k =>
    [2 * k, 2 * k + 1]

/-- The accumulator slots for the result of an operation: its destination's own may be among them (R227, R418). -/
def State.accFor (s : State) (m : Team) (td n : Nat) : Option (List Nat) :=
  accPlace (s.accTaken (m.homeCore td) m.uid td) n

/-- Give the ACC tiles of a team slots on the cores it comes back to (R404, R418). (DEDUCED, log 36) -/
def State.placeSlots (s : State) (team : Nat) : State :=
  let hs := ((s.team team).tiles.filter fun t => t.2.need.2.1 != 0).map (·.1)
  let s1 := s.setTeam team fun m => { m with tiles := m.tiles.map fun t => (t.1, { t.2 with slots := [] }) }
  hs.foldl (fun s h =>
    let l := (s.accFor (s.team team) h ((s.team team).tile h).need.2.1).getD []
    s.setTeam team fun m => m.putTile h { (m.tile h) with slots := l }) s1

/-- The Panel Exhaustion subcode of an operation that does not fit (R227, R418). (DEDUCED, log 36) -/
def State.noFit (s : State) (m : Team) (td : Nat) (need : Need) : Option Nat :=
  let f := Need.add (s.free m (m.homeCore td) td) (m.tile td).need
  if f.1 < need.1 then some 1
  else if f.2.1 < need.2.1 || (s.accFor m td need.2.1).isNone then some 2
  else if f.2.2 < need.2.2 then some 3
  else none

/-! ### Tile operations -/

/-- Whether an operation in flight names a tile. -/
def TileOp.names (o : TileOp) (team h : Nat) : Bool :=
  o.team == team && !o.finished && (o.td == some h || o.reads.contains h)

/-- Whether a tile is FILLING or DRAINING (R221). -/
def State.tileBusy (s : State) (team h : Nat) : Bool := s.ops.any fun o => o.names team h

/-- What a tile instruction does in one thread: the state and the fault it raises. -/
abbrev TileStep := Cx → Thread → State → State × Option FaultInfo

/-- One operation for each of some threads in turn (R223), with the faults raised; none when the unit that performs it,
`full`, has no room for all of them. -/
def tileLanes (full : Cx → State → Bool) (f : TileStep) (cx : Cx) :
    List Thread → State → List (Nat × FaultInfo) → Option (State × List (Nat × FaultInfo))
  | [], s, fs => some (s, fs)
  | t :: r, s, fs =>
    if full cx s then none
    else
      let x := f (cx.of t) t s
      match x.2 with
      | none => tileLanes full f cx r (x.1.lastRelease (cx.of t) t.uid) fs
      | some e => tileLanes full f cx r x.1 (fs ++ [(t.uid, e)])

/-- The operations that the unit has room for, up to one that faults: the threads they act for are marked, and the
instruction is held for the others (R414, R419). -/
def tileSome (full : Cx → State → Bool) (f : TileStep) (cx : Cx) : List Thread → State → State
  | [], s => s
  | t :: r, s =>
    if full cx s then s
    else
      let x := f (cx.of t) t s
      match x.2 with
      | none => tileSome full f cx r ((x.1.lastRelease (cx.of t) t.uid).setGroup cx.gid fun g =>
          { g with done := g.done ++ [t.uid] })
      | some _ => s

/-- Whether a tile instruction waits: for a named tile that is busy (R222), or for an acquire load of a live thread
(R175, R186). -/
def State.tileWaits (s : State) (named : List Nat) (cx : Cx) (ts : List Thread) : Bool :=
  named.any (s.tileBusy cx.team) || ts.any Thread.acquiring

/-- The threads that a tile instruction has still to act for. -/
def State.undone (s : State) (cx : Cx) (ts : List Thread) : List Thread :=
  ts.filter fun t => !(s.group cx.gid).done.contains t.uid

/-- A tile instruction (R222, R223): held while it waits and while its unit is full, then one operation for each live
thread in ascending lane order. -/
def tileAct (named : List Nat) (full : Cx → State → Bool) (f : TileStep) : Act := fun cx ts s =>
  if s.tileWaits named cx ts then none else tileLanes full f cx (s.undone cx ts) s []

/-- What a tile instruction that is held does already: its operations enter as far as its unit has room. -/
def tileAsk (named : List Nat) (full : Cx → State → Bool) (f : TileStep) : Ask := fun cx ts s =>
  if s.tileWaits named cx ts then s else tileSome full f cx (s.undone cx ts) s

/-- The meaning of a tile instruction that may read memory of other devices, which it asks for once its tiles are free
(R222, R380). -/
def wordTile (i : Instr) (named : List Nat) (w : Far) (full : Cx → State → Bool) (f : TileStep) (s : State) : Out :=
  let far : Far := fun cx s t => if named.any (s.tileBusy cx.team) then [] else w cx s t
  .next (s.issue i (farHold far (tileAct named full f)) (fun cx ts s =>
    if ts.any fun t => !(s.missing t.uid (far (cx.of t) s t)).isEmpty then farAsk far cx ts s
    else tileAsk named full f cx ts s))

/-- No reading of other devices. -/
def noFar : Far := fun _ _ _ => []

/-- Nothing more holds the instruction. -/
def freeUnit : Cx → State → Bool := fun _ _ => false

/-- An operation to be started. `inPlace` says that it writes the storage that its destination holds. -/
structure TJob where
  td : Option Nat := none
  result : Tile := Tile.blank
  reads : List Nat := []
  need : Need := (0, 0, 0)
  stores : List (Nat × Byte × Byte) := []
  marks : List (Nat × Bool) := []
  rstores : List (Nat × Nat × Nat × RemoteOp) := []
  sets : Bool := false
  tbits : Word := 0
  poison : Option FaultInfo := none
  unit : TUnit := .tile
  rowsM : Nat := 0
  kMax : Nat := 0
  cls : Nat := 0
  burst : Bool := false
  inPlace : Bool := false

/-- Undefined elements in the shape of a matrix (R245, R382). (DESIGN CHOICE, log 2) -/
def freeMat (base bits : Nat) (x : Mat) : Mat :=
  x.zipIdx.map fun r => r.1.zipIdx.map fun e =>
    (Config.freeDWord (base + 128 * r.2 + e.2)).toNat % 2 ^ bits

/-- A tile with undefined elements. -/
def Tile.scrambled (t : Tile) (base : Nat) : Tile :=
  let b := if t.loc = .acc && t.fmt == 7 then 32 else fmtBits t.fmt
  { t with rows := freeMat base b t.rows, u := freeMat base b t.u, v := freeMat (base + 16384) b t.v }

/-- Mark entries as read by an operation in flight (R221). -/
def Team.drain (m : Team) (hs : List Nat) : Team :=
  { m with tiles := m.tiles.map fun t =>
      if hs.contains t.1 && t.2.st == .ready then (t.1, { t.2 with st := .draining }) else t }

/-- Start an operation (R221, R227): it reserves its need, its tiles enter their states, and its result
stands in the entry, which is FILLING until the operation completes. (DEDUCED, log 35) -/
def State.startJob (s : State) (cx : Cx) (t : Thread) (j : TJob) : State × Option FaultInfo :=
  let m := s.team cx.team
  let td := j.td.getD 0
  let old := m.tile td
  match (if j.td = none || j.inPlace then none else s.noFit m td j.need) with
  | some sub =>
    (s.setThread t.uid fun x => { x with tstat := x.tstat ||| 4 }, some ⟨0x09, sub, 0, some td⟩)
  | none =>
    let placed := { j.result with
      slots := if j.inPlace then old.slots else (s.accFor m td j.result.need.2.1).getD [] }
    let res := if j.poison.isSome then placed.scrambled (s.fresh + 65536) else placed
    let s1 := s.setTeam cx.team fun m =>
      let m1 := m.drain (j.reads.filter fun h => some h != j.td)
      match j.td with
      | none => m1
      | some h => m1.putTile h { (old.over res) with st := .filling }
    let hold := if j.td = none || j.inPlace then (0, 0, 0)
      else Need.add old.need (Need.sub j.need { res with st := .ready }.need)
    ({ s1 with
      fresh := s.fresh + 131072
      nextOp := s.nextOp + 1
      ops := s.ops ++ [{
        id := s.nextOp, team := cx.team, uid := t.uid, pc := cx.pc,
        core := m.homeCore (j.td.getD (j.reads.headD 0)), unit := j.unit, td := j.td, was := old.word,
        reads := j.reads.filter fun h => some h != j.td, stores := j.stores, marks := j.marks, rstores := j.rstores,
        sets := j.sets, tbits := j.tbits, poison := j.poison, hold := hold,
        slots := if j.td = none || j.inPlace then [] else old.slots, rowsM := j.rowsM, kMax := j.kMax,
        cls := j.cls, burst := j.burst, judged := false, started := j.unit != .array, waitsGrant := false,
        undeclared := false, covered := false, kg := 0, finished := false }] }, none)

/-- Set an entry without an operation in flight. -/
def State.putTileNow (s : State) (team h : Nat) (t : Tile) : State :=
  s.setTeam team fun m => m.putTile h ((m.tile h).over t)

/-! ### Layout records (R228 to R230) -/

/-- A byte of a record. -/
def byteAt (l : List Byte) (o : Nat) : Nat := fieldAt l o 1

/-- The layout record that 64 bytes hold (R228). (DEDUCED, log 25) -/
def LayoutRec.ofBytes (l : List Byte) : LayoutRec :=
  { base := BitVec.ofNat 64 (fieldAt l 0 8)
    ext := (List.range 4).map fun i => fieldAt l (8 + 4 * i) 4
    strides := (List.range 3).map fun i => BitVec.ofNat 64 (fieldAt l (0x18 + 8 * i) 8)
    fmt := byteAt l 0x30, ndims := byteAt l 0x31, codec := byteAt l 0x32, flags := byteAt l 0x33
    scaleBase := BitVec.ofNat 64 (fieldAt l 0x34 8), scaleShift := byteAt l 0x3C
    tr := byteAt l 0x3D + 1, tc := byteAt l 0x3E + 1 }

/-- An extent of a record: 1 at or above NDIMS (R228). -/
def LayoutRec.extent (r : LayoutRec) (d : Nat) : Nat := if d < r.ndims then r.ext.getD d 1 else 1

/-- Whether a record's own fields are valid for a tile instruction (R230 step 2). (DEDUCED, log 25) -/
def layoutOk (l : List Byte) (r : LayoutRec) : Bool :=
  r.fmt ≤ 8 && 1 ≤ r.ndims && r.ndims ≤ 4 && r.codec == 0 && r.flags / 2 == 0 && byteAt l 0x3F == 0 &&
    (List.range r.ndims).all fun d => r.extent d != 0

/-- Read 8-byte words of a structure in global memory as a thread does (R230 step 1, R291). The checks of R148 on a word
come before the check that it is global. (DESIGN CHOICE, log 81) -/
def State.readGlobal (s : State) (t : Thread) (ea : DWord) : Nat → Except FaultInfo (List Byte)
  | 0 => .ok []
  | n + 1 =>
    match s.check t ea 8 .read with
    | .error f => .error f
    | .ok a =>
      if !a.isGlobal then .error (accessFault 0x01 ea)
      else
        match s.dataFault t.uid t.core a.place 8 ea with
        | some f => .error f
        | none =>
          match s.readGlobal t (ea + 8) n with
          | .error f => .error f
          | .ok r => .ok (s.readAny t.uid t.core a.place 8 false ++ r)

/-- The granules of other devices that `n` 8-byte words of a structure lie in (R380). -/
def State.globalGrans (s : State) (t : Thread) (ea : DWord) (n : Nat) : List Gran :=
  (List.range n).flatMap fun k =>
    match s.check t (ea + BitVec.ofNat 64 (8 * k)) 8 .read with
    | .ok a => a.place.grans 8
    | .error _ => []

/-- A box of a tensor: the record, the first row and column, the extents, and the outer indices. -/
structure Box where
  lay : LayoutRec
  row0 : Nat
  col0 : Nat
  m : Nat
  n : Nat
  i2 : Nat
  i3 : Nat
  deriving DecidableEq, Repr

/-- The box that a coordinate word names (R229); `none` when it lies outside. -/
def LayoutRec.box (r : LayoutRec) (c : DWord) : Option Box :=
  let row0 := (c.extractLsb' 0 16).toNat * r.tr
  let col0 := (c.extractLsb' 16 16).toNat * r.tc
  let i2 := (c.extractLsb' 32 16).toNat
  let i3 := (c.extractLsb' 48 16).toNat
  if r.extent 1 ≤ row0 || r.extent 0 ≤ col0 || r.extent 2 ≤ i2 || r.extent 3 ≤ i3 then none
  else
    let m := min r.tr (r.extent 1 - row0)
    let n := min r.tc (r.extent 0 - col0)
    if 128 < m || 128 < n then none else some ⟨r, row0, col0, m, n, i2, i3⟩

/-- The address of an element of a tensor (R229). -/
def LayoutRec.addr (r : LayoutRec) (c row i2 i3 : Nat) : Nat :=
  (r.base.toNat + c * fmtBits r.fmt / 8 + row * (r.strides.getD 0 0).toNat +
    i2 * (r.strides.getD 1 0).toNat + i3 * (r.strides.getD 2 0).toNat) % 2 ^ 64

/-- The address of an element of a box. -/
def Box.addr (b : Box) (i j : Nat) : Nat := b.lay.addr (b.col0 + j) (b.row0 + i) b.i2 b.i3

/-- Where an element lies: its address, its place, and its page's compressible attribute. -/
structure Spot where
  va : Nat
  place : Place
  cmp : Bool
  deriving DecidableEq, Repr, Inhabited

/-- The spots of the elements at some addresses, or the first fault (R230 steps 3 to 5). -/
def State.spots (s : State) (t : Thread) (k : Access) : List Nat → Except FaultInfo (List Spot)
  | [] => .ok []
  | a :: r =>
    let ea := BitVec.ofNat 64 a
    if 2 ^ 57 ≤ a then .error (accessFault 0x01 ea)
    else
      match s.checkVa t.core (s.slice t.slice).asid a k t.needU ea with
      | .error f => .error f
      | .ok c =>
        match s.spots t k r with
        | .error f => .error f
        | .ok l => .ok (⟨a, c.place, c.cmp⟩ :: l)

/-- The elements of a box in row-major order. -/
def Box.elems (b : Box) : List (Nat × Nat) :=
  (List.range b.m).flatMap fun i => (List.range b.n).map fun j => (i, j)

/-- The address that a misaligned BASE or stride fails at (R230 step 4): BASE where it is misaligned, else the first
element of the box, in the order of its indices, whose address is not a multiple of the element size, else BASE.
(DEDUCED, log 25) -/
def Box.misaligned (b : Box) : Nat :=
  if b.lay.base.toNat % fmtBytes b.lay.fmt != 0 then b.lay.base.toNat
  else ((b.elems.map fun x => b.addr x.1 x.2).find? fun a => a % fmtBytes b.lay.fmt != 0).getD b.lay.base.toNat

/-- Steps 3 to 5 of R230 on a box. -/
def State.touch (s : State) (t : Thread) (b : Box) (k : Access) : Except FaultInfo (List Spot) :=
  let e := fmtBytes b.lay.fmt
  if b.lay.base.extractLsb' 57 7 != 0 then .error (accessFault 0x01 b.lay.base)
  else if b.lay.base.toNat % e != 0 || b.lay.strides.any fun x => x.toNat % e != 0 then
    .error (flt 0x03 0 (BitVec.ofNat 64 b.misaligned))
  else s.spots t k (b.elems.map fun x => b.addr x.1 x.2)

/-- The granules of other devices that reading some spots needs. -/
def spotGrans (n : Nat) (l : List Spot) : List Gran := (l.flatMap fun x => x.place.grans n).dedup

/-- The granules of other devices that a box lies in. -/
def State.boxGrans (s : State) (t : Thread) (b : Box) : List Gran :=
  match s.touch t b .read with
  | .ok l => spotGrans (fmtBytes b.lay.fmt) l
  | .error _ => []

/-- The encoding of an element from its place, read for a thread at the L2 of its die (R244), or at the L2 of its home
(R380). -/
def State.elemBits (s : State) (t : Thread) (fmt col : Nat) (p : Place) : Nat :=
  let v := leNat (s.readAny t.uid t.core p (fmtBytes fmt) true)
  if fmtBits fmt = 4 then (if col % 2 = 0 then v % 16 else v / 16) else v

/-- The fault due where reading a spot is awaited: poison, here or at its home (R245), or a home that cannot be reached
(R380). -/
def State.badSpot (s : State) (die u bytes : Nat) (tile : Option Nat) (x : Spot) : Option FaultInfo :=
  let ea := BitVec.ofNat 64 x.va
  match x.place with
  | .phys a => if s.mem.poisonDie die a bytes then some ⟨0x0C, 0, ea, tile⟩ else none
  | p =>
    if (p.grans bytes).any (s.granFailed u) then some (accessFault 0x23 ea)
    else if (p.grans bytes).any (s.granPoisoned u) then some ⟨0x0C, 0, ea, tile⟩
    else none

/-- The elements of a box from their spots. -/
def State.boxMat (s : State) (t : Thread) (b : Box) (l : List Spot) : Mat :=
  matOf b.m b.n fun i j => s.elemBits t b.lay.fmt (b.col0 + j) (l.getD (i * b.n + j) default).place

/-- A tensor tile read by a thread: its box, its elements, and the fault due where it is awaited. -/
structure BoxRead where
  box : Box
  mat : Mat
  bad : Option FaultInfo

/-- Read a box as the tile unit does (R244). -/
def State.readBox (s : State) (t : Thread) (b : Box) (tile : Option Nat) : Except FaultInfo BoxRead :=
  match s.touch t b .read with
  | .error f => .error f
  | .ok l => .ok ⟨b, s.boxMat t b l, l.findSome? (s.badSpot (s.core t.core).die t.uid (fmtBytes b.lay.fmt) tile)⟩

/-- A layout record of a tile instruction (R230 steps 1 and 2). (DEDUCED, log 25; DEDUCED, log 37) -/
def State.readRecord (s : State) (t : Thread) (ea : DWord) (td : Nat) : Except FaultInfo LayoutRec :=
  match s.readGlobal t ea 8 with
  | .error f => .error f
  | .ok l =>
    let r := LayoutRec.ofBytes l
    if layoutOk l r then .ok r else .error (tileFault 0x06 td)

/-- What an instruction reads from other devices for its layout record, and for the box that it names when `box` says so
(R230, R380). -/
def recordFar (a b : Nat) (box : Bool) : Far := fun _ s t =>
  let g := s.globalGrans t (t.w a) 8
  if !box || !(s.missing t.uid g).isEmpty then g
  else
    match s.readRecord t (t.w a) 0 with
    | .error _ => g
    | .ok r =>
      match r.box (t.w b) with
      | none => g
      | some bx => g ++ s.boxGrans t bx

/-- What the tiles of a team that are GLOBAL views read from other devices (R233, R380). -/
def viewFar (hs : List Nat) : Far := fun cx s t =>
  hs.flatMap fun h =>
    match ((s.team cx.team).tile h).bind with
    | none => []
    | some b => ((b.1.box b.2).map (s.boxGrans t)).getD []

/-- A tile as an operand: a GLOBAL tile's elements are read from memory through its record (R233). The
second part is the fault due where the operation is awaited (R245, R382). -/
def State.operand (s : State) (cx : Cx) (t : Thread) (h : Nat) (td : Option Nat) :
    Except FaultInfo (Tile × Option FaultInfo) :=
  let x := (s.team cx.team).tile h
  let p := if x.poison.isEmpty then none else some ⟨0x0C, 1, 0, some h⟩
  match x.bind with
  | none => .ok (x, p)
  | some b =>
    match b.1.box b.2 with
    | none => .error (tileFault 0x05 h)
    | some bx =>
      match s.readBox t bx td with
      | .error f => .error f
      | .ok r => .ok ({ x with rows := r.mat }, if r.bad.isSome then r.bad else p)

/-- The first of some checks that fails, as a Tile Kind fault (R231). (DEDUCED, log 25; DEDUCED, log 37) -/
def tileChecks : List (Bool × Nat × Nat) → Except FaultInfo Unit
  | [] => .ok ()
  | c :: r => if c.1 then .error (tileFault c.2.1 c.2.2) else tileChecks r

/-- Start the operation that checks give, or raise their fault. (DEDUCED, log 35) -/
def State.runJob (s : State) (cx : Cx) (t : Thread) (j : Except FaultInfo TJob) :
    State × Option FaultInfo :=
  match j with
  | .error f => (s, some f)
  | .ok j => s.startJob cx t j

/-- The location a result goes to (R237): .same keeps the source's, GLOBAL taken as POOL. -/
def TLoc.dest (src : TLoc) (f : Nat) : TLoc :=
  if f = 3 then (if src = .global then .pool else src) else TLoc.ofCode f

/-! ### TLOAD, TBIND, TSTORE, TZERO, TFREE (R233 to R236) -/

/-- The record and box of a tile instruction, with the checks against the destination (R230). -/
def State.recordBox (s : State) (t : Thread) (a b : Nat) (td : Nat) (bad : LayoutRec → Bool) :
    Except FaultInfo Box :=
  match s.readRecord t (t.w a) td with
  | .error f => .error f
  | .ok r =>
    if bad r then .error (tileFault 0x03 td)
    else
      match r.box (t.w b) with
      | none => .error (tileFault 0x05 td)
      | some bx => .ok bx

/-- TLOAD's operation (R233). -/
def tloadJob (td a b f : Nat) (t : Thread) (s : State) : Except FaultInfo TJob := do
  let bx ← s.recordBox t a b td fun r => f == 1 && !(r.fmt == 0 || r.fmt == 1)
  let r ← s.readBox t bx (some td)
  let x := Tile.mkD bx.lay.fmt (TLoc.ofCode f) bx.m bx.n r.mat
  .ok { td := some td, result := x, need := x.need, poison := r.bad }

/-- TLOAD (R233): f is 0 .pool, 1 .acc, 2 .bon. -/
def execTload (e : Bool) (d a b : BitVec 7) (f : BitVec 2) (s : State) : Out :=
  wordTile (.tload e d a b f) [d.toNat] (recordFar a.toNat b.toNat true) freeUnit (fun cx t s =>
    s.runJob cx t (tloadJob d.toNat a.toNat b.toNat f.toNat t s)) s

/-- TBIND in one thread (R233): a view, READY at once. -/
def tbindStep (td a b : Nat) : TileStep := fun cx t s =>
  match s.recordBox t a b td fun _ => false with
  | .error f => (s, some f)
  | .ok bx =>
    match s.touch t bx .read with
    | .error f => (s, some f)
    | .ok _ =>
      (s.putTileNow cx.team td
        { (Tile.mkD bx.lay.fmt .global bx.m bx.n []) with bind := some (bx.lay, t.w b) }, none)

/-- TBIND (R233). -/
def execTbind (e : Bool) (d a b : BitVec 7) (s : State) : Out :=
  wordTile (.tbind e d a b) [d.toNat] (recordFar a.toNat b.toNat false) freeUnit (tbindStep d.toNat a.toNat b.toNat) s

/-- The bytes of an element for a store, with masks: a 4-bit element writes its nibble alone (R234). -/
def elemStore (fmt col a v : Nat) : List (Nat × Byte × Byte) :=
  if fmtBits fmt = 4 then
    if col % 2 = 0 then [(a, 0x0F, BitVec.ofNat 8 (v % 16))] else [(a, 0xF0, BitVec.ofNat 8 (v % 16 * 16))]
  else (numbered a (leBytes (fmtBytes fmt) v)).map fun c => (c.1, 0xFF, c.2)

/-- The store of an element at another device: its bytes together, or its nibble alone (R234). -/
def elemRemote (fmt col v : Nat) : RemoteOp :=
  if fmtBits fmt = 4 then
    if col % 2 = 0 then .masked 0x0F (BitVec.ofNat 8 (v % 16)) else .masked 0xF0 (BitVec.ofNat 8 (v % 16 * 16))
  else .store (leBytes (fmtBytes fmt) v)

/-- The elements of a matrix with their columns and the spots of a box. -/
def Box.cells (b : Box) (m : Mat) (l : List Spot) : List (Nat × Nat × Spot) :=
  b.elems.zipIdx.map fun x => (b.col0 + x.1.2, elemOf m x.1.1 x.1.2, l.getD x.2 default)

/-- The stores of a matrix into a box in this device's memory. -/
def boxStores (b : Box) (m : Mat) (l : List Spot) : List (Nat × Byte × Byte) :=
  (b.cells m l).flatMap fun x => match x.2.2.place with
    | .phys a => elemStore b.lay.fmt x.1 a x.2.1
    | _ => []

/-- The bytes that masked stores write every bit of, by one store or by several. -/
def fullBytes (l : List (Nat × Byte × Byte)) : List (Nat × Byte) :=
  ((l.map (·.1)).dedup).filterMap fun a =>
    let here := l.filter (·.1 == a)
    if here.foldl (fun m c => m ||| c.2.1) 0 == 0xFF
    then some (a, here.foldl (fun v c => (v &&& ~~~c.2.1) ||| (c.2.2 &&& c.2.1)) 0) else none

/-- The granules of other devices' memory that some element stores, each with its VA, cover wholly: with the first VA and
the bytes (R381). -/
def wholeRemote (l : List (Gran × Nat × List (Nat × Byte × Byte))) : List (Gran × Nat × List Byte) :=
  ((l.map (·.1)).dedup).filterMap fun g =>
    let here := l.filter (·.1 == g)
    let bs := fullBytes (here.flatMap (·.2.2))
    let cs := (List.range 32).filterMap fun i => (bs.find? (·.1 == 32 * g.2 + i)).map (·.2)
    if cs.length = 32 then some (g, (here.map (·.2.1)).headD 0, cs) else none

/-- The stores of a matrix into a box in other devices' memory: the home, the address, the VA, the access (R380). A granule
that they cover wholly is one access (R381). -/
def boxRemote (b : Box) (m : Mat) (l : List Spot) : List (Nat × Nat × Nat × RemoteOp) :=
  let cells := (b.cells m l).filterMap fun x => match x.2.2.place with
    | .remote h a => some (((h, a / 32) : Gran), a, x.2.2.va, x.1, x.2.1)
    | _ => none
  let full := wholeRemote (cells.map fun x => (x.1, x.2.2.1, elemStore b.lay.fmt x.2.2.2.1 x.2.1 x.2.2.2.2))
  full.map (fun x => (x.1.1, 32 * x.1.2, x.2.1, .store x.2.2)) ++
    (cells.filter fun x => !full.any (·.1 == x.1)).map fun x =>
      (x.1.1, x.2.1, x.2.2.1, elemRemote b.lay.fmt x.2.2.2.1 x.2.2.2.2)

/-- The compressible attributes under which a box is written, by line (R372). -/
def boxMarks (l : List Spot) : List (Nat × Bool) :=
  (l.filterMap fun x => match x.place with
    | .phys a => some (lineOf a * 128, x.cmp)
    | _ => none).dedup

/-- TSTORE's operation (R234). The pages of the destination's box are checked before those of the box of a GLOBAL source.
(DESIGN CHOICE, log 85) -/
def tstoreJob (td a b : Nat) (cx : Cx) (t : Thread) (s : State) : Except FaultInfo TJob := do
  let x := (s.team cx.team).tile td
  tileChecks [(x.st == .empty, 1, td), (x.kind == .d && x.loc == .acc && x.fmt == 7, 3, td)]
  let bx ← s.recordBox t a b td fun r => r.fmt != x.fmt
  tileChecks [(bx.m != x.m || bx.n != x.n, 5, td)]
  let l ← s.touch t bx .write
  let y ← s.operand cx t td (some td)
  let mat := if y.2.isSome then freeMat (s.fresh + 65536) (fmtBits x.fmt) y.1.bits else y.1.bits
  .ok { reads := [td], stores := boxStores bx mat l, marks := boxMarks l, rstores := boxRemote bx mat l,
        poison := y.2 }

/-- TSTORE (R234). -/
def execTstore (e : Bool) (d a b : BitVec 7) (s : State) : Out :=
  wordTile (.tstore e d a b) [d.toNat]
    (fun cx s t => recordFar a.toNat b.toNat false cx s t ++ viewFar [d.toNat] cx s t)
    freeUnit (fun cx t s =>
      s.runJob cx t (tstoreJob d.toNat a.toNat b.toNat cx t s)) s

/-- TZERO's operation on a shape word (R235). -/
def tzeroJob (td f : Nat) (w : Word) : Except FaultInfo TJob := do
  let m := (w.extractLsb' 0 7).toNat + 1
  let n := (w.extractLsb' 8 7).toNat + 1
  let fmt := (w.extractLsb' 16 4).toNat
  tileChecks [(decide (8 < fmt) || (f == 1 && !fmtAcc fmt), 3, td)]
  let x := if f = 0 then Tile.mkZ fmt m n else Tile.mkD fmt .acc m n (matOf m n fun _ _ => 0)
  .ok { td := some td, result := x, need := x.need }

/-- TZERO (R235): f is 0 .z, 1 .acc. -/
def execTzero (e : Bool) (d a : BitVec 7) (f : BitVec 2) (s : State) : Out :=
  word (.tzero e d a f) (tileAct [d.toNat] freeUnit fun cx t s =>
    s.runJob cx t (tzeroJob d.toNat f.toNat (t.g a.toNat))) s

/-- Free a handle (R236): its tile and its policy go; an EMPTY entry stays as it is. -/
def Team.freeTile (m : Team) (h : Nat) : Team :=
  if (m.tile h).st = .empty then m else { m with tiles := m.tiles.filter (·.1 != h) }

/-- TFREE (R236). -/
def execTfree (e : Bool) (d : BitVec 7) (s : State) : Out :=
  word (.tfree e d) (tileAct [d.toNat] freeUnit fun cx _ s =>
    (s.setTeam cx.team fun m => m.freeTile d.toNat, none)) s

/-! ### TCOPY, TCVT, TTRAN (R237) -/

/-- A D tile's elements moved to a location: an INT8 tile is converted between 32-bit and 8-bit elements
(R237). -/
def moveRows (x : Tile) (loc : TLoc) : Mat :=
  if x.fmt = 7 && (x.loc == .acc) != (loc == .acc) then
    matEnc 7 (loc == .acc) false (matVals 7 (x.loc == .acc) x.rows)
  else x.rows

/-- A tile copied to a location: an L tile bound for ACC or BONNET becomes dense (R237). -/
def copyTile (x : Tile) (loc : TLoc) : Tile × Bool :=
  match x.kind with
  | .z => (Tile.mkZ x.fmt x.m x.n, false)
  | .d => (Tile.mkD x.fmt loc x.m x.n (moveRows x loc), false)
  | .l =>
    if loc = .pool then (Tile.mkL x.fmt x.m x.n x.rank x.u x.v, false)
    else (Tile.mkD x.fmt loc x.m x.n x.bits, true)

/-- A tile transposed (R237). -/
def Tile.transposed (x : Tile) : Tile :=
  match x.kind with
  | .z => { x with m := x.n, n := x.m }
  | .d => { x with m := x.n, n := x.m, rows := matT x.n x.rows }
  | .l => { x with m := x.n, n := x.m, u := x.v, v := x.u }

/-- A tile converted to a format in a location (R237): an L result bound for ACC or BONNET is the expansion of the
factors as converted. (DEDUCED, log 26) -/
def convertTile (x : Tile) (f : Nat) (loc : TLoc) (sat : Bool) : Tile × Bool :=
  let enc := matEnc f (loc == .acc) sat
  match x.kind with
  | .z => (Tile.mkZ f x.m x.n, false)
  | .d => (Tile.mkD f loc x.m x.n (enc (matVals x.fmt (x.loc == .acc) x.rows)), false)
  | .l =>
    if fmtLow f then
      let enc := matEnc f false sat
      let y := Tile.mkL f x.m x.n x.rank (enc (matVals x.fmt false x.u)) (enc (matVals x.fmt false x.v))
      if loc = .pool then (y, false) else (Tile.mkD f loc x.m x.n y.bits, true)
    else (Tile.mkD f loc x.m x.n (enc x.vals), true)

/-- %tstat.RDENS. -/
def RDENS : Word := 2

/-- The operation of TCOPY, TCVT and TTRAN (R237): `f` is the location field and `fmt` the result's
format. A Z result has no location (R220), so its format is checked against none. (DESIGN CHOICE, log 72) -/
def moveJob (td ta f fmt : Nat) (mk : Tile → TLoc → Tile × Bool) (cx : Cx) (t : Thread) (s : State) :
    Except FaultInfo TJob := do
  let x := (s.team cx.team).tile ta
  let loc := x.loc.dest f
  tileChecks [(x.st == .empty, 1, ta)]
  tileChecks [(decide (8 < fmt) ||
    (x.kind != .z && loc == .acc && !fmtAcc fmt), 3, td)]
  let y ← s.operand cx t ta (some td)
  let r := mk y.1 loc
  .ok { td := some td, result := r.1, reads := [ta], need := r.1.need, sets := true,
        tbits := if r.2 then RDENS else 0, poison := y.2 }

/-- TCOPY (R237): f is 0 .pool, 1 .acc, 2 .bon, 3 .same. -/
def execTcopy (e : Bool) (d a : BitVec 7) (f : BitVec 2) (s : State) : Out :=
  wordTile (.tcopy e d a f) [d.toNat, a.toNat] (viewFar [a.toNat]) freeUnit (fun cx t s =>
    s.runJob cx t (moveJob d.toNat a.toNat f.toNat ((s.team cx.team).tile a.toNat).fmt copyTile
      cx t s)) s

/-- TTRAN (R237). -/
def execTtran (e : Bool) (d a : BitVec 7) (f : BitVec 2) (s : State) : Out :=
  wordTile (.ttran e d a f) [d.toNat, a.toNat] (viewFar [a.toNat]) freeUnit (fun cx t s =>
    s.runJob cx t (moveJob d.toNat a.toNat f.toNat ((s.team cx.team).tile a.toNat).fmt
      (fun x loc => ((copyTile x loc).1.transposed, (copyTile x loc).2)) cx t s)) s

/-- TCVT (R237): `m` is the format code. (DEDUCED, log 26) -/
def execTcvt (e : Bool) (d a : BitVec 7) (m : BitVec 4) (f : BitVec 2) (s : State) : Out :=
  wordTile (.tcvt e d a m f) [d.toNat, a.toNat] (viewFar [a.toNat]) freeUnit (fun cx t s =>
    s.runJob cx t (moveJob d.toNat a.toNat f.toNat m.toNat
      (fun x loc => convertTile x m.toNat loc cx.sat) cx t s)) s

/-! ### TSET, TINFO, TGET, TNORM (R238 to R241) -/

/-- Whether an FP32 word is a tolerance: finite and not negative, −0 taken as +0 (R238, R267). -/
def tauOk (w : Word) : Bool :=
  match Fmt.fp32.dec w.toNat with
  | .nan _ | .inf _ => false
  | .fin neg m _ _ => !neg || m == 0

/-- TSET in one thread (R238). It writes the policy alone: whether it counts as the write to the entry that sets the
auxiliary field to the identity (R258) is not said, and the permutation stays. (DESIGN CHOICE, log 72) -/
def tsetStep (td a b : Nat) : TileStep := fun cx t s =>
  let w := t.g b
  let kd := (w.extractLsb' 0 7).toNat
  if !tauOk (t.g a) || decide (64 < kd) then (s, some (tileFault 0x07 td))
  else
    (s.setTeam cx.team fun m => m.putTile td { (m.tile td) with
      tolSet := true, tau := if t.g a = 0x80000000 then 0 else t.g a, kdense := kd,
      absMode := w.getLsbD 8, denseOnCap := w.getLsbD 9 }, none)

/-- TSET (R238). -/
def execTset (e : Bool) (d a b : BitVec 7) (s : State) : Out :=
  word (.tset e d a b) (tileAct [d.toNat] freeUnit (tsetStep d.toNat a.toNat b.toNat)) s

/-- The entry word at issue (R220, R239). Of a FILLING entry it shows the fields of the former tile, whose word is
given, or those of the tile that is being written, as a free value decides. (DESIGN CHOICE, log 73) -/
def Tile.infoWord (t : Tile) (was : Word) (base : Nat) : Word :=
  if t.st = .filling then
    ((if (Config.freeWord base).getLsbD 0 then was else t.word) &&& 0x7FFFFFFC) |||
      (if t.tolSet then 0x80000001 else 1)
  else t.word

/-- The word that an entry had before the operation that writes it now. -/
def State.wordBefore (s : State) (team h : Nat) : Word :=
  ((s.ops.find? fun o => o.team == team && !o.finished && o.td == some h).map (·.was)).getD 0

/-- TINFO in one thread (R239, R382). (DEDUCED, log 35) -/
def tinfoEff (d a : Nat) (cx : Cx) (t : Thread) (s : State) : State :=
  let x := (s.team cx.team).tile a
  (s.pendResult cx t.uid .ld (gDests d (x.infoWord (s.wordBefore cx.team a) s.fresh)) id).tick

/-- TINFO (R239): it issues whatever the state of the tile. -/
def execTinfo (e : Bool) (d a : BitVec 7) (s : State) : Out :=
  word (.tinfo e d a) (eachLane fun cx t s => .ok (tinfoEff d.toNat a.toNat cx t s)) s

/-- The element of an expansion at a row and column, and the poisoned elements that reading it meets
(R219, R240, R382). -/
def Tile.element (x : Tile) (i j : Nat) : Val × Bool :=
  match x.kind with
  | .z => (.zero false, false)
  | .d => (elemVal x.fmt (x.loc == .acc) (elemOf x.rows i j), x.poison.contains (128 * i + j))
  | .l =>
    let b := lowExpand x.fmt [x.u.getD i []] [x.v.getD j []]
    (elemVal x.fmt false (elemEnc x.fmt false false ((psOf x.fmt).dec (elemOf b 0 0))),
      x.poison.any fun p => p / 64 == i || p / 64 == 128 + j)

/-- The element that TGET reads, and the fault due where its result is awaited (R240). (DEDUCED, log 35) -/
def State.tileElement (s : State) (cx : Cx) (t : Thread) (a i j : Nat) :
    Except FaultInfo (Val × Option FaultInfo) :=
  let x := (s.team cx.team).tile a
  match x.bind with
  | none =>
    let r := x.element i j
    .ok (r.1, if r.2 then some ⟨0x0C, 1, 0, some a⟩ else none)
  | some b =>
    match b.1.box b.2 with
    | none => .error (tileFault 0x05 a)
    | some bx =>
      match s.readBox t { bx with row0 := bx.row0 + i, col0 := bx.col0 + j, m := 1, n := 1 } (some a) with
      | .error f => .error f
      | .ok r => .ok (elemVal x.fmt false (elemOf r.mat 0 0), r.bad)

/-- What reading an element of a GLOBAL view needs from another device, by its element word (R240, R380). -/
def elementFar (a : Nat) (w : Word) : Far := fun cx s t =>
  match ((s.team cx.team).tile a).bind with
  | none => []
  | some b =>
    match b.1.box b.2 with
    | none => []
    | some bx =>
      s.boxGrans t { bx with
        row0 := bx.row0 + (w.extractLsb' 0 7).toNat, col0 := bx.col0 + (w.extractLsb' 8 7).toNat, m := 1, n := 1 }

/-- TGET in one thread (R240): f is 0 .f32, 1 .f64. -/
def tgetStep (d a b f : Nat) : TileStep := fun cx t s =>
  let x := (s.team cx.team).tile a
  let i := ((t.g b).extractLsb' 0 7).toNat
  let j := ((t.g b).extractLsb' 8 7).toNat
  match tileChecks [(x.st == .empty, 1, a), (decide (x.m ≤ i) || decide (x.n ≤ j), 5, a)] with
  | .error e => (s, some e)
  | .ok _ =>
    match s.tileElement cx t a i j with
    | .error e => (s, some e)
    | .ok r =>
      let bits := (roundTo (if f = 1 then .fp64 else .fp32) 0 false false r.1).1
      let ds := if f = 1 then wDests d (BitVec.ofNat 64 bits) else gDests d (BitVec.ofNat 32 bits)
      ((match r.2 with
        | none => s.pendResult cx t.uid .ld ds id
        | some e => s.pendResult cx t.uid .ld [] fun p => { p with fault := some e }).tick, none)

/-- TGET (R240). -/
def execTget (e : Bool) (d a b : BitVec 7) (f : BitVec 2) (s : State) : Out :=
  wordTile (.tget e d a b f) [a.toNat] (fun cx s t => elementFar a.toNat (t.g b.toNat) cx s t)
    freeUnit (tgetStep d.toNat a.toNat b.toNat f.toNat) s

/-- TNORM in one thread (R241, R382). (DEDUCED, log 35) -/
def tnormStep (d a f : Nat) : TileStep := fun cx t s =>
  let x := (s.team cx.team).tile a
  if x.st = .empty then (s, some (tileFault 1 a))
  else
    match s.operand cx t a (some a) with
    | .error e => (s, some e)
    | .ok (_, some e) => (s, some e)
    | .ok (y, none) =>
      let b := frobenius (if f = 1 then .fp64 else .fp32) y.vals
      ({ (s.setThread t.uid fun x =>
          if f = 1 then x.setW d (BitVec.ofNat 64 b) else x.setG d (BitVec.ofNat 32 b)) with
        fresh := s.fresh + 131072 }, none)

/-- TNORM (R241): f is 0 .f32, 1 .f64. -/
def execTnorm (e : Bool) (d a : BitVec 7) (f : BitVec 2) (s : State) : Out :=
  wordTile (.tnorm e d a f) [a.toNat] (viewFar [a.toNat]) freeUnit (tnormStep d.toNat a.toNat f.toNat) s

/-! ### TMOVA, TMOVR (R242) -/

/-- The shape of a row move: row, rows, group width, registers per element, first register. -/
structure RowMove where
  row0 : Nat
  rows : Nat
  w : Nat
  e : Nat
  d : Nat

/-- The shape that a row word and a tile give (R242). -/
def rowMove (word : Word) (w d : Nat) (x : Tile) : RowMove :=
  ⟨(word.extractLsb' 0 7).toNat, (word.extractLsb' 8 7).toNat + 1, w, if x.fmt = 0 then 2 else 1, d⟩

/-- Columns per thread. -/
def RowMove.per (r : RowMove) : Nat := 128 / r.w

/-- The last register of the range. -/
def RowMove.last (r : RowMove) : Nat := r.d + r.e * r.rows * r.per - 1

/-- The elements of a thread at a position, each with its first register: row, column, register (R242). -/
def RowMove.cells (r : RowMove) (k : Nat) : List (Nat × Nat × Nat) :=
  (List.range r.rows).flatMap fun i => (List.range r.per).map fun j =>
    (r.row0 + i, k + j * r.w, r.d + r.e * (i * r.per + j))

/-- The checks of TMOVA and TMOVR (R231, R242). -/
def rowChecks (x : Tile) (r : RowMove) (budget h : Nat) : Except FaultInfo Unit :=
  tileChecks [(x.st == .empty, 1, h), (x.loc != .acc || x.kind != .d, 4, h),
    (decide (x.m < r.row0 + r.rows), 5, h),
    (decide (119 < r.last) || decide (budget < r.last) || (r.e == 2 && r.d % 2 == 1), 8, h)]

/-- The destinations of an element in registers. -/
def cellDests (e n v : Nat) : List (Dest × Word) :=
  if e = 2 then wDests (n / 2) (BitVec.ofNat 64 v) else gDests n (BitVec.ofNat 32 v)

/-- Split off the live threads whose row word's register is poisoned, up to the first that can supply it
(R116, R242). -/
def rowLeader (b : Nat) : List Thread → List (Nat × FaultInfo) × List Thread
  | [] => ([], [])
  | t :: r =>
    if b != 0 && t.poison.contains b then
      let x := rowLeader b r
      ((t.uid, poisonFault b) :: x.1, x.2)
    else ([], t :: r)

/-- TMOVA's rows into registers: the operation, and a result for each live thread (R242). (DEDUCED, log 37) -/
def tmovaRun (h : Nat) (r : RowMove) (x : Tile) (cx : Cx) (ts : List Thread) (s : State) : State :=
  let id := s.nextOp
  let bad := x.poison.any fun p => decide (r.row0 ≤ p / 128) && decide (p / 128 < r.row0 + r.rows)
  let s1 := (s.startJob cx (ts.headD default) { reads := [h] }).1
  ts.foldl (fun s t =>
    let ds := (r.cells (s.position t)).flatMap fun c =>
      cellDests r.e c.2.2 (if c.2.1 < x.n then elemOf x.rows c.1 c.2.1 else 0)
    (s.lastRelease (cx.of t) t.uid).pendResult cx t.uid .tm (if bad then [] else ds) fun p =>
      { p with kind := .tileOp id, fault := if bad then some ⟨0x0C, 1, 0, some h⟩ else none }) s1

/-- TMOVA (R242): one operation for the issue set. A check of the one operation that fails faults every live thread of
the issue set. (DESIGN CHOICE, log 81) -/
def execTmova (e : Bool) (d a b : BitVec 7) (s : State) : Out :=
  word (.tmova e d a b) (fun cx ts s =>
    if s.tileBusy cx.team a.toNat || ts.any Thread.acquiring then none
    else
      let l := rowLeader b.toNat ts
      match l.2 with
      | [] => some (s, l.1)
      | t :: _ =>
        let x := (s.team cx.team).tile a.toNat
        let r := rowMove (t.g b.toNat) (s.group cx.gid).width d.toNat x
        match rowChecks x r ((s.launchOf t).regBudget t.role) a.toNat with
        | .error f => some (s, l.1 ++ l.2.map fun t => (t.uid, f))
        | .ok _ => some (tmovaRun a.toNat r x cx l.2 s, l.1)) s

/-- The value of an element in a thread's registers. -/
def Thread.cell (t : Thread) (e n : Nat) : Nat := if e = 2 then (t.w (n / 2)).toNat else (t.g n).toNat

/-- The lowest poisoned register of a range in a thread. -/
def Thread.poisonIn (t : Thread) (lo hi : Nat) : Option Nat :=
  (t.poison.filter fun n => n != 0 && decide (lo ≤ n) && decide (n ≤ hi)).min?

/-- TMOVR's registers into rows: only elements that some live thread holds change (R242). (DEDUCED, log 37) -/
def tmovrRun (h : Nat) (r : RowMove) (x : Tile) (cx : Cx) (ts : List Thread) (s : State) : State :=
  let id := s.nextOp
  let writes := ts.flatMap fun t =>
    (((r.cells (s.position t)).filter fun c => c.2.1 < x.n).map fun c =>
      ((c.1, c.2.1), t.cell r.e c.2.2))
  let rows := matOf x.m x.n fun i j =>
    ((writes.find? (·.1 == (i, j))).map (·.2)).getD (elemOf x.rows i j)
  let y := { x with
    rows := rows, perm := []
    poison := x.poison.filter fun p => !writes.any fun w => w.1 == (p / 128, p % 128) }
  let s1 := (s.startJob cx (ts.headD default) { td := some h, result := y, inPlace := true }).1
  ts.foldl (fun s t =>
    let s2 := if (cx.of t).m.getLsbD 12 then
        s.setThread t.uid fun z => z.lastRelease ((List.range (r.last + 1)).filter (r.d ≤ ·))
      else s
    (s2.lastRelease (cx.of t) t.uid).pendResult cx t.uid .tm [] fun p => { p with kind := .tileOp id }) s1

/-- TMOVR (R242): one operation for the issue set. A check of the one operation that fails faults every live thread of
the issue set. (DESIGN CHOICE, log 81) -/
def execTmovr (e : Bool) (d a b : BitVec 7) (s : State) : Out :=
  word (.tmovr e d a b) (fun cx ts s =>
    if s.tileBusy cx.team a.toNat || ts.any Thread.acquiring then none
    else
      let l := rowLeader b.toNat ts
      match l.2 with
      | [] => some (s, l.1)
      | t :: _ =>
        let x := (s.team cx.team).tile a.toNat
        let r := rowMove (t.g b.toNat) (s.group cx.gid).width d.toNat x
        match rowChecks x r ((s.launchOf t).regBudget t.role) a.toNat with
        | .error f => some (s, l.1 ++ l.2.map fun t => (t.uid, f))
        | .ok _ =>
          let bad := l.2.filterMap fun t => (t.poisonIn r.d r.last).map fun n => (t.uid, poisonFault n)
          let ok := l.2.filter fun t => (t.poisonIn r.d r.last).isNone
          some (if ok.isEmpty then s else tmovrRun a.toNat r x cx ok s, l.1 ++ bad)) s

/-! ### TWAIT and completion (R221, R227, R243 to R245) -/

/-- The handles that TWAIT names (R243): all of the window for f = 3. -/
def twaitNames (d a b f : Nat) (o : TileOp) : Bool :=
  let hs := [d, a, b].take (f + 1)
  f == 3 || hs.any fun h => o.td == some h || o.reads.contains h

/-- TWAIT (R243): the group parks at the end of its run until the operations named have completed. -/
def execTwait (e : Bool) (d a b : BitVec 7) (f : BitVec 2) (s : State) : Out :=
  word (.twait e d a b f) (whole fun cx ts s =>
    let us := ts.map (·.uid)
    let ids := (s.ops.filter fun o => o.team == cx.team && twaitNames d.toNat a.toNat b.toNat f.toNat o &&
      (!o.finished || us.contains o.uid)).map (·.id)
    if us.isEmpty || ids.isEmpty then s else s.addWait cx.gid (.tiles ids us cx.pc)) s

/-- The bands that a largest K uses (R264). -/
def bandSet (k : Nat) : BitVec 4 := if k ≤ 32 then 1 else if k ≤ 64 then 3 else if k ≤ 96 then 7 else 15

/-- A number that no thread has, for the stores of a tile operation to other devices. -/
def tileUid (op : Nat) : Nat := 2 ^ 70 + op

/-- Whether an operation may complete: started, its team on its cores, its stores to other devices performed (R189), its
bands powered (R413), and no earlier operation in flight on one of its tiles (R222). -/
def State.canComplete (s : State) (o : TileOp) : Bool :=
  o.started && (s.team o.team).onCore && !o.finished && !s.remoteStores (tileUid o.id) &&
    !(o.unit == .array && ((s.core o.core).gated &&& bandSet o.kMax) != 0) &&
    !(s.ops.any fun p => p.team == o.team && !p.finished && decide (p.id < o.id) &&
      ((o.td.toList ++ o.reads).any fun h => p.td == some h || p.reads.contains h))

/-- Write masked bytes at the L2 of a core's die, its own copies of the lines dropped first (R244). -/
def State.maskedStore (s : State) (core : Nat) (l : List (Nat × Byte × Byte)) : State :=
  if l.isEmpty then s
  else
    let lines := (l.map fun c => lineOf c.1).dedup
    let s1 := lines.foldl (fun s x => s.evict core x) s
    s1.l2Masked (s1.core core).die l (some core)

/-- The entries that no operation in flight names any more become READY (R221). -/
def State.settleTiles (s : State) (team : Nat) (hs : List Nat) : State :=
  let free := hs.filter fun h => !s.tileBusy team h
  s.setTeam team fun m => { m with
    tiles := m.tiles.map fun t =>
      if free.contains t.1 && t.2.st != .empty then (t.1, { t.2 with st := .ready }) else t }

/-- Send a store of a tile operation to another device (R380). -/
def State.tileSend (s : State) (op : Nat) (r : Nat × Nat × Nat × RemoteOp) : State :=
  s.remotePut (tileUid op) r.1 r.2.1 0 r.2.2.2

/-- The fault of an operation whose stores are for a device that cannot be reached, due at its TWAIT (R380). -/
def State.lostTile (s : State) (o : TileOp) : Option FaultInfo :=
  (o.rstores.find? fun r => !s.reachable r.1).map fun r => accessFault 0x23 (BitVec.ofNat 64 r.2.2.1)

/-- The writes of an operation are made (R234, R244): at the L2 here, and sent to other devices. -/
def State.storeOp (s : State) (o : TileOp) : State :=
  let s1 := s.maskedStore (s.thread o.uid).core o.stores
  let s2 := o.marks.foldl (fun s m => s.markCmp (.phys m.1) m.2) s1
  o.rstores.foldl (fun s r => s.tileSend o.id r) s2

/-- A completion sets bits of a thread's %tstat (R31). -/
def Thread.setTstat (t : Thread) (now : Nat) (v : Word) : Thread :=
  { t with tstat := t.tstat ||| v, tset := (now, if t.tset.1 = now then t.tset.2 ||| v else v) }

/-- An operation has completed: its bits are set and its registers' values known, its tiles are free, and a fault due is kept
for the TWAIT that awaits it (R221, R227, R242 to R245). -/
def State.endOp (s : State) (o : TileOp) : State :=
  let s1 := { s with
    ops := if o.poison.isSome then s.ops.map fun (p : TileOp) => if p.id = o.id then { p with finished := true } else p
      else s.ops.filter fun (p : TileOp) => p.id != o.id }
  let s2 := if s1.threads.any fun t => t.uid == o.uid && t.live
    then s1.setThread o.uid fun t => t.setTstat s.now o.tbits else s1
  let s3 := s2.settleTiles o.team (o.td.toList ++ o.reads)
  s3.setThreads ((s3.teamThreads o.team).map (·.uid)) fun t => { t with
    pend := t.pend.map fun p => if p.kind == .tileOp o.id then { p with kind := .ready } else p }

/-- An operation completes once its stores to other devices, which it first sends, are performed (R189, R221). -/
def State.completeOp (s : State) (o : TileOp) : State :=
  if o.rstores.isEmpty then (s.storeOp o).endOp o
  else
    let s1 := s.storeOp o
    { s1 with ops := s1.ops.map fun (p : TileOp) =>
        if p.id = o.id then { p with stores := [], marks := [], rstores := [], poison := p.poison.or (s.lostTile o) } else p }

/-- Whether an operation is over with a fault due that no thread awaits any more (R245, R382). -/
def State.unawaited (s : State) (o : TileOp) : Bool :=
  o.finished && !s.threads.any fun t => t.uid == o.uid && t.live

/-- Whether an operation is over and has met poison. -/
def TileOp.metPoison (o : TileOp) : Bool := o.finished && o.poison.any (·.code == 0x0C)

/-- The operations that a test picks go; those that met poison, which nothing awaits any more, are counted (R245, R382,
R384). -/
def State.dropOps (s : State) (gone : TileOp → Bool) : State :=
  ({ s with ops := s.ops.filter fun (o : TileOp) => !gone o }).rasAdd 0x0C
    (s.ops.filter fun o => gone o && o.metPoison).length

/-- Tile reads that met poison and that no thread awaits are counted (R245, R382, R384). -/
def State.sweepTiles (s : State) : State :=
  let lost := s.threads.filter fun t => !t.live && !t.pend.isEmpty
  let n := (lost.map fun t => (t.pend.filter Pending.tileError).length).sum
  let s1 := if lost.isEmpty then s else s.setThreads (lost.map (·.uid)) fun t => { t with pend := [] }
  (s1.dropOps s.unawaited).rasAdd 0x0C n

/-- TILE_OPERATION_COMPLETE (R221). -/
def execTileOperationComplete (op : Nat) (s : State) : Out :=
  match s.ops.find? (·.id == op) with
  | none => .next s
  | some o => if s.canComplete o then .next (s.completeOp o) else .next s

end Sys2Proof.Machine
end

