-- ==== Sys2Proof/Machine/TileArith.lean ====
section
/-! DEFINITION. Tile arithmetic (R247 to R257) and power-phase announcements (R262, R263). -/

namespace Sys2Proof.Machine

/-! ### Operand views -/

/-- op(X) after transposition, as exact values (R247, R249). -/
inductive View where
  | z
  | d (rows : VMat)
  | l (u v : VMat) (k : Nat)
  deriving Repr

/-- The view of an operand; transposition exchanges rows and columns, or factors. -/
def Tile.view (x : Tile) (tr : Bool) : View :=
  match x.kind with
  | .z => .z
  | .d =>
    let r := matVals x.fmt (x.loc == .acc) x.rows
    .d (if tr then matT x.n r else r)
  | .l =>
    let u := matVals x.fmt false x.u
    let v := matVals x.fmt false x.v
    if tr then .l v u x.rank else .l u v x.rank

/-- The accumulator format of a pair of operand formats (R248). -/
def accFormat (fa fb : Nat) (low : Bool) : Option Nat :=
  let r := if fmtInt fa && fmtInt fb then some 7
    else if fa = 0 && fb == 0 then some 0
    else if fmtInt fa || fmtInt fb || fa == 0 || fb == 0 then none
    else some 1
  if low && !(fa == fb && fmtLow fa) then none else r

/-- The class of a format (R264). -/
def fmtClass (f : Nat) : Nat :=
  if f = 0 then 3 else if f = 1 then 5 else if f = 2 || f = 3 then 8
  else if f = 6 || f = 8 then 14 else 11

/-- The product of R249: its kind with its factors or rows, and the largest K of its passes. A dense product
is kept as its operands. -/
inductive Product where
  | z
  | dense (x yt : VMat)
  | low (u v : Mat) (k : Nat)

/-- Negate an encoding of a float format code exactly (R249); a NaN is the canonical one (R123). -/
def negBits (f b : Nat) : Nat :=
  let w := fmtBits f
  if ((Fmt.ofCode f).dec b).isNan then (Fmt.ofCode f).nanBits
  else if b / 2 ^ (w - 1) % 2 = 1 then b - 2 ^ (w - 1) else b + 2 ^ (w - 1)

/-- The encodings of values that stand in a format code already. -/
def backBits (f : Nat) (x : VMat) : Mat := matEnc f false false x

/-- The columns of a matrix as rows. -/
def colsOf (k : Nat) (x : VMat) : VMat := matT k x

/-- P = op(A)·op(B) in format `f` for low-rank products (R249): the product and the largest K. `m`, `kk` and
`n` are the extents. -/
def productOf (f kk n : Nat) (a b : View) : Product × Nat :=
  match a, b with
  | .z, _ => (.z, 0)
  | _, .z => (.z, 0)
  | .d x, .d y => (.dense x (matT n y), kk)
  | .l ua va ka, .d y => (.low (backBits f ua) (arrayProd f (matT n y) (colsOf ka va)) ka, kk)
  | .d x, .l ub vb kb => (.low (arrayProd f x (colsOf kb ub)) (backBits f vb) kb, kk)
  | .l ua va ka, .l ub vb kb =>
    let core := arrayProd f (colsOf ka va) (colsOf kb ub)
    let cv := matVals f false core
    if ka ≤ kb then (.low (backBits f ua) (arrayProd f vb cv) ka, max kk kb)
    else (.low (arrayProd f ua (matT kb cv)) (backBits f vb) kb, max kk ka)

/-- Join the columns of two factors (R250, R254). -/
def joinCols (x y : Mat) : Mat := (x.zip y).map fun r => r.1 ++ r.2

/-- The expansion of C in the accumulator format: R140 with K = kc and C = +0, not rounded to C's own
format (R250). -/
def densify (c : Tile) (facc : Nat) : VMat :=
  (arrayMat (psOf facc) (matVals c.fmt false c.u) (matVals c.fmt false c.v) zeroC false).map fun r =>
    r.map (psOf facc).dec

/-- C + P for a dense product or C + U·Vᵀ for a low-rank one, in ACC (R140, R143, R250). An integer product into an L
tile takes the tile's FP32 expansion rounded RNE to 32-bit integers, saturated, and 0 for a NaN, as a conversion does
(R237): the specification does not say how. (DESIGN CHOICE, log 72) -/
def addDense (facc : Nat) (c : Option VMat) (x yt : VMat) (neg : Bool) : Mat :=
  let cf := fun i j => match c with
    | none => Val.zero false
    | some m => elemOf m i j
  if facc = 7 then intMat x yt cf neg else arrayMat (psOf facc) x yt cf neg

/-- What TMMA makes of C and the product (R250, R251): the tile, whether it is written in place, whether it
was densified, and the largest K of the passes. -/
structure MmaRes where
  tile : Tile
  inPlace : Bool
  rdens : Bool
  kMax : Nat

/-- The low-rank encodings with NEG applied to U (R249). -/
def negU (neg : Bool) (f : Nat) (u : Mat) : Mat :=
  if neg then u.map fun r => r.map (negBits f) else u

/-- Combine a product with C (R250): `fl` is the format of a low-rank product. -/
def combine (c : Tile) (p : Product) (kp : Nat) (f facc m n : Nat) (neg : Bool) : Option MmaRes :=
  let cz := c.st == .empty || c.kind == .z
  let acc := fun rows => Tile.mkD facc .acc m n rows
  match p with
  | .z => none
  | .dense x yt =>
    if cz then some ⟨acc (addDense facc none x yt neg), false, false, kp⟩
    else match c.kind with
      | .l => some ⟨acc (addDense facc (some (densify c facc)) x yt neg), false, true, max kp c.rank⟩
      | _ => some ⟨acc (addDense facc (some c.exact) x yt neg), true, false, kp⟩
  | .low u v k =>
    let nu := negU neg f u
    let uv := matVals f false nu
    let vv := matVals f false v
    if cz then some ⟨Tile.mkL f m n k nu v, false, false, kp⟩
    else match c.kind with
      | .l =>
        if c.rank + k ≤ 64 then
          some ⟨Tile.mkL f m n (c.rank + k) (joinCols c.u nu) (joinCols c.v v), false, false, kp⟩
        else some ⟨acc (addDense facc (some (densify c facc)) uv vv false), false, true,
          max kp (max k c.rank)⟩
      | _ => some ⟨acc (addDense facc (some c.exact) uv vv false), true, false, max kp k⟩

/-- The array accepts up to 8 operations of a core, of the teams on it (R414). -/
def State.arrayFull (s : State) (core : Nat) : Bool :=
  8 ≤ (s.ops.filter fun o => o.core == core && o.unit == .array && !o.finished && (s.team o.team).onCore).length

/-- A job for the array that may be a burst (R264). -/
def arrayJob (td : Nat) (r : MmaRes) (reads : List Nat) (m cls : Nat) (poison : Option FaultInfo) : TJob :=
  { td := some td, result := r.tile, reads := reads, need := r.tile.need,
    sets := true, tbits := if r.rdens then RDENS else 0, poison := poison, unit := .array, rowsM := m, kMax := r.kMax,
    cls := cls, burst := true, inPlace := r.inPlace }

/-- The checks of TMMA that its word, its registers and the entries decide (R231, R247, R248). (DEDUCED, log 39) -/
def mmaChecks (c a b : Tile) (td ta tb : Nat) (fa fb : Bool) : Except FaultInfo Unit :=
  let low := a.kind == .l || b.kind == .l
  let facc := accFormat a.fmt b.fmt low
  let cz := c.st == .empty || c.kind == .z
  let am := if fa then a.n else a.m
  let ak := if fa then a.m else a.n
  let bk := if fb then b.n else b.m
  let bn := if fb then b.m else b.n
  let cfmt := match facc with
    | none => true
    | some g =>
      if c.kind = .d then c.fmt == g
      else if low then c.fmt == a.fmt
      else if g = 0 then c.fmt == 0 else c.fmt == 1 || c.fmt == 3
  tileChecks [(a.st == .empty, 1, ta), (b.st == .empty, 1, tb),
    (facc.isNone, 3, ta), (!cz && !cfmt, 3, td),
    (a.kind == .d && a.loc != .pool && a.loc != .global, 4, ta),
    (b.kind == .d && b.loc != .bonnet && b.loc != .global, 4, tb),
    (!cz && c.kind == .d && c.loc != .acc, 4, td),
    (ak != bk, 5, tb), (c.st != .empty && (c.m != am || c.n != bn), 5, td)]

/-- The fault due of several operands, the first of them. -/
def firstDue (a b : Option FaultInfo) : Option FaultInfo := if a.isSome then a else b

/-- The fault due of the contents of C (R382). -/
def Tile.due (x : Tile) (h : Nat) : Option FaultInfo :=
  if x.poison.isEmpty then none else some ⟨0x0C, 1, 0, some h⟩

/-- A TMMA whose product is Z completes at issue (R250). -/
def State.zeroProduct (s : State) (cx : Cx) (td f m n : Nat) : State :=
  let c := (s.team cx.team).tile td
  if c.st = .empty || c.kind == .z then s.putTileNow cx.team td (Tile.mkZ f m n) else s

/-- TMMA in one thread (R247 to R251). -/
def tmmaStep (td ta tb : Nat) (fa fb : Bool) : TileStep := fun cx t s =>
  let tile := (s.team cx.team).tile
  let c := tile td
  let neg := cx.m.getLsbD 18
  match mmaChecks c (tile ta) (tile tb) td ta tb fa fb with
  | .error e => (s, some e)
  | .ok _ =>
    let low := (tile ta).kind == .l || (tile tb).kind == .l
    let facc := (accFormat (tile ta).fmt (tile tb).fmt low).getD 1
    let m := if fa then (tile ta).n else (tile ta).m
    let kk := if fa then (tile ta).m else (tile ta).n
    let n := if fb then (tile tb).m else (tile tb).n
    let f := (tile ta).fmt
    if (tile ta).kind = .z || (tile tb).kind = .z then
      (s.zeroProduct cx td (if low then f else facc) m n, none)
    else
      match s.operand cx t ta (some td), s.operand cx t tb (some td) with
      | .error e, _ => (s, some e)
      | _, .error e => (s, some e)
      | .ok a, .ok b =>
        let p := productOf f kk n (a.1.view fa) (b.1.view fb)
        match combine c p.1 p.2 f facc m n neg with
        | none => (s, none)
        | some r => s.startJob cx t (arrayJob td r [ta, tb] m (max (fmtClass a.1.fmt) (fmtClass b.1.fmt))
            (firstDue (firstDue a.2 b.2) (c.due td)))

/-- Whether a TMMA waits for the array: a product that is Z makes no array pass (R250, R414). -/
def mmaFull (td ta tb : Nat) (cx : Cx) (s : State) : Bool :=
  ((s.team cx.team).tile ta).kind != .z && ((s.team cx.team).tile tb).kind != .z &&
    s.arrayFull ((s.team cx.team).homeCore td)

/-- TMMA (R247 to R251): f holds TA in bit 0 and TB in bit 1. -/
def execTmma (e : Bool) (d a b : BitVec 7) (f : BitVec 2) (s : State) : Out :=
  wordTile (.tmma e d a b f) [d.toNat, a.toNat, b.toNat] (viewFar [a.toNat, b.toNat])
    (mmaFull d.toNat a.toNat b.toNat) (tmmaStep d.toNat a.toNat b.toNat (f.getLsbD 0) (f.getLsbD 1)) s

/-! ### TMMAS (R142, R252, R253) -/

/-- The formats of TMMAS operands: E4M3, E5M2, E2M1. -/
def fmtNarrow (f : Nat) : Bool := f == 4 || f == 5 || f == 6

/-- The scale addresses of the elements of a box, in row-major order (R253). -/
def Box.scales (b : Box) : List Nat :=
  b.elems.map fun x =>
    (b.lay.scaleBase.toNat + ((b.addr x.1 x.2 + 2 ^ 64 - b.lay.base.toNat) % 2 ^ 64) / 2 ^ b.lay.scaleShift) %
      2 ^ 64

/-- The scale bytes of a box (R253), read as operands are, with the fault due where they are awaited. -/
def State.readScales (s : State) (t : Thread) (b : Box) (td : Nat) : Except FaultInfo (Mat × Option FaultInfo) :=
  match s.spots t .read b.scales with
  | .error f => .error f
  | .ok l =>
    .ok (matOf b.m b.n fun i j => s.elemBits t 4 0 (l.getD (i * b.n + j) default).place,
      l.findSome? (s.badSpot (s.core t.core).die t.uid 1 (some td)))

/-- Whether an operand of TMMAS is a GLOBAL view of a scaled narrow tensor: the record's SCALED flag and the
first column (R252). -/
def scaledView (x : Tile) : Option (LayoutRec × Box) :=
  match x.bind with
  | none => none
  | some b => (b.1.box b.2).map fun bx => (b.1, bx)

/-- What the scales of the operands of a TMMAS need from other devices (R253, R380). -/
def scaleFar (hs : List Nat) : Far := fun cx s t =>
  hs.flatMap fun h =>
    match scaledView ((s.team cx.team).tile h) with
    | none => []
    | some v =>
      match s.spots t .read v.2.scales with
      | .ok l => spotGrans 1 l
      | .error _ => []

/-- The checks of TMMAS (R252). (DEDUCED, log 39) -/
def mmasChecks (c a b : Tile) (td ta tb : Nat) : Except FaultInfo Unit :=
  let cz := c.st == .empty || c.kind == .z
  let lay := fun x => (scaledView x).map (·.1.flags)
  let col := fun x => ((scaledView x).map (·.2.col0)).getD 0
  tileChecks [(a.st == .empty, 1, ta), (b.st == .empty, 1, tb),
    (a.kind != .d, 2, ta), (b.kind != .d, 2, tb),
    (!fmtNarrow a.fmt, 3, ta), (!fmtNarrow b.fmt, 3, tb),
    (!cz && (if c.kind = .d then c.fmt != 1 else c.fmt != 1 && c.fmt != 3), 3, td),
    (a.loc != .global, 4, ta), (b.loc != .global, 4, tb),
    (!cz && c.kind == .d && c.loc != .acc, 4, td),
    (col a % 32 != 0, 5, ta), (col b % 32 != 0, 5, tb), (a.n != b.n, 5, tb),
    (c.st != .empty && (c.m != a.m || c.n != b.m), 5, td),
    ((lay a).getD 0 % 2 == 0, 6, ta), ((lay b).getD 0 % 2 == 0, 6, tb)]

/-- A scaled operand: its elements with their scales, row by row, and the fault due. -/
def State.scaledOperand (s : State) (cx : Cx) (t : Thread) (h td : Nat) :
    Except FaultInfo (List (List (Val × Nat)) × Option FaultInfo) := do
  let x ← s.operand cx t h (some td)
  match scaledView x.1 with
  | none => .error (tileFault 0x06 h)
  | some v =>
    let sc ← s.readScales t v.2 td
    .ok ((matVals x.1.fmt false x.1.rows).zipIdx.map fun r =>
        r.1.zipIdx.map fun y => (y.1, elemOf sc.1 r.2 y.2), firstDue x.2 sc.2)

/-- TMMAS in one thread (R142, R252). -/
def tmmasStep (td ta tb : Nat) : TileStep := fun cx t s =>
  let tile := (s.team cx.team).tile
  let c := tile td
  let neg := cx.m.getLsbD 18
  match mmasChecks c (tile ta) (tile tb) td ta tb with
  | .error e => (s, some e)
  | .ok _ =>
    match s.scaledOperand cx t ta td, s.scaledOperand cx t tb td with
    | .error e, _ => (s, some e)
    | _, .error e => (s, some e)
    | .ok a, .ok b =>
      let cv : Option VMat := if c.st = .empty || c.kind == .z then none
        else if c.kind = .l then some (densify c 1) else some c.exact
      let cf := fun i j => match cv with
        | none => Val.zero false
        | some m => elemOf m i j
      let rows := a.1.zipIdx.map fun r => b.1.zipIdx.map fun k =>
        arrayAdd .fp32 (cf r.2 k.2) neg (scaledDot r.1 k.1)
      let r : MmaRes := ⟨Tile.mkD 1 .acc (tile ta).m (tile tb).m rows, c.st != .empty && c.kind == .d,
        c.st != .empty && c.kind == .l, max (tile ta).n (if c.kind = .l then c.rank else 0)⟩
      s.startJob cx t (arrayJob td r [ta, tb] (tile ta).m
        (max (fmtClass (tile ta).fmt) (fmtClass (tile tb).fmt) + 1)
        (firstDue (firstDue a.2 b.2) (c.due td)))

/-- TMMAS (R252). -/
def execTmmas (e : Bool) (d a b : BitVec 7) (s : State) : Out :=
  wordTile (.tmmas e d a b) [d.toNat, a.toNat, b.toNat]
    (fun cx s t => viewFar [a.toNat, b.toNat] cx s t ++ scaleFar [a.toNat, b.toNat] cx s t)
    (fun cx s => s.arrayFull ((s.team cx.team).homeCore d.toNat)) (tmmasStep d.toNat a.toNat b.toNat) s

/-! ### TADD, TSCAL, TLRF, TDENSE (R254 to R257) -/

/-- The sum of two tiles (R254): the result and whether a low-rank operand became dense. -/
def addTiles (a b : Tile) : Tile × Bool :=
  let copy := fun (x : Tile) =>
    (copyTile x (if x.kind = .l || x.loc == .global then .pool else x.loc)).1
  if a.kind = .z then (copy b, false)
  else if b.kind = .z then (copy a, false)
  else if a.kind = .l && b.kind == .l && decide (a.rank + b.rank ≤ 64) then
    (Tile.mkL a.fmt a.m a.n (a.rank + b.rank) (joinCols a.u b.u) (joinCols a.v b.v), false)
  else
    let ps := psOf a.fmt
    let rows := (a.exact.zip b.exact).map fun r => (r.1.zip r.2).map fun p =>
      arrayAcc ps (roundTo ps 0 false false p.1).1 (some p.2)
    (Tile.mkD (if a.fmt = 0 then 0 else 1) .acc a.m a.n rows, a.kind == .l || b.kind == .l)

/-- TADD's operation (R254). -/
def taddJob (td ta tb : Nat) (cx : Cx) (t : Thread) (s : State) : Except FaultInfo TJob := do
  let x := (s.team cx.team).tile ta
  let y := (s.team cx.team).tile tb
  tileChecks [(x.st == .empty, 1, ta), (y.st == .empty, 1, tb),
    (x.fmt != y.fmt || !fmtLow x.fmt, 3, tb), (x.m != y.m || x.n != y.n, 5, tb)]
  let a ← s.operand cx t ta (some td)
  let b ← s.operand cx t tb (some td)
  let r := addTiles a.1 b.1
  .ok { td := some td, result := r.1, reads := [ta, tb], need := r.1.need, sets := true,
        tbits := if r.2 then RDENS else 0, poison := firstDue a.2 b.2 }

/-- TADD (R254). -/
def execTadd (e : Bool) (d a b : BitVec 7) (s : State) : Out :=
  wordTile (.tadd e d a b) [d.toNat, a.toNat, b.toNat] (viewFar [a.toNat, b.toNat]) freeUnit (fun cx t s =>
    s.runJob cx t (taddJob d.toNat a.toNat b.toNat cx t s)) s

/-- A tile times a scalar (R255); SAT, which TSCAL accepts, saturates every rounding of it (R125, R246). -/
def scaleTile (x : Tile) (k : Val) (sat : Bool) : Tile :=
  let mul := fun (r : Mat) =>
    (matVals x.fmt false r).map fun l => l.map fun v => elemEnc x.fmt false sat (vmul k v)
  if x.kind = .z || k.isZero then Tile.mkZ x.fmt x.m x.n
  else match x.kind with
    | .l => Tile.mkL x.fmt x.m x.n x.rank (mul x.u) x.v
    | _ => Tile.mkD x.fmt (if x.loc = .global then .pool else x.loc) x.m x.n (mul x.rows)

/-- TSCAL's operation (R255): f is 0 .f32, 1 .f64. -/
def tscalJob (td ta b f : Nat) (cx : Cx) (t : Thread) (s : State) : Except FaultInfo TJob := do
  let x := (s.team cx.team).tile ta
  tileChecks [(x.st == .empty, 1, ta), (fmtInt x.fmt, 3, ta)]
  let y ← s.operand cx t ta (some td)
  let k := if f = 1 then Fmt.fp64.dec (t.w b).toNat else Fmt.fp32.dec (t.g b).toNat
  let r := scaleTile y.1 k cx.sat
  .ok { td := some td, result := r, reads := [ta], need := r.need, poison := y.2 }

/-- TSCAL (R255). -/
def execTscal (e : Bool) (d a b : BitVec 7) (f : BitVec 2) (s : State) : Out :=
  wordTile (.tscal e d a b f) [d.toNat, a.toNat] (viewFar [a.toNat]) freeUnit (fun cx t s =>
    s.runJob cx t (tscalJob d.toNat a.toNat b.toNat f.toNat cx t s)) s

/-- TLRF's operation (R256). -/
def tlrfJob (td ta tb : Nat) (cx : Cx) (t : Thread) (s : State) : Except FaultInfo TJob := do
  let x := (s.team cx.team).tile ta
  let y := (s.team cx.team).tile tb
  tileChecks [(x.st == .empty, 1, ta), (y.st == .empty, 1, tb),
    (x.kind == .l, 2, ta), (y.kind == .l, 2, tb),
    (x.fmt != y.fmt || !fmtLow x.fmt, 3, tb), (x.n != y.n || decide (64 < x.n), 5, tb)]
  let a ← s.operand cx t ta (some td)
  let b ← s.operand cx t tb (some td)
  let r := if x.kind = .z || y.kind == .z then Tile.mkZ x.fmt x.m y.m
    else Tile.mkL x.fmt x.m y.m x.n a.1.rows b.1.rows
  .ok { td := some td, result := r, reads := [ta, tb], need := r.need, poison := firstDue a.2 b.2 }

/-- TLRF (R256). -/
def execTlrf (e : Bool) (d a b : BitVec 7) (s : State) : Out :=
  wordTile (.tlrf e d a b) [d.toNat, a.toNat, b.toNat] (viewFar [a.toNat, b.toNat]) freeUnit (fun cx t s =>
    s.runJob cx t (tlrfJob d.toNat a.toNat b.toNat cx t s)) s

/-- A tile made dense in a location (R257). -/
def denseTile (x : Tile) (loc : TLoc) : Tile :=
  Tile.mkD x.fmt loc x.m x.n (if x.kind = .d then moveRows x loc else x.bits)

/-- TDENSE's operation (R257, R414). (DEDUCED, log 39) -/
def tdenseJob (td ta f : Nat) (cx : Cx) (t : Thread) (s : State) : Except FaultInfo TJob := do
  let x := (s.team cx.team).tile ta
  let loc := x.loc.dest f
  tileChecks [(x.st == .empty, 1, ta), (loc == .acc && !fmtAcc x.fmt, 3, td)]
  let y ← s.operand cx t ta (some td)
  let r := denseTile y.1 loc
  .ok { td := some td, result := r, reads := [ta], need := r.need, poison := y.2,
        unit := if x.kind = .l then .array else .tile, rowsM := x.m, kMax := x.rank,
        cls := fmtClass x.fmt }

/-- TDENSE (R257): f is 0 .pool, 1 .acc, 2 .bon, 3 .same. -/
def execTdense (e : Bool) (d a : BitVec 7) (f : BitVec 2) (s : State) : Out :=
  wordTile (.tdense e d a f) [d.toNat, a.toNat] (viewFar [a.toNat])
    (fun cx s => ((s.team cx.team).tile a.toNat).kind == .l &&
        s.arrayFull ((s.team cx.team).homeCore d.toNat)) (fun cx t s =>
      s.runJob cx t (tdenseJob d.toNat a.toNat f.toNat cx t s)) s

end Sys2Proof.Machine
end

