-- ==== Sys2Proof/Machine/Hem.lean ====
section
/-! DEFINITION. The Hem unit: TRND (R266 to R280), TLU and TTRS (R258 to R260). -/

namespace Sys2Proof.Machine

/-- The core's Hem unit performs one operation at a time (R279, R419). -/
def State.hemBusy (s : State) (cx : Cx) (td : Nat) : Bool :=
  s.ops.any fun o => o.unit == .hem && !o.finished && o.core == (s.team cx.team).homeCore td

/-- %tstat.RCAP. -/
def RCAP : Word := 1

/-- %tstat.ZPIV. -/
def ZPIV : Word := 8

/-! ### TRND -/

/-- Whether a dense result is possible (R269). -/
def Tile.mayDensify (x : Tile) : Bool :=
  decide (x.kdense < x.rank) || (decide (32 < x.rank) && x.denseOnCap)

/-- The storage TRND reserves (R269). -/
def Tile.rndNeed (x : Tile) : Need :=
  if x.mayDensify then (fmtBits x.fmt / 2, 0, 0) else (lowPanels x.fmt x.rank, 0, 0)

/-- The tile of a rank rounding (R275 to R277). -/
def RndRes.tile (r : RndRes) (x : Tile) : Tile :=
  if r.kind = 0 then Tile.mkZ x.fmt x.m x.n
  else if r.kind = 1 then Tile.mkD x.fmt .pool x.m x.n r.u
  else if r.kind = 2 then Tile.mkL x.fmt x.m x.n r.rank r.u r.v
  else Tile.mkL x.fmt x.m x.n x.rank x.u x.v

/-- The operation of TRND on a low-rank tile under a tolerance (R269 to R278). -/
def rndJob (td ta : Nat) (tau : Word) (x : Tile) : TJob :=
  let r := rankRound x.fmt x.m x.n x.rank x.u x.v (Fmt.fp32.dec tau.toNat) x.absMode x.kdense
    x.denseOnCap
  { td := some td, result := r.tile x, reads := [ta], need := x.rndNeed, sets := true,
    tbits := (if r.rdens then RDENS else 0) ||| (if r.rcap then RCAP else 0),
    poison := x.due ta, unit := .hem, rowsM := x.m, kMax := x.rank, cls := fmtClass x.fmt }

/-- The tolerance that TRND uses: the policy's, or the register's under HMOD.TOL, −0 as +0 (R267).
(DEDUCED, log 39) -/
def trndTau (cx : Cx) (t : Thread) (b : Nat) (x : Tile) : Word :=
  if cx.m.getLsbD 16 then (if t.g b = 0x80000000 then 0 else t.g b) else x.tau

/-- TRND's operation in one thread (R266 to R269). (DEDUCED, log 39) -/
def trndJob (td ta b : Nat) (cx : Cx) (t : Thread) (s : State) : Except FaultInfo TJob := do
  let x := (s.team cx.team).tile ta
  tileChecks [(x.st == .empty, 1, ta), (cx.m.getLsbD 16 && !tauOk (t.g b), 7, td)]
  if x.kind = .l then .ok (rndJob td ta (trndTau cx t b x) x)
  else moveJob td ta 3 x.fmt copyTile cx t s

/-- TRND (R266). -/
def execTrnd (e : Bool) (d a b : BitVec 7) (s : State) : Out :=
  wordTile (.trnd e d a b) [d.toNat, a.toNat] (viewFar [a.toNat])
    (fun cx s => ((s.team cx.team).tile a.toNat).kind == .l && s.hemBusy cx d.toNat) (fun cx t s => s.runJob cx t (trndJob d.toNat a.toNat b.toNat cx t s)) s

/-! ### TLU and TTRS -/

/-- Whether a format is FP32 or FP64. -/
def fmtWide (f : Nat) : Bool := f == 0 || f == 1

/-- The checks of R258 on a factored tile. -/
def squareChecks (x : Tile) (h : Nat) : List (Bool × Nat × Nat) :=
  [(x.st == .empty, 1, h), (x.kind != .d, 2, h), (!fmtWide x.fmt, 3, h),
    (x.loc != .pool && x.loc != .acc, 4, h), (x.m != x.n, 5, h)]

/-- TLU's operation (R258). -/
def tluJob (td : Nat) (cx : Cx) (s : State) : Except FaultInfo TJob := do
  let x := (s.team cx.team).tile td
  tileChecks (squareChecks x td)
  let r := luFactor (psOf x.fmt) x.n (matVals x.fmt false x.rows)
  .ok { td := some td, result := { x with rows := backBits x.fmt r.a, perm := r.perm, poison := [] },
        sets := true, tbits := if r.zpiv then ZPIV else 0, poison := x.due td, unit := .hem, inPlace := true }

/-- TLU (R258). -/
def execTlu (e : Bool) (d : BitVec 7) (s : State) : Out :=
  wordTile (.tlu e d) [d.toNat] noFar (fun cx s => s.hemBusy cx d.toNat)
      (fun cx t s =>
      s.runJob cx t (tluJob d.toNat cx s)) s

/-- The permutation of a factored tile: the identity unless TLU wrote it (R258). -/
def Tile.permutation (x : Tile) : List Nat := if x.perm.isEmpty then List.range x.n else x.perm

/-- A solve on rows (R259): `f` is 0 .llu, 1 .ru. -/
def solveRows (f : Nat) (a : Tile) (x : VMat) : VMat :=
  let fmt := psOf a.fmt
  let m := matVals a.fmt false a.rows
  if f = 0 then lluSolve fmt m a.permutation x else ruSolve fmt m a.n x

/-- A tile solved with a factored tile (R259). -/
def solveTile (f : Nat) (a x : Tile) : Tile :=
  let go := fun (y : Mat) => backBits x.fmt (solveRows f a (matVals x.fmt false y))
  let y := { x with perm := [], poison := [] }
  match x.kind with
  | .z => y
  | .d => { y with rows := go x.rows }
  | .l => if f = 0 then { y with u := go x.u } else { y with v := matT x.n (go (matT x.rank x.v)) }

/-- TTRS in one thread (R259). Where td is ta, the tile is solved with its own contents as they stand at issue; the spec
does not say whether that is allowed. (DEDUCED, log 39; DESIGN CHOICE, log 85) -/
def ttrsStep (td ta f : Nat) : TileStep := fun cx t s =>
  let a := (s.team cx.team).tile ta
  let x := (s.team cx.team).tile td
  match tileChecks [(a.st == .empty, 1, ta), (x.st == .empty, 1, td), (a.kind != .d, 2, ta),
      (!fmtWide a.fmt, 3, ta), (x.fmt != a.fmt, 3, td),
      (a.loc != .pool && a.loc != .acc, 4, ta), (x.kind == .d && x.loc == .global, 4, td),
      (a.m != a.n, 5, ta), (if f = 0 then x.m != a.n else x.n != a.n, 5, td)] with
  | .error e => (s, some e)
  | .ok _ =>
    if x.kind = .z then (s, none)
    else s.startJob cx t
      { td := some td, result := solveTile f a x, reads := [ta], poison := firstDue (a.due ta) (x.due td),
        unit := .hem, inPlace := true }

/-- TTRS (R259): f is 0 .llu, 1 .ru. -/
def execTtrs (e : Bool) (d a : BitVec 7) (f : BitVec 2) (s : State) : Out :=
  wordTile (.ttrs e d a f) [d.toNat, a.toNat] noFar (fun cx s => s.hemBusy cx d.toNat)
    (ttrsStep d.toNat a.toNat f.toNat) s

end Sys2Proof.Machine
end

