-- ==== Sys2Proof/Machine/Queue.lean ====
section
/-! DEFINITION. Role queues (R283 to R288). -/

namespace Sys2Proof.Machine

/-- A Queue fault (R105). -/
def queueFault (sub : Nat) : FaultInfo := flt 0x0E sub

/-- A role queue of a slice. -/
def Slice.queue (l : Slice) (q : Nat) : RoleQueue := l.queues.getD q default

/-- Change a role queue of a slice. -/
def State.setQueue (s : State) (n q : Nat) (f : RoleQueue → RoleQueue) : State :=
  s.setSlice n fun l => { l with queues := l.queues.set q (f (l.queue q)) }

/-- The narrowest of core, cluster, die and device whose instance holds every core on which the slice has
a team (R288). -/
def State.sliceScope (s : State) (n : Nat) : Nat :=
  let cs := ((s.teams.filter fun m => m.slice == n).flatMap (·.cores)).map s.core
  let c0 := cs.headD default
  if cs.all (·.num == c0.num) then 4
  else if cs.all fun c => c.die == c0.die && c.cluster == c0.cluster then 5
  else if cs.all (·.die == c0.die) then 6
  else 7

/-- Put every live thread's Queue fault. -/
def allFault (ts : List Thread) (f : FaultInfo) : List (Nat × FaultInfo) := ts.map fun t => (t.uid, f)

/-- A queue instruction of the live threads together (R285, R286): `closing` says that a queue whose close
has issued faults, `rel` that it is a release. It is held while an acquire load of a live thread is on its way (R186). -/
def queueAct (q : Nat) (closing rel : Bool) (f : Cx → List Thread → State → State) : Act := fun cx ts s =>
  let r := (s.slice cx.slice).queue q
  let scope := s.sliceScope cx.slice
  if ts.isEmpty then some (s, [])
  else if ts.any Thread.acquiring then none
  else if r.depth = 0 then some (s, allFault ts (queueFault 1))
  else if closing && r.closing then some (s, allFault ts (queueFault 2))
  else if rel && ts.any fun t => releaseWaits scope t s then none
  else
    let s1 := if rel then ts.foldl (fun s t => s.release t scope) s else s
    let s2 := f cx ts s1
    some (ts.foldl (fun s t => s.lastRelease (cx.of t) t.uid) s2, [])

/-- Serve a queue's waiting pushes and closes while they may act (R285, R287). -/
def RoleQueue.fill (r : RoleQueue) : List QPut → RoleQueue
  | [] => { r with puts := [] }
  | .close :: l => RoleQueue.fill { r with closed := true } l
  | .push g v :: l =>
    if r.entries.length < r.depth then RoleQueue.fill { r with entries := r.entries ++ [v] } l
    else { r with puts := .push g v :: l }

/-- Give a pop its result in every live thread (R286, R288). -/
def State.givePop (s : State) (x : QTake) (v : DWord) (got : Bool) : State :=
  (x.uids.filter fun u => (s.threads.any fun t => t.uid == u && t.live)).foldl (fun s u =>
    (s.setThread u fun t => (t.setW x.d v).setP x.p got).acquire (s.thread u) 4) s

/-- Serve the first waiting pop of a queue, if it may be served (R286). -/
def State.popOne (s : State) (n q : Nat) : State :=
  let r := (s.slice n).queue q
  match r.takes with
  | [] => s
  | x :: l =>
    match r.entries with
    | v :: es =>
      (s.setQueue n q fun r => ({ r with entries := es, takes := l }).fill r.puts).givePop x v true
    | [] =>
      if r.closed then (s.setQueue n q fun r => { r with takes := l }).givePop x 0 false else s

/-- Serve a queue: pushes as space allows, then pops in order (R285 to R287). -/
def State.serveQueue (s : State) (n q : Nat) : State :=
  let s1 := s.setQueue n q fun r => r.fill r.puts
  ((s1.slice n).queue q).takes.foldl (fun s _ => s.popOne n q) s1

/-- The group of a waiting push; a close has none. -/
def QPut.group : QPut → Option Nat
  | .push g _ => some g
  | .close => none

/-- The groups still waiting at a queue, those of saved teams too. -/
def RoleQueue.waiters (r : RoleQueue) : List Nat :=
  (r.puts ++ r.outPuts).filterMap QPut.group ++ (r.takes ++ r.outTakes).map (·.gid)

/-- Whether a push is one of some groups'. -/
def QPut.of (p : QPut) (gs : List Nat) : Bool := p.group.any gs.contains

/-- The waiting pushes and pops of some groups are abandoned, to be issued again (R287): a push that stood before a close
no longer does, so that the close may set its mark and the push then faults. (DESIGN CHOICE, log 49) -/
def RoleQueue.stop (r : RoleQueue) (gs : List Nat) : RoleQueue :=
  { r with
    puts := r.puts.filter fun p => !p.of gs
    takes := r.takes.filter fun x => !gs.contains x.gid
    outPuts := r.outPuts ++ r.puts.filter fun p => p.of gs
    outTakes := r.outTakes ++ r.takes.filter fun x => gs.contains x.gid }

/-- Nothing of some groups waits at a queue any more. -/
def RoleQueue.forget (r : RoleQueue) (gs : List Nat) : RoleQueue :=
  { r with
    puts := r.puts.filter fun p => !p.of gs
    takes := r.takes.filter fun x => !gs.contains x.gid
    outPuts := r.outPuts.filter fun p => !p.of gs
    outTakes := r.outTakes.filter fun x => !gs.contains x.gid }

/-- The abandoned pushes and pops of some groups issue again, after everything that waits (R287). -/
def RoleQueue.again (r : RoleQueue) (gs : List Nat) : RoleQueue :=
  let r1 := r.forget gs
  { r1 with
    puts := r1.puts ++ r.outPuts.filter fun p => p.of gs
    takes := r1.takes ++ r.outTakes.filter fun x => gs.contains x.gid }

/-- The groups of a team. -/
def State.teamGroups (s : State) (u : Nat) : List Nat := (s.groups.filter (·.team == u)).map (·.gid)

/-- Before a team's stop completes, its waiting pushes and pops are abandoned (R287). (DESIGN CHOICE, log 49) -/
def State.stopQueues (s : State) (m : Team) : State :=
  s.setSlice m.slice fun l => { l with queues := l.queues.map fun (r : RoleQueue) => r.stop (s.teamGroups m.uid) }

/-- The threads of a wait at a queue, as they issued the instruction. -/
def GWait.atQueue (q : Nat) : GWait → List RunCtx
  | .queue n cs _ => if n = q then cs else []
  | _ => []

/-- A group's push at a queue that a close has meanwhile issued at: its live threads are taken back to it, each with its run
context, and take the Queue fault there (R51, R285, R287). -/
def State.closedPush (s : State) (q gid : Nat) : State :=
  let cs := ((s.group gid).waits.flatMap (GWait.atQueue q)).filter fun c => (s.thread c.uid).live
  let s1 := s.setGroup gid fun g => { g with waits := g.waits.filter fun w => (w.atQueue q).isEmpty }
  let m := s1.lanesMask (cs.map (·.uid))
  cs.foldl (fun s c =>
    (s.setThread c.uid c.restore).deliver c.uid (queueFault 2) ⟨c.pc, c.pos, true, false⟩ m) s1

/-- A restored team's pushes and pops at a queue issue again (R287). (DESIGN CHOICE, log 49) -/
def State.reissueQueue (s : State) (m : Team) (q : Nat) : State :=
  let gs := s.teamGroups m.uid
  let r := (s.slice m.slice).queue q
  let late := if r.closing then (r.outPuts.filter fun p => p.of gs).filterMap QPut.group else []
  let s1 := s.setQueue m.slice q fun r => (r.forget late).again gs
  (late.foldl (fun s g => s.closedPush q g) s1).serveQueue m.slice q

/-- A restored team's pushes and pops issue again (R287). (DESIGN CHOICE, log 49) -/
def State.reissueQueues (s : State) (m : Team) : State :=
  (List.range 4).foldl (fun s q => s.reissueQueue m q) s

/-- QPUSH.push (R285, R288). -/
def execQpush (e : Bool) (a b : BitVec 7) (s : State) : Out :=
  word (.qpush e a b) (queueAct a.toNat true true fun cx ts s =>
    let v := (ts.headD default).w b.toNat
    ((s.setQueue cx.slice a.toNat fun r => { r with puts := r.puts ++ [.push cx.gid v] }).addWait
      cx.gid (.queue a.toNat (ts.map (·.runCtx)) cx.pc)).serveQueue cx.slice a.toNat) s

/-- QPUSH.close (R285, R288). -/
def execQpushClose (e : Bool) (a : BitVec 7) (s : State) : Out :=
  word (.qpushClose e a) (queueAct a.toNat true true fun cx _ s =>
    (s.setQueue cx.slice a.toNat fun r =>
      { r with puts := r.puts ++ [.close], closing := true }).serveQueue cx.slice a.toNat) s

/-- QPOP (R286, R288). -/
def execQpop (e : Bool) (d a b : BitVec 7) (s : State) : Out :=
  word (.qpop e d a b) (queueAct a.toNat false false fun cx ts s =>
    ((s.setQueue cx.slice a.toNat fun r =>
      { r with takes := r.takes ++ [⟨cx.gid, ts.map (·.uid), d.toNat, b.toNat⟩] }).addWait
        cx.gid (.queue a.toNat (ts.map (·.runCtx)) cx.pc)).serveQueue cx.slice a.toNat) s

end Sys2Proof.Machine
end

