-- ==== Sys2Proof/Machine/Engine.lean ====
section
/-! DEFINITION. The transform engine: barrier objects, transform descriptors, the run codec, XFORM, XWAIT
and XCANCEL (R289 to R301), and the engine's own steps. -/

namespace Sys2Proof.Machine

/-! ### Barrier objects (R290) -/

/-- A 32-bit word of a team's scratchpad. -/
def Team.scratchWord (m : Team) (o : Nat) : Nat := leNat ((List.range 4).map fun i => m.scratchByte (o + i))

/-- Whether a word of a team's scratchpad is poisoned. -/
def Team.wordPoisoned (m : Team) (o : Nat) : Bool := m.scratchPoison.contains (o / 32)

/-- Whether a team is on its cores and neither stopped nor saved. -/
def Team.running (m : Team) : Bool := m.at_ == .resident

/-- Report an end to a barrier object (R290): the first error code stands, and ARRIVED grows after it.
(DEDUCED, log 37) -/
def State.barrierUpdate (s : State) (team o status : Nat) : State :=
  let m := s.team team
  if m.wordPoisoned o then s
  else
    let s1 := if status != 0 && m.scratchWord (o + 8) == 0 then s.scratchStore team (o + 8) (leBytes 4 status)
      else s
    s1.scratchStore team (o + 4) (leBytes 4 (m.scratchWord (o + 4) + 1))

/-- An engine command ends: its update is applied now, or at the restore of its team (R307, R364). -/
def State.engineEnd (s : State) (team o status : Nat) : State :=
  match s.teams.find? (·.uid == team) with
  | none => s
  | some m =>
    if m.running then s.barrierUpdate team o status
    else { s with updates := s.updates ++ [⟨team, o, status⟩] }

/-! ### The engine's memory accesses (R292, R300, R377) -/

/-- Why an engine stops: an absent page, with its VA and ACCESS code, an error code, or a granule of another device that
it has to read first. -/
inductive EStop where
  | page (va access : Nat)
  | status (n : Nat)
  | far (g : Gran)
  deriving DecidableEq, Repr

/-- What an engine accesses memory as: the owner of its reads of other devices, a die, a slice, its address space,
whether pages need U. -/
structure Eng where
  owner : Nat
  die : Nat
  slice : Nat
  asid : Nat
  user : Bool
  deriving DecidableEq, Repr

/-- The die of a team's first core. -/
def State.teamDie (s : State) (team : Nat) : Nat := (s.core ((s.team team).cores.headD 0)).die

/-- The engine's view for a slice and team. -/
def State.eng (s : State) (owner slice team : Nat) : Eng :=
  ⟨owner, s.teamDie team, slice, (s.slice slice).asid, !(s.slice slice).super⟩

/-- The place of a VA for an engine, with its page's compressible attribute; on a device that cannot be reached it has none
(R300, R380). -/
def State.engPlace (s : State) (g : Eng) (va : Nat) (k : Access) : Except EStop (Place × Bool) :=
  if 2 ^ 57 ≤ va then .error (.status 5)
  else
    match s.walk g.die g.asid va with
    | .absent => .error (.page va k.code)
    | .malformed => .error (.status 5)
    | .leaf e =>
      if (permFault e k g.user).isSome || (e.rmt && !s.reachable e.home) then .error (.status 5) else .ok (e.place va, e.cmp)

/-- A byte of another device's memory, once the engine has read its granule (R380). -/
def State.engFar (s : State) (g : Eng) (home a : Nat) : Except EStop Byte :=
  match s.granReply g.owner (home, a / 32) with
  | none => .error (.far (home, a / 32))
  | some r =>
    if r.failed then .error (.status 5) else if r.poison then .error (.status 8) else .ok (r.bytes.getD (a % 32) 0)

/-- A byte that an engine reads, at the L2 of its home (R300, R380). -/
def State.engByte (s : State) (g : Eng) (va : Nat) : Except EStop Byte :=
  match s.engPlace g va .read with
  | .error e => .error e
  | .ok (.phys a, _) => if s.mem.poisonDie g.die a 1 then .error (.status 8) else .ok (s.mem.atDie g.die a)
  | .ok (.remote home a, _) => s.engFar g home a
  | .ok _ => .error (.status 5)

/-- Consecutive bytes that an engine reads. -/
def State.engBytes (s : State) (g : Eng) (va : Nat) : Nat → Except EStop (List Byte)
  | 0 => .ok []
  | n + 1 =>
    match s.engByte g va with
    | .error e => .error e
    | .ok b =>
      match s.engBytes g (va + 1) n with
      | .error e => .error e
      | .ok r => .ok (b :: r)

/-- Masked bytes to be written, at this device, with their lines' compressible attribute, and at others, up to a
stop. -/
structure EOut where
  here : List (Nat × Byte × Byte)
  marks : List (Nat × Bool)
  there : List (Nat × Nat × Byte × Byte)
  stop : Option EStop

/-- Nothing to be written. -/
def EOut.none (stop : Option EStop) : EOut := ⟨[], [], [], stop⟩

/-- Translate masked bytes to be written until one stops. -/
def State.engOut (s : State) (g : Eng) : List (Nat × Byte × Byte) → EOut
  | [] => .none none
  | c :: r =>
    match s.engPlace g c.1 .write with
    | .error e => .none (some e)
    | .ok p =>
      let o := s.engOut g r
      match p.1 with
      | .phys a => { o with here := (a, c.2) :: o.here, marks := (lineOf a, p.2) :: o.marks }
      | .remote h a => { o with there := (h, a, c.2) :: o.there }
      | _ => o

/-- Masked bytes as writes to other devices: whole bytes side by side in a granule go together, a part of a byte goes
alone (R380). -/
def farWrites : List (Nat × Nat × Byte × Byte) → List (Nat × Nat × RemoteOp)
  | [] => []
  | (h, a, m, v) :: r =>
    if m != 0xFF then (h, a, .masked m v) :: farWrites r
    else
      match farWrites r with
      | (k, b, .store bs) :: t =>
        if k = h && b == a + 1 && b / 32 == a / 32 then (h, a, .store (v :: bs)) :: t
        else (h, a, .store [v]) :: (k, b, .store bs) :: t
      | t => (h, a, .store [v]) :: t

/-- A number that no thread has, for what an engine reads and writes at other devices for a transform. -/
def engineUid (tag : Nat) : Nat := 2 ^ 64 + tag

/-- Such a number for a collective. -/
def collUid (tag : Nat) : Nat := 2 ^ 69 + tag

/-- Such a number for a command not yet accepted. -/
def subUid (uid pend : Nat) : Nat := 2 ^ 72 * (pend + 1) + uid

/-- Write an engine's bytes at the L2 of a die (R189); writes of whole granules clear their poison
(R381). (DEDUCED, log 38) -/
def State.engWrite (s : State) (g : Eng) (o : EOut) : State :=
  let s1 := s.l2Masked g.die o.here none
  let s2 := o.marks.dedup.foldl (fun s m => s.markCmp (.phys (128 * m.1)) m.2) s1
  (farWrites o.there).foldl (fun s w => s.remotePut g.owner w.1 w.2.1 0 w.2.2) s2

/-- Whole bytes at a VA, to be written. -/
def wholeBytes (va : Nat) (bs : List Byte) : List (Nat × Byte × Byte) :=
  (numbered va bs).map fun c => (c.1, 0xFF, c.2)

/-! ### Tensors in linear order (R292) -/

/-- The number of elements of a tensor. -/
def LayoutRec.total (r : LayoutRec) : Nat := r.extent 0 * r.extent 1 * r.extent 2 * r.extent 3

/-- The coordinates of a linear index, dimension 0 innermost. -/
def LayoutRec.coords (r : LayoutRec) (k : Nat) : Nat × Nat × Nat × Nat :=
  (k % r.extent 0, k / r.extent 0 % r.extent 1, k / (r.extent 0 * r.extent 1) % r.extent 2,
    k / (r.extent 0 * r.extent 1 * r.extent 2))

/-- The bits of an element at coordinates, as an engine reads them. -/
def State.engElem (s : State) (g : Eng) (r : LayoutRec) (c : Nat × Nat × Nat × Nat) :
    Except EStop Nat :=
  match s.engBytes g (r.addr c.1 c.2.1 c.2.2.1 c.2.2.2) (fmtBytes r.fmt) with
  | .error e => .error e
  | .ok bs =>
    let v := leNat bs
    .ok (if fmtBits r.fmt = 4 then (if c.1 % 2 = 0 then v % 16 else v / 16) else v)

/-- The bytes of an element to be written at coordinates. -/
def elemOut (r : LayoutRec) (c : Nat × Nat × Nat × Nat) (v : Nat) : List (Nat × Byte × Byte) :=
  elemStore r.fmt c.1 (r.addr c.1 c.2.1 c.2.2.1 c.2.2.2) v

/-- The bits of the destination element `k` of COPY, CVT, TRAN and GATH (R292). -/
def State.xformElem (s : State) (g : Eng) (x : Xform) (k : Nat) : Except EStop Nat :=
  let c := x.dst.coords k
  if x.op = 0 then s.engElem g x.src c
  else if x.op = 1 then
    match s.engElem g x.src c with
    | .error e => .error e
    | .ok v => .ok (elemEnc x.dst.fmt false x.sat (elemVal x.src.fmt false v))
  else if x.op = 2 then s.engElem g x.src (c.2.1, c.1, c.2.2)
  else
    match s.engBytes g (x.index.toNat + 4 * c.2.1) 4 with
    | .error e => .error e
    | .ok bs =>
      if x.src.extent 1 ≤ leNat bs then .error (.status 7) else s.engElem g x.src (c.1, leNat bs, 0, 0)

/-- The writes of consecutive elements, up to a stop. -/
def State.engElems (s : State) (g : Eng) (dst : LayoutRec) (f : Nat → Except EStop Nat) :
    List Nat → EOut
  | [] => .none none
  | k :: r =>
    match f k with
    | .error e => .none (some e)
    | .ok v =>
      let a := s.engOut g (elemOut dst (dst.coords k) v)
      match a.stop with
      | some e => .none (some e)
      | none =>
        let o := s.engElems g dst f r
        ⟨a.here ++ o.here, a.marks ++ o.marks, a.there ++ o.there, o.stop⟩

/-! ### The run codec (R293 to R295) -/

/-- One bit of the CRC-32C. -/
def crcStep (c : Nat) : Nat := if c % 2 = 1 then Nat.xor (c / 2) 0x82F63B78 else c / 2

/-- The CRC-32C of some bytes (R293). -/
def crc32c (bs : List Byte) : Nat :=
  Nat.xor (bs.foldl (fun c b => (List.range 8).foldl (fun c _ => crcStep c) (Nat.xor c b.toNat))
    0xFFFFFFFF) 0xFFFFFFFF

/-- A chunk header (R293). -/
def chunkHeader (raw esize : Nat) : List Byte :=
  let h := leBytes 2 0x52C7 ++ leBytes 3 raw ++ leBytes 1 esize
  h ++ leBytes 2 (crc32c h % 65536)

/-- The element size of the codec for a format (R293). -/
def codecSize (f : Nat) : Nat := fmtBytes f

/-- Cut a list into blocks of at most `n`. -/
def blocksOf {α : Type} (n : Nat) (l : List α) : List (List α) :=
  (List.range ((l.length + n - 1) / n)).map fun b => (l.drop (n * b)).take n

/-- The maximal spans of zero and of other elements. -/
def zeroSpans : List Nat → List (Bool × List Nat)
  | [] => []
  | x :: r =>
    match zeroSpans r with
    | [] => [(x == 0, [x])]
    | (z, l) :: t => if (x == 0) = z then (z, x :: l) :: t else (x == 0, [x]) :: (z, l) :: t

/-- Isolated zeros are literals, joined with the literals beside them (R295). -/
def joinLiterals : List (Bool × List Nat) → List (Bool × List Nat)
  | [] => []
  | x :: r =>
    let z := x.1 && decide (2 ≤ x.2.length)
    match joinLiterals r with
    | (false, l) :: t => if z then x :: (false, l) :: t else (false, x.2 ++ l) :: t
    | t => (z, x.2) :: t

/-- The differences that codec 2 encodes (R295). -/
def deltas (e : Nat) : Nat → List Nat → List Nat
  | _, [] => []
  | p, x :: r => (x + 2 ^ (8 * e) - p) % 2 ^ (8 * e) :: deltas e x r

/-- The body of a chunk (R294, R295). -/
def encodeBody (codec e : Nat) (xs : List Nat) : List Byte :=
  (joinLiterals (zeroSpans (if codec = 2 then deltas e 0 xs else xs))).flatMap fun sp =>
    (blocksOf 128 sp.2).flatMap fun b =>
      if sp.1 then leBytes 1 (127 + b.length) else leBytes 1 (b.length - 1) ++ b.flatMap (leBytes e)

/-- A chunk of a stream: header, body, zero padding (R293). -/
def encodeChunk (codec e : Nat) (xs : List Nat) : List Byte :=
  let b := encodeBody codec e xs
  chunkHeader (e * xs.length) e ++ b ++ List.replicate ((8 - b.length % 8) % 8) 0

/-- What decoding gives: the bytes emitted, where reading stands, and a stop. -/
structure Decoded where
  out : List Byte
  pos : Nat
  stop : Option EStop

/-- Read `n` bytes of a stream. -/
def readStream (rd : Nat → Except EStop Byte) (p : Nat) : Nat → Except EStop (List Byte)
  | 0 => .ok []
  | n + 1 =>
    match rd p with
    | .error e => .error e
    | .ok b =>
      match readStream rd (p + 1) n with
      | .error e => .error e
      | .ok r => .ok (b :: r)

/-- Decode the elements of one run (R294): `zero` says that it is a zero run. -/
def decodeRun (rd : Nat → Except EStop Byte) (codec e : Nat) (zero : Bool) :
    Nat → Nat → Nat → Decoded × Nat
  | 0, p, prev => (⟨[], p, none⟩, prev)
  | n + 1, p, prev =>
    match (if zero then .ok [] else readStream rd p e) with
    | .error x => (⟨[], p, some x⟩, prev)
    | .ok bs =>
      let x := leNat bs
      let v := if codec = 2 then (prev + x) % 2 ^ (8 * e) else x
      let r := decodeRun rd codec e zero n (if zero then p else p + e) v
      (⟨leBytes e v ++ r.1.out, r.1.pos, r.1.stop⟩, r.2)

/-- Decode a body that emits `raw` bytes (R294). -/
def decodeBody (rd : Nat → Except EStop Byte) (codec e : Nat) : Nat → Nat → Nat → Nat → Decoded
  | 0, _, p, _ => ⟨[], p, none⟩
  | fuel + 1, raw, p, prev =>
    if raw = 0 then ⟨[], p, none⟩
    else
      match rd p with
      | .error x => ⟨[], p, some x⟩
      | .ok c =>
        let n := c.toNat % 128 + 1
        if raw < n * e then ⟨[], p + 1, some (.status 1)⟩
        else
          let r := decodeRun rd codec e (c.getLsbD 7) n (p + 1) prev
          match r.1.stop with
          | some _ => r.1
          | none =>
            let d := decodeBody rd codec e fuel (raw - n * e) r.1.pos r.2
            ⟨r.1.out ++ d.out, d.pos, d.stop⟩

/-! ### Transforms -/

/-- The cluster of a team, as 20·die + cluster. -/
def State.clusterOf (s : State) (team : Nat) : Nat :=
  let c := s.core ((s.team team).cores.headD 0)
  20 * c.die + c.cluster

/-- Whether a transform stands on a cluster's engine: its team is there. -/
def State.onEngine (s : State) (x : Xform) (cl : Nat) : Bool :=
  (s.teams.any fun m => m.uid == x.team && m.running) && s.clusterOf x.team == cl

/-- Whether two tensors have equal extents. -/
def sameExtents (a b : LayoutRec) : Bool := (List.range 4).all fun d => a.extent d == b.extent d

/-- Whether a record is valid for an engine: its own fields, and element-aligned addresses. (DEDUCED, log 40) -/
def recordOk (l : List Byte) (r : LayoutRec) : Bool :=
  layoutOk l { r with codec := 0 } && decide (r.codec ≤ 2) &&
    r.base.toNat % fmtBytes r.fmt == 0 && r.strides.all fun x => x.toNat % fmtBytes r.fmt == 0

/-- What an operation requires of its records (R292). (DEDUCED, log 40) -/
def xformOk (x : Xform) : Bool :=
  let a := x.src
  let b := x.dst
  if x.op = 0 then a.fmt == b.fmt && sameExtents a b && a.codec == 0 && b.codec == 0
  else if x.op = 1 then sameExtents a b && a.codec == 0 && b.codec == 0
  else if x.op = 2 then
    decide (2 ≤ a.ndims) && decide (2 ≤ b.ndims) && a.fmt == b.fmt && a.extent 0 == b.extent 1 &&
      a.extent 1 == b.extent 0 && a.extent 2 == b.extent 2 && a.extent 3 == b.extent 3 &&
      a.codec == 0 && b.codec == 0
  else if x.op = 3 then a.fmt == b.fmt && sameExtents a b && a.codec == 0 && b.codec != 0
  else if x.op = 4 then a.fmt == b.fmt && sameExtents a b && a.codec != 0 && b.codec == 0
  else
    a.ndims == 2 && b.ndims == 2 && a.fmt == b.fmt && a.extent 0 == b.extent 0 &&
      b.extent 1 == x.indexCount && a.codec == 0 && b.codec == 0

/-- Whether the descriptor's own fields are valid (R289). (DEDUCED, log 40) -/
def descOk (l : List Byte) : Bool :=
  decide (byteAt l 0x10 ≤ 5) && byteAt l 0x11 / 2 == 0 && fieldAt l 0x12 2 == 0 &&
    fieldAt l 0x38 8 == 0 &&
    (if byteAt l 0x10 = 5 then fieldAt l 0x18 8 % 4 == 0 else fieldAt l 0x18 8 == 0)

/-- Read a layout record as an engine does. -/
def State.engRecord (s : State) (g : Eng) (va : Nat) : Except EStop LayoutRec :=
  if va % 8 ≠ 0 then .error (.status 6)
  else
    match s.engBytes g va 64 with
    | .error e => .error e
    | .ok l =>
      let r := LayoutRec.ofBytes l
      if recordOk l r then .ok r else .error (.status 6)

/-- The transform that a submission becomes, with an error code (R291). -/
def XSub.xform (b : XSub) (tag : Nat) (l : List Byte) (src dst : LayoutRec) (status : Nat) : Xform :=
  { tag := tag, slice := b.slice, team := b.team, desc := b.desc, op := byteAt l 0x10,
    sat := byteAt l 0x11 % 2 == 1, src := src, dst := dst, barrier := b.barrier,
    index := BitVec.ofNat 64 (fieldAt l 0x18 8), indexCount := fieldAt l 0x20 4,
    wdCycles := (if fieldAt l 0x24 4 = 0 then 65536 else fieldAt l 0x24 4),
    streamBytes := fieldAt l 0x28 8, next := 0, streamPos := 0, chunkAt := none, status := status,
    page := none, outDone := false }

/-- The tag after a tag: nonzero and of 32 bits. (DEDUCED, log 40) -/
def nextTagOf (t : Nat) : Nat := if t = 0xFFFFFFFF then 1 else t + 1

/-- The first tag, from a tag on, that no transform still open has. -/
def State.freeTag (s : State) : Nat → Nat → Nat
  | 0, t => t
  | n + 1, t => if s.xforms.any (·.tag == t) then s.freeTag n (nextTagOf t) else t

/-- The tag of the next transform to be accepted (R291). (DEDUCED, log 40) -/
def State.newTag (s : State) : Nat := s.freeTag s.xforms.length s.nextTag

/-- Read what a submission copies: the transform, or why it cannot be read (R291). -/
def State.readXsub (s : State) (b : XSub) : Except EStop Xform := do
  let g := s.eng (subUid b.uid b.pend) b.slice b.team
  let l ← s.engBytes g b.desc.toNat 64
  if descOk l then
    let src ← s.engRecord g (fieldAt l 0 8)
    let dst ← s.engRecord g (fieldAt l 8 8)
    let x := b.xform s.newTag l src dst 0
    .ok (if xformOk x then x else { x with status := 6 })
  else .error (.status 6)

/-- Give a waiting result its destinations' value: it is computed now. -/
def State.fulfil (s : State) (u id : Nat) (vals : List Word) : State :=
  s.setThread u fun t => { t with pend := t.pend.map fun p =>
    if p.id = id && p.kind == .engine then
      { p with kind := .ready, dests := (p.dests.zip vals).map fun d => (d.1.1, d.2) }
    else p }

/-- Accept a submission as a transform: its tag is the XFORM's result (R291). -/
def State.acceptXform (s : State) (b : XSub) (x : Xform) : State :=
  State.forget { (s.fulfil b.uid b.pend [BitVec.ofNat 32 x.tag]) with
    xforms := s.xforms ++ [x]
    nextTag := nextTagOf x.tag
    xsubs := s.xsubs.filter fun c => !(c.uid == b.uid && c.pend == b.pend) } [subUid b.uid b.pend]

/-- Try a waiting submission: its cluster's engine holds fewer than 32 transforms, and no earlier
submission waits there (R291). -/
def State.trySub (s : State) (b : XSub) : State :=
  let cl := s.clusterOf b.team
  let first := s.xsubs.find? fun c => s.clusterOf c.team == cl
  let bad := fun n => s.acceptXform b (b.xform s.newTag [] default default n)
  if first != some b || b.page.isSome || s.asking (subUid b.uid b.pend) ||
      32 ≤ (s.xforms.filter fun x => s.onEngine x cl).length then s
  else if b.status != 0 then bad b.status
  else
    match s.readXsub b with
    | .ok x => s.acceptXform b x
    | .error (.status n) => bad n
    | .error (.far g) => s.ask (subUid b.uid b.pend) [g]
    | .error (.page va k) =>
      let asid := (s.slice b.slice).asid
      if s.pf.size = 0 then bad 5
      else
        ({ s with xsubs := s.xsubs.map fun c => if c = b then { c with page := some (va / 65536) } else c
          }).pfJoin asid va b.slice k []

/-- Try every waiting submission in order. -/
def State.tryXsubs (s : State) : State := s.xsubs.foldl State.trySub s

/-- Whether a transform has done all its work. -/
def Xform.done (x : Xform) : Bool := x.status != 0 || decide (x.dst.total ≤ x.next)

/-- Change a transform. -/
def State.setXform (s : State) (tag : Nat) (f : Xform → Xform) : State :=
  { s with xforms := s.xforms.map fun x => if x.tag = tag then f x else x }

/-- A transform meets a stop: an error code, an absent page that it waits for (R292), or a read of another device. -/
def State.xformStop (s : State) (x : Xform) (e : EStop) : State :=
  match e with
  | .status n => s.setXform x.tag fun y => { y with status := n }
  | .far g => s.ask (engineUid x.tag) [g]
  | .page va k =>
    if s.pf.size = 0 then s.setXform x.tag fun y => { y with status := 5 }
    else (s.setXform x.tag fun y => { y with page := some (va / 65536) }).pfJoin (s.slice x.slice).asid
      va x.slice k []

/-- The elements of a chunk of 64 KiB (R292). -/
def chunkElems (f : Nat) : Nat := 65536 * 8 / fmtBits f

/-- Move a transform past a chunk. -/
def State.xformNext (s : State) (x : Xform) (n pos : Nat) : State :=
  (s.setXform x.tag fun y => { y with next := x.next + n, streamPos := pos, chunkAt := none }).forget [engineUid x.tag]

/-- A chunk's outcome: the writes of the elements before its stop, then the stop or its progress (R292). -/
def State.xformApply (s : State) (g : Eng) (x : Xform) (o : EOut) (n pos : Nat) : State :=
  match o.stop with
  | some (.far q) => s.xformStop x (.far q)
  | some e => (s.engWrite g o).xformStop x e
  | none => (s.engWrite g o).xformNext x n pos

/-- The header of a transform's present chunk has been read: its time of WD_CYCLES runs (R296). -/
def State.headerRead (s : State) (x : Xform) : State :=
  s.setXform x.tag fun y => { y with chunkAt := some (y.chunkAt.getD s.now) }

/-- The codec elements of some tensor elements: 4-bit elements two to a byte (R292). -/
def codecElems (f : Nat) : List Nat → List Nat
  | [] => []
  | [x] => [x]
  | x :: y :: r => if fmtBits f = 4 then (x + 16 * y) :: codecElems f r else x :: codecElems f (y :: r)

/-- The tensor elements of decoded bytes, `n` at most. -/
def tensorElems (f n : Nat) (bs : List Byte) : List Nat :=
  (if fmtBits f = 4 then bs.flatMap fun b => [b.toNat % 16, b.toNat / 16]
   else (List.range (bs.length / fmtBytes f)).map fun i => fieldAt bs (fmtBytes f * i) (fmtBytes f)).take n

/-- Read consecutive elements of the source. -/
def State.readElems (s : State) (g : Eng) (r : LayoutRec) : List Nat → Except EStop (List Nat)
  | [] => .ok []
  | k :: t =>
    match s.engElem g r (r.coords k) with
    | .error e => .error e
    | .ok v =>
      match s.readElems g r t with
      | .error e => .error e
      | .ok l => .ok (v :: l)

/-- A chunk of PACKZ (R295). -/
def State.packChunk (s : State) (g : Eng) (x : Xform) : State :=
  let n := min (chunkElems x.src.fmt) (x.dst.total - x.next)
  match s.readElems g x.src ((List.range n).map (x.next + ·)) with
  | .error e => s.xformStop x e
  | .ok vs =>
    let bs := encodeChunk x.dst.codec (codecSize x.src.fmt) (codecElems x.src.fmt vs)
    if x.streamBytes < x.streamPos + bs.length then s.xformStop x (.status 1)
    else s.xformApply g x (s.engOut g (wholeBytes (x.dst.base.toNat + x.streamPos) bs)) n
      (x.streamPos + bs.length)

/-- The header of a chunk of a stream: its RAW_LEN, or a stop (R293). -/
def chunkRaw (e left : Nat) (h : List Byte) : Except EStop Nat :=
  let raw := fieldAt h 2 3
  if fieldAt h 0 2 != 0x52C7 || byteAt h 5 != e || raw == 0 || decide (65536 < raw) || raw % e != 0 ||
      fieldAt h 6 2 != crc32c (h.take 6) % 65536 then .error (.status 3)
  else if left < raw then .error (.status 1)
  else .ok raw

/-- The bytes that some elements of a format take in linear order. -/
def tensorBytes (f n : Nat) : Nat := (n * fmtBits f + 7) / 8

/-- A chunk of EXPZ (R293, R294): what was decoded before a stop stays written. -/
def State.expandChunk (s : State) (g : Eng) (x : Xform) : State :=
  let e := codecSize x.dst.fmt
  let left := x.dst.total - x.next
  let rd := fun p => if x.streamBytes ≤ p then .error (EStop.status 1)
    else s.engByte g (x.src.base.toNat + p)
  match readStream rd x.streamPos 8 with
  | .error z => s.xformStop x z
  | .ok h =>
    let s1 := s.headerRead x
    match chunkRaw e (tensorBytes x.dst.fmt left) h with
    | .error z => s1.xformStop x z
    | .ok raw =>
      let d := decodeBody rd x.src.codec e (raw + 1) raw (x.streamPos + 8) 0
      let vs := tensorElems x.dst.fmt left d.out
      let o := s.engElems g x.dst (fun k => .ok (vs.getD (k - x.next) 0))
        ((List.range vs.length).map (x.next + ·))
      s1.xformApply g x { o with stop := if o.stop.isSome then o.stop else d.stop } vs.length
        ((d.pos + 7) / 8 * 8)

/-- A chunk of a transform (R292). (DEDUCED, log 40) -/
def State.xformChunk (s : State) (x : Xform) : State :=
  let g := s.eng (engineUid x.tag) x.slice x.team
  if x.op = 3 then s.packChunk g x
  else if x.op = 4 then s.expandChunk g x
  else
    let n := min (chunkElems x.dst.fmt) (x.dst.total - x.next)
    s.xformApply g x (s.engElems g x.dst (s.xformElem g x) ((List.range n).map (x.next + ·))) n 0

/-- The transform that a cluster's engine works on: the first accepted of those there (R292). -/
def State.atWork (s : State) (tag : Nat) : Option Xform :=
  match s.xforms.find? (·.tag == tag) with
  | none => none
  | some x =>
    if (s.xforms.find? fun y => s.onEngine y (s.clusterOf x.team)).map (·.tag) = some tag then some x
    else none

/-- TRANSFORM_CHUNK (R292). -/
def execTransformChunk (tag : Nat) (s : State) : Out :=
  match s.atWork tag with
  | none => .next s
  | some x => if x.done || x.page.isSome || s.asking (engineUid tag) then .next s else .next (s.xformChunk x)

/-- End a transform with a code (R290): it leaves the engine, and its barrier object is updated.
(DEDUCED, log 40) -/
def State.endXform (s : State) (x : Xform) (status : Nat) : State :=
  let s1 := { s with xforms := s.xforms.filter (·.tag != x.tag) }
  ((s1.engineEnd x.team x.barrier status).forget [engineUid x.tag]).tryXsubs

/-- TRANSFORM_END (R290, R295): once every write has been performed. PACKZ writes OUT_BYTES first. -/
def execTransformEnd (tag : Nat) (s : State) : Out :=
  match s.atWork tag with
  | none => .next s
  | some x =>
    if !x.done || x.page.isSome || s.remoteStores (engineUid tag) then .next s
    else if x.status = 0 && x.op == 3 && !x.outDone then
      let g := s.eng (engineUid tag) x.slice x.team
      let o := s.engOut g (wholeBytes (x.desc.toNat + 0x30) (leBytes 8 x.streamPos))
      match o.stop with
      | some e => .next (s.xformStop x e)
      | none =>
        let s1 := s.engWrite g o
        .next (if o.there.isEmpty then s1.endXform x 0 else s1.setXform tag fun y => { y with outDone := true })
    else .next (s.endXform x x.status)

/-- Whether an EXPZ has passed its limit since it read the header of its present chunk (R296). -/
def Xform.late (x : Xform) (now : Nat) : Bool :=
  x.op == 4 && !x.done && x.chunkAt.any fun t => decide (t + x.wdCycles < now)

/-- DECODER_WATCHDOG (R296). -/
def execDecoderWatchdog (tag : Nat) (s : State) : Out :=
  match s.atWork tag with
  | none => .next s
  | some x =>
    if x.late s.now then
      .next (s.setXform tag fun y => { y with status := 2, page := none })
    else .next s

/-! ### XFORM, XWAIT, XCANCEL -/

/-- The address that a barrier fault reports (R291). -/
def barrierAddr (o : Nat) : DWord := 0xF100000000000000 + BitVec.ofNat 64 o

/-- The check of a barrier object's offset (R291). -/
def State.barrierCheck (s : State) (t : Thread) (o : Nat) : Except FaultInfo Unit :=
  if o % 16 ≠ 0 then .error (flt 0x03 0 (barrierAddr o))
  else if (s.launchOf t).teamScratch < o + 16 then .error (flt 0x06 0 (barrierAddr o))
  else .ok ()

/-- The check of a descriptor's address (R291): a global VA, 64-byte aligned, readable. An address outside the global
window that also breaks its own window's bound fails as one that is not global. (DESIGN CHOICE, log 85) -/
def State.descCheck (s : State) (t : Thread) (ea : DWord) (align : Nat) : Except FaultInfo Acc :=
  if ea.extractLsb' 57 7 != 0 then .error (accessFault 0x01 ea) else s.check t ea align .read

/-- A field of a descriptor that a check reads, after the core's dirty bytes have reached the L2; a
poisoned one raises Memory Poison. -/
def State.descField (s : State) (t : Thread) (a : Acc) (ea : DWord) (off n : Nat) :
    Except FaultInfo Nat :=
  let s1 := s.drain t.core
  let p := a.place.plus off
  match s1.dataFault t.uid t.core p n (ea + BitVec.ofNat 64 off) with
  | some f => .error f
  | none => .ok (leNat (s1.readAny t.uid t.core p n true))

/-- The granules of another device that a field of a thread's descriptor lies in (R380). -/
def descFar (a off : Nat) : Far := fun _ s t =>
  match s.descCheck t (t.w a) 64 with
  | .ok c => (c.place.plus off).grans 4
  | .error _ => []

/-- The checks of an engine command: its descriptor and the BARRIER that stands at an offset of it
(R291, R302). -/
def State.engineCheck (s : State) (t : Thread) (ea : DWord) (off : Nat) :
    Except FaultInfo (Acc × Nat) := do
  let a ← s.descCheck t ea 64
  let o ← s.descField t a ea off 4
  let _ ← s.barrierCheck t o
  .ok (a, o)

/-- XFORM in one thread (R291): the drain, then the command goes to the engine. -/
def xformEff (d a : Nat) (cx : Cx) (t : Thread) (r : Acc × Nat) (s : State) : State :=
  let s1 := (s.holdAcc t.core r.1).drain t.core
  let id := (s1.thread t.uid).nextPend
  let s2 := s1.pendResult cx t.uid .ax (gDests d 0) fun p => { p with kind := .engine }
  let b : XSub := ⟨t.uid, id, cx.slice, cx.team, t.w a, r.2, none, 0⟩
  State.tryXsubs { s2 with xsubs := s2.xsubs ++ [b] }

/-- XFORM (R291). -/
def execXform (e : Bool) (d a : BitVec 7) (s : State) : Out :=
  wordFar (.xform e d a) (descFar a.toNat 0x14)
    (holding (fun t _ => t.memoryOpen)
      (memAct (fun _ s t => s.engineCheck t (t.w a.toNat) 0x14) (xformEff d.toNat a.toNat))) s

/-- XWAIT (R297): the group parks until the objects of its live threads have arrived. -/
def execXwait (e : Bool) (a : BitVec 7) (s : State) : Out :=
  word (.xwait e a) (fun cx ts s =>
    let off := fun (t : Thread) => (t.g a.toNat).toNat
    let rs := ts.map fun t => (t, s.barrierCheck t (off t))
    let bad := rs.filterMap fun r => match r.2 with
      | .error f => some (r.1.uid, f)
      | .ok _ => none
    let ok := ts.filter fun t => !(bad.map (·.1)).contains t.uid
    let s1 := ok.foldl (fun s t => s.lastRelease (cx.of t) t.uid) s
    some (if ok.isEmpty then s1 else s1.addWait cx.gid (.xwait (ok.map fun t => (t.uid, off t)) cx.pc),
      bad)) s

/-- A transform is stopped at a chunk boundary (R299): it ends now, or, while its writes to other devices are on their
way, once they are performed (R290). -/
def State.stopXform (s : State) (x : Xform) : State :=
  if s.remoteStores (engineUid x.tag) then
    s.setXform x.tag fun (y : Xform) => { y with status := 4, page := none }
  else s.endXform x 4

/-- XCANCEL in one thread (R299). (DEDUCED, log 40) -/
def xcancelEff (d a : Nat) (cx : Cx) (t : Thread) (s : State) : State :=
  match s.xforms.find? fun x => x.tag == (t.g a).toNat && x.slice == cx.slice && !x.done with
  | some x => (s.stopXform x).pendResult cx t.uid .ax (gDests d 1) id
  | none => s.pendResult cx t.uid .ax (gDests d 0) id

/-- XCANCEL (R299). -/
def execXcancel (e : Bool) (d a : BitVec 7) (s : State) : Out :=
  word (.xcancel e d a)
    (eachLane fun cx t s => .ok (xcancelEff d.toNat a.toNat cx t s)) s

end Sys2Proof.Machine
end

