-- ==== Sys2Proof/Machine/Collective.lean ====
section
/-! DEFINITION. Collectives (R302 to R307): COLL, the messages of the members, the end of a collective. -/

namespace Sys2Proof.Machine

/-! ### Descriptors -/

/-- The collective that a descriptor of 64 bytes describes, for a slice and team (R302). -/
def Coll.ofBytes (l : List Byte) (slice team now : Nat) : Coll :=
  { tag := fieldAt l 0x28 8, slice := slice, team := team, op := byteAt l 0, redOp := byteAt l 1,
    fmt := byteAt l 2, narrow := byteAt l 3, root := byteAt l 4,
    members := BitVec.ofNat 64 (fieldAt l 8 8), buf := BitVec.ofNat 64 (fieldAt l 0x10 8),
    count := fieldAt l 0x18 4, barrier := fieldAt l 0x1C 4, resid := BitVec.ofNat 64 (fieldAt l 0x20 8),
    status := 0, mine := none, newResid := [], gen := 0, issuedAt := now, page := none,
    written := false }

/-- Whether a collective reduces. -/
def Coll.reduces (c : Coll) : Bool := c.op == 0 || c.op == 2

/-- Whether a descriptor is within its limits on a device (R302). A bit of MEMBERS for a device outside the domain is taken,
and ends as a member that never issues (R307). (DESIGN CHOICE, log 81) -/
def Coll.limitsOk (c : Coll) (l : List Byte) (dev : Nat) : Bool :=
  decide (c.op ≤ 3) && (!c.reduces || decide (c.redOp ≤ 2)) && (c.fmt == 0 || c.fmt == 1 || c.fmt == 3) &&
    (c.narrow == 0 || ((c.narrow == 4 || c.narrow == 5 || c.narrow == 6) && c.reduces && c.redOp == 0)) &&
    fieldAt l 5 3 == 0 && fieldAt l 0x30 8 == 0 && fieldAt l 0x38 8 == 0 && decide (1 ≤ c.count) &&
    (c.narrow != 0 || c.resid == 0) && (c.op != 3 || (decide (c.root < 64) && c.members.getLsbD c.root)) &&
    c.members.getLsbD dev

/-- The fields on which members must agree (R303). -/
def Coll.fields (c : Coll) : List Nat :=
  [c.op, c.redOp, c.fmt, c.narrow, c.root, c.members.toNat, c.count]

/-- The members, ascending. -/
def Coll.devs (c : Coll) : List Nat := bitsOf 64 c.members.getLsbD

/-- The rank of a device (R303). -/
def Coll.rank (c : Coll) (dev : Nat) : Nat := (c.devs.filter (· < dev)).length

/-- The elements that a member reads: its first element and their number (R303). -/
def Coll.reads (c : Coll) (dev : Nat) : Nat × Nat :=
  if c.op = 1 then (c.rank dev * c.count, c.count)
  else if c.op = 2 then (0, c.devs.length * c.count)
  else if c.op = 3 && c.root != dev then (0, 0)
  else (0, c.count)

/-! ### Narrow contributions (R304) -/

/-- A block's scale byte for values that are finite, with a largest magnitude that is not 0. -/
def blockScale (narrow : Nat) (ys : List Val) : Nat :=
  let top := (ys.map fun y => match y with
    | .fin _ m e _ => if m = 0 then -100000 else (m.log2 : Int) + e
    | _ => -100000).foldl max (-100000)
  let emax : Int := if narrow = 4 then 8 else if narrow = 5 then 15 else 2
  (max 0 (min 254 (top - emax + 127))).toNat

/-- The contributions of a block and its new residuals, as encodings in the format. -/
def narrowBlock (fmt narrow : Nat) (ys : List Val) : List (Nat × Nat) :=
  let f := Fmt.ofCode fmt
  if ys.any fun y => !vfinite y then ys.map fun _ => (f.nanBits, 0)
  else
    let zero := ys.all Val.isZero
    let e : Int := if zero then 127 else (blockScale narrow ys : Nat)
    ys.map fun y =>
      let q := if zero then 0 else (roundTo (Fmt.ofCode narrow) 0 true false (y.scale (127 - e))).1
      let c := ((Fmt.ofCode narrow).dec q).scale (e - 127)
      ((roundTo f 0 false false c).1, (roundTo f 0 false false (vadd y c.neg)).1)

/-- The contributions and new residuals of some elements with their residuals (R304). -/
def narrowAll (fmt narrow : Nat) (xs rs : List Nat) : List (Nat × Nat) :=
  let f := Fmt.ofCode fmt
  let ys := xs.zipIdx.map fun x => rnd f (vadd (f.dec x.1) (f.dec (rs.getD x.2 0)))
  (blocksOf 32 ys).flatMap (narrowBlock fmt narrow)

/-! ### Reading a member's data -/

/-- Little-endian elements of some bytes. -/
def elemsOf (f : Nat) (bs : List Byte) : List Nat :=
  (List.range (bs.length / fmtBytes f)).map fun i => fieldAt bs (fmtBytes f * i) (fmtBytes f)

/-- Whether a residual header is this collective's (R304). -/
def Coll.headerOk (c : Coll) (h : List Byte) : Bool :=
  fieldAt h 0 8 == c.buf.toNat && fieldAt h 8 4 == c.count && byteAt h 0xC == c.fmt && byteAt h 0xD == c.narrow

/-- What a member contributes: its data, its new residuals and their GEN. (DEDUCED, log 41) -/
def State.collData (s : State) (g : Eng) (c : Coll) (dev : Nat) :
    Except EStop (List Nat × List Nat × Nat) := do
  let e := fmtBytes c.fmt
  let r := c.reads dev
  let bs ← s.engBytes g (c.buf.toNat + e * r.1) (e * r.2)
  let xs := elemsOf c.fmt bs
  if c.narrow = 0 then .ok (xs, [], 0)
  else
    let h ← s.engBytes g c.resid.toNat 32
    let rb ← s.engBytes g (c.resid.toNat + 32) (e * c.count)
    let rs := if c.headerOk h then elemsOf c.fmt rb else []
    let n := narrowAll c.fmt c.narrow xs rs
    .ok (n.map (·.1), (n.map (·.2)).take c.count, fieldAt h 0x10 4)

/-- Change a collective. -/
def State.setColl (s : State) (tag : Nat) (f : Coll → Coll) : State :=
  { s with colls := s.colls.map fun c => if c.tag = tag then f c else c }

/-- A collective meets a stop. (DEDUCED, log 41) -/
def State.collStop (s : State) (c : Coll) (e : EStop) : State :=
  match e with
  | .status n => s.setColl c.tag fun y => { y with status := n }
  | .far g => s.ask (collUid c.tag) [g]
  | .page va k =>
    if s.pf.size = 0 then s.setColl c.tag fun y => { y with status := 5 }
    else (s.setColl c.tag fun y => { y with page := some (va / 65536) }).pfJoin (s.slice c.slice).asid va
      c.slice k []

/-- The devices outside MEMBERS that have been heard of under a collective's TAG: their MEMBERS differs (R303). -/
def State.collStrangers (s : State) (c : Coll) : List Nat :=
  (((s.collIn.filter (·.tag == c.tag)).map (·.src)).filter fun d => !c.devs.contains d).dedup

/-- The collective engine reads a member's data and sends it to the other members (R303, R305, R427), and to those that count
this device as a member though it does not count them. (DEDUCED, log 41) -/
def State.collRead (s : State) (c : Coll) : State :=
  if c.status != 0 || c.mine.isSome || c.page.isSome || s.asking (collUid c.tag) then s
  else
    match s.collData (s.eng (collUid c.tag) c.slice c.team) c s.devid with
    | .error e => s.collStop c e
    | .ok d =>
      let s1 := (s.setColl c.tag fun y => { y with mine := some d.1, newResid := d.2.1, gen := d.2.2 }).forget
        [collUid c.tag]
      (c.devs.filter (· != s.devid) ++ s1.collStrangers c).foldl (fun s v => s.send (.coll v c.tag c.fields d.1)) s1

/-- The messages of collectives without the first that each device sent under a TAG: what follows it is of the device's next
collective with the TAG (R303). -/
def dropFirsts (tag : Nat) : List Nat → List CollMsg → List CollMsg
  | _, [] => []
  | seen, m :: r =>
    if m.tag = tag && !seen.contains m.src then dropFirsts tag (m.src :: seen) r else m :: dropFirsts tag seen r

/-- A collective ends with a code: its messages go, and its barrier object is updated (R290). -/
def State.endColl (s : State) (c : Coll) (status : Nat) : State :=
  State.engineEnd (State.forget { s with
    colls := s.colls.filter (·.tag != c.tag)
    collIn := dropFirsts c.tag [] s.collIn } [collUid c.tag]) c.team c.barrier status

/-- The elements of a failed collective in BUF are unspecified (R307): they take free values. (DEDUCED, log 41) -/
def State.scrambleBuf (s : State) (c : Coll) : State :=
  let n := fmtBytes c.fmt * (if c.op = 1 || c.op == 2 then c.devs.length * c.count else c.count)
  let g := s.eng (collUid c.tag) c.slice c.team
  let bs := (List.range n).map fun i => Config.freeByte (s.fresh + i)
  { (s.engWrite g (s.engOut g (wholeBytes c.buf.toNat bs))) with fresh := s.fresh + n }

/-- A collective fails: STATUS 10 (R307). -/
def State.failColl (s : State) (c : Coll) : State := (s.scrambleBuf c).endColl c 10

/-- Whether a device has been declared failed (R425). -/
def State.declared (s : State) (dev : Nat) : Bool := s.fabric.members.any fun m => m.dev == dev && m.failed

/-! ### COLL -/

/-- Accept a collective (R302, R303): one with a member that has been declared failed ends at once (R307, R425). On a member
that is late by more than 2^32 cycles it goes on with the messages still held here, though the others have ended; the spec
speaks of the remaining members only. (DESIGN CHOICE, log 85) -/
def State.acceptColl (s : State) (c : Coll) (l : List Byte) : State :=
  if !c.limitsOk l s.devid then s.engineEnd c.team c.barrier 6
  else if s.colls.any (·.tag == c.tag) then s.engineEnd c.team c.barrier 9
  else
    let s1 := { s with colls := s.colls ++ [c] }
    if c.devs.any s.declared then s1.failColl c else s1.collRead c

/-- COLL in one thread (R302): the release at domain scope, then the command goes to the engine. -/
def collEff (a : Nat) (cx : Cx) (t : Thread) (r : Acc × Nat) (s : State) : State :=
  let s1 := (s.holdAcc t.core r.1).release t 8
  let s2 := s1.pendResult cx t.uid .ax [] id
  match s2.engBytes (s2.eng t.uid cx.slice cx.team) (t.w a).toNat 64 with
  | .ok l =>
    let c := Coll.ofBytes l cx.slice cx.team s2.now
    s2.acceptColl { c with barrier := r.2 } l
  | .error (.status n) => s2.engineEnd cx.team r.2 n
  | .error _ => s2.engineEnd cx.team r.2 5

/-- The granules of another device that a thread's collective descriptor lies in (R380). -/
def collFar (a : Nat) : Far := fun _ s t =>
  match s.descCheck t (t.w a) 64 with
  | .ok c => c.place.grans 64
  | .error _ => []

/-- COLL (R302). -/
def execColl (e : Bool) (a : BitVec 7) (s : State) : Out :=
  wordFar (.coll e a) (collFar a.toNat)
    (holding (releaseWaits 8)
      (memAct (fun _ s t => s.engineCheck t (t.w a.toNat) 0x1C) (collEff a.toNat))) s

/-! ### Messages and the end -/

/-- COLLECTIVE_CONTROL_MESSAGE (R303): kept in order. A device outside the MEMBERS of the open collective with its TAG is
told of that collective, once it has been sent to the others. (DEDUCED, log 41) -/
def execCollectiveControlMessage (src tag : Nat) (fields data : List Nat) (s : State) : Out :=
  let s1 := s.heard src
  let s2 := { s1 with collIn := s1.collIn ++ [⟨src, tag, fields, data, s.now⟩] }
  match s1.colls.find? (·.tag == tag) with
  | none => .next s2
  | some c =>
    match c.mine with
    | none => .next s2
    | some d =>
      if c.devs.contains src || (s1.collStrangers c).contains src then .next s2
      else .next (s2.send (.coll src tag c.fields d))

/-- The message of a member. -/
def State.collFrom (s : State) (tag dev : Nat) : Option CollMsg :=
  s.collIn.find? fun m => m.src == dev && m.tag == tag

/-- The combination of two elements (R304). -/
def Coll.combine (c : Coll) (x y : Nat) : Nat :=
  let f := Fmt.ofCode c.fmt
  if c.redOp = 0 then faddRne f x y
  else (fpPick (c.redOp == 2) f false x y).1

/-- Replace two neighbours of a list by their combination. -/
def joinAt (o : Nat → Nat → Nat) : Nat → List Nat → List Nat
  | 0, x :: y :: r => o x y :: r
  | n + 1, x :: r => x :: joinAt o n r
  | _, l => l

/-- Combine a list in an order that free values pick (R304): they pick which neighbours join. (DEDUCED, log 41) -/
def freeFold (o : Nat → Nat → Nat) : Nat → Nat → List Nat → Nat
  | 0, _, l => l.headD 0
  | n + 1, k, l => freeFold o n (k + 1) (joinAt o ((Config.freeWord k).toNat % (l.length - 1)) l)

/-- A list in an order that free values pick. (DEDUCED, log 41) -/
def freeOrder (k : Nat) (l : List Nat) : List Nat :=
  (sortBy (fun (x y : Nat × Nat) =>
    decide ((Config.freeWord (k + x.2)).toNat ≤ (Config.freeWord (k + y.2)).toNat)) l.zipIdx).map (·.1)

/-- The reduction of one element over the members, in an order that is not fixed (R144, R304). (DEDUCED, log 41) -/
def Coll.reduce (c : Coll) (k : Nat) (xs : List Nat) : Nat :=
  freeFold c.combine (xs.length - 1) (k + xs.length) (freeOrder k xs)

/-- The elements that a member receives: each its place in BUF and its value (R303). `data` gives every
member's data in rank order, `k` the first free value. -/
def Coll.result (c : Coll) (dev k : Nat) (data : List (List Nat)) : List (Nat × Nat) :=
  let r := c.rank dev
  let red := fun (i : Nat) => c.reduce (k + 256 * i) (data.map fun d => d.getD i 0)
  if c.op = 0 then (List.range c.count).map fun i => (i, red i)
  else if c.op = 1 then
    (List.range c.devs.length).flatMap fun j => if j = r then [] else
      (List.range c.count).map fun i => (j * c.count + i, (data.getD j []).getD i 0)
  else if c.op = 2 then
    (List.range c.count).map fun i => (r * c.count + i, red (r * c.count + i))
  else if c.root = dev then []
  else (List.range c.count).map fun i => (i, (data.getD (c.rank c.root) []).getD i 0)

/-- The bytes of a member's new residual buffer (R304). -/
def Coll.residBytes (c : Coll) : List Byte :=
  leBytes 8 c.buf.toNat ++ leBytes 4 c.count ++ leBytes 1 c.fmt ++ leBytes 1 c.narrow ++ leBytes 2 0 ++
    leBytes 4 (c.gen + 1) ++ leBytes 12 0 ++ c.newResid.flatMap (leBytes (fmtBytes c.fmt))

/-- A collective whose members have all been heard of ends (R303 to R305). -/
def State.finishColl (s : State) (c : Coll) (mine : List Nat) : State :=
  let ms := (c.devs.filter (· != s.devid) ++ s.collStrangers c).filterMap fun d => s.collFrom c.tag d
  if ms.any fun m => m.fields != c.fields then s.endColl c 9
  else
    let g := s.eng (collUid c.tag) c.slice c.team
    let data := c.devs.map fun d => if d = s.devid then mine
      else ((s.collFrom c.tag d).map (·.data)).getD []
    let e := fmtBytes c.fmt
    let res := (c.result s.devid s.fresh data).flatMap fun x =>
      wholeBytes (c.buf.toNat + e * x.1) (leBytes e x.2)
    let o := s.engOut g (res ++ (if c.narrow = 0 then [] else wholeBytes c.resid.toNat c.residBytes))
    match o.stop with
    | some z => s.collStop c z
    | none =>
      let s1 := { (s.engWrite g o) with fresh := s.fresh + 256 * (c.devs.length * c.count + 1) }
      if o.there.isEmpty then s1.endColl c 0 else s1.setColl c.tag fun y => { y with written := true }

/-- COLLECTIVE_COMPLETE (R305): not while HBM is in self-refresh (R443), and once every write has been performed
(R290). -/
def execCollectiveComplete (tag : Nat) (s : State) : Out :=
  match s.colls.find? (·.tag == tag) with
  | none => .next s
  | some c =>
    if c.page.isSome || s.mem.selfRefresh || s.remoteStores (collUid tag) then .next s
    else if c.written then .next (s.endColl c 0)
    else if c.status != 0 then .next (s.endColl c c.status)
    else
      match c.mine with
      | none => .next s
      | some mine =>
        if (c.devs.filter (· != s.devid)).all fun d => (s.collFrom tag d).isSome then
          .next (s.finishColl c mine)
        else .next s

/-- COLLECTIVE_MEMBER_TIMEOUT (R307): 2^32 cycles after the first acceptance known here. -/
def execCollectiveMemberTimeout (tag : Nat) (s : State) : Out :=
  match s.colls.find? (·.tag == tag) with
  | none => .next s
  | some c =>
    let first := ((s.collIn.filter (·.tag == tag)).map (·.at_)).foldl min c.issuedAt
    if first + 2 ^ 32 ≤ s.now && !c.written && (c.devs.any fun d => d != s.devid && (s.collFrom tag d).isNone) then
      .next (s.failColl c)
    else .next s

end Sys2Proof.Machine
end

