-- ==== Sys2Proof/Machine/Pocket.lean ====
section
/-! DEFINITION. Expert pockets (R309 to R319): POPEN, PCLAIM, PCLOSE, PBIAS. The pocket engine performs each
operation when its instruction issues, so that pocket order is the order of issue. -/

namespace Sys2Proof.Machine

/-! ### Pocket sets -/

/-- An open pocket set of a slice (R311). -/
def State.pocket? (s : State) (slice id : Nat) : Option PocketSet :=
  s.pockets.find? fun p => p.slice == slice && p.id == id

/-- Change a pocket set. -/
def State.setPocket (s : State) (slice id : Nat) (f : PocketSet → PocketSet) : State :=
  { s with pockets := s.pockets.map fun p => if p.slice = slice && p.id == id then f p else p }

/-- An expert of a set. -/
def PocketSet.expert (p : PocketSet) (e : Nat) : Expert := p.experts.getD e default

/-- Change an expert of a set. -/
def PocketSet.setExpert (p : PocketSet) (e : Nat) (x : Expert) : PocketSet :=
  { p with experts := p.experts.set e x }

/-- The unused reservation of a sender (R313). -/
def PocketSet.unused (p : PocketSet) (x : Expert) (v : Nat) : Nat :=
  p.reserve - x.own.getD v 0 - x.stolen.getD v 0

/-- The descriptor of 64 bytes, as an open set without experts (R310). -/
def PocketSet.ofBytes (l : List Byte) (slice id : Nat) : PocketSet :=
  { slice := slice, id := id, senders := byteAt l 2, reserve := byteAt l 3, cap := fieldAt l 4 4,
    biasVa := BitVec.ofNat 64 (fieldAt l 8 8), step := BitVec.ofNat 32 (fieldAt l 0x10 4),
    target := fieldAt l 0x14 4, countVa := BitVec.ofNat 64 (fieldAt l 0x18 8), team0 := byteAt l 0x20,
    experts := [] }

/-- EXPERTS of a descriptor. -/
def popenExperts (l : List Byte) : Nat := fieldAt l 0 2

/-- Whether a descriptor is within the limits of R310; a reserved byte that is not zero is a field outside them.
(DEDUCED, log 42) -/
def popenOk (l : List Byte) : Bool :=
  let p := PocketSet.ofBytes l 0 0
  decide (1 ≤ popenExperts l) && decide (popenExperts l ≤ 256) && decide (1 ≤ p.senders) &&
    decide (p.senders ≤ 64) && decide (1 ≤ p.cap) && decide (p.cap ≤ 65536) &&
    decide (p.senders * p.reserve ≤ p.cap) && p.biasVa.toNat % 4 == 0 && p.countVa.toNat % 4 == 0 &&
    !p.step.getLsbD 31 && vfinite (Fmt.fp32.dec p.step.toNat) && decide (p.target ≤ p.cap) &&
    (l.drop 0x21).all (· == 0)

/-- Read `n` bytes at a place that a check gave, as a command copies its operands: at the L2 after the core's dirty
bytes have reached it, or at another device (R380). (DEDUCED, log 37) -/
def State.copyAt (s : State) (t : Thread) (p : Place) (ea : DWord) (n : Nat) : Except FaultInfo (List Byte) :=
  let d := s.drain t.core
  match d.dataFault t.uid t.core p n ea with
  | some f => .error f
  | none => .ok (d.readAny t.uid t.core p n true)

/-- Read a structure of 64 bytes at an address in any window, checked as a load (R148, R312, R329). -/
def State.readAt (s : State) (t : Thread) (ea : DWord) (align : Nat) : Except FaultInfo (List Byte) :=
  match s.check t ea align .read with
  | .error f => .error f
  | .ok a => s.copyAt t a.place ea 64

/-- Check a range of 4-byte words as loads and as stores (R312): an address that is not global raises Access, subcode 1,
here, after the fields of the descriptor. (DEDUCED, log 42) -/
def State.checkWords (s : State) (t : Thread) (va : DWord) : Nat → Except FaultInfo Unit
  | 0 => .ok ()
  | n + 1 =>
    if va.extractLsb' 57 7 != 0 then .error (accessFault 0x01 va)
    else
      match s.check t va 4 .read, s.check t va 4 .write with
      | .error f, _ => .error f
      | _, .error f => .error f
      | .ok _, .ok _ => s.checkWords t (va + 4) n

/-- A word of global memory that a pocket operation reads, at the L2 after the drain, or at another device (R380). -/
def State.pocketWord (s : State) (t : Thread) (va : DWord) : Except FaultInfo Word :=
  match s.check t va 4 .read with
  | .error f => .error f
  | .ok a =>
    match s.dataFault t.uid t.core a.place 4 va with
    | some f => .error f
    | none => .ok (BitVec.ofNat 32 (leNat (s.readAny t.uid t.core a.place 4 true)))

/-- Words that follow each other. -/
def State.pocketWords (s : State) (t : Thread) (va : DWord) : Nat → Except FaultInfo (List Word)
  | 0 => .ok []
  | n + 1 =>
    match s.pocketWord t va with
    | .error f => .error f
    | .ok v =>
      match s.pocketWords t (va + 4) n with
      | .error f => .error f
      | .ok r => .ok (v :: r)

/-- A word that a pocket operation stores, in coherence order at once. (DEDUCED, log 42) -/
def State.pocketStore (s : State) (t : Thread) (va : DWord) (v : Nat) : State :=
  match s.check t va 4 .write with
  | .error _ => s
  | .ok a =>
    match a.place with
    | .phys pa => (s.ownedStore (s.core t.core).die (numbered pa (leBytes 4 v)) none).markCmp a.place a.cmp
    | .remote h pa => s.remoteStore t.uid h pa va (leBytes 4 v)
    | _ => s

/-! ### POPEN -/

/-- A set as POPEN opens it (R312). -/
def PocketSet.opened (p : PocketSet) (biases : List Word) : PocketSet :=
  { p with experts := biases.map fun b =>
      { own := List.replicate p.senders 0, stolen := List.replicate p.senders 0,
        pool := (List.range p.cap).filter (p.senders * p.reserve ≤ ·), isSealed := false, bias := b } }

/-- The id that POPEN opens: the lowest free one, or the one named (R312). -/
def State.popenId (s : State) (slice : Nat) (reset : Option Nat) : Except FaultInfo Nat :=
  match reset with
  | none =>
    match (List.range 8).find? fun k => (s.pocket? slice k).isNone with
    | some k => .ok k
    | none => .error (queueFault 0x14)
  | some k =>
    match s.pocket? slice k with
    | none => .error (queueFault 0x11)
    | some p => if p.experts.any (!·.isSealed) then .error (queueFault 0x15) else .ok k

/-- The checks of POPEN and what it reads: the opened set (R312). -/
def State.popenRead (s : State) (t : Thread) (ea : DWord) (reset : Option Nat) :
    Except FaultInfo PocketSet := do
  let l ← s.readAt t ea 64
  if popenOk l then
    let e := popenExperts l
    let p := PocketSet.ofBytes l t.slice 0
    let _ ← s.checkWords t p.biasVa e
    let _ ← s.checkWords t p.countVa e
    let id ← s.popenId t.slice reset
    let bs ← (s.drain t.core).pocketWords t p.biasVa e
    .ok ({ p with id := id }.opened bs)
  else .error (queueFault 0x10)

/-- The granules of other devices that `n` words at a VA lie in. -/
def State.wordGrans (s : State) (t : Thread) (va : DWord) (n : Nat) : List Gran :=
  (List.range n).flatMap fun k =>
    match s.check t (va + BitVec.ofNat 64 (4 * k)) 4 .read with
    | .ok a => a.place.grans 4
    | .error _ => []

/-- What POPEN reads from other devices for its lowest thread: its descriptor, then the biases (R312, R380). -/
def popenFar (a : Nat) : Far := fun _ s t =>
  match s.check t (t.w a) 64 .read with
  | .error _ => []
  | .ok c =>
    let g := c.place.grans 64
    if !(s.missing t.uid g).isEmpty then g
    else
      match s.copyAt t c.place (t.w a) 64 with
      | .error _ => g
      | .ok l =>
        if popenOk l then g ++ s.wordGrans t (PocketSet.ofBytes l t.slice 0).biasVa (popenExperts l) else g

/-- Only the lowest of the live threads reads other devices' memory. -/
def wordFirst (i : Instr) (w : Far) (act : Act) (s : State) : Out :=
  .next (s.issue i (fun cx ts s => farHold w (fun _ _ s => act cx ts s) cx (ts.take 1) s)
    fun cx ts s => farAsk w cx (ts.take 1) s)

/-- POPEN: once for the live threads, with the lowest one's operands (R311, R312). (DEDUCED, log 42) -/
def popenAct (d a : Nat) (b : Option Nat) : Act := fun cx ts s =>
  match ts.head? with
  | none => some (s, [])
  | some t =>
    if ts.any Thread.memoryOpen then none
    else
      match s.popenRead t (t.w a) (b.map fun n => (t.g n).toNat) with
      | .error f => some (s, allFault ts f)
      | .ok p =>
        let s1 := ts.foldl (fun s t => (s.drain t.core).lastRelease (cx.of t) t.uid) s
        let s2 := { s1 with pockets :=
          p :: s1.pockets.filter fun q => !(q.slice == p.slice && q.id == p.id) }
        let s3 := (List.range p.experts.length).foldl
          (fun s e => s.pocketStore t (p.countVa + BitVec.ofNat 64 (4 * e)) 0) s2
        some (ts.foldl (fun s t =>
          s.pendResult cx t.uid .ax (gDests d (BitVec.ofNat 32 p.id)) id) s3, [])

/-- POPEN.new (R312). -/
def execPopenNew (e : Bool) (d a : BitVec 7) (s : State) : Out :=
  wordFirst (.popenNew e d a) (popenFar a.toNat) (popenAct d.toNat a.toNat none) s

/-- POPEN.reset (R312). -/
def execPopenReset (e : Bool) (d a b : BitVec 7) (s : State) : Out :=
  wordFirst (.popenReset e d a b) (popenFar a.toNat) (popenAct d.toNat a.toNat (some b.toNat)) s

/-! ### PCLAIM, PCLOSE, PBIAS -/

/-- The operands of a pocket operation of a thread: the set, the expert's number, the sender. -/
structure PocketArgs where
  set : PocketSet
  e : Nat
  sender : Nat
  deriving DecidableEq, Repr

/-- The checks of a pocket operation (R311). -/
def State.pocketArgs (s : State) (t : Thread) (a b : Nat) (sender : Bool) :
    Except FaultInfo PocketArgs :=
  match s.pocket? t.slice (t.g a).toNat with
  | none => .error (queueFault 0x11)
  | some p =>
    let e := (t.g b).toNat
    let v := (s.team t.team).idx
    if p.experts.length ≤ e then .error (queueFault 0x12)
    else if sender && (decide (v < p.team0) || decide (p.team0 + p.senders ≤ v)) then
      .error (queueFault 0x13)
    else .ok ⟨p, e, v - p.team0⟩

/-- The sender with the most unused reservation, the higher index on a tie (R313). -/
def PocketSet.victim (p : PocketSet) (x : Expert) : Option Nat :=
  (List.range p.senders).foldl (fun best v =>
    match best with
    | none => if 0 < p.unused x v then some v else none
    | some w => if p.unused x w ≤ p.unused x v then some v else some w) none

/-- A claim: the slot, the status, and the expert afterwards (R313). (DEDUCED, log 42) -/
def PocketSet.claim (p : PocketSet) (x : Expert) (v : Nat) : Word × Word × Expert :=
  if x.isSealed then (0xFFFFFFFF, 3, x)
  else if 0 < p.unused x v then
    (BitVec.ofNat 32 (v * p.reserve + x.own.getD v 0), 0, { x with own := x.own.set v (x.own.getD v 0 + 1) })
  else
    match x.pool with
    | n :: r => (BitVec.ofNat 32 n, 1, { x with pool := r })
    | [] =>
      match p.victim x with
      | some w =>
        (BitVec.ofNat 32 (w * p.reserve + p.reserve - 1 - x.stolen.getD w 0), 2,
          { x with stolen := x.stolen.set w (x.stolen.getD w 0 + 1) })
      | none => (0xFFFFFFFF, 4, x)

/-- PCLAIM in one thread (R313); a closed pocket makes it an acquire at device scope (R318). -/
def pclaimEff (d a b : Nat) (cx : Cx) (t : Thread) (s : State) : Except FaultInfo State := do
  let r ← s.pocketArgs t a b true
  let c := r.set.claim (r.set.expert r.e) r.sender
  let s1 := s.setPocket t.slice r.set.id fun p => p.setExpert r.e c.2.2
  let s2 := if c.2.1 = 3 then s1.acquire t 7 else s1
  .ok (s2.pendResult cx t.uid .ax (gDests d c.1 ++ gDests (d + 1) c.2.1) id)

/-- PCLAIM (R313): not while an acquire load of the thread is on its way (R186, R318). -/
def execPclaim (e : Bool) (d a b : BitVec 7) (s : State) : Out :=
  word (.pclaim e d a b)
    (holding (fun t _ => t.acquiring) (eachLane (pclaimEff d.toNat a.toNat b.toNat))) s

/-- PCLOSE.ret's return of a reservation (R314): the number returned and the expert afterwards. -/
def PocketSet.giveBack (p : PocketSet) (x : Expert) (v : Nat) : Nat × Expert :=
  if x.isSealed then (0, x)
  else
    let n := p.unused x v
    let o := x.own.getD v 0
    (n, { x with pool := x.pool ++ (List.range n).map fun i => v * p.reserve + o + i
                 own := x.own.set v (o + n) })

/-- PCLOSE.ret in one thread (R314): a release at device scope (R318). -/
def pcloseRetEff (d a b : Nat) (cx : Cx) (t : Thread) (s : State) : Except FaultInfo State := do
  let r ← s.pocketArgs t a b true
  let c := r.set.giveBack (r.set.expert r.e) r.sender
  .ok (((s.release t 7).setPocket t.slice r.set.id fun p => p.setExpert r.e c.2).pendResult cx t.uid .ax
    (gDests d (BitVec.ofNat 32 c.1)) id)

/-- PCLOSE.ret (R314). (DEDUCED, log 42) -/
def execPcloseRet (e : Bool) (d a b : BitVec 7) (s : State) : Out :=
  word (.pcloseRet e d a b)
    (holding (releaseWaits 7) (eachLane (pcloseRetEff d.toNat a.toNat b.toNat))) s

/-- The slots claimed of an expert (R315). -/
def PocketSet.fillOf (p : PocketSet) (x : Expert) : Nat :=
  p.cap - x.pool.length - ((List.range p.senders).map (p.unused x)).sum

/-- The bias after a seal (R315). -/
def PocketSet.newBias (p : PocketSet) (x : Expert) (fill : Nat) : Word :=
  if fill < p.target then BitVec.ofNat 32 (faddRne .fp32 x.bias.toNat p.step.toNat)
  else if p.target < fill then BitVec.ofNat 32 (faddRne .fp32 x.bias.toNat (p.step ||| 0x80000000).toNat)
  else x.bias

/-- PCLOSE.seal in one thread (R315): its stores to the bias and the count are checked again, as loads and as stores, before
it acts, which the spec does not say: a page that has lost a permission since POPEN raises Access and nothing is sealed.
(DESIGN CHOICE, log 85) -/
def pcloseSealEff (d a b : Nat) (cx : Cx) (t : Thread) (s : State) : Except FaultInfo State := do
  let r ← s.pocketArgs t a b false
  let x := r.set.expert r.e
  if x.isSealed then .ok (s.pendResult cx t.uid .ax (gDests d 0xFFFFFFFF) id)
  else
    let off := BitVec.ofNat 64 (4 * r.e)
    let _ ← s.checkWords t (r.set.biasVa + off) 1
    let _ ← s.checkWords t (r.set.countVa + off) 1
    let fill := r.set.fillOf x
    let bias := r.set.newBias x fill
    let s1 := (s.release t 7).setPocket t.slice r.set.id fun p =>
      p.setExpert r.e { x with isSealed := true, bias := bias }
    let s2 := s1.pocketStore t (r.set.biasVa + off) bias.toNat
    let s3 := s2.pocketStore t (r.set.countVa + off) (2 ^ 31 + fill)
    .ok (s3.pendResult cx t.uid .ax (gDests d (BitVec.ofNat 32 fill)) id)

/-- PCLOSE.seal (R315). -/
def execPcloseSeal (e : Bool) (d a b : BitVec 7) (s : State) : Out :=
  word (.pcloseSeal e d a b)
    (holding (releaseWaits 7) (eachLane (pcloseSealEff d.toNat a.toNat b.toNat))) s

/-- PBIAS in one thread (R317). -/
def pbiasEff (d a b : Nat) (cx : Cx) (t : Thread) (s : State) : Except FaultInfo State :=
  match s.pocketArgs t a b false with
  | .error f => .error f
  | .ok r => .ok (s.pendResult cx t.uid .ax (gDests d (r.set.expert r.e).bias) id)

/-- PBIAS (R317): not while an acquire load of the thread is on its way (R186, R318). -/
def execPbias (e : Bool) (d a b : BitVec 7) (s : State) : Out :=
  word (.pbias e d a b) (holding (fun t _ => t.acquiring) (eachLane (pbiasEff d.toNat a.toNat b.toNat))) s

end Sys2Proof.Machine
end

