-- ==== Sys2Proof/Machine/Admit.lean ====
section
/-! DEFINITION. The front end: launch blocks, the admission checks (R37, R38, R352, R385 to R387, R467,
R468), and where teams can be placed (R9 to R13, R35, R36, R396, R398, R399). -/

namespace Sys2Proof.Machine

/-! ### Launch blocks (R37) -/

/-- The role descriptor at an offset. -/
def RoleDesc.ofBytes (l : List Byte) (o : Nat) : RoleDesc :=
  ⟨fieldAt l o 4, fieldAt l (o + 4) 2, byteAt l (o + 6), byteAt l (o + 7)⟩

/-- The launch block that 256 bytes hold. (DEDUCED, log 28) -/
def Launch.ofBytes (l : List Byte) : Launch :=
  { version := byteAt l 4, pair := byteAt l 5 % 2 == 1, clusterShared := byteAt l 5 / 2 % 2 == 1,
    groupsPerTeam := byteAt l 6, roles := [8, 0x18, 0x28].map (RoleDesc.ofBytes l),
    scratchBytes := fieldAt l 0x38 4, poolPanels := fieldAt l 0x3C 2, tileWindow := byteAt l 0x3E + 1,
    queueDepth := [0x40, 0x41, 0x42, 0x43].map (byteAt l), priority := byteAt l 0x44,
    pclass := BitVec.ofNat 16 (fieldAt l 0x46 2), deadline := fieldAt l 0x48 8, budget := fieldAt l 0x50 8,
    trapVector := BitVec.ofNat 32 (fieldAt l 0x58 4), handlerStack := fieldAt l 0x5C 4,
    argPtr := BitVec.ofNat 64 (fieldAt l 0x60 8), argLen := BitVec.ofNat 32 (fieldAt l 0x68 4),
    chipScratch := fieldAt l 0x6C 4, spillBase := BitVec.ofNat 64 (fieldAt l 0x70 8),
    spillBytes := fieldAt l 0x78 8, codeObject := BitVec.ofNat 64 (fieldAt l 0x80 8),
    privateBytes := fieldAt l 0x88 4, callStackBytes := fieldAt l 0x8C 4 }

/-- MAGIC of a launch block. -/
def launchMagic : Nat := 0x424C4E4B

/-- Whether the reserved bytes and bits of a launch block are zero (R38). (DEDUCED, log 28) -/
def launchReserved (l : List Byte) : Bool :=
  byteAt l 5 / 4 == 0 && byteAt l 7 == 0 && fieldAt l 0x10 8 == 0 && fieldAt l 0x20 8 == 0 &&
    fieldAt l 0x30 8 == 0 && byteAt l 0x3F == 0 && byteAt l 0x45 == 0 && fieldAt l 0x46 2 / 512 == 0 &&
    (l.drop 0x90).all (· == 0)

/-- Whether a present role's fields are within their limits (R37). -/
def RoleDesc.ok (r : RoleDesc) : Bool :=
  r.groups == 0 || (r.entry % 4 == 0 && decide (r.groups ≤ 4096) && decide (4 ≤ r.gwLog2) &&
    decide (r.gwLog2 ≤ 6) && decide (r.regBudget ≤ 119))

/-- Whether every field of a launch block is within its limits (R37): TRAP_VECTOR, a PC, is a multiple of 4 (R43).
(DEDUCED, log 28) -/
def Launch.limitsOk (l : Launch) : Bool :=
  decide (1 ≤ l.groupsPerTeam) && decide (l.groupsPerTeam ≤ 16) && l.roles.all RoleDesc.ok &&
    l.scratchBytes % 256 == 0 && decide (l.scratchBytes ≤ 0x180000) && decide (l.poolPanels ≤ 384) &&
    decide (l.tileWindow ≤ 128) && (l.queueDepth.all fun d => d == 0 || (decide (2 ≤ d) && decide (d ≤ 16))) &&
    decide (l.priority ≤ 15) && l.privateBytes % 16 == 0 && decide (l.handlerStack ≤ l.privateBytes) &&
    l.chipScratch % 4096 == 0 && decide (l.chipScratch ≤ 0x10000000) && l.spillBase.toNat % 65536 == 0 &&
    l.callStackBytes % 4 == 0 && decide (l.callStackBytes + l.handlerStack ≤ l.privateBytes) &&
    (l.trapVector == 0xFFFFFFFF || l.trapVector.toNat % 4 == 0)

/-- The teams of a role (R11). -/
def Launch.roleTeams (l : Launch) (r : Nat) : Nat :=
  ((l.roles.getD r default).groups + l.groupsPerTeam - 1) / l.groupsPerTeam

/-- The teams of a slice in slice order: role, first group of the role, groups (R11). -/
def Launch.teams (l : Launch) : List (Nat × Nat × Nat) :=
  [0, 1, 2].flatMap fun r =>
    let g := (l.roles.getD r default).groups
    (List.range (l.roleTeams r)).map fun k =>
      (r, k * l.groupsPerTeam, min l.groupsPerTeam (g - k * l.groupsPerTeam))

/-- The threads of a slice. -/
def Launch.threadCount (l : Launch) : Nat := (l.roles.map RoleDesc.threads).sum

/-- The bytes that the spill region must have (R22). -/
def Launch.spillNeed (l : Launch) : Nat :=
  (l.roles.map fun r => r.threads * (l.privateBytes + 4 * r.regBudget)).sum

/-! ### Room on the cores (R398) -/

/-- The use of a lane: thread slots, committed and pinned registers, and the largest budget of an unpinned
thread. -/
structure LaneUse where
  slots : Nat
  regs : Nat
  pinned : Nat
  top : Nat
  deriving DecidableEq, Repr, Inhabited

/-- What a core has taken: its lanes, group slots, bytes of scratchpad and panels, tile-table entries. -/
structure Room where
  core : Nat
  lanes : List LaneUse
  groups : Nat
  bytes : Nat
  tiles : Nat
  deriving DecidableEq, Repr, Inhabited

/-- An empty core. -/
def Room.empty (core : Nat) : Room := ⟨core, List.replicate 64 ⟨0, 0, 0, 0⟩, 0, 0, 0⟩

/-- A lane with one more thread. -/
def LaneUse.add (u : LaneUse) (budget : Nat) (pinned : Bool) : LaneUse :=
  { slots := u.slots + 1, regs := u.regs + budget, pinned := if pinned then u.pinned + budget else u.pinned,
    top := if pinned then u.top else max u.top budget }

/-- Whether a lane's use is within its limits. -/
def LaneUse.ok (u : LaneUse) : Bool :=
  decide (u.slots ≤ 16) && decide (u.regs ≤ 7168) && decide (u.pinned + u.top ≤ 1792)

/-- A core with one more group slot at a base lane. -/
def Room.occupy (r : Room) (b w budget : Nat) (pinned : Bool) : Room :=
  { r with
    lanes := r.lanes.zipIdx.map fun u =>
      if b ≤ u.2 && u.2 < b + w then u.1.add budget pinned else u.1
    groups := r.groups + 1 }

/-- Whether a core's use is within its limits (R398). -/
def Room.ok (r : Room) : Bool :=
  r.lanes.all LaneUse.ok && decide (r.groups ≤ 64) && decide (r.bytes ≤ 0x180000) && decide (r.tiles ≤ 512)

/-- The base lane for one more group slot: of those that fit, the one whose lanes hold the fewest
threads, the lowest among equals. (DEDUCED, log 43) -/
def Room.base (r : Room) (w budget : Nat) (pinned : Bool) : Option Nat :=
  let bs := ((List.range (64 / w)).map (· * w)).filter fun b => (r.occupy b w budget pinned).ok
  bs.foldl (fun best b =>
    let n := (r.lanes.getD b default).slots
    match best with
    | none => some b
    | some c => if n < (r.lanes.getD c default).slots then some b else some c) none

/-- The rooms with one of them changed. -/
def setRoom (rs : List Room) (core : Nat) (f : Room → Room) : List Room :=
  rs.map fun r => if r.core = core then f r else r

/-- The room of a core. -/
def roomOf (rs : List Room) (core : Nat) : Room := (rs.find? (·.core == core)).getD default

/-- Take base lanes for the group slots of a team, slot `h` on core `h` modulo the team's cores (R12). -/
def takeSlots (cores : List Nat) (w budget : Nat) (pinned : Bool) :
    List Nat → List Room → Option (List Nat × List Room)
  | [], rs => some ([], rs)
  | h :: t, rs =>
    let c := cores.getD (h % cores.length) 0
    match (roomOf rs c).base w budget pinned with
    | none => none
    | some b =>
      match takeSlots cores w budget pinned t (setRoom rs c fun r => r.occupy b w budget pinned) with
      | none => none
      | some x => some (b :: x.1, x.2)

/-- What a team takes of a core beside its lanes (R226, R398): the `i`th core of its cores. -/
def Launch.teamRoom (l : Launch) (i : Nat) (r : Room) : Room :=
  let panels := if l.pair then (if i = 0 then (l.poolPanels + 1) / 2 else l.poolPanels / 2) else l.poolPanels
  let win := if l.pair then (if i = 0 then min 64 l.tileWindow else l.tileWindow - 64) else l.tileWindow
  { r with bytes := r.bytes + l.scratchBytes + 4096 * panels, tiles := r.tiles + win }

/-- Take all that a team takes of its cores. -/
def Launch.takeTeam (l : Launch) (role : Nat) (pinned : Bool) (cores : List Nat) (rs : List Room) :
    Option (List Nat × List Room) :=
  let d := l.roles.getD role default
  let rs1 := cores.zipIdx.foldl (fun rs c => setRoom rs c.1 (l.teamRoom c.2)) rs
  if cores.all fun c => (roomOf rs1 c).ok then
    takeSlots cores (2 ^ d.gwLog2) d.regBudget pinned (List.range l.groupsPerTeam) rs1
  else none

/-- The first of some core sets that a team fits. (DEDUCED, log 43) -/
def Launch.firstFit (l : Launch) (role : Nat) (pinned : Bool) (rs : List Room) :
    List (List Nat) → Option (List Nat × List Nat × List Room)
  | [] => none
  | cs :: t =>
    match l.takeTeam role pinned cs rs with
    | some x => some (cs, x.1, x.2)
    | none => l.firstFit role pinned rs t

/-- Places for teams, in order: the cores and base lanes of each. -/
def Launch.fitTeams (l : Launch) (pinned : Bool) (cands : List (List Nat)) :
    List Nat → List Room → Option (List (List Nat × List Nat))
  | [], _ => some []
  | r :: t, rs =>
    match l.firstFit r pinned rs cands with
    | none => none
    | some x =>
      match l.fitTeams pinned cands t x.2.2 with
      | none => none
      | some y => some ((x.1, x.2.1) :: y)

/-! ### Every way to place a gang

All teams of a role take the same, so how many of each role each core set takes says whether a gang can be placed. -/

/-- Group slots of one role that a core is to take: their width, the registers of a thread, and how many they are. -/
structure Seats where
  w : Nat
  budget : Nat
  n : Nat
  deriving DecidableEq, Repr, Inhabited

/-- A lane with the group slots that are as wide as a block of lanes that it lies in. -/
def seatHere (w : Nat) (pinned : Bool) (ds : List Seats) (u : LaneUse) : LaneUse :=
  ds.foldl (fun u d =>
    if d.w = w then (List.range d.n).foldl (fun u _ => u.add d.budget pinned) u else u) u

/-- The ways to share some numbers between two halves: what the first half gets, even shares first. -/
def shares : List Nat → List (List Nat)
  | [] => [[]]
  | n :: t => (sortBy (fun a b => decide (max a (n - a) ≤ max b (n - b))) (List.range (n + 1))).flatMap fun a =>
      (shares t).map (a :: ·)

/-- Group slots with other numbers of them. -/
def setSeats (ds : List Seats) (ns : List Nat) : List Seats := (ds.zip ns).map fun x => { x.1 with n := x.2 }

/-- The base lanes, role by role, of group slots in a block of `16·2^k` lanes from lane `b` on, where the block takes them
all: those narrower than it are shared between its halves in every way (R10, R398). -/
def seat (pinned : Bool) : Nat → Nat → List LaneUse → List Seats → Option (List (List Nat))
  | 0, b, us, ds =>
    if (us.map (seatHere 16 pinned ds)).all LaneUse.ok then some (ds.map fun d => List.replicate d.n b) else none
  | k + 1, b, us, ds =>
    let w := 16 * 2 ^ (k + 1)
    let us1 := us.map (seatHere w pinned ds)
    let here := ds.map fun d => if d.w = w then List.replicate d.n b else []
    let rest := ds.map fun d => if d.w = w then 0 else d.n
    if !us1.all LaneUse.ok || decide ((us1.map fun u => 16 - u.slots).sum < (ds.map fun d => if d.w = w then 0 else d.n * d.w).sum)
    then none
    else (shares rest).findSome? fun m =>
      match seat pinned k b (us1.take (w / 2)) (setSeats ds m) with
      | none => none
      | some x =>
        match seat pinned k (b + w / 2) (us1.drop (w / 2)) (setSeats ds ((rest.zip m).map fun y => y.1 - y.2)) with
        | none => none
        | some y => some ((here.zip (x.zip y)).map fun z => z.1 ++ z.2.1 ++ z.2.2)

/-- The group slots of a team on the `i`th of its cores (R12). -/
def Launch.slotsOn (l : Launch) (cores i : Nat) : Nat :=
  ((List.range l.groupsPerTeam).filter fun h => h % cores == i).length

/-- The base lanes, role by role, on each of the cores of a core set where it takes some number of teams of each role. -/
def Launch.fitMix (l : Launch) (pinned : Bool) (rs : List Room) (cores mix : List Nat) : Option (List (List (List Nat))) :=
  cores.zipIdx.mapM fun c =>
    let r := (List.range mix.sum).foldl (fun r _ => l.teamRoom c.2 r) (roomOf rs c.1)
    let k := l.slotsOn cores.length c.2
    if ({ r with groups := r.groups + mix.sum * k } : Room).ok then
      seat pinned 2 0 r.lanes (mix.zipIdx.map fun n =>
        let d := l.roles.getD n.2 default
        ⟨2 ^ d.gwLog2, d.regBudget, n.1 * k⟩)
    else none

/-- The numbers of teams of each role that a core set takes together, at most `want`: for each number of those before the
last role, as many of the last as it takes. -/
def Launch.menu (l : Launch) (pinned : Bool) (rs : List Room) (cores want : List Nat) : List (List Nat) :=
  let upTo := fun n => (List.range (n + 1)).reverse
  let takes := fun m => (l.fitMix pinned rs cores m).isSome
  let top := fun r => ((upTo (want.getD r 0)).find? fun n => takes ((List.replicate 3 0).set r n)).getD 0
  [0, 0, 0] :: (upTo (top 0)).flatMap fun a => (upTo (top 1)).filterMap fun b =>
    ((upTo (top 2)).find? fun c => takes [a, b, c]).map fun c => [a, b, c]

/-- Whether some numbers are each at most others. -/
def allLe (a b : List Nat) : Bool := (a.zip b).all fun x => decide (x.1 ≤ x.2)

/-- Of some ways to place teams, those that no other one is as good as: the teams of each role placed, and the number of
them on each core set. -/
def bestWays (ws : List (List Nat × List (List Nat × List Nat))) : List (List Nat × List (List Nat × List Nat)) :=
  ws.foldl (fun acc x =>
    if acc.any fun y => allLe x.1 y.1 then acc else x :: acc.filter fun y => !allLe y.1 x.1) []

/-- A way to place so many teams of each role on some core sets, with the numbers of teams that each takes. -/
def spread (want : List Nat) : List (List Nat × List (List Nat)) → List (List Nat × List (List Nat × List Nat)) →
    Option (List (List Nat × List Nat))
  | us, ws =>
    match ws.find? (·.1 == want), us with
    | some x, _ => some x.2
    | none, [] => none
    | none, u :: t => spread want t (bestWays (ws.flatMap fun x => u.2.map fun m =>
        let n := (m.zip (want.zip x.1)).map fun y => min y.1 (y.2.1 - y.2.2)
        ((x.1.zip n).map fun y => y.1 + y.2, x.2 ++ [(u.1, n)])))

/-- The places of the teams of a role that a core set takes, from its base lanes. -/
def Launch.mixPlaces (l : Launch) (cores : List Nat) (bases : List (List (List Nat))) (role n : Nat) :
    List (List Nat × List Nat) :=
  (List.range n).map fun j => (cores, (List.range l.groupsPerTeam).map fun h =>
    let i := h % cores.length
    ((bases.getD i []).getD role []).getD (j * l.slotsOn cores.length i + h / cores.length) 0)

/-- Places for a whole gang on some core sets that have no core in common, wherever there is a way to place it
(R398, R399). (DEDUCED, log 43) -/
def Launch.pack (l : Launch) (pinned : Bool) (rs : List Room) (sets : List (List Nat)) :
    Option (List (List Nat × List Nat)) :=
  let want := [0, 1, 2].map l.roleTeams
  if !l.limitsOk || decide (256 < l.teams.length) then none
  else
    let key := fun (cs : List Nat) => cs.map fun c => { roomOf rs c with core := 0 }
    let menus := sets.foldl (fun (acc : List (List Room × List (List Nat))) cs =>
      if acc.any (·.1 == key cs) then acc else acc ++ [(key cs, l.menu pinned rs cs want)]) []
    match spread want (sets.map fun cs => (cs, ((menus.find? (·.1 == key cs)).map (·.2)).getD [])) [([0, 0, 0], [])] with
    | none => none
    | some ps => some ([0, 1, 2].flatMap fun r => ps.flatMap fun p =>
        l.mixPlaces p.1 ((l.fitMix pinned rs p.1 p.2).getD []) r (p.2.getD r 0))

/-- The core sets that a team may take among some cores (R12). -/
def Launch.coreSets (l : Launch) (cores : List Nat) : List (List Nat) :=
  if l.pair then (cores.filter (· % 2 == 0)).filterMap fun c =>
    if cores.contains (c + 1) then some [c, c + 1] else none
  else cores.map fun c => [c]

/-- The places of a whole gang among some cores, if there is a way to place it: each team where it first fits, or in any
other way. (DEDUCED, log 43) -/
def Launch.fitOn (l : Launch) (pinned : Bool) (rs : List Room) (cores : List Nat) : Option (List (List Nat × List Nat)) :=
  match l.fitTeams pinned (l.coreSets cores) (l.teams.map (·.1)) rs with
  | some x => some x
  | none => l.pack pinned rs (l.coreSets cores)

/-- The first of some sets of cores that takes a whole gang (R399): its places. (DEDUCED, log 43) -/
def Launch.fitGang (l : Launch) (pinned : Bool) (rs : List Room) :
    List (List Nat) → Option (List (List Nat × List Nat))
  | [] => none
  | cores :: t =>
    match l.fitOn pinned rs cores with
    | some x => some x
    | none => l.fitGang pinned rs t

/-! ### Where a slice may go (R35, R36, R370, R393, R395) -/

/-- A size rounded up to 4 KiB. -/
def up4k (n : Nat) : Nat := (n + 4095) / 4096 * 4096

/-- Whether a slice is live: admitted and not ended. -/
def Slice.live (l : Slice) : Bool := !l.ended

/-- Whether a job of a slice is in progress: it ends at the latest with the slice's last thread (R391, R392). -/
def Slice.inJob (l : Slice) : Bool := l.live && l.jobOpen && l.endMark.isNone

/-- Bytes of chip scratchpad still free on a die (R36). -/
def State.chipFree (s : State) (die : Nat) : Nat :=
  s.chipCarve die - ((s.slices.filter fun l => l.live && l.chipDie == some die).map
    fun l => up4k l.launch.chipScratch).sum

/-- The stop latency of a class (R401), by its bit in PCLASS_MASK; class X as 6,400 (R395). -/
def classLatency : List Nat := [96, 1800, 6400, 160, 700, 2200, 9600, 120, 3000]

/-- The stop latency of a slice (R395). -/
def Launch.stopLatency (l : Launch) : Nat :=
  4096 + ((List.range 9).map fun k => if l.pclass.getLsbD k then classLatency.getD k 0 else 0).foldl max 0

/-- Whether a slice's stop latency leaves every contract of a cluster its deadline (R395). -/
def State.latencyOk (s : State) (l : Launch) (cluster : Nat) : Bool :=
  s.contracts.all fun k => k.cluster != cluster || decide (k.budget + l.stopLatency ≤ k.deadline)

/-- The sets of cores among which a gang's teams must all lie: the whole device, one cluster for a
cluster-shared slice, one die for a slice with chip scratchpad, the contract's cores. -/
def State.coreChoices (s : State) (l : Launch) (contract : Option Contract) (chipFree : Nat → Nat) :
    List (List Nat) :=
  let cs := match contract with
    | some k => s.cores.filter fun (c : Core) => c.clusterNo == k.cluster && decide (c.num % 4 < k.cores)
    | none => s.cores.filter fun (c : Core) => s.latencyOk l c.clusterNo
  let dies := if l.chipScratch = 0 then [cs]
    else ([0, 1].filter fun d => up4k l.chipScratch ≤ chipFree d).map fun d => cs.filter fun (c : Core) => c.die == d
  (if l.clusterShared then
    dies.flatMap fun (x : List Core) =>
      ((x.map Core.clusterNo).dedup).map fun k => x.filter fun (c : Core) => c.clusterNo == k
  else dies).map fun (x : List Core) => x.map (·.num)

/-- The rooms of an empty device. -/
def State.emptyRooms (s : State) : List Room := s.cores.map fun c => Room.empty c.num

/-- The rooms with a team's place taken. -/
def addTeam (l : Launch) (role : Nat) (pinned : Bool) (cores bases : List Nat) (rs : List Room) :
    List Room :=
  let d := l.roles.getD role default
  let rs1 := cores.zipIdx.foldl (fun rs c => setRoom rs c.1 (l.teamRoom c.2)) rs
  bases.zipIdx.foldl (fun rs b =>
    setRoom rs (cores.getD (b.2 % cores.length) 0) fun r => r.occupy b.1 (2 ^ d.gwLog2) d.regBudget pinned) rs1

/-- Whether a team's place on its cores is taken: it is there, or its contract keeps it (R396). -/
def State.keepsPlace (s : State) (m : Team) : Bool :=
  m.onCore || (s.contracted (s.slice m.slice) && (s.slice m.slice).live)

/-- The rooms that the teams leave, those of some slices and some teams not counted (R396, R398). -/
def State.teamRooms (s : State) (skip mine : List Nat) : List Room :=
  (s.teams.filter fun m => s.keepsPlace m && !skip.contains m.slice && !mine.contains m.uid).foldl (fun rs m =>
    let l := s.slice m.slice
    addTeam l.launch m.role (s.contracted l) m.cores m.bases rs) s.emptyRooms

/-- The rooms left once what is held for spanning gangs is taken (R399). -/
def State.gangRooms (s : State) (skip : List Nat) (rs : List Room) : List Room :=
  (s.slices.filter fun l => l.live && !skip.contains l.num).foldl (fun rs l =>
    l.gang.foldl (fun rs p => addTeam l.launch p.1 (s.contracted l) p.2.1 p.2.2 rs) rs) rs

/-- The places that a contract's gang takes in some rooms, whatever chip scratchpad is taken now. -/
def State.gangIn (s : State) (l : Slice) (rs : List Room) : Option (List (List Nat × List Nat)) :=
  l.launch.fitGang true rs (s.coreChoices l.launch (l.contract.bind s.contract?) s.chipCarve)

/-- The rooms with the places of a contract's gang taken. -/
def Launch.reserve (l : Launch) (ps : List (List Nat × List Nat)) (rs : List Room) : List Room :=
  (ps.zip l.teams).foldl (fun rs p => addTeam l p.2.1 true p.1.1 p.1.2 rs) rs

/-- The rooms left once what contracts reserve and have not yet taken is taken too, whatever stands there now, and what
is held for spanning gangs (R396, R399): some slices and some teams are not counted, nor what is held for the slice
`own`. The places of a contract are those that it takes beside the other contracts. -/
def State.rooms (s : State) (own : Nat) (skip mine : List Nat) : List Room :=
  let batch := (s.slices.filter fun l => !s.contracted l).map (·.num)
  ((s.slices.filter fun l => l.live && s.contracted l && !l.placed && !skip.contains l.num).foldl
    (fun (x : List Room × List Room) l =>
      match s.gangIn l x.1 with
      | none => x
      | some ps => (l.launch.reserve ps x.1, l.launch.reserve ps x.2))
    (s.teamRooms (batch ++ skip) mine, s.gangRooms (own :: skip) (s.teamRooms skip mine))).2

/-! ### Admission (R385) -/

/-- A launch that the front end is to check: its launch block; the code object it names, by CODE_ID, by the
issuer's own, or by the block's CODE_OBJECT; what replaces fields of the block; whether it makes a
supervisor slice; the originator's address space; its handle; the header and arguments to be placed in the
argument pool; an argument block given instead; its watch and contract. -/
structure LaunchReq where
  block : List Byte
  codeId : Option Nat := none
  ownCode : Option CodeObj := none
  entry : Nat := 0xFFFFFFFF
  deadline : Nat := 0
  budget : Nat := 0
  prioCap : Option Nat := none
  super : Bool := false
  asid : Nat := 0
  anyAsid : Bool := false
  handle : Option DWord := none
  args : Option (List Byte) := none
  argPtr : Option (DWord × Word) := none
  watch : Option Nat := none
  contract : Option Contract := none

/-- The launch block of a request after its replacements (R330, R349, R393), but for CODE_OBJECT. -/
def LaunchReq.launch (q : LaunchReq) : Launch :=
  let l := Launch.ofBytes q.block
  let c := l.roles.getD 1 default
  { l with
    roles := if q.entry = 0xFFFFFFFF then l.roles else l.roles.set 1 { c with entry := q.entry }
    deadline := if q.deadline = 0 then l.deadline else q.deadline
    budget := if q.budget = 0 then l.budget else q.budget
    priority := match q.prioCap with | some p => min l.priority p | none => l.priority }

/-- The code object of a request (R330, R349, R467). -/
def State.reqCode (s : State) (q : LaunchReq) : Option CodeObj :=
  match q.ownCode, q.codeId with
  | some c, _ => some c
  | none, some k => s.codes.find? (·.id == k)
  | none, none => s.codes.find? fun c => c.base == (Launch.ofBytes q.block).codeObject && c.asid == q.asid

/-- Whether entries and trap vector lie inside a code object (R352). -/
def Launch.inCode (l : Launch) (len : Nat) : Bool :=
  (l.roles.all fun r => r.groups == 0 || decide (r.entry < len)) &&
    (l.trapVector == 0xFFFFFFFF || decide (l.trapVector.toNat < len))

/-- The blocks of the argument pool (R468). -/
def State.poolBlocks (s : State) : Nat := (s.mgmt.invArgs.extractLsb' 48 16).toNat

/-- Whether a gang could be placed on an empty device (R385 0x09, R370). (DEDUCED, log 43) -/
def State.placeable (s : State) (l : Launch) (contract : Option Contract) : Bool :=
  (l.fitGang contract.isSome s.emptyRooms
    ({ s with contracts := [] }.coreChoices l contract s.chipCarve)).isSome

/-- The admission checks 0x01 to 0x09, in order, with the refusal code of each (R385). (DEDUCED, log 45) -/
def State.admitChecks (s : State) (q : LaunchReq) : List (Bool × Nat) :=
  let l := q.launch
  let code := s.reqCode q
  [ (fieldAt q.block 0 4 != launchMagic, 1),
    (l.version == 0 || decide (3 < l.version), 2),
    (!launchReserved q.block, 3),
    (!l.limitsOk, 4),
    (l.teams.isEmpty || decide (256 < l.teams.length), 5),
    (decide (l.spillBytes < l.spillNeed), 6),
    ((match code with | none => true | some c => !l.inCode c.len), 7),
    ((match code with
      | none => true
      | some c => (s.root 0 c.asid).isNone || !(q.anyAsid || c.asid == q.asid)), 8),
    (!s.placeable l q.contract || (q.args.isSome && s.poolBlocks == 0), 9) ]

/-- The refusal code of a launch, if any. (DEDUCED, log 45) -/
def firstRefusal : List (Bool × Nat) → Option Nat
  | [] => none
  | c :: r => if c.1 then some c.2 else firstRefusal r

/-- A slice number for a new slice: ascending, wrapping, live numbers skipped (R351). -/
def State.freeSlice (s : State) : Nat :=
  let ok := fun n => !(s.slices.any fun l => l.num == n && l.live)
  ((List.range (s.slices.length + 1)).map fun i => (s.nextSlice + i) % 2 ^ 20).find? ok |>.getD s.nextSlice

/-- An ended slice whose number is allocated again gives up its record; what operations and transforms of its teams still
run goes on under a number that no slice has (R351). -/
def State.retire (s : State) (n : Nat) : State :=
  if !s.teams.any (·.slice == n) then { s with slices := s.slices.filter (·.num != n) }
  else
    let k := (s.slices.map (·.num)).foldl max (2 ^ 20) + 1
    let mv := fun (m : Nat) => if m = n then k else m
    { s with
      slices := s.slices.map fun l => { l with num := mv l.num }
      teams := s.teams.map fun m => { m with slice := mv m.slice }
      groups := s.groups.map fun g => { g with slice := mv g.slice }
      threads := s.threads.map fun t => { t with slice := mv t.slice }
      xsubs := s.xsubs.map fun (x : XSub) => { x with slice := mv x.slice }
      xforms := s.xforms.map fun (x : Xform) => { x with slice := mv x.slice }
      colls := s.colls.map fun (c : Coll) => { c with slice := mv c.slice } }

/-- A role queue as a slice starts it (R284). -/
def RoleQueue.start (d : Nat) : RoleQueue := ⟨d, [], false, false, [], [], [], []⟩

/-- The record of a newly admitted slice. -/
def newSlice (num : Nat) (l : Launch) (c : CodeObj) (q : LaunchReq) (now : Nat) : Slice :=
  { num := num, launch := { l with codeObject := c.base }, codeBase := c.base, codeLen := c.len,
    codeId := c.id, asid := c.asid, super := q.super, placed := false, resident := false,
    suspended := false, held := false, ended := false, faulted := false, exit := none, handle := q.handle,
    watch := q.watch, contract := q.contract.map (·.id), endMark := none, waitsAt := none,
    turn := [], forHead := false, gang := [], argBlock := none, faults := 0, undecl := 0,
    defer := 0, double := 0, bmiss := 0, budgetLeft := l.budget, allowance := none,
    jobOpen := q.contract.isNone, releaseAt := now,
    deadlineAt := if l.deadline = 0 then none else some (now + l.deadline), deadlineMissed := false,
    heldRelease := none, window := none, stopReq := none, queues := l.queueDepth.map RoleQueue.start,
    chip := [], chipPoison := [], chipDie := none, trctl := 0, trbase := 0, trbaseHi := 0, trsize := 0,
    trhead := 0, trdrop := 0, dbgHold := false, dbgStop := false }

/-- The lowest free block of the argument pool (R468). -/
def State.freeBlock (s : State) : Option Nat :=
  (List.range s.poolBlocks).find? fun b => !(s.slices.any fun l => l.live && l.argBlock == some b)

/-- Put an invocation's header and arguments into a block of the pool, at the L2 (R468). (DEDUCED, log 46) -/
def State.placeArgs (s : State) (num b : Nat) (bytes : List Byte) : State :=
  let pa := (s.mgmt.invArgs.extractLsb' 0 48).toNat + 8192 * b
  (s.ownedStore 0 (numbered pa bytes) none).setSlice num fun l => { l with
    argBlock := some b
    launch := { l.launch with
      argPtr := s.mgmt.invArgsVa + BitVec.ofNat 64 (8192 * b), argLen := BitVec.ofNat 32 bytes.length } }

/-- Give free blocks to invocations that wait for one, in order. -/
def State.giveBlocks (s : State) : State :=
  s.waitingInv.foldl (fun s w =>
    match s.freeBlock with
    | none => s
    | some b => { (s.placeArgs w.1 b w.2) with waitingInv := s.waitingInv.filter (·.1 != w.1) }) s

/-- Admit a launch, or give its refusal code; a refusal changes nothing (R385, R387). The new slice's
number comes first. -/
def State.admitSlice (s : State) (q : LaunchReq) : Except Nat (Nat × State) :=
  match firstRefusal (s.admitChecks q), s.reqCode q with
  | some c, _ => .error c
  | none, none => .error 7
  | none, some c =>
    let n := s.freeSlice
    let l := q.launch
    let l1 := match q.argPtr with
      | some a => { l with argPtr := a.1, argLen := a.2 }
      | none => l
    let s0 := s.retire n
    let s1 := { s0 with
      slices := s0.slices ++ [newSlice n l1 c q s.now]
      nextSlice := (n + 1) % 2 ^ 20 }
    match q.args with
    | none => .ok (n, s1)
    | some bs => .ok (n, State.giveBlocks { s1 with waitingInv := s1.waitingInv ++ [(n, bs)] })

/-- Log a refusal (R386): the last 64. A refused launch has no slice number (R387), so the number that the
log shows is a free value. (DEDUCED, log 45) -/
def State.logRefusal (s : State) (code : Nat) : State :=
  let r : Refused := ⟨(Config.freeWord s.fresh).toNat % 2 ^ 20, code, s.now⟩
  { s.tick with refusals := (s.refusals ++ [r]).drop (s.refusals.length + 1 - 64) }

/-- INVQ_STARVE: the admitted slices not yet placed (R385). -/
def State.starve (s : State) : Nat := (s.slices.filter fun l => l.live && !l.placed).length

end Sys2Proof.Machine
end

