-- ==== Sys2Proof/Machine/Cloak.lean ====
section
/-! DEFINITION. The Cloakroom: handles, entries, the messages between devices, and the dispatch of
invocations to admission (R321 to R324, R329 to R343, R426). -/

namespace Sys2Proof.Machine

/-! ### Handles (R321, R322) -/

/-- A handle of a home device, kind, generation and slot. -/
def handleOf (home kind gen slot : Nat) : DWord :=
  BitVec.ofNat 64 (home * 2 ^ 58 + kind * 2 ^ 56 + gen * 2 ^ 40 + slot)

/-- The home device of a handle. -/
def homeOf (h : DWord) : Nat := (h.extractLsb' 58 6).toNat

/-- A handle but for its KIND: what names an entry (R322). -/
def slotKey (h : DWord) : DWord := h &&& 0xFCFFFFFFFFFFFFFF

/-- Whether two handles name the same entry (R322). -/
def sameEntry (a b : DWord) : Bool := slotKey a == slotKey b

/-- Whether a handle is a bare future's (R321). -/
def bareFuture (h : DWord) : Bool := h.extractLsb' 56 2 == 1

/-- The null handle, or an invalid one. -/
def badHandle (h : DWord) : Bool := h == 0 || h.extractLsb' 56 2 == 3 || h.extractLsb' 16 24 != 0

/-- The generation after a generation (R322). -/
def nextGen (g : Nat) : Nat := if g = 0xFFFF then 1 else g + 1

/-- The generation of a slot. -/
def Cloak.gen (c : Cloak) (slot : Nat) : Nat := ((c.gens.find? (·.1 == slot)).map (·.2)).getD 0

/-- The lowest-numbered free slot (R324). -/
def Cloak.freeSlot (c : Cloak) : Option Nat :=
  (List.range (c.entries.length + 1)).find? fun n =>
    decide (n < 65536) && !(c.entries.any (·.slot == n))

/-- A newly allocated entry. -/
def Entry.start (slot : Nat) (h : DWord) (isHome : Bool) : Entry :=
  { slot := slot, handle := h, isHome := isHome, st := .pending, location := none,
    value := List.replicate 32 0, waiters := [], invhQ := [], held := [], cause := 0, depth := 0,
    released := false, resLen := 0, resVa := 0, slice := none, up := none }

/-- Allocate the lowest free slot for an entry whose handle its slot and generation give (R322, R324). -/
def Cloak.alloc (c : Cloak) (mk : Nat → Nat → DWord) (isHome : Bool) : Option (DWord × Cloak) :=
  match c.freeSlot with
  | none => none
  | some n =>
    let g := nextGen (c.gen n)
    let h := mk n g
    some (h, { c with gens := (n, g) :: c.gens.filter (·.1 != n)
                      entries := c.entries ++ [Entry.start n h isHome] })

/-- Allocate a home entry of a kind on this device. -/
def State.allocHome (s : State) (kind : Nat) : Option (DWord × State) :=
  match s.cloak.alloc (fun n g => handleOf s.devid kind g n) true with
  | none => none
  | some x => some (x.1, { s with cloak := x.2 })

/-- Allocate a location entry for a handle of another device. -/
def State.allocLocation (s : State) (h : DWord) : Option State :=
  match s.cloak.alloc (fun _ _ => h) false with
  | none => none
  | some x => some { s with cloak := x.2 }

/-- The entry of a handle on this device; none stands for a stale handle at its home. -/
def State.entryOf (s : State) (h : DWord) : Option Entry := s.cloak.entries.find? fun e => sameEntry e.handle h

/-- Change the entry of a handle. -/
def State.setEntry (s : State) (h : DWord) (f : Entry → Entry) : State :=
  { s with cloak := { s.cloak with
      entries := s.cloak.entries.map fun e => if sameEntry e.handle h then f e else e } }

/-- Free the entry of a handle. -/
def State.dropEntry (s : State) (h : DWord) : State :=
  { s with cloak := { s.cloak with entries := s.cloak.entries.filter fun e => !sameEntry e.handle h } }

/-- The status codes of R326. -/
def stFAULT : Word := 1
/-- UPSTREAM of R326. -/
def stUPSTREAM : Word := 2
/-- DEVICE of R326. -/
def stDEVICE : Word := 3
/-- REFUSED of R326. -/
def stREFUSED : Word := 4
/-- NULL of R326. -/
def stNULL : Word := 5
/-- STALE of R326. -/
def stSTALE : Word := 6

/-! ### Messages (R332, R333) -/

/-- Put a message on its way: to this device itself, over Seam, or nowhere when the receiver cannot be
reached. (DEDUCED, log 65) -/
def State.emit (s : State) (dev : Nat) (m : CMsg) : State :=
  if dev = s.devid then { s with cloak := { s.cloak with inbox := s.cloak.inbox ++ [m] } }
  else if s.reachable dev then s.send (.seam dev m)
  else s

/-- A message about a handle that expects no acknowledgement and has no number of its own: what a device is answered, whose
ISSUER is the device of the thread that is answered (R332), and the release of a reclaimed entry. (DEDUCED, log 46) -/
def State.note (s : State) (dev : Nat) (h : DWord) (k : MsgKind) : State :=
  s.emit dev ⟨⟨s.devid, if k = .frel then s.devid else dev, 0, h, 0⟩, k⟩

/-- Acknowledge a message to its issuer (R333): `sub` is the subcode of R326 that a rejection has. -/
def State.ackMsg (s : State) (m : CMsg) (ok : Bool) (sub : Nat) : State :=
  if m.head.seq = 0 then s
  else s.emit m.head.issuer ⟨⟨s.devid, m.head.issuer, 0, m.head.handle, m.head.seq⟩, .ack ok sub⟩

/-- The depth of what was addressed to a broken handle (R336). -/
def deeper (d : Nat) : Nat := min 255 (d + 1)

/-- Whether the failure of a handle's home broke its location entry: it stays so when the home is a member again
(R425). -/
def Entry.lostHome (e : Entry) : Bool := !e.isHome && e.st == .broken && e.cause == stDEVICE

/-- Where this device sends its next message for a handle (R333): by a cached route when nothing it sent
for the handle awaits acknowledgement, else to the home; it answers itself where it holds an entry that its home's failure
broke (R425). (DEDUCED, log 46) -/
def State.routeFor (s : State) (h : DWord) : Nat :=
  if (s.entryOf h).any Entry.lostHome then s.devid
  else if s.cloak.waits.any (·.handle == h) then homeOf h
  else ((s.cloak.routes.find? (·.1 == h)).map (·.2)).getD (homeOf h)

/-- A message of this device for a handle, numbered per handle (R332): the message, its device, and the state. -/
def State.numberMsg (s : State) (h : DWord) (k : MsgKind) (what : Option CWaitFor) : CMsg × Nat × State :=
  let n := ((s.cloak.seqs.find? (·.1 == h)).map (·.2)).getD 0 + 1
  let c := s.cloak
  (⟨⟨s.devid, s.devid, 0, h, n⟩, k⟩, s.routeFor h, { s with cloak := { c with
      seqs := (h, n) :: c.seqs.filter (·.1 != h)
      routes := (c.routes.filter (·.1 == h)) ++ c.routes.filter (·.1 != h)
      waits := c.waits ++ [⟨h, n, what⟩] } })

/-- Break a new handle at its home (R336): a numbered FBREAK with the cause and the depth tells the home, from whatever
device the break is found on. The spec speaks of the broken reply too, and does not say which message it is.
(DESIGN CHOICE, log 85) -/
def State.breakNew (s : State) (h : DWord) (cause : Word) (depth : Nat) : State :=
  let x := s.numberMsg h (.fbreak cause depth) none
  x.2.2.emit x.2.1 x.1

/-- The answer to a message whose device cannot be reached (R337). -/
def State.bounce (s : State) (m : CMsg) : State :=
  match m.kind with
  | .waiter tag _ =>
    (s.ackMsg m true 0).emit m.head.issuer ⟨⟨s.devid, m.head.issuer, 0, m.head.handle, 0⟩, .brokenReply tag stDEVICE 0⟩
  | .fput _ | .frel => s.ackMsg m false 5
  | .fbreak _ _ => s.ackMsg m false 5
  | .invh inv => (s.ackMsg m true 0).breakNew inv.handle stUPSTREAM 1
  | .invoke inv => s.breakNew inv.handle stDEVICE 0
  | _ => s

/-- Send a message for a handle to a device, or answer it. -/
def State.post (s : State) (dev : Nat) (m : CMsg) : State :=
  if dev = s.devid || s.reachable dev then s.emit dev m else s.bounce m

/-- Send a message of this device for a handle (R332, R333). -/
def State.ownMsg (s : State) (h : DWord) (k : MsgKind) (what : Option CWaitFor) : State :=
  let x := s.numberMsg h k what
  x.2.2.post x.2.1 x.1

/-! ### Supol messages about handles (R431 to R433) -/

/-- A Supol reply: the TYPE with bit 7, and a status. -/
def State.reply (s : State) (num reqId type : Nat) (target : DWord) (status : Nat) (pay : List Byte) :
    State :=
  s.send (.supol num (0x80 + type) reqId target status pay)

/-- One NOTIFY to a host (R433). (DEDUCED, log 46) -/
def State.notify (s : State) (num reqId : Nat) (h : DWord) (r : FRes) : State :=
  match r with
  | .full v => s.send (.supol num 0x20 reqId h 0x200 v)
  | .broken c d =>
    s.send (.supol num 0x20 reqId h 0x201 (leBytes 4 c.toNat ++ leBytes 1 d ++ List.replicate 27 0))
  | .status _ => s

/-! ### Entries -/

/-- Reclaim an entry that is final, released and has nothing waiting (R324); its partner is told. (DEDUCED, log 46) -/
def State.reclaim (s : State) (h : DWord) : State :=
  match s.entryOf h with
  | none => s
  | some e =>
    if (e.st == .full || e.st == .broken) && e.released && e.waiters.isEmpty && e.invhQ.isEmpty then
      let s1 := s.dropEntry h
      if !e.isHome then s1.note (homeOf e.handle) e.handle .frel
      else
        match e.location with
        | some v => s1.note v e.handle .frel
        | none => s1
    else s

/-- A value or broken reply under a waiter tag (R336, R340). -/
def replyKind (tag : Nat) : FRes → MsgKind
  | .full v => .valueReply tag v
  | .broken c d => .brokenReply tag c d
  | .status _ => .ack false 2

/-- Serve one waiter of a final entry. -/
def State.serveWaiter (s : State) (h : DWord) (r : FRes) (w : Waiter) : State :=
  match w with
  | .device dev tag => s.note dev h (replyKind tag r)
  | .notice dev => s.note dev h (replyKind 0 r)
  | .session num req => s.notify num req h r

/-- The invocation header and its arguments (R330). -/
def Invocation.argBytes (i : Invocation) (upstream : List Byte) : List Byte :=
  leBytes 8 i.handle.toNat ++ leBytes 1 i.issuer ++ leBytes 7 0 ++ leBytes 4 i.args.length ++
    leBytes 12 0 ++ upstream ++ i.args

/-- The launch that an invocation asks for (R330, R467). -/
def Invocation.request (i : Invocation) (upstream : List Byte) : LaunchReq :=
  { block := i.launch, codeId := some (fieldAt i.desc 4 4), entry := fieldAt i.desc 8 4,
    deadline := fieldAt i.desc 0x30 8, budget := fieldAt i.desc 0x38 8, asid := i.asid,
    anyAsid := i.anyAsid, handle := some i.handle, args := some (i.argBytes upstream) }

/-- The location entry of an invocation that is admitted here: the home entry, or a new one (R324). One of a handle of the
same bits that its home's failure broke gives way (R322, R425). (DEDUCED, log 46) -/
def State.locate (s : State) (h : DWord) : Option State :=
  if homeOf h = s.devid then some s
  else (if (s.entryOf h).any Entry.lostHome then s.dropEntry h else s).allocLocation h

/-- A waiter reaches its pending entry (R340, R341). -/
def State.atWaiter (s : State) (m : CMsg) (e : Entry) (tag : Nat) (polling : Bool) : State :=
  let w := if polling then Waiter.notice m.head.issuer else .device m.head.issuer tag
  (s.ackMsg m true 0).setEntry e.handle fun x => { x with waiters := x.waiters ++ [w] }

/-- An INVH reaches its pending entry (R335). -/
def State.atInvh (s : State) (m : CMsg) (e : Entry) (i : Invocation) : State :=
  (s.ackMsg m true 0).setEntry e.handle fun x => { x with invhQ := x.invhQ ++ [i] }

/-- What the home of an invocation kept until its placement reaches the entry here, in the order in which it came (R324,
R334). -/
def State.takeHeld (s : State) (h : DWord) : State :=
  match s.entryOf h with
  | none => s
  | some e => e.held.foldl (fun s m =>
      match m.kind with
      | .waiter tag polling => s.atWaiter m e tag polling
      | .invh i => s.atInvh m e i
      | _ => s) (s.setEntry h fun x => { x with held := [] })

/-- Tie an entry to the slice that an invocation runs as (R330). -/
def Entry.runs (e : Entry) (slice : Nat) (desc : List Byte) : Entry :=
  { e with
    slice := some slice
    location := none
    up := none
    resLen := fieldAt desc 0x20 4
    resVa := BitVec.ofNat 64 (fieldAt desc 0x28 8) }

/-- A host INVH whose reply follows its admission is answered (R433): with its handle, or with a null handle and
the refusal code, in which case the handle's entry goes. (DEDUCED, log 55) -/
def State.admitReply (s : State) (h : DWord) (code : Option Nat) : State :=
  match s.cloak.admits.find? (·.1 == h) with
  | none => s
  | some x =>
    let s1 := { s with cloak := { s.cloak with admits := s.cloak.admits.filter (· != x) } }
    match code with
    | none => s1.reply x.2.1 x.2.2 2 h 0 []
    | some c => (s1.dropEntry h).reply x.2.1 x.2.2 2 0 c []

/-- Allocate the home entry of an invocation, which knows from its descriptor whether it has a result buffer (R330,
R338). -/
def State.allocInv (s : State) (kind : Nat) (desc : List Byte) : Option (DWord × State) :=
  match s.allocHome kind with
  | none => none
  | some x => some (x.1, x.2.setEntry x.1 fun e => { e with
      resLen := fieldAt desc 0x20 4, resVa := BitVec.ofNat 64 (fieldAt desc 0x28 8) })

/-- Dispatch an invocation to admission on this device, with a launch request (R329, R330, R334, R385): its
code when refused. -/
def State.dispatchAs (s : State) (i : Invocation) (q : LaunchReq) : State × Option Nat :=
  match s.locate i.handle with
  | none => (s.breakNew i.handle stREFUSED 0, some 0)
  | some s1 =>
    match s1.admitSlice q with
    | .error c => (((s.logRefusal c).breakNew i.handle stREFUSED 0).admitReply i.handle (some c), some c)
    | .ok r =>
      let s2 := ((r.2.setEntry i.handle fun e => e.runs r.1 i.desc).takeHeld i.handle).admitReply i.handle none
      (if homeOf i.handle = s.devid then s2
        else s2.note (homeOf i.handle) i.handle (.routeUpdate s.devid), none)

/-- Dispatch an invocation with an upstream value. -/
def State.dispatch (s : State) (i : Invocation) (upstream : List Byte) : State :=
  (s.dispatchAs i (i.request upstream)).1

/-- An invocation meets the outcome of the handle it is addressed to (R335, R336). -/
def State.runQueued (s : State) (r : FRes) (i : Invocation) : State :=
  match r with
  | .full v => s.dispatch i v
  | .broken _ d => (s.breakNew i.handle stUPSTREAM (deeper d)).admitReply i.handle none
  | .status c => (s.breakNew i.handle c 0).admitReply i.handle none

/-- A message meets the final outcome of its handle (R324, R335, R338, R339, R342). -/
def State.atFinal (s : State) (h : DWord) (r : FRes) (m : CMsg) : State :=
  match m.kind with
  | .waiter tag polling =>
    (s.ackMsg m true 0).serveWaiter m.head.handle r (if polling then .notice m.head.issuer else .device m.head.issuer tag)
  | .fput _ => s.ackMsg m false (match r with | .full _ => 3 | _ => 5)
  | .fbreak _ _ => s.ackMsg m false 5
  | .frel =>
    if ((s.entryOf h).map (·.released)).getD true then s.ackMsg m false 5
    else (s.setEntry h fun x => { x with released := true }).ackMsg m true 0
  | .invh i => (s.ackMsg m true 0).runQueued r i
  | _ => s

/-- A pending entry becomes full or broken: its waiters are released, its queue dispatched or broken in
order (R324), and the messages it holds meet its outcome. -/
def State.complete (s : State) (h : DWord) (r : FRes) : State :=
  match s.entryOf h with
  | none => s
  | some e =>
    let s1 := s.setEntry h fun e =>
      match r with
      | .full v => { e with st := .full, value := v, waiters := [], invhQ := [], held := [] }
      | .broken c d => { e with st := .broken, cause := c, depth := d, waiters := [], invhQ := [], held := [] }
      | .status _ => e
    let s2 := e.invhQ.foldl (fun s i => s.runQueued r i) (e.waiters.foldl (fun s w => s.serveWaiter h r w) s1)
    (e.held.foldl (fun s m => s.atFinal h r m) s2).reclaim h

/-- What a final entry gives a reader. -/
def Entry.result (e : Entry) : Option FRes :=
  match e.st with
  | .full => some (.full e.value)
  | .broken => some (.broken e.cause e.depth)
  | _ => none

/-- An FPUT reaches its pending entry (R338). -/
def State.atFput (s : State) (m : CMsg) (e : Entry) (v : List Byte) : State :=
  if 32 < e.resLen then s.ackMsg m false 5 else (s.complete e.handle (.full v)).ackMsg m true 0

/-- An FBREAK reaches its pending entry (R339). -/
def State.atFbreak (s : State) (m : CMsg) (e : Entry) (c : Word) (d : Nat) : State :=
  (s.complete e.handle (.broken c d)).ackMsg m true 0

/-- An FREL reaches its pending entry (R342). -/
def State.atFrel (s : State) (m : CMsg) (e : Entry) : State :=
  if e.released then s.ackMsg m false 5
  else (s.setEntry e.handle fun x => { x with released := true }).ackMsg m true 0

/-- A message finds no entry for its handle: the handle is stale (R322, R326, R335). -/
def State.atStale (s : State) (m : CMsg) : State :=
  match m.kind with
  | .invh i => (s.ackMsg m true 0).breakNew i.handle stSTALE 0
  | _ => s.ackMsg m false 2

/-- Whether an entry is the home of an invocation that has not been placed yet (R324). -/
def Entry.unplaced (e : Entry) : Bool := e.isHome && e.st == .pending && e.slice.isNone && !bareFuture e.handle

/-- Whether the home of an invocation not yet placed keeps a message until it is (R324, R329): what waits for the
result, and, while the invocation is on its way to its device, what software decides about it. The Knanar's own breaks
have causes below 0x100. (DEDUCED, log 46) -/
def Entry.keeps (e : Entry) (k : MsgKind) : Bool :=
  e.unplaced && (match k with
    | .waiter .. | .invh _ => true
    | .fput _ | .frel => e.location.isSome
    | .fbreak c _ => e.location.isSome && decide (0x100 ≤ c.toNat)
    | _ => false)

/-- A forwarded home entry sends a message on, and returns a route update to the issuer's device (R333). -/
def State.sendOn (s : State) (m : CMsg) (h : DWord) (dev : Nat) : State :=
  (s.post dev { m with head := { m.head with src := s.devid, hops := m.head.hops + 1 } }).note m.head.issuer h
    (.routeUpdate dev)

/-- A message that is for an entry is performed there, kept by a home whose invocation is not placed yet, or sent on by a
forwarded home entry (R324, R333). -/
def State.atEntry (s : State) (m : CMsg) : State :=
  match s.entryOf m.head.handle with
  | none => s.atStale m
  | some e =>
    if m.kind == .frel && m.head.seq == 0 && e.isHome && e.st != .pending then s.dropEntry e.handle
    else if e.st = .forwarded then s.sendOn m e.handle (e.location.getD s.devid)
    else
      match e.result with
      | some r => (s.atFinal e.handle r m).reclaim e.handle
      | none =>
        if e.keeps m.kind then s.setEntry e.handle fun x => { x with held := x.held ++ [m] }
        else
          match m.kind with
          | .waiter tag polling => s.atWaiter m e tag polling
          | .fput v => s.atFput m e v
          | .fbreak c d => s.atFbreak m e c d
          | .frel => s.atFrel m e
          | .invh i => s.atInvh m e i
          | _ => s

/-! ### What comes back to this device -/

/-- A host whose registration is answered by what it waits for receives its reply first (R433). -/
def State.registered (s : State) (x : DWord × Nat × Nat) : State :=
  let mine := fun (w : CWait) => sameEntry w.handle x.1 && w.what == some (.host x.2.1 x.2.2 3)
  if s.cloak.waits.any mine then
    let ws := s.cloak.waits.map fun (w : CWait) => if mine w then { w with what := none } else w
    State.reply { s with cloak := { s.cloak with waits := ws } } x.2.1 x.2.2 3 x.1 0 []
  else s

/-- A handle gives a reader of this device its result (R336, R340, R341): the FGET with the tag, a notice,
and the hosts that wait for the handle. -/
def State.gotReply (s : State) (h : DWord) (tag : Nat) (r : FRes) : State :=
  let c := s.cloak
  let hs := c.hosts.filter fun (x : DWord × Nat × Nat) => sameEntry x.1 h
  let s1 := { s with cloak := { c with
    fgets := c.fgets.map fun (f : FGet) =>
      if f.tag = tag && sameEntry f.handle h && f.got.isNone then { f with got := some r } else f
    notices := if tag = 0 then c.notices.map fun (n : Notice) =>
        if sameEntry n.handle h && n.got.isNone then { n with got := some r } else n
      else c.notices
    hosts := if tag = 0 then c.hosts.filter fun (x : DWord × Nat × Nat) => !sameEntry x.1 h else c.hosts
    waits := c.waits.filter fun (w : CWait) =>
      !(sameEntry w.handle h && w.what == some (.fget tag)) } }
  if tag = 0 then hs.foldl (fun s x => (s.registered x).notify x.2.1 x.2.2 x.1 r) s1 else s1

/-- The Future fault of a failed check under TRAP (R326). -/
def futureFault (sub : Nat) (h : DWord) : FaultInfo := flt 0x0D sub h

/-- A waiting result becomes a fault that is due where it is awaited. -/
def State.fulfilFault (s : State) (u id : Nat) (f : FaultInfo) : State :=
  s.setThread u fun t => { t with pend := t.pend.map fun p =>
    if p.id = id && p.kind == .engine then { p with kind := .ready, fault := some f } else p }

/-- The outcome of a message of this device that a thread or a host waits for (R326, R338, R339, R342,
R343). (DEDUCED, log 27) -/
def State.outcome (s : State) (h : DWord) (what : CWaitFor) (ok : Bool) (sub : Nat) : State :=
  match what with
  | .result u id n trap =>
    let s1 := if !ok && sub == 3 then s.setSlice n fun l => { l with double := bump32 l.double } else s
    if ok then s1.fulfil u id [1]
    else if trap then s1.fulfilFault u id (futureFault sub h)
    else s1.fulfil u id [0]
  | .fget tag =>
    if ok then s
    else { s with cloak := { s.cloak with
      fgets := s.cloak.fgets.map fun (f : FGet) =>
        if f.tag = tag && f.got.isNone then { f with got := some (.status stSTALE) } else f
      notices := s.cloak.notices.map fun (n : Notice) =>
        if tag = 0 && n.handle == h && n.got.isNone then { n with got := some (.status stSTALE) } else n } }
  | .host num req type =>
    let s1 := if ok then s else { s with cloak := { s.cloak with
      hosts := s.cloak.hosts.filter (· != (h, num, req)) } }
    s1.reply num req type h (if ok then 0 else 0x106) []

/-! ### Failed devices (R337) -/

/-- Whether a handle's home or known location lies on a device. -/
def State.liesOn (s : State) (dev : Nat) (h : DWord) : Bool :=
  homeOf h == dev || s.cloak.routes.contains (h, dev) || ((s.entryOf h).any fun e => e.isHome && e.location == some dev)

/-- What this device's messages for some handles wait for is over with a break, cause DEVICE (R337). -/
def State.breakWaits (s : State) (hit : DWord → Bool) : State :=
  let ws := s.cloak.waits.filter fun (w : CWait) => hit w.handle
  let s2 := { s with cloak := { s.cloak with waits := s.cloak.waits.filter fun w => !ws.contains w } }
  let s3 := ws.foldl (fun s (w : CWait) =>
    match w.what with
    | some (.fget _) | none => s
    | some (.host n r 3) => s.outcome w.handle (.host n r 3) true 0
    | some x => s.outcome w.handle x false 5) s2
  let brk := FRes.broken stDEVICE 0
  let hs := s3.cloak.hosts.filter fun (x : DWord × Nat × Nat) => hit x.1
  let s4 := hs.foldl (fun s x => s.notify x.2.1 x.2.2 x.1 brk) s3
  let c := s4.cloak
  { s4 with cloak := { c with
    fgets := c.fgets.map fun (f : FGet) =>
      if hit f.handle && f.got.isNone then { f with got := some brk } else f
    notices := c.notices.map fun (n : Notice) =>
      if hit n.handle && n.got.isNone then { n with got := some brk } else n
    hosts := c.hosts.filter fun x => !hs.contains x } }

/-- Break the handles of invocations addressed to some handles, which wait there or are on their way (R337). -/
def State.breakUp (s : State) (hit : DWord → Bool) : State :=
  (s.cloak.entries.filter fun e => e.unplaced && e.location.isNone && e.up.any hit).foldl (fun s e =>
    if (s.entryOf e.handle).any (·.st == .pending) then s.complete e.handle (.broken stUPSTREAM 1) else s) s

/-- Cache a route: 4,096 at most (R426). (DEDUCED, log 46) -/
def Cloak.cacheRoute (c : Cloak) (h : DWord) (dev : Nat) : Cloak :=
  let rest := c.routes.filter (·.1 != h)
  let free := fun (r : DWord × Nat) => !c.waits.any (·.handle == r.1)
  if rest.length < 4096 then { c with routes := (h, dev) :: rest }
  else
    match rest.reverse.find? free with
    | none => c
    | some old => { c with routes := (h, dev) :: rest.filter (· != old) }

/-- A home whose invocation has been placed on another device: what it holds moves on, in order, with a route update to
each issuer's device, and its hosts wait through this device (R324, R333). -/
def State.goForward (s : State) (e : Entry) (dev : Nat) : State :=
  let h := e.handle
  let s1 := s.setEntry h fun x =>
    { x with st := .forwarded, location := some dev, up := none, waiters := [], held := [] }
  let s2 := e.held.foldl (fun s m => s.sendOn m h dev) s1
  let s3 := e.waiters.foldl (fun s w =>
    match w with
    | .session n q =>
      State.ownMsg { s with cloak := { s.cloak with hosts := s.cloak.hosts ++ [(h, n, q)] } } h (.waiter 0 true) none
    | _ => s) s2
  if e.released then s3.ownMsg h .frel none else s3

/-- A home that software completed or broke before its invocation was placed on another device: the location entry takes
the same outcome (R324). (DEDUCED, log 46) -/
def State.tellLocation (s : State) (e : Entry) (dev : Nat) : State :=
  let s1 := s.setEntry e.handle fun x => { x with location := some dev }
  let tell := fun (k : MsgKind) =>
    let x := s1.numberMsg e.handle k none
    x.2.2.emit dev x.1
  match e.result with
  | some (.full v) => tell (.fput v)
  | some (.broken c d) => tell (.fbreak c d)
  | _ => s1

/-- A handle's location is known: this device caches it, or breaks what waits at a location that has failed, the handles of
invocations addressed there too (R333, R337). (DEDUCED, log 46) -/
def State.learnRoute (s : State) (h : DWord) (dev : Nat) : State :=
  if dev != s.devid && !s.reachable dev then (s.breakUp (sameEntry h)).breakWaits (sameEntry h)
  else { s with cloak := s.cloak.cacheRoute h dev }

/-- A route update (R333, R426): it tells a home entry its location; any other device caches it, one with the location
entry too, and so does the home's own device once the entry is forwarded. (DEDUCED, log 46) -/
def State.gotRoute (s : State) (h : DWord) (dev : Nat) : State :=
  match s.entryOf h with
  | some e =>
    if !e.isHome || e.st == .forwarded then s.learnRoute h dev
    else if e.unplaced then s.goForward e dev
    else if e.slice.isNone && !bareFuture h then s.tellLocation e dev
    else s
  | none => if homeOf h = s.devid then s.note dev h .frel else s.learnRoute h dev

/-- An acknowledgement (R333): the earliest message with its number ends. A rejected INVOKE breaks its
handle. -/
def State.gotAck (s : State) (m : CMsg) (ok : Bool) (sub : Nat) : State :=
  let h := m.head.handle
  match s.cloak.waits.find? fun w => w.handle == h && w.seq == m.head.seq with
  | none => s
  | some w =>
    let s1 := { s with cloak := { s.cloak with waits := s.cloak.waits.filter (· != w) } }
    match w.what with
    | some x => s1.outcome h x ok sub
    | none =>
      if ok then s1
      else
        match s1.entryOf h with
        | some e => if e.isHome && e.st == .pending && e.slice.isNone then
            s1.complete h (.broken stREFUSED 0) else s1
        | none => s1

/-- A Cloakroom message is performed at this device (R332). -/
def State.handleMsg (s : State) (m : CMsg) : State :=
  match m.kind with
  | .invoke i => (s.dispatch i (List.replicate 32 0)).ackMsg m true 0
  | .valueReply tag v => s.gotReply m.head.handle tag (.full v)
  | .brokenReply tag c d => s.gotReply m.head.handle tag (.broken c d)
  | .routeUpdate dev => s.gotRoute m.head.handle dev
  | .ack ok sub => s.gotAck m ok sub
  | _ => s.atEntry m

/-- Perform the messages of this device to itself, in order, `n` at most. (DESIGN CHOICE, log 62) -/
def State.drainCloak : Nat → State → State
  | 0, s => s
  | n + 1, s =>
    match s.cloak.inbox with
    | [] => s
    | m :: r => State.drainCloak n (State.handleMsg { s with cloak := { s.cloak with inbox := r } } m)

/-- Perform a message and what it brings about at this device. -/
def State.receiveMsg (s : State) (m : CMsg) : State := ((s.heard m.head.src).handleMsg m).drainCloak 4096

/-! ### The end of a slice -/

/-- A slice's end completes or breaks its pending handle (R330). -/
def State.endHandle (s : State) (l : Slice) (exit : Word) : State :=
  match l.handle with
  | none => s
  | some h =>
    match s.entryOf h with
    | none => s
    | some e =>
      if e.st != .pending then s
      else if l.faulted then s.complete h (.broken stFAULT 0)
      else if e.resLen ≤ 32 then s.complete h (.full (leBytes 4 exit.toNat ++ List.replicate 28 0))
      else s.complete h (.full (leBytes 8 e.resVa.toNat ++ leBytes 4 e.resLen ++ leBytes 1 s.devid ++
        List.replicate 19 0))

/-- What a failed device breaks here (R337): entries whose home or location lies on it, the handles of invocations
addressed to handles there, and what this device's messages for handles there wait for. -/
def State.breakDevice (s : State) (dev : Nat) : State :=
  let es := s.cloak.entries.filter fun (e : Entry) =>
    (e.st == .pending || e.st == .forwarded) && (homeOf e.handle == dev || e.location == some dev)
  let s1 := (es.foldl (fun s e => s.complete e.handle (.broken stDEVICE 0)) s).breakUp (s.liesOn dev)
  let s2 := s1.breakWaits (s1.liesOn dev)
  State.drainCloak 4096 { s2 with cloak := { s2.cloak with
    routes := s2.cloak.routes.filter fun (r : DWord × Nat) => r.2 != dev } }

/-! ### The message events (R332) -/

/-- An invocation as a message carries it. -/
def invocationOf (desc launch args : List Byte) (h : DWord) (issuer asid : Nat) (any : Bool) : Invocation :=
  ⟨desc, launch, args, h, issuer, asid, any⟩

/-- CLOAKROOM_INVOKE (R330). -/
def execCloakroomInvoke (h : MsgHead) (desc launch args : List Byte) (asid : Nat) (anyAsid : Bool)
    (s : State) : Out :=
  .next (s.receiveMsg ⟨h, .invoke (invocationOf desc launch args h.handle h.issuer asid anyAsid)⟩)

/-- CLOAKROOM_INVH (R335). -/
def execCloakroomInvh (h : MsgHead) (newHandle : DWord) (desc launch args : List Byte) (asid : Nat)
    (anyAsid : Bool) (s : State) : Out :=
  .next (s.receiveMsg ⟨h, .invh (invocationOf desc launch args newHandle h.issuer asid anyAsid)⟩)

/-- CLOAKROOM_FGET_WAITER (R340, R341). -/
def execCloakroomFgetWaiter (h : MsgHead) (tag : Nat) (polling : Bool) (s : State) : Out :=
  .next (s.receiveMsg ⟨h, .waiter tag polling⟩)

/-- CLOAKROOM_FPUT (R338). -/
def execCloakroomFput (h : MsgHead) (value : List Byte) (s : State) : Out :=
  .next (s.receiveMsg ⟨h, .fput value⟩)

/-- CLOAKROOM_FBREAK (R339). -/
def execCloakroomFbreak (h : MsgHead) (cause : Word) (depth : Nat) (s : State) : Out :=
  .next (s.receiveMsg ⟨h, .fbreak cause depth⟩)

/-- CLOAKROOM_FREL (R342). -/
def execCloakroomFrel (h : MsgHead) (s : State) : Out := .next (s.receiveMsg ⟨h, .frel⟩)

/-- VALUE_REPLY (R340). -/
def execValueReply (h : MsgHead) (tag : Nat) (value : List Byte) (s : State) : Out :=
  .next (s.receiveMsg ⟨h, .valueReply tag value⟩)

/-- BROKEN_REPLY (R336). -/
def execBrokenReply (h : MsgHead) (tag : Nat) (cause : Word) (depth : Nat) (s : State) : Out :=
  .next (s.receiveMsg ⟨h, .brokenReply tag cause depth⟩)

/-- ROUTE_UPDATE (R333). -/
def execRouteUpdate (h : MsgHead) (location : Nat) (s : State) : Out :=
  .next (s.receiveMsg ⟨h, .routeUpdate location⟩)

/-- ACKNOWLEDGEMENT (R333). -/
def execAcknowledgement (h : MsgHead) (accepted : Bool) (sub : Nat) (s : State) : Out :=
  .next (s.receiveMsg ⟨h, .ack accepted sub⟩)

end Sys2Proof.Machine
end

