-- ==== Sys2Proof/Machine/Future.lean ====
section
/-! DEFINITION. The instructions of futures and invocation (R325 to R343, R349): FNEW, INVOKE, INVH, FPUT,
FGET, FBREAK, FREL and SLICE. -/

namespace Sys2Proof.Machine

/-- FNEW in one thread (R327). -/
def fnewEff (d : Nat) (cx : Cx) (t : Thread) (s : State) : State :=
  match s.allocHome 1 with
  | none => s.pendResult cx t.uid .ax (wDests d 0) id
  | some x => x.2.pendResult cx t.uid .ax (wDests d x.1) id

/-- FNEW (R327). -/
def execFnew (e : Bool) (d : BitVec 7) (s : State) : Out :=
  word (.fnew e d) (eachLane fun cx t s => .ok (fnewEff d.toNat cx t s)) s

/-! ### Invocations (R328 to R331) -/

/-- Bytes of global memory that an invocation copies, at the L2 after the drain or at another device, each checked as a
load of a byte (R329, R380). -/
def State.copyBytes (s : State) (t : Thread) (ea : DWord) : Nat → Except FaultInfo (List Byte)
  | 0 => .ok []
  | n + 1 =>
    if ea.extractLsb' 57 7 != 0 then .error (accessFault 0x01 ea)
    else
      match s.check t ea 1 .read with
      | .error f => .error f
      | .ok a =>
        match s.dataFault t.uid t.core a.place 1 ea with
        | some f => .error f
        | none =>
          match s.copyBytes t (ea + 1) n with
          | .error f => .error f
          | .ok r => .ok (s.readAny t.uid t.core a.place 1 true ++ r)

/-- The granules of other devices that `n` bytes at a VA lie in. -/
def State.byteGrans (s : State) (t : Thread) (ea : DWord) (n : Nat) : List Gran :=
  ((List.range n).flatMap fun k =>
    match s.check t (ea + BitVec.ofNat 64 k) 1 .read with
    | .ok a => a.place.grans 1
    | .error _ => []).dedup

/-- What an invocation copies: the descriptor, the launch block, the arguments; nothing after the
descriptor when no slot is free (R329). -/
structure InvRead where
  desc : List Byte
  launch : List Byte
  args : List Byte
  free : Bool
  deriving DecidableEq, Repr

/-- The checks of INVOKE, INVH and SLICE and what they copy; `lim` is the limit of ARG_LEN. (DEDUCED, log 45) -/
def State.readInv (s : State) (t : Thread) (ea : DWord) (lim : Nat) : Except FaultInfo InvRead :=
  match s.readAt t ea 64 with
  | .error f => .error f
  | .ok d =>
    if s.cloak.freeSlot.isNone then .ok ⟨d, [], [], false⟩
    else
      let r := s.drain t.core
      let la := BitVec.ofNat 64 (fieldAt d 0x10 8)
      let n := fieldAt d 0x0C 4
      if la.toNat % 64 ≠ 0 then .error (flt 0x03 0 la)
      else
        match r.copyBytes t la 256 with
        | .error f => .error f
        | .ok l =>
          match r.copyBytes t (BitVec.ofNat 64 (fieldAt d 0x18 8)) (if n ≤ lim then n else 0) with
          | .error f => .error f
          | .ok a => .ok ⟨d, l, a, true⟩

/-- What an invocation reads from other devices for a thread: its descriptor, then the launch block and the arguments
(R329, R380). -/
def invFar (a lim : Nat) : Far := fun _ s t =>
  match s.check t (t.w a) 64 .read with
  | .error _ => []
  | .ok c =>
    let g := c.place.grans 64
    if !(s.missing t.uid g).isEmpty then g
    else
      match s.copyAt t c.place (t.w a) 64 with
      | .error _ => g
      | .ok d =>
        let n := fieldAt d 0x0C 4
        g ++ s.byteGrans t (BitVec.ofNat 64 (fieldAt d 0x10 8)) 256 ++
          s.byteGrans t (BitVec.ofNat 64 (fieldAt d 0x18 8)) (if n ≤ lim then n else 0)

/-- Whether a descriptor's fields but DEVICE and TEAM_CLASS are within their limits (R328). RES_VA with RES_LEN above 32
has none of its own here: a VA that is not global is the business of who uses it. (DESIGN CHOICE, log 81) -/
def descFieldsOk (d : List Byte) (lim : Nat) : Bool :=
  fieldAt d 2 2 == 0 && decide (fieldAt d 0x0C 4 ≤ lim) &&
    fieldAt d 0x24 4 == 0 && (decide (32 < fieldAt d 0x20 4) || fieldAt d 0x28 8 == 0)

/-- Whether a device is a member of the domain; a device is always one to itself (R424). (DEDUCED, log 46) -/
def State.member (s : State) (dev : Nat) : Bool := dev == s.devid || s.mgmt.members.getLsbD dev

/-- Whether a device offers a class of teams, as it last reported (R388). -/
def classOffered (classes : BitVec 16) (c : Nat) : Bool := c == 0 || classes.getLsbD c

/-- The devices among which ANY chooses, with the levels they last reported (R388). -/
def State.offers (s : State) (c : Nat) : List (Nat × Nat) :=
  let own := ((s.fabric.members.find? (·.dev == s.devid)).map (·.level)).getD 0
  (if classOffered (s.mgmt.teamClasses.setWidth 16) c then [(s.devid, own)] else []) ++
    (s.fabric.members.filter fun m =>
      m.dev != s.devid && s.reachable m.dev && classOffered m.classes c).map fun m => (m.dev, m.level)

/-- The device of an invocation with DEVICE = ANY: the lowest level, then the lowest id (R388). (DEDUCED, log 46) -/
def State.chooseAny (s : State) (c : Nat) : Option Nat :=
  ((sortBy (fun (x y : Nat × Nat) => decide (x.2 < y.2) || (x.2 == y.2 && decide (x.1 ≤ y.1)))
    (s.offers c)).head?).map (·.1)

/-- Refuse an invocation at this device: the refusal is logged, and its handle breaks (R329, R386). -/
def State.refuse (s : State) (h : DWord) (code : Nat) : State × Option Nat :=
  ((s.logRefusal code).complete h (.broken stREFUSED 0), some code)

/-- The refusal of a descriptor with a field out of its limits: a check of the table before it comes first (R385).
(DEDUCED, log 45) -/
def State.fieldCode (s : State) (q : LaunchReq) : Nat := (firstRefusal ((s.admitChecks q).take 3)).getD 4

/-- The refusal of a launch that no device offers a place for: every check before it comes first (R385). -/
def State.offerCode (s : State) (q : LaunchReq) : Nat := (firstRefusal (s.admitChecks q)).getD 0x0D

/-- Send an invocation with its new handle to its device (R329): the state, and the refusal code if this
device refuses it. -/
def State.sendInvoke (s : State) (i : Invocation) : State × Option Nat :=
  let h := i.handle
  let dev := byteAt i.desc 0
  let target := if dev = 0xFF then s.chooseAny (byteAt i.desc 1) else some dev
  let q := i.request (List.replicate 32 0)
  if !descFieldsOk i.desc 4096 || 15 < byteAt i.desc 1 || (dev != 0xFF && decide (63 < dev)) then
    s.refuse h (s.fieldCode q)
  else
    match target with
    | none => s.refuse h (s.offerCode q)
    | some v =>
      if v = s.devid then s.dispatchAs i q
      else if !s.member v then s.refuse h (s.fieldCode q)
      else if !s.reachable v then (s.complete h (.broken stDEVICE 0), none)
      else
        let s1 := s.setEntry h fun e => { e with location := some v }
        (State.emit { s1 with cloak := { s1.cloak with
            seqs := (h, 1) :: s1.cloak.seqs.filter (·.1 != h)
            waits := s1.cloak.waits ++ [⟨h, 1, none⟩] } } v
          ⟨⟨s.devid, s.devid, 0, h, 1⟩, .invoke i⟩, none)

/-- Whether the descriptor of an INVH is within its limits (R328). -/
def invhFieldsOk (d : List Byte) : Bool := descFieldsOk d 4064 && decide (byteAt d 1 ≤ 15)

/-- Send an invocation addressed to an upstream handle (R329, R335, R337). -/
def State.sendInvh (s : State) (i : Invocation) (u : DWord) : State :=
  if !invhFieldsOk i.desc then
    (s.refuse i.handle (s.fieldCode (i.request (List.replicate 32 0)))).1
  else if badHandle u then s.complete i.handle (.broken stNULL 0)
  else (s.setEntry i.handle fun e => { e with up := some u }).ownMsg u (.invh i) none

/-- An invocation instruction in one thread: the release, a new handle, what is done with it, and the
handle as the result (R329). (DEDUCED, log 45) -/
def invEff (d : Nat) (go : Thread → Invocation → State → State) (cx : Cx) (t : Thread) (r : InvRead)
    (s : State) : State :=
  let sl := s.slice cx.slice
  if !r.free then s.pendResult cx t.uid .ax (wDests d 0) id
  else
    let s1 := s.release t 8
    match s1.allocInv 0 r.desc with
    | none => s1.pendResult cx t.uid .ax (wDests d 0) id
    | some x =>
      let i := invocationOf r.desc r.launch r.args x.1 s.devid sl.asid sl.super
      (go t i (x.2.pendResult cx t.uid .ax (wDests d x.1) id)).drainCloak 4096

/-- INVOKE (R329). -/
def execInvoke (e : Bool) (d a : BitVec 7) (s : State) : Out :=
  wordFar (.invoke e d a) (invFar a.toNat 4096)
    (holding (releaseWaits 8)
      (memAct (fun _ s t => s.readInv t (t.w a.toNat) 4096)
        (invEff d.toNat fun _ i s => (s.sendInvoke i).1))) s

/-- INVH (R329, R335). -/
def execInvh (e : Bool) (d a b : BitVec 7) (s : State) : Out :=
  wordFar (.invh e d a b) (invFar b.toNat 4064)
    (holding (releaseWaits 8)
      (memAct (fun _ s t => s.readInv t (t.w b.toNat) 4064)
        (invEff d.toNat fun t i s => s.sendInvh i (t.w a.toNat)))) s

/-- The launch that SLICE asks for (R349, R467); `sup` says that the issuer is in supervisor mode. -/
def sliceReq (l : Slice) (sup : Bool) (i : Invocation) : LaunchReq :=
  { i.request (List.replicate 32 0) with
    ownCode := if fieldAt i.desc 4 4 = 0 then some ⟨l.codeId, l.codeBase, l.codeLen, l.asid, []⟩ else none
    prioCap := if sup then none else some l.launch.priority
    super := sup }

/-- Spawn the slice of a SLICE instruction that a thread issues (R349). -/
def sliceGo (t : Thread) (i : Invocation) (s : State) : State :=
  let q := sliceReq (s.slice t.slice) (!t.unprivileged) i
  if descFieldsOk i.desc 4096 then (s.dispatchAs i q).1 else (s.refuse i.handle (s.fieldCode q)).1

/-- SLICE (R349). -/
def execSlice (e : Bool) (d a : BitVec 7) (s : State) : Out :=
  wordFar (.slice e d a) (invFar a.toNat 4096)
    (holding (releaseWaits 8)
      (memAct (fun _ s t => s.readInv t (t.w a.toNat) 4096)
        (invEff d.toNat sliceGo))) s

/-! ### FPUT, FBREAK, FREL (R338, R339, R342) -/

/-- Whether HMOD.TRAP is set (R56). -/
def Cx.trap (cx : Cx) : Bool := cx.m.getLsbD 14

/-- A request of a thread for a handle whose outcome is a predicate. -/
def requestEff (p : Nat) (h : DWord) (k : MsgKind) (trap : Bool) (cx : Cx) (t : Thread) (s : State) :
    State :=
  if badHandle h then
    s.pendResult cx t.uid .ax (if trap then [] else pDests p false) fun x =>
      { x with fault := if trap then some (futureFault 1 h) else none }
  else
    let id := (s.thread t.uid).nextPend
    ((s.pendResult cx t.uid .ax (pDests p false) fun x => { x with kind := .engine }).ownMsg h k
      (some (.result t.uid id cx.slice trap))).drainCloak 4096

/-- The value of an FPUT: `n` bytes of consecutive registers, zero-padded (R338). (DEDUCED, log 45) -/
def putValue (t : Thread) (b n : Nat) : List Byte :=
  (List.range 8).flatMap fun k =>
    leBytes 4 (if b = 0 || decide (n ≤ 4 * k) then 0 else (t.g (b + k)).toNat)

/-- FPUT (R338). -/
def execFput (e : Bool) (d a b : BitVec 7) (f : BitVec 2) (s : State) : Out :=
  word (.fput e d a b f)
    (holding (releaseWaits 8) (eachLane fun cx t s =>
      .ok (requestEff d.toNat (t.w a.toNat) (.fput (putValue t b.toNat (4 * 2 ^ f.toNat))) cx.trap cx t
        (s.release t 8)))) s

/-- FBREAK in one thread (R339). -/
def fbreakEff (d a b : Nat) (cx : Cx) (t : Thread) (s : State) : Except FaultInfo State :=
  if (t.g b).toNat < 0x100 then .error (futureFault 6 (t.w a))
  else .ok (requestEff d (t.w a) (.fbreak (t.g b) 0) false cx t (s.release t 8))

/-- FBREAK (R339). -/
def execFbreak (e : Bool) (d a b : BitVec 7) (s : State) : Out :=
  word (.fbreak e d a b) (holding (releaseWaits 8) (eachLane (fbreakEff d.toNat a.toNat b.toNat))) s

/-- FREL (R342). -/
def execFrel (e : Bool) (d a : BitVec 7) (s : State) : Out :=
  word (.frel e d a)
    (eachLane fun cx t s => .ok (requestEff d.toNat (t.w a.toNat) .frel cx.trap cx t s)) s

/-! ### FGET (R340, R341) -/

/-- The eight words and the predicate that a reader receives (R340). -/
def FRes.words : FRes → List Word × Bool
  | .full v => ((List.range 8).map fun i => BitVec.ofNat 32 (fieldAt v (4 * i) 4), true)
  | .broken c d => ([c, BitVec.ofNat 32 d] ++ List.replicate 6 0, false)
  | .status n => (n :: List.replicate 7 0, false)

/-- The subcode of the Future fault that a result is under TRAP (R326). -/
def FRes.trapSub : FRes → Option Nat
  | .full _ => none
  | .broken _ _ => some 4
  | .status n => if n = stNULL then some 1 else if n = stSTALE then some 2 else none

/-- Write a reader's registers and predicate (R340). -/
def Thread.giveRes (t : Thread) (d p : Nat) (r : FRes) : Thread :=
  (((r.words).1.zipIdx).foldl (fun t v => t.setG (d + v.2) v.1) t).setP p (r.words).2

/-- A thread receives what a handle gave: a full or broken handle is acquired at domain scope (R340). -/
def State.giveFget (s : State) (u d p : Nat) (r : FRes) : State :=
  let s1 := s.setThread u fun t => t.giveRes d p r
  match r with
  | .status _ => s1
  | _ => s1.acquire (s.thread u) 8

/-- FGET.wait in one thread (R340): it becomes a waiter of the handle. -/
def fgetWaitEff (d a b : Nat) (cx : Cx) (t : Thread) (s : State) : State :=
  let h := t.w a
  let tag := s.cloak.nextTag
  let f : FGet :=
    { tag := tag, uid := t.uid, d := d, p := b, trap := cx.trap, handle := h, ctx := t.runCtx,
      got := if badHandle h then some (.status stNULL) else none }
  let s1 := { s with cloak := { s.cloak with fgets := s.cloak.fgets ++ [f], nextTag := tag + 1 } }
  if badHandle h then s1 else s1.ownMsg h (.waiter tag false) (some (.fget tag))

/-- FGET.wait of the live threads: the group parks until each has its result. -/
def fgetWaitAct (d a b : Nat) : Act := whole fun cx ts s =>
  let tags := ts.zipIdx.map fun t => (t.1.uid, s.cloak.nextTag + t.2)
  let s1 := ts.foldl (fun s t => fgetWaitEff d a b (cx.of t) t s) s
  (if ts.isEmpty then s1 else s1.addWait cx.gid (.fget tags cx.pc)).drainCloak 4096

/-- A notice for a handle, the most recently read first (R341): 4,096 at most. -/
def Cloak.touchNotice (c : Cloak) (n : Notice) : Cloak :=
  { c with notices := (n :: c.notices.filter (·.handle != n.handle)).take 4096 }

/-- The notice of a handle, made by the first poll (R341). -/
def State.pollNotice (s : State) (h : DWord) : State × FRes :=
  match s.cloak.notices.find? (·.handle == h) with
  | some n => ({ s with cloak := s.cloak.touchNotice n }, n.got.getD (.status 0))
  | none =>
    ((State.ownMsg { s with cloak := s.cloak.touchNotice ⟨h, none⟩ } h (.waiter 0 true)
      (some (.fget 0))).drainCloak 4096, .status 0)

/-- What FGET.poll finds on this device (R341). -/
def State.pollHandle (s : State) (h : DWord) : State × FRes :=
  if badHandle h then (s, .status stNULL)
  else
    match s.entryOf h with
    | some e =>
      if e.st != .forwarded then (s, (e.result).getD (.status 0))
      else s.pollNotice h
    | none => if homeOf h = s.devid then (s, .status stSTALE) else s.pollNotice h

/-- FGET.poll in one thread (R341). -/
def fgetPollEff (d a b : Nat) (cx : Cx) (t : Thread) (s : State) : Except FaultInfo State :=
  let h := t.w a
  let r := s.pollHandle h
  match (if cx.trap then r.2.trapSub else none) with
  | some n => .error (futureFault n h)
  | none => .ok (r.1.giveFget t.uid d b r.2)

/-- FGET.poll of the live threads. -/
def fgetPollAct (d a b : Nat) : Act := eachLane (fgetPollEff d a b)

/-- FGET.wait of the live threads: HMOD.POLL selects the polling form for those that hold it (R325). (DEDUCED, log 12) -/
def fgetAct (d a b : Nat) : Act := fun cx ts s =>
  let ps := ts.filter fun t => (cx.of t).m.getLsbD 13
  if ps.isEmpty then fgetWaitAct d a b cx ts s
  else
    match fgetPollAct d a b cx ps s with
    | none => none
    | some r =>
      let ws := ts.filter fun t => !(cx.of t).m.getLsbD 13
      if ws.isEmpty then some r
      else (fgetWaitAct d a b cx ws r.1).map fun x => (x.1, r.2 ++ x.2)

/-- FGET.poll (R341): not while an acquire load of the thread is on its way (R186). -/
def execFgetPoll (e : Bool) (d a b : BitVec 7) (s : State) : Out :=
  word (.fgetPoll e d a b) (holding (fun t _ => t.acquiring) (fgetPollAct d.toNat a.toNat b.toNat)) s

/-- FGET.wait (R340): not while an acquire load of the thread is on its way (R186). -/
def execFgetWait (e : Bool) (d a b : BitVec 7) (s : State) : Out :=
  word (.fgetWait e d a b) (holding (fun t _ => t.acquiring) (fgetAct d.toNat a.toNat b.toNat)) s

end Sys2Proof.Machine
end

