-- ==== Sys2Proof/Machine/Integer.lean ====
section
/-! DEFINITION. The integer, address and predicate instructions (R67 to R89), S2G and G2S apart. -/

namespace Sys2Proof.Machine

/-! ### 32-bit arithmetic and logic (R71 to R77) -/

/-- ADD (R71). -/
def execAdd (e : Bool) (d a b : BitVec 7) (s : State) : Out :=
  word (.add e d a b) (alu fun _ t w => w.setG d.toNat (t.g a.toNat + t.g b.toNat)) s

/-- SUB (R71). -/
def execSub (e : Bool) (d a b : BitVec 7) (s : State) : Out :=
  word (.sub e d a b) (alu fun _ t w => w.setG d.toNat (t.g a.toNat - t.g b.toNat)) s

/-- MUL (R71). -/
def execMul (e : Bool) (d a b : BitVec 7) (s : State) : Out :=
  word (.mul e d a b) (alu fun _ t w => w.setG d.toNat (t.g a.toNat * t.g b.toNat)) s

/-- The high half of a product (R71). -/
def mulHigh (signed : Bool) (x y : Word) : Word :=
  if signed then hiWord (BitVec.ofInt 64 (x.toInt * y.toInt))
  else hiWord (BitVec.ofNat 64 (x.toNat * y.toNat))

/-- MULH (R71): f is 0 for .s and 1 for .z. -/
def execMulh (e : Bool) (d a b : BitVec 7) (f : BitVec 2) (s : State) : Out :=
  word (.mulh e d a b f)
    (alu fun _ t w => w.setG d.toNat (mulHigh (f == 0) (t.g a.toNat) (t.g b.toNat))) s

/-- MAD (R71). -/
def execMad (e : Bool) (d a b : BitVec 7) (s : State) : Out :=
  word (.mad e d a b)
    (alu fun _ t w => w.setG d.toNat (t.g d.toNat + t.g a.toNat * t.g b.toNat)) s

/-- AND (R71). -/
def execAnd (e : Bool) (d a b : BitVec 7) (s : State) : Out :=
  word (.and e d a b) (alu fun _ t w => w.setG d.toNat (t.g a.toNat &&& t.g b.toNat)) s

/-- OR (R71). -/
def execOr (e : Bool) (d a b : BitVec 7) (s : State) : Out :=
  word (.or e d a b) (alu fun _ t w => w.setG d.toNat (t.g a.toNat ||| t.g b.toNat)) s

/-- XOR (R71). -/
def execXor (e : Bool) (d a b : BitVec 7) (s : State) : Out :=
  word (.xor e d a b) (alu fun _ t w => w.setG d.toNat (t.g a.toNat ^^^ t.g b.toNat)) s

/-- ANDN (R71). -/
def execAndn (e : Bool) (d a b : BitVec 7) (s : State) : Out :=
  word (.andn e d a b) (alu fun _ t w => w.setG d.toNat (t.g a.toNat &&& ~~~(t.g b.toNat))) s

/-- Shift left by an unsigned amount (R72). -/
def shlRes (x : Word) (n : Nat) : Word := if 32 ≤ n then 0 else x <<< n

/-- Shift right by an unsigned amount (R72). -/
def shrRes (x : Word) (n : Nat) : Word := if 32 ≤ n then 0 else x >>> n

/-- Arithmetic shift right by an unsigned amount (R72). -/
def sraRes (x : Word) (n : Nat) : Word := if 32 ≤ n then x.sshiftRight 31 else x.sshiftRight n

/-- SHL (R72). -/
def execShl (e : Bool) (d a b : BitVec 7) (s : State) : Out :=
  word (.shl e d a b) (alu fun _ t w => w.setG d.toNat (shlRes (t.g a.toNat) (t.g b.toNat).toNat)) s

/-- SHR (R72). -/
def execShr (e : Bool) (d a b : BitVec 7) (s : State) : Out :=
  word (.shr e d a b) (alu fun _ t w => w.setG d.toNat (shrRes (t.g a.toNat) (t.g b.toNat).toNat)) s

/-- SRA (R72). -/
def execSra (e : Bool) (d a b : BitVec 7) (s : State) : Out :=
  word (.sra e d a b) (alu fun _ t w => w.setG d.toNat (sraRes (t.g a.toNat) (t.g b.toNat).toNat)) s

/-- Whether x is below y as signed or unsigned 32-bit values. -/
def below (signed : Bool) (x y : Word) : Bool := if signed then x.slt y else x.ult y

/-- Minimum (R73). -/
def minRes (signed : Bool) (x y : Word) : Word := if below signed y x then y else x

/-- Maximum (R73). -/
def maxRes (signed : Bool) (x y : Word) : Word := if below signed x y then y else x

/-- MIN (R73): f is 0 for .s and 1 for .z. -/
def execMin (e : Bool) (d a b : BitVec 7) (f : BitVec 2) (s : State) : Out :=
  word (.min e d a b f)
    (alu fun _ t w => w.setG d.toNat (minRes (f == 0) (t.g a.toNat) (t.g b.toNat))) s

/-- MAX (R73). -/
def execMax (e : Bool) (d a b : BitVec 7) (f : BitVec 2) (s : State) : Out :=
  word (.max e d a b f)
    (alu fun _ t w => w.setG d.toNat (maxRes (f == 0) (t.g a.toNat) (t.g b.toNat))) s

/-- ABS (R73). -/
def execAbs (e : Bool) (d a : BitVec 7) (s : State) : Out :=
  word (.abs e d a) (alu fun cx t w => w.setGI d.toNat (absRes cx.sat (t.g a.toNat))) s

/-- The number of leading zero bits (R73). -/
def clzRes (x : Word) : Word := if x = 0 then 32 else BitVec.ofNat 32 (31 - x.toNat.log2)

/-- CLZ (R73). -/
def execClz (e : Bool) (d a : BitVec 7) (s : State) : Out :=
  word (.clz e d a) (alu fun _ t w => w.setG d.toNat (clzRes (t.g a.toNat))) s

/-- The number of one bits (R73). -/
def popcRes (x : Word) : Word := BitVec.ofNat 32 ((List.range 32).filter x.getLsbD).length

/-- POPC (R73). -/
def execPopc (e : Bool) (d a : BitVec 7) (s : State) : Out :=
  word (.popc e d a) (alu fun _ t w => w.setG d.toNat (popcRes (t.g a.toNat))) s

/-- BREV (R73). -/
def execBrev (e : Bool) (d a : BitVec 7) (s : State) : Out :=
  word (.brev e d a) (alu fun _ t w => w.setG d.toNat (t.g a.toNat).reverse) s

/-- POS of a bit-field control word (R74). -/
def bfPos (c : Word) : Nat := (c.extractLsb' 0 5).toNat

/-- The length of a bit field, cut at bit 31 (R74). -/
def bfLen (c : Word) : Nat := min ((c.extractLsb' 8 5).toNat + 1) (32 - bfPos c)

/-- A mask of the low n bits. -/
def lowMask (n : Nat) : Word := BitVec.ofNat 32 (2 ^ n - 1)

/-- BFX's result (R74). -/
def bfxRes (x c : Word) : Word :=
  let f := (x >>> bfPos c) &&& lowMask (bfLen c)
  if c.getLsbD 16 && f.getLsbD (bfLen c - 1) then f ||| ~~~(lowMask (bfLen c)) else f

/-- BFI's result (R74). -/
def bfiRes (v x c : Word) : Word :=
  let k := lowMask (bfLen c) <<< bfPos c
  (v &&& ~~~k) ||| ((x <<< bfPos c) &&& k)

/-- BFX (R74). -/
def execBfx (e : Bool) (d a b : BitVec 7) (s : State) : Out :=
  word (.bfx e d a b) (alu fun _ t w => w.setG d.toNat (bfxRes (t.g a.toNat) (t.g b.toNat))) s

/-- BFI (R74). -/
def execBfi (e : Bool) (d a b : BitVec 7) (s : State) : Out :=
  word (.bfi e d a b)
    (alu fun _ t w => w.setG d.toNat (bfiRes (t.g d.toNat) (t.g a.toNat) (t.g b.toNat))) s

/-- CMOV (R75). -/
def execCmov (e : Bool) (d : BitVec 7) (p : BitVec 6) (a : BitVec 7) (s : State) : Out :=
  word (.cmov e d p a) (alu fun _ t w => if t.p p.toNat then w.setG d.toNat (t.g a.toNat) else w) s

/-- DIV (R76): f is 0 for .s and 1 for .z. -/
def execDiv (e : Bool) (d a b : BitVec 7) (f : BitVec 2) (s : State) : Out :=
  word (.div e d a b f)
    (alu fun _ t w => w.setGI d.toNat (divRes (f == 0) (t.g a.toNat) (t.g b.toNat))) s

/-- REM (R76). -/
def execRem (e : Bool) (d a b : BitVec 7) (f : BitVec 2) (s : State) : Out :=
  word (.rem e d a b f)
    (alu fun _ t w => w.setGI d.toNat (remRes (f == 0) (t.g a.toNat) (t.g b.toNat))) s

/-- ADDS (R77): f is 0 for .s and 1 for .z. -/
def execAdds (e : Bool) (d a b : BitVec 7) (f : BitVec 2) (s : State) : Out :=
  word (.adds e d a b f)
    (alu fun _ t w => w.setGI d.toNat (addsRes false (f == 0) (t.g a.toNat) (t.g b.toNat))) s

/-- SUBS (R77). -/
def execSubs (e : Bool) (d a b : BitVec 7) (f : BitVec 2) (s : State) : Out :=
  word (.subs e d a b f)
    (alu fun _ t w => w.setGI d.toNat (addsRes true (f == 0) (t.g a.toNat) (t.g b.toNat))) s

/-! ### Immediates and moves (R79 to R81) -/

/-- MOVI (R79). -/
def execMovi (e : Bool) (d : BitVec 7) (i : BitVec 16) (s : State) : Out :=
  word (.movi e d i) (alu fun cx _ w => w.setG d.toNat (immS cx.himm i)) s

/-- ADDI (R79). -/
def execAddi (e : Bool) (d a : BitVec 7) (i : BitVec 9) (s : State) : Out :=
  word (.addi e d a i) (alu fun cx t w => w.setG d.toNat (t.g a.toNat + immS cx.himm i)) s

/-- ANDI (R79). -/
def execAndi (e : Bool) (d a : BitVec 7) (i : BitVec 9) (s : State) : Out :=
  word (.andi e d a i) (alu fun cx t w => w.setG d.toNat (t.g a.toNat &&& immZ cx.himm i)) s

/-- ORI (R79). -/
def execOri (e : Bool) (d a : BitVec 7) (i : BitVec 9) (s : State) : Out :=
  word (.ori e d a i) (alu fun cx t w => w.setG d.toNat (t.g a.toNat ||| immZ cx.himm i)) s

/-- XORI (R79). -/
def execXori (e : Bool) (d a : BitVec 7) (i : BitVec 9) (s : State) : Out :=
  word (.xori e d a i) (alu fun cx t w => w.setG d.toNat (t.g a.toNat ^^^ immZ cx.himm i)) s

/-- SHI's result by its KIND (R80). -/
def shiRes (k : BitVec 2) (x : Word) (n : Nat) : Word :=
  if k = 0 then shlRes x n else if k = 1 then shrRes x n else sraRes x n

/-- SHI (R80). -/
def execShi (e : Bool) (d a : BitVec 7) (k : BitVec 2) (n : BitVec 5) (s : State) : Out :=
  word (.shi e d a k n) (alu fun _ t w => w.setG d.toNat (shiRes k (t.g a.toNat) n.toNat)) s

/-- MOV (R81). -/
def execMov (e : Bool) (d a : BitVec 7) (s : State) : Out :=
  word (.mov e d a) (alu fun _ t w => w.setG d.toNat (t.g a.toNat)) s

/-- MOVW (R81). -/
def execMovw (e : Bool) (d a : BitVec 7) (s : State) : Out :=
  word (.movw e d a) (alu fun _ t w => w.setW d.toNat (t.w a.toNat)) s

/-! ### 64-bit and address arithmetic (R83 to R85) -/

/-- ADDW (R83). -/
def execAddw (e : Bool) (d a b : BitVec 7) (s : State) : Out :=
  word (.addw e d a b) (alu fun _ t w => w.setW d.toNat (t.w a.toNat + t.w b.toNat)) s

/-- SUBW (R83). -/
def execSubw (e : Bool) (d a b : BitVec 7) (s : State) : Out :=
  word (.subw e d a b) (alu fun _ t w => w.setW d.toNat (t.w a.toNat - t.w b.toNat)) s

/-- MULW's result (R83): f is 0 for w operands, 1 for .s and 2 for .z on g operands. -/
def mulwRes (t : Thread) (f : BitVec 2) (a b : Nat) : DWord :=
  if f = 0 then t.w a * t.w b
  else if f = 1 then (t.g a).signExtend 64 * (t.g b).signExtend 64
  else (t.g a).setWidth 64 * (t.g b).setWidth 64

/-- MULW (R83). -/
def execMulw (e : Bool) (d a b : BitVec 7) (f : BitVec 2) (s : State) : Out :=
  word (.mulw e d a b f) (alu fun _ t w => w.setW d.toNat (mulwRes t f a.toNat b.toNat)) s

/-- 64-bit shift left (R83). -/
def shlwRes (x : DWord) (n : Nat) : DWord := if 64 ≤ n then 0 else x <<< n

/-- 64-bit shift right (R83): f is 0 for .z and 1 for .s. -/
def shrwRes (f : BitVec 2) (x : DWord) (n : Nat) : DWord :=
  if f = 0 then (if 64 ≤ n then 0 else x >>> n) else x.sshiftRight (min n 63)

/-- SHLW (R83). -/
def execShlw (e : Bool) (d a b : BitVec 7) (s : State) : Out :=
  word (.shlw e d a b) (alu fun _ t w => w.setW d.toNat (shlwRes (t.w a.toNat) (t.g b.toNat).toNat)) s

/-- SHRW (R83). -/
def execShrw (e : Bool) (d a b : BitVec 7) (f : BitVec 2) (s : State) : Out :=
  word (.shrw e d a b f)
    (alu fun _ t w => w.setW d.toNat (shrwRes f (t.w a.toNat) (t.g b.toNat).toNat)) s

/-- LEAW's result (R84). -/
def leawRes (f : BitVec 2) (x : DWord) (y : Word) : DWord := x + (y.signExtend 64 <<< f.toNat)

/-- LEAW (R84). -/
def execLeaw (e : Bool) (d a b : BitVec 7) (f : BitVec 2) (s : State) : Out :=
  word (.leaw e d a b f) (alu fun _ t w => w.setW d.toNat (leawRes f (t.w a.toNat) (t.g b.toNat))) s

/-- LDPC's result (R85). -/
def ldpcRes (base : DWord) (pc : Word) (imm : Word) : DWord :=
  base + pc.setWidth 64 + 4 * imm.signExtend 64

/-- LDPC (R85). -/
def execLdpc (e : Bool) (d : BitVec 7) (i : BitVec 16) (s : State) : Out :=
  word (.ldpc e d i)
    (alu fun cx _ w => w.setW d.toNat (ldpcRes (s.slice cx.slice).codeBase cx.pc (immS cx.himm i))) s

/-! ### Compares and predicates (R86 to R88) -/

/-- The integer compare conditions (R86). -/
def icond {n : Nat} (c : BitVec 3) (x y : BitVec n) : Bool :=
  if c = 0 then x == y
  else if c = 1 then x != y
  else if c = 2 then x.slt y
  else if c = 3 then !x.slt y
  else if c = 4 then x.ult y
  else if c = 5 then !x.ult y
  else if c = 6 then (x &&& y) != 0
  else (x &&& y) == 0

/-- CMP (R86). -/
def execCmp (e : Bool) (p : BitVec 6) (a b : BitVec 7) (c : BitVec 3) (s : State) : Out :=
  word (.cmp e p a b c) (alu fun _ t w => w.setP p.toNat (icond c (t.g a.toNat) (t.g b.toNat))) s

/-- CMPW (R86). -/
def execCmpw (e : Bool) (p : BitVec 6) (a b : BitVec 7) (c : BitVec 3) (s : State) : Out :=
  word (.cmpw e p a b c) (alu fun _ t w => w.setP p.toNat (icond c (t.w a.toNat) (t.w b.toNat))) s

/-- CMPI (R86). -/
def execCmpi (e : Bool) (p : BitVec 6) (a : BitVec 7) (c : BitVec 3) (i : BitVec 7) (s : State) : Out :=
  word (.cmpi e p a c i) (alu fun cx t w => w.setP p.toNat (icond c (t.g a.toNat) (immS cx.himm i))) s

/-- CMPI as encoding version 1 has it (R64, R86). -/
def execCmpiV1 (e : Bool) (p : BitVec 6) (a : BitVec 7) (c : BitVec 3) (i : BitVec 7) (s : State) :
    Out :=
  word (.cmpiV1 e p a c i)
    (alu fun cx t w => w.setP p.toNat (icond c (t.g a.toNat) (immS cx.himm i))) s

/-- PLOG's result (R87). -/
def plogRes (f : BitVec 2) (x y : Bool) : Bool :=
  if f = 0 then x && y else if f = 1 then x || y else if f = 2 then x != y else x && !y

/-- PLOG (R87). -/
def execPlog (e : Bool) (d a b : BitVec 7) (f : BitVec 2) (s : State) : Out :=
  word (.plog e d a b f) (alu fun _ t w => w.setP d.toNat (plogRes f (t.p a.toNat) (t.p b.toNat))) s

/-- A bank of predicates as a word (R88): p0 to p31, or p32 to p47. -/
def Thread.bank (t : Thread) (hi : Bool) : Word :=
  if hi then (t.preds >>> 32).setWidth 32 else t.preds.setWidth 32 ||| 1

/-- P2G (R88). -/
def execP2g (e : Bool) (d : BitVec 7) (f : BitVec 2) (s : State) : Out :=
  word (.p2g e d f) (alu fun _ t w => w.setG d.toNat (t.bank (f == 1))) s

/-- Write the predicates of a list of numbers that a mask picks from a value (R88). -/
def Thread.scatter (t : Thread) (base : Nat) (v m : Word) (ks : List Nat) : Thread :=
  ks.foldl (fun t k => if m.getLsbD k then t.setP (base + k) (v.getLsbD k) else t) t

/-- G2P (R88). -/
def execG2p (e : Bool) (a b : BitVec 7) (f : BitVec 2) (s : State) : Out :=
  word (.g2p e a b f)
    (alu fun _ t w =>
      if f = 0 then w.scatter 0 (t.g a.toNat) (t.g b.toNat) ((List.range 32).drop 1)
      else w.scatter 32 (t.g a.toNat) (t.g b.toNat) (List.range 16)) s

end Sys2Proof.Machine
end

