-- ==== Sys2Proof/Machine/System.lean ====
section
/-! DEFINITION. Special registers, tracing, counter watches, translation invalidation, context save and
load, and the page-fault acknowledgement (R27 to R31, R82, R345 to R366). -/

namespace Sys2Proof.Machine

/-! ### Reading special registers (R27 to R32, R353) -/

/-- The remaining budget as %budget reads it (R30). -/
def Slice.budgetReg (l : Slice) : Word :=
  if l.launch.budget = 0 then 0xFFFFFFFF else BitVec.ofNat 32 (min l.budgetLeft 0xFFFFFFFF)

/-- A core's cycle counter (R29). (DESIGN CHOICE, log 4) -/
def State.cycles (s : State) (core : Nat) : DWord := BitVec.ofNat 64 ((s.core core).cycBase + s.now)

/-- The state of a slice's record (%sstate, R353). -/
def State.sstate (s : State) (n : Nat) : Word :=
  match s.slice? n with
  | none => 0
  | some l =>
    let on := s.teams.any fun m => m.slice == n && m.onCore
    let st := if l.ended then 3 else if on then 1 else 2
    let bit := fun (b : Bool) (v : Nat) => if b then v else 0
    BitVec.ofNat 32 (st + bit l.faulted 4 + bit l.held 8 + bit l.super 16 + bit (l.live && !l.placed) 32)

/-- The registers of the selected slice (R353); one without a record reads 0 (R354). -/
def State.selReg (s : State) (n c : Nat) : Word :=
  match s.slice? n with
  | none => 0
  | some l =>
    if c = 0x8001 then s.sstate n
    else if c = 0x8002 then (if l.ended then ((l.exit.map (·.2)).getD 0) else 0)
    else if c = 0x8003 then BitVec.ofNat 32 l.faults
    else if c = 0x8004 then BitVec.ofNat 32 l.undecl
    else if c = 0x8005 then BitVec.ofNat 32 l.defer
    else if c = 0x8006 then BitVec.ofNat 32 l.double
    else if c = 0x8007 then BitVec.ofNat 32 l.bmiss
    else if c = 0x8008 then BitVec.ofNat 32 l.asid
    else if c = 0x8010 then l.trctl
    else if c = 0x8011 then l.trbase
    else if c = 0x8012 then l.trbaseHi
    else if c = 0x8013 then l.trsize
    else if c = 0x8014 then l.trhead
    else if c = 0x8015 then l.trdrop
    else if c = 0x8018 then (if l.dbgHold then 1 else 0) + (if l.dbgStop then 2 else 0)
    else 0

/-- The device's privileged registers (R353). (DEDUCED, log 47) -/
def State.devReg (s : State) (c : Nat) : Word :=
  if c = 0x8020 then s.pf.base
  else if c = 0x8021 then s.pf.baseHi
  else if c = 0x8022 then s.pf.size
  else if c = 0x8023 then BitVec.ofNat 32 s.pf.head
  else if c = 0x8024 then s.pf.done
  else if c = 0x8030 then s.part.partid
  else if c = 0x8031 then s.part.clmask0.setWidth 32
  else if c = 0x8032 then s.part.clmask1.setWidth 32
  else if c = 0x8033 then s.part.stackmask.setWidth 32
  else if c = 0x8034 then s.part.ctxver
  else if c = 0x8035 then BitVec.ofNat 32 s.devid
  else 0

/-- A special register as a thread sees it (R27, R82, R353). -/
def State.sreg (s : State) (t : Thread) (c : Nat) : Word :=
  let g := s.group t.gid
  if c = 1 then t.tid
  else if c = 2 then BitVec.ofNat 32 t.lane
  else if c = 3 then BitVec.ofNat 32 g.width
  else if c = 4 then BitVec.ofNat 32 g.idx
  else if c = 5 then BitVec.ofNat 32 (s.team t.team).idx
  else if c = 6 then BitVec.ofNat 32 t.role
  else if c = 7 then BitVec.ofNat 32 t.slice
  else if c = 8 then t.orig
  else if c = 0x10 then (s.slice t.slice).budgetReg
  else if c = 0x11 then loWord (s.cycles t.core)
  else if c = 0x12 then t.cycHi
  else if c = 0x20 then t.fpctl
  else if c = 0x21 then t.fpflags
  else if c = 0x22 then t.iflags
  else if c = 0x23 then t.tstat
  else if c = 0x30 then t.frec.code
  else if c = 0x31 then t.frec.pc
  else if c = 0x32 then loWord t.frec.addr
  else if c = 0x33 then hiWord t.frec.addr
  else if c = 0x34 then t.frec.info
  else if c = 0x35 then loWord t.frec.mask
  else if c = 0x36 then hiWord t.frec.mask
  else if c = 0x40 then BitVec.ofNat 32 s.ncores
  else if c = 0x41 then 64
  else if c = 0x42 then BitVec.ofNat 32 s.nstacks
  else if c = 0x8000 then t.ssel
  else if c < 0x8020 then s.selReg t.ssel.toNat c
  else s.devReg c

/-- Whether an access to a special register must still wait: %tstat waits for the thread's tile operations that can set a
bit of it (R31). -/
def sregWaits (c : Nat) (t : Thread) (s : State) : Bool :=
  c == 0x23 && s.ops.any fun o => o.uid == t.uid && o.sets && !o.finished

/-- S2G (R29, R82): a read of %cycles latches its high half. (DEDUCED, log 47) -/
def execS2g (e : Bool) (d : BitVec 7) (c : BitVec 16) (s : State) : Out :=
  word (.s2g e d c)
    (holding (sregWaits c.toNat)
      (eachLane fun _ t s => .ok (s.setThread t.uid fun x =>
        { x.setG d.toNat (s.sreg t c.toNat) with
          cycHi := if c = 0x11 then hiWord (s.cycles t.core) else x.cycHi }))) s

/-! ### Page faults acknowledged (R355) -/

/-- Whether a thread is parked at a page. -/
def Thread.atPage (t : Thread) (r : PfRecord) : Bool :=
  match t.park with
  | .page a p .. => a == r.asid && p == r.va.toNat / 65536
  | _ => false

/-- A thread of an acknowledged record is replayed, its accesses ordered after the acknowledgement (R355), or takes the
Access fault at its instruction, with the lanes of its issue set that faulted there (R107, R114). -/
def State.pageAnswer (s : State) (failed : Bool) (t : Thread) : State :=
  let s1 := s.setThread t.uid fun x => { x with park := .none }
  match t.park with
  | .page _ _ a e mask =>
    if failed then s1.deliver t.uid (accessFault 0x21 a) ⟨t.pc, t.pos, e, false⟩ mask else s1.dropClean t.core
  | _ => s1

/-- Engine commands that waited for a page go on, or end with the code of an access error. -/
def State.pageEngines (s : State) (asid page : Nat) (failed : Bool) : State :=
  let mine := fun (slice : Nat) (p : Option Nat) => (s.slice slice).asid == asid && p == some page
  let s1 := { s with
    xsubs := s.xsubs.map fun (b : XSub) => if mine b.slice b.page then
      { b with page := none, status := if failed then 5 else b.status } else b
    xforms := s.xforms.map fun (x : Xform) => if mine x.slice x.page then
      { x with page := none, status := if failed then 5 else x.status } else x
    colls := s.colls.map fun (c : Coll) => if mine c.slice c.page then
      { c with page := none, status := if failed then 5 else c.status } else c }
  s1.tryXsubs

/-- Acknowledge a page-fault record: SEQ in bits [30:0], FAIL in bit [31] (R355). -/
def State.pfDone (s : State) (v : Word) : State :=
  let seq := (v.extractLsb' 0 31).toNat
  let failed := v.getLsbD 31
  let s0 := { s with pf := { s.pf with done := v } }
  match s0.pf.recs.find? fun r => r.written && r.seq == seq with
  | none => s0
  | some r =>
    let s1 := { s0 with pf := { s0.pf with recs := s0.pf.recs.filter (· != r) } }
    let ts := s1.threads.filter fun t => t.live && t.atPage r
    let s2 := ts.foldl (fun s t => s.pageAnswer failed t) s1
    (s2.pageEngines r.asid (r.va.toNat / 65536) failed).pfWrite

/-- PFDONE_ACKNOWLEDGE (R355). -/
def execPfdoneAcknowledge (v : Word) (s : State) : Out := .next (s.pfDone v)

/-! ### Writing special registers (R31, R82, R353, R365, R366) -/

/-- A power of two within limits, or 0. -/
def sizeReg (v : Word) (lo hi : Nat) : Word :=
  if (List.range 32).any fun k => v.toNat == 2 ^ k && decide (lo ≤ 2 ^ k) && decide (2 ^ k ≤ hi) then v else 0

/-- Write %trctl (R365): setting EN clears the counts. -/
def Slice.setTrctl (l : Slice) (v : Word) : Slice :=
  if v.getLsbD 0 then { l with trctl := v &&& 3, trhead := 0, trdrop := 0 } else { l with trctl := v &&& 3 }

/-- Write a register of the selected slice (R353). -/
def Slice.setReg (l : Slice) (c : Nat) (v : Word) : Slice :=
  if c = 0x8010 then l.setTrctl v
  else if c = 0x8011 then { l with trbase := v &&& 0xFFFFFFF0 }
  else if c = 0x8012 then { l with trbaseHi := v }
  else if c = 0x8013 then { l with trsize := sizeReg v 4096 0x10000000 }
  else if c = 0x8018 then { l with dbgHold := v.getLsbD 0, dbgStop := v.getLsbD 1 }
  else l

/-- Clear the bits of %tstat that are written as 1 (R31), but those that a completion has set in the same cycle; PGRANT is
read-only. (DEDUCED, log 47) -/
def Thread.clearTstat (t : Thread) (now : Nat) (v : Word) : Thread :=
  { t with tstat := t.tstat &&& ~~~(v &&& 0xF &&& ~~~(if t.tset.1 = now then t.tset.2 else 0)) }

/-- Write a special register as a thread (R31, R82, R353). -/
def State.setSreg (s : State) (u c : Nat) (v : Word) : State :=
  if c = 0x20 then s.setThread u fun t => { t with fpctl := v &&& 7 }
  else if c = 0x21 then s.setThread u fun t => { t with fpflags := v &&& 0x1F }
  else if c = 0x22 then s.setThread u fun t => { t with iflags := v &&& 3 }
  else if c = 0x23 then s.setThread u fun t => t.clearTstat s.now v
  else if c = 0x8000 then s.setThread u fun t => { t with ssel := v &&& 0xFFFFF }
  else if c = 0x8020 then { s with pf := { s.pf with base := v &&& 0xFFFFFFE0 } }
  else if c = 0x8021 then { s with pf := { s.pf with baseHi := v } }
  else if c = 0x8022 then State.pfWrite { s with pf := { s.pf with size := sizeReg v 16 4096 } }
  else if c = 0x8024 then s.pfDone v
  else if 0x8010 ≤ c then s.setSlice (s.thread u).ssel.toNat fun l => l.setReg c v
  else s

/-- G2S (R31, R82); to %pfdone it is a release at device scope (R355). (DEDUCED, log 47) -/
def execG2s (e : Bool) (d : BitVec 7) (c : BitVec 16) (s : State) : Out :=
  let n := c.toNat
  word (.g2s e d c)
    (holding (fun t s => sregWaits n t s || (n == 0x8024 && releaseWaits 7 t s))
      (eachLane fun _ t s =>
        .ok ((if n = 0x8024 then s.release t 7 else s).setSreg t.uid n (t.g d.toNat)))) s

/-- SPECIAL_REGISTER_WRITE (R82): a register with no behaviour of its own. -/
def execSpecialRegisterWrite (uid : Nat) (code : BitVec 16) (v : Word) (s : State) : Out :=
  let c := code.toNat
  let t := s.thread uid
  if (s.threads.any fun t => t.uid == uid && t.live) && (sregRw c || pregRw c) && c != 0x23 && c != 0x8024 &&
      !(decide (0x8000 ≤ c) && t.unprivileged) then .next (s.setSreg uid c v)
  else .next s

/-- TSTAT_CLEAR (R31). -/
def execTstatClear (uid : Nat) (v : Word) (s : State) : Out := .next (s.setThread uid fun t => t.clearTstat s.now v)

/-- TRCTL_WRITE (R365). -/
def execTrctlWrite (slice : Nat) (v : Word) (s : State) : Out :=
  .next (s.setSlice slice fun l => l.setTrctl v)

/-- DBGCTL_HOLD (R366). -/
def execDbgctlHold (slice : Nat) (on : Bool) (s : State) : Out :=
  .next (s.setSlice slice fun l => { l with dbgHold := on })

/-- DBGCTL_STOP (R366): the stop is taken at each group's next run boundary. (DEDUCED, log 21) -/
def execDbgctlStop (slice : Nat) (on : Bool) (s : State) : Out :=
  .next (s.setSlice slice fun l => { l with dbgStop := on })

/-! ### TRACE (R365) -/

/-- The bytes of a trace record. -/
def traceBytes (code : Nat) (t : Thread) (v : Word) (cyc : Word) : List Byte :=
  leBytes 2 code ++ leBytes 1 t.lane ++ leBytes 1 t.core ++ leBytes 4 t.tid.toNat ++ leBytes 4 v.toNat ++
    leBytes 4 cyc.toNat

/-- Whether the device's hardware can write at a VA of an address space, here or on another device that it can reach
(R380). (DEDUCED, log 51) -/
def State.hwWritable (s : State) (d asid va : Nat) : Bool :=
  decide (va < 2 ^ 57) && (match s.walk d asid va with
    | .leaf e => e.w && (!e.rmt || s.reachable e.home)
    | _ => false)

/-- TRACE in one thread (R365). (DEDUCED, log 38; DEDUCED, log 51) -/
def traceEff (d code : Nat) (t : Thread) (s : State) : State :=
  let l := s.slice t.slice
  if !l.trctl.getLsbD 0 || l.trsize == 0 then s
  else
    let slots := l.trsize.toNat / 16
    let n := l.trhead.toNat
    let die := (s.core t.core).die
    let va := (l.trbaseHi ++ l.trbase).toNat + 16 * (n % slots)
    if (!l.trctl.getLsbD 1 && decide (slots ≤ n)) || !s.hwWritable die l.asid va then
      s.setSlice t.slice fun l => { l with trdrop := l.trdrop + 1 }
    else
      (s.hwStore die l.asid va (traceBytes code t (t.g d) (loWord (s.cycles t.core)))).setSlice t.slice
        fun l => { l with trhead := l.trhead + 1 }

/-- TRACE (R365). -/
def execTrace (e : Bool) (d : BitVec 7) (c : BitVec 16) (s : State) : Out :=
  word (.trace e d c) (eachLane fun _ t s => .ok (traceEff d.toNat c.toNat t s)) s

/-! ### Counter watches (R356 to R359) -/

/-- Whether a counter is a level (R357). -/
def levelCounter (c : Nat) : Bool := c == 1 || c == 8 || c == 9

/-- Whether a counter belongs to a slice (R357). -/
def sliceCounter (c : Nat) : Bool := 3 ≤ c && c ≤ 7

/-- The value of a counter (R357). -/
def State.counter (s : State) (c slice : Nat) : Nat :=
  let l := s.slice slice
  if c = 1 then s.starve
  else if c = 2 then s.starved
  else if c = 3 then l.undecl
  else if c = 4 then l.defer
  else if c = 5 then l.double
  else if c = 6 then l.bmiss
  else if c = 7 then l.faults
  else if c = 8 then 95 * 16 - s.apron.thermal.temp.foldl max 0
  else if c = 9 then s.pf.recs.length
  else 0

/-- Whether a watch's condition holds. -/
def State.watchHolds (s : State) (w : Watch) : Bool :=
  let v := s.counter w.counter w.slice
  if w.falling then decide (v ≤ w.threshold) else decide (w.threshold ≤ v)

/-- Change a watch. -/
def State.setWatch (s : State) (k : Nat) (f : Watch → Watch) : State :=
  { s with watches := s.watches.map fun w => if w.id = k then f w else w }

/-- The notice of a firing (R359). (DEDUCED, log 48) -/
def Watch.noticeBytes (w : Watch) (v : Nat) : List Byte :=
  leBytes 4 w.id ++ leBytes 2 w.counter ++ leBytes 1 (if w.falling then 1 else 0) ++ leBytes 1 0 ++
    leBytes 4 w.slice ++ leBytes 4 0 ++ leBytes 8 v ++ leBytes 4 w.firings ++ leBytes 4 w.missed ++
    List.replicate 32 0

/-- The bytes of a code object as the device measures them (R352): what its pages hold, whatever they let a program do. The
bytes of a page that is not mapped are not given. (DESIGN CHOICE, log 6) -/
def State.codeImage (s : State) (owner asid va n : Nat) : List Byte :=
  (List.range n).map fun k =>
    match s.walk 0 asid (va + k) with
    | .leaf e =>
      let pa := e.pa + (va + k) % e.size
      if e.rmt then (s.remoteBytes owner e.home pa 1).headD 0 else s.mem.atDie 0 pa
    | _ => Config.freeByte (va + k)

/-- Bytes at a VA of an address space, as the device's hardware reads them for an owner; none when one cannot be
read. -/
def State.hwRead (s : State) (owner d asid va : Nat) : Nat → Option (List Byte)
  | 0 => some []
  | n + 1 =>
    match s.walk d asid va with
    | .leaf e =>
      let pa := e.pa + va % e.size
      if !e.r || decide (2 ^ 57 ≤ va) || (e.rmt && s.granFailed owner (e.home, pa / 32)) then none
      else
        match s.hwRead owner d asid (va + 1) n with
        | none => none
        | some r => some ((if e.rmt then s.remoteBytes owner e.home pa 1 else [s.mem.atDie d pa]) ++ r)
    | _ => none

/-- The granules of other devices that bytes at a VA lie in. -/
def State.hwGrans (s : State) (d asid va n : Nat) : List Gran :=
  ((List.range n).flatMap fun k =>
    match s.walk d asid (va + k) with
    | .leaf e => if e.rmt then [(e.home, (e.pa + (va + k) % e.size) / 32)] else []
    | _ => []).dedup

/-- A number that no thread has, for what a firing watch reads from another device. -/
def watchUid (k : Nat) : Nat := 2 ^ 71 + k

/-- Whether a management slice of a watch is still live (R359). -/
def State.watchBusy (s : State) (w : Watch) : Bool :=
  s.slices.any fun l => l.watch == some w.id && l.live && w.live == some l.num

/-- A watch fires with its counter's value (R359): its management slice is released, or the firing is counted as missed. (DEDUCED, log 48) -/
def State.fireWatch (s : State) (w : Watch) (v : Nat) : State :=
  if s.watchBusy w then s.setWatch w.id fun x => { x with missed := x.missed + 1 }
  else
    let s1 := (s.hwStore 0 w.asid w.notice.toNat (w.noticeBytes v)).grantAll 0
    let q : LaunchReq :=
      { block := (s1.hwRead (watchUid w.id) 0 w.asid w.launch.toNat 256).getD [], asid := w.asid, anyAsid := true,
        super := true, argPtr := some (w.notice, 64), watch := some w.id }
    match s1.admitSlice q with
    | .error c => (s1.logRefusal c).setWatch w.id fun x => { x with missed := x.missed + 1 }
    | .ok r => r.2.setWatch w.id fun x => { x with firings := x.firings + 1, live := some r.1 }

/-- What a firing that is due asks other devices for: nothing while its management slice still lives. -/
def State.watchGrans (s : State) (w : Watch) : List Gran :=
  if s.watchBusy w then [] else s.hwGrans 0 w.asid w.launch.toNat 256

/-- Whether a firing that is due must wait for HBM to leave self-refresh (R443): it has a notice to write and a slice to
release. (DEDUCED, log 48) -/
def State.watchSleeps (s : State) (w : Watch) : Bool := s.mem.selfRefresh && !s.watchBusy w

/-- A watch that is due fires once its launch block is there; a one-shot watch is then removed, and one that was to go with
its firing still due (R356, R358, R359). -/
def State.tryWatch (s : State) (k : Nat) : State :=
  match s.watches.find? (·.id == k) with
  | none => s
  | some w =>
    match w.due with
    | none => s
    | some v =>
    if s.watchSleeps w then s
    else if !(s.missing (watchUid k) (s.watchGrans w)).isEmpty then s.ask (watchUid k) (s.watchGrans w)
    else
      let s1 := ((s.setWatch k fun x => { x with due := none }).fireWatch w v).forget [watchUid k]
      if w.oneshot || w.gone then { s1 with watches := s1.watches.filter (·.id != k) } else s1

/-- A watch fires: it is disarmed, and its firing is due; one that fires again while its firing is still due finds the
slice of that firing live, and misses it (R358, R359). -/
def Watch.fires (w : Watch) (v : Nat) : Watch :=
  match w.due with
  | none => { w with armed := false, due := some v }
  | some _ => { w with armed := false, missed := w.missed + 1 }

/-- Evaluate a watch (R358). (DEDUCED, log 48) -/
def State.evalWatch (s : State) (k : Nat) : State :=
  match s.watches.find? (·.id == k) with
  | none => s
  | some w =>
    let h := s.watchHolds w
    if w.gone || (w.oneshot && w.due.isSome) then s
    else if w.armed && h then (s.setWatch k fun x => x.fires (s.counter w.counter w.slice)).tryWatch k
    else if !w.armed && !h then s.setWatch k fun x => { x with armed := true }
    else s

/-- The watch that a descriptor describes (R356). -/
def Watch.ofBytes (l : List Byte) (k issuer asid now : Nat) : Watch :=
  { id := k, issuer := issuer, asid := asid, counter := fieldAt l 0 2, falling := byteAt l 2 == 1,
    oneshot := byteAt l 3 % 2 == 1, slice := fieldAt l 4 4, threshold := fieldAt l 8 8,
    launch := BitVec.ofNat 64 (fieldAt l 0x10 8), notice := BitVec.ofNat 64 (fieldAt l 0x18 8),
    armed := true, firings := 0, missed := 0, live := none, nextAt := now + 4096, due := none, gone := false }

/-- Whether a watch descriptor is within its limits (R356, R357). (DEDUCED, log 48) No alignment is asked of LAUNCH, for
which the table gives none. (DESIGN CHOICE, log 81) -/
def watchOk (l : List Byte) : Bool :=
  let w := Watch.ofBytes l 0 0 0 0
  decide (1 ≤ w.counter) && decide (w.counter ≤ 9) && decide (byteAt l 2 ≤ 1) && byteAt l 3 / 2 == 0 &&
    w.launch.extractLsb' 57 7 == 0 && w.notice.extractLsb' 57 7 == 0 && w.notice.toNat % 64 == 0 &&
    (!sliceCounter w.counter || decide (w.slice < 2 ^ 20)) && (l.drop 0x20).all (· == 0)

/-- Whether a watch's launch block fails the checks of R38 and R352. (DEDUCED, log 48) -/
def State.watchLaunchBad (s : State) (owner d : Nat) (w : Watch) : Bool :=
  match s.hwRead owner d w.asid w.launch.toNat 256 with
  | none => true
  | some b =>
    ((s.admitChecks { block := b, asid := w.asid, super := true, anyAsid := true }).filter fun c =>
      c.2 ≤ 7).any (·.1)

/-- CWATCH.set in one thread (R356). -/
def cwatchSetEff (d : Nat) (t : Thread) (l : List Byte) (s0 : State) : State :=
  let s := s0.drain t.core
  let k := (List.range 64).find? fun n => !(s.watches.any (·.id == n))
  let w := Watch.ofBytes l (k.getD 0) t.slice (s.slice t.slice).asid s.now
  let put := fun (s : State) (v : Word) => s.setThread t.uid fun x => x.setG d v
  if !watchOk l then put s 0xFFFFFFFE
  else if s.watchLaunchBad t.uid (s.core t.core).die w then put s 0xFFFFFFFD
  else
    match k with
    | none => put s 0xFFFFFFFF
    | some n => (State.evalWatch { (put s (BitVec.ofNat 32 n)) with watches := s.watches ++ [w] } n)

/-- What CWATCH.set reads from other devices: its descriptor, then the launch block (R356, R380). -/
def cwatchFar (a : Nat) : Far := fun _ s t =>
  match s.check t (t.w a) 64 .read with
  | .error _ => []
  | .ok c =>
    let g := c.place.grans 64
    if !(s.missing t.uid g).isEmpty then g
    else
      match s.copyAt t c.place (t.w a) 64 with
      | .error _ => g
      | .ok l => g ++ s.hwGrans (s.core t.core).die (s.slice t.slice).asid (fieldAt l 0x10 8) 256

/-- CWATCH.set (R356). -/
def execCwatchSet (e : Bool) (d a : BitVec 7) (s : State) : Out :=
  wordFar (.cwatchSet e d a) (cwatchFar a.toNat)
    (memAct (fun _ s t => s.readAt t (t.w a.toNat) 64) fun _ t l s => cwatchSetEff d.toNat t l s) s

/-- Remove the watches that a test picks (R356): one whose firing is still due goes once it has fired (R359). -/
def State.dropWatches (s : State) (pick : Watch → Bool) : State :=
  { s with watches := (s.watches.filter fun w => !pick w || w.due.isSome).map fun (w : Watch) =>
      if pick w then { w with gone := true } else w }

/-- CWATCH.clr (R356). -/
def execCwatchClr (e : Bool) (d a : BitVec 7) (s : State) : Out :=
  word (.cwatchClr e d a) (eachLane fun _ t s =>
    let k := (t.g a.toNat).toNat
    let v : Word := if s.watches.any fun w => w.id == k && !w.gone then 0 else 0xFFFFFFFF
    .ok ((s.dropWatches fun w => w.id == k).setThread t.uid fun x => x.setG d.toNat v)) s

/-- WATCH_EVALUATION (R358): every 4,096 cycles of a level counter. -/
def execWatchEvaluation (watch : Nat) (s : State) : Out :=
  match s.watches.find? (·.id == watch) with
  | none => .next s
  | some w =>
    if levelCounter w.counter && w.nextAt ≤ s.now then
      .next ((s.setWatch watch fun x => { x with nextAt := s.now + 4096 }).evalWatch watch)
    else .next s

/-! ### TLBINV (R360) -/

/-- A held poll reads its word again: its result is then computed (R161). (DEDUCED, log 50) -/
def State.reloadPoll (s : State) (t : Thread) (p : Pending) (place : Place) (scope : Nat) (ea : DWord) :
    State :=
  let r := s.loadAtScope t.core place scope
  r.1.setThread t.uid fun x => { x with pend := x.pend.map fun q =>
    if q.id = p.id then
      { q with
        kind := .ready
        fault := if r.2.2 then some (memPoison ea) else q.fault
        dests := q.dests.map fun d => (d.1, r.2.1) }
    else q }

/-- Whether a held load of a thread at an address uses a translation that a test picks. -/
def State.usesEntry (s : State) (t : Thread) (ea : DWord) (pick : TlbEntry → Bool) : Bool :=
  ((s.core t.core).tlbHit (s.slice t.slice).asid (s.faultVa t ea)).any pick

/-- Drop the translations that tests pick, on every core and walker, once the loads that used them have returned
and every FIFO has drained: what the stores have written is then in coherence order on both dies (R360, R379).
(DEDUCED, log 50) -/
def State.tlbinv (s : State) (pick : TlbEntry → Bool) (walk : WalkEntry → Bool) : State :=
  let s1 := s.cores.foldl (fun s c => s.drain c.num) s
  let s2 := (s1.grantAll 0).grantAll 1
  { s2 with
    cores := s2.cores.map fun c => { c with tlb := c.tlb.filter fun e => !pick e }
    walkers := s2.walkers.filter fun w => !walk w }

/-- Whether loads that used translations which TLBINV drops, issued before it was first tried, have not returned: loads and
atomics of other devices' pages, and held polls of device memory (R360). (DEDUCED, log 50) -/
def tlbWaits (pick : TlbEntry → Bool) (t : Thread) (s : State) : Bool :=
  let m := s.markOf t
  (s.fabric.remote.any fun w => !w.isStore && decide (w.txn < m.1)) ||
    s.threads.any fun x => x.pend.any fun p => match p.kind with
      | .poll (.phys _) _ expiry ea => decide (expiry ≤ m.2 + pollCycles) && s.usesEntry x ea pick
      | _ => false

/-- The translations of a page in an address space. -/
def TlbEntry.ofPage (x : TlbEntry) (asid va : Nat) : Bool :=
  x.asid == asid && decide (x.base ≤ va) && decide (va < x.base + x.size)

/-- The address space and the address that a TLBINV.page names. -/
def pageArgs (a b : Nat) (t : Thread) : Nat × Nat := ((t.g b).toNat % 4096, (t.w a).toNat)

/-- TLBINV.page (R360). -/
def execTlbinvPage (e : Bool) (a b : BitVec 7) (s : State) : Out :=
  let arg := pageArgs a.toNat b.toNat
  word (.tlbinvPage e a b) (holding (fun t => tlbWaits (fun x => x.ofPage (arg t).1 (arg t).2) t)
    (eachLane fun _ t s => .ok (s.tlbinv (fun x => x.ofPage (arg t).1 (arg t).2)
      fun x => x.asid == (arg t).1 && x.tag == walkTag x.lvl (arg t).2))) s

/-- TLBINV.asid (R360). -/
def execTlbinvAsid (e : Bool) (b : BitVec 7) (s : State) : Out :=
  let asid := fun (t : Thread) => (t.g b.toNat).toNat % 4096
  word (.tlbinvAsid e b) (holding (fun t => tlbWaits (fun x => x.asid == asid t) t)
    (eachLane fun _ t s => .ok (s.tlbinv (fun x => x.asid == asid t) fun x => x.asid == asid t))) s

/-- TLBINV.all (R360). -/
def execTlbinvAll (e : Bool) (s : State) : Out :=
  word (.tlbinvAll e) (holding (tlbWaits fun _ => true)
    (eachLane fun _ _ s => .ok (s.tlbinv (fun _ => true) fun _ => true))) s

/-! ### Context save and load (R361 to R364) -/

/-- The bytes that a team's save takes (R361): at most 16 MiB. (DESIGN CHOICE, log 49) -/
def State.teamNeed (s : State) (m : Team) : Nat :=
  let regs := ((s.teamThreads m.uid).map fun t => t.regs.length).sum
  min (Config.ctxNeed regs m.scratch.length m.tiles.length) (16 * 2 ^ 20)

/-- The bytes of an area for some teams: the header and their saves. -/
def State.areaNeed (s : State) (ms : List Team) : Nat := 64 + (ms.map s.teamNeed).sum

/-- The teams that a selector names (R362): 0xFF is the whole slice. -/
def State.selTeams (s : State) (n k : Nat) : List Team :=
  s.teams.filter fun m => m.slice == n && (k == 0xFF || m.idx == k)

/-- Whether a team is held by CTXSV, or being saved or loaded for it. -/
def State.ctxTeam (s : State) (m : Team) : Bool :=
  m.at_ == .held || m.at_ == .queued || s.ctxAreas.any fun c => c.teams.contains m.uid && !c.loading

/-- The check of a context area (R362): an 8-byte access to be read and written, aligned to 4,096. -/
def State.ctxCheck (s : State) (t : Thread) (ea : DWord) : Except FaultInfo (List Byte) :=
  if ea.extractLsb' 57 7 != 0 then .error (accessFault 0x01 ea)
  else
    match s.check t ea 4096 .read with
    | .error f => .error f
    | .ok _ =>
      match s.check t ea 4096 .write with
      | .error f => .error f
      | .ok _ => (s.drain t.core).copyBytes t ea 64

/-- Write bytes of a context area as the hardware does. -/
def State.ctxWrite (s : State) (c : CtxArea) (off : Nat) (bs : List Byte) : State :=
  s.hwStore 0 c.asid (c.va.toNat + off) bs

/-- The status of a CTXSV (R362): a slice that no team of has been placed gives status 1 under every selector.
(DESIGN CHOICE, log 49) -/
def State.ctxsvStatus (s : State) (t : Thread) (n k : Nat) (h : List Byte) : Nat :=
  let l := s.slice n
  let ms := s.selTeams n k
  if !(s.slices.any fun x => x.num == n && x.live) || ms.isEmpty then 1
  else if ms.any s.ctxTeam then 2
  else if n = t.slice then 3
  else if k != 0xFF && (l.launch.clusterShared || decide (0 < l.launch.chipScratch)) then 4
  else if fieldAt h 8 8 < s.areaNeed ms then 5
  else if byteAt h 7 = 1 then 6
  else 0

/-- The number of the next context area record. -/
def State.nextCtx (s : State) : Nat := (s.ctxAreas.map (·.id)).foldl max 0 + 1

/-- The array stops after the row in progress, for the teams that a test picks (R260, R417). -/
def State.stopArray (s : State) (pick : Nat → Bool) : State :=
  { s with ops := s.ops.map fun (o : TileOp) =>
      if o.unit == .array && !o.finished && pick o.team then { o with started := false } else o }

/-- The stop that a context save asks for begins, once no deferral window holds it (R59, R362): its teams stop as the
scheduler pre-empts them. -/
def State.ctxStop (s : State) (ctx : Nat) : State :=
  match s.ctxAreas.find? (·.id == ctx) with
  | none => s
  | some c =>
    if dueAt c.stopAt s.now then
      { s.stopArray c.teams.contains with
        ctxAreas := s.ctxAreas.map fun (x : CtxArea) => if x.id = ctx then { x with stopAt := none } else x
        teams := s.teams.map fun m =>
          if c.teams.contains m.uid && m.at_ == .resident then { m with at_ := .saving } else m }
    else s

/-- CTXSV in one thread (R362). -/
def ctxsvEff (d a b : Nat) (t : Thread) (h : List Byte) (s : State) : State :=
  let sel := t.w b
  let n := (sel.extractLsb' 0 20).toNat
  let k := (sel.extractLsb' 32 8).toNat
  let ms := s.selTeams n k
  let st := s.ctxsvStatus t n k h
  let c : CtxArea := ⟨s.nextCtx, (s.slice t.slice).asid, t.w a, n, k, ms.map (·.uid), false, false,
    some ((s.slice n).window.getD s.now), s.areaNeed ms⟩
  let s0 := s.setThread t.uid fun x => x.setG d (BitVec.ofNat 32 st)
  if st = 5 then s0.ctxWrite c 0x20 (leBytes 8 (s.areaNeed ms))
  else if st ≠ 0 then s0
  else
    let s1 := (s0.ctxWrite c 0x20 (leBytes 8 (s.areaNeed ms))).ctxWrite c 7 [1]
    State.ctxStop { s1 with ctxAreas := s1.ctxAreas ++ [c] } c.id

/-- The header of a context area that may lie on another device (R380). -/
def ctxFar (a : Nat) : Far := fun _ s t => s.byteGrans t (t.w a) 64

/-- CTXSV (R362). -/
def execCtxsv (e : Bool) (d a b : BitVec 7) (s : State) : Out :=
  wordFar (.ctxsv e d a b) (ctxFar a.toNat)
    (memAct (fun _ s t => s.ctxCheck t (t.w a.toNat)) fun _ t h s => ctxsvEff d.toNat a.toNat b.toNat t h s) s

/-- The status of a CTXLD (R363). (DESIGN CHOICE, log 49) -/
def State.ctxldStatus (s : State) (h : List Byte) : Nat :=
  let n := fieldAt h 0x18 4
  let ms := s.selTeams n (byteAt h 0x1C)
  if fieldAt h 0 4 != 0x4354584B || fieldAt h 4 2 != s.part.ctxver.toNat % 65536 || byteAt h 6 != s.devid ||
      byteAt h 7 != 2 then 5
  else if !(s.slices.any fun x => x.num == n && x.live) then 1
  else if ms.isEmpty || ms.any fun m => m.at_ != .held then 2
  else 0

/-- CTXLD in one thread (R363). -/
def ctxldEff (d a : Nat) (t : Thread) (h : List Byte) (s : State) : State :=
  let st := s.ctxldStatus h
  let n := fieldAt h 0x18 4
  let ms := s.selTeams n (byteAt h 0x1C)
  let c : CtxArea :=
    ⟨s.nextCtx, (s.slice t.slice).asid, t.w a, n, byteAt h 0x1C, ms.map (·.uid), true, true, none, 0⟩
  let s0 := s.setThread t.uid fun x => x.setG d (BitVec.ofNat 32 st)
  if st ≠ 0 then s0
  else
    let s1 := s0.ctxWrite c 7 [1]
    { s1 with
      ctxAreas := (s1.ctxAreas.filter fun x => !(x.saved && !x.loading && x.teams.all c.teams.contains)) ++ [c]
      teams := s1.teams.map fun m => if c.teams.contains m.uid then { m with at_ := .queued } else m }

/-- CTXLD (R363). -/
def execCtxld (e : Bool) (d a : BitVec 7) (s : State) : Out :=
  wordFar (.ctxld e d a) (ctxFar a.toNat)
    (memAct (fun _ s t => s.ctxCheck t (t.w a.toNat)) fun _ t h s => ctxldEff d.toNat a.toNat t h s) s

end Sys2Proof.Machine
end

