-- ==== Sys2Proof/Machine/Run.lean ====
section
/-! DEFINITION. Groups between their instructions (R26, R47 to R52, R90 to R103, R115, R119, R159, R161,
R205, R340, R406 to R409): when a group is ready, which threads a run takes, the return of results, the end
of waits, and the faults due at run boundaries. -/

namespace Sys2Proof.Machine

/-! ### Ready groups (R90, R406) -/

/-- A result that a run end awaits (R50): not one that its thread waits for alone (R162, R193). -/
def Pending.awaited (p : Pending) : Bool :=
  !p.detached && !p.returned && (match p.kind with
    | .poll .. | .gather | .remote _ true => false
    | _ => true)

/-- A polling load that holds its thread, here or at another device (R162). -/
def Pending.polling (p : Pending) : Bool :=
  !p.detached && !p.returned && (match p.kind with
    | .poll .. | .remote _ true => true
    | _ => false)

/-- Whether a group is parked awaiting results (R50). -/
def State.awaiting (s : State) (g : Group) : Bool :=
  g.run.isNone && (s.groupThreads g.gid).any fun t => t.pend.any Pending.awaited

/-- Whether a thread stands in the run that its group is issuing. -/
def Group.inRun (g : Group) (u : Nat) : Bool := (g.run.getD []).contains u

/-- Whether a thread waits for an open instance that it has arrived at (R193): in its handler, only for one that the
handler itself has arrived at. (DEDUCED, log 22) -/
def Thread.openGather (t : Thread) : Bool :=
  t.gather.any fun c => !c.skipped &&
    (!t.inHandler || t.pend.any fun p => p.id == c.pendId && decide (t.resume.run < p.run))

/-- Whether a thread is ready, its group's results apart (R90). -/
def Thread.ready (t : Thread) : Bool :=
  t.live && t.park == .none && !t.openGather && !t.pend.any Pending.polling

/-- Whether a slice's group may issue: its team on its cores and not being stopped, its slice neither
suspended nor stopped by a debugger; every team of a cluster-shared slice must be there (R157, R364, R366,
R402). -/
def State.mayIssue (s : State) (g : Group) : Bool :=
  let l := s.slice g.slice
  (s.team g.team).running && !l.suspended && l.resident && !g.stopped && !l.dbgStop &&
    (!l.launch.clusterShared || (s.teams.filter (·.slice == g.slice)).all Team.running)

/-- Whether a group is ready to start a run (R406). -/
def State.groupReady (s : State) (g : Group) : Bool :=
  g.run.isNone && g.waits.isEmpty && s.mayIssue g && !s.awaiting g &&
    (s.groupThreads g.gid).any Thread.ready

/-- Whether a pending group is ready for a place in the active set: to start a run, or to go on with one inside which a
stop took it (R222, R402, R406). -/
def State.enterable (s : State) (g : Group) : Bool := s.groupReady g || (g.run.isSome && s.mayIssue g)

/-- The rank of a thread's path key (R90). -/
def Thread.rank (t : Thread) : Nat := if t.inHandler then 0 else 1

/-- The path key (R90). -/
def Thread.path (t : Thread) : PathKey := ⟨t.pc, t.rank, t.pos⟩

/-- The path key as one number, which orders keys field by field: PC, then rank, then position (R90). -/
def Thread.key (t : Thread) : Nat := t.pc.toNat * 64 + 32 * t.rank + t.pos

/-- The issue set that R91 selects, in lane order. (DEDUCED, log 10) -/
def State.select (s : State) (g : Group) : List Thread :=
  let r := sortBy (fun (x y : Thread) => decide (x.lane ≤ y.lane)) ((s.groupThreads g.gid).filter Thread.ready)
  let n := r.filter (·.stamp == 0)
  let first := if n.isEmpty
    then (sortBy (fun (x y : Thread) =>
      decide (x.stamp < y.stamp) || (x.stamp == y.stamp && decide (x.key ≤ y.key))) r).head?
    else (sortBy (fun (x y : Thread) => decide (x.key ≤ y.key)) n).head?
  match first with
  | none => []
  | some x => r.filter (·.key == x.key)

/-- The lexicographic order of lists of numbers. -/
def lexLe : List Nat → List Nat → Bool
  | x :: xs, y :: ys => decide (x < y) || (x == y && lexLe xs ys)
  | _, _ => true

/-- The key of R397 that orders slices. -/
def Slice.order (l : Slice) : List Nat :=
  let job := l.contract.isSome && l.jobOpen
  [if job then 0 else 1, if job then 0 else 15 - l.launch.priority, l.deadlineAt.getD (2 ^ 80), l.releaseAt]

/-- Whether one slice stands ahead of another in the order of R397; slices level in it stand by number. -/
def Slice.ahead (a b : Slice) : Bool := lexLe (a.order ++ [a.num]) (b.order ++ [b.num])

/-- Slices in the order of R397. (DEDUCED, log 44) -/
def inOrder (ls : List Slice) : List Slice := sortBy Slice.ahead ls

/-- Since when a group of the active set has been able to issue without issuing: it entered the set, was held no longer,
or issued. -/
def Group.idleSince (g : Group) : Nat := max (max g.enteredAt g.ableAt) g.issuedAt

/-- Whether a group has issued in this cycle (R46). -/
def Group.issuedIn (g : Group) (now : Nat) : Bool := decide (now < g.issuedAt)

/-- The issue slots of a core that are left in this cycle (R409). -/
def State.slots (s : State) (core : Nat) : Nat :=
  2 - (s.groups.filter fun g => g.core == core && g.issuedIn s.now).length

/-- Whether a group goes on with the run that it is issuing: it has its place in the active set, or a debugger steps it,
it is not held, and its team is on its cores. (DEDUCED, log 10) -/
def State.mayGoOn (s : State) (g : Group) : Bool :=
  g.run.isSome && !g.held && (g.active || !g.stepping.isEmpty) && (s.team g.team).onCore

/-- Whether a group's next instruction can issue in this cycle: in the run that it issues, or at the start of one (R46,
R409). -/
def State.canIssue (s : State) (g : Group) : Bool :=
  !g.issuedIn s.now && (s.mayGoOn g || (g.active && s.groupReady g))

/-- Whether a group has been able to issue for 64 cycles without issuing (R409). -/
def State.overdue (s : State) (g : Group) : Bool := decide (g.idleSince + 64 ≤ s.now)

/-- Whether a group that has been able to start a run for 64 cycles without issuing takes a slot (R409). -/
def State.isStarved (s : State) (g : Group) : Bool :=
  g.active && s.groupReady g && !g.issuedIn s.now && decide (0 < s.slots g.core) && s.overdue g

/-- The groups of a core whose next instruction can issue, in the order of R409. -/
def State.startable (s : State) (core : Nat) : List Group :=
  sortBy (fun (x y : Group) =>
    let key := fun (g : Group) => (if s.overdue g then 0 else 1) :: ((s.slice g.slice).order ++ [g.issuedAt])
    lexLe (key x) (key y))
    (s.groups.filter fun g => g.core == core && s.canIssue g)

/-- The cores that have groups. -/
def State.busyCores (s : State) : List Nat := (s.groups.map (·.core)).dedup

/-- The group whose instruction issues next: the first of a core that has a slot left (R409). (DEDUCED, log 10) -/
def State.pick (s : State) : Option Group :=
  s.busyCores.findSome? fun c => ((s.startable c).take (s.slots c)).head?

/-- Whether no group's instruction is next within a run. -/
def State.slotFree (s : State) : Bool :=
  match s.cur with
  | none => true
  | some g => !s.mayGoOn (s.group g)

/-- Start a run in a group: its threads, each once, lose their stamps (R91). -/
def State.startRun (s : State) (g : Group) : State :=
  let us := ((s.select g).map (·.uid)).dedup
  if us.isEmpty then s
  else
    { ((s.setThreads us fun t => { t with stamp := 0 }).setGroup g.gid fun x => { x with run := some us, done := [] })
      with cur := some g.gid }

/-- RUN_START (R91, R409): a group among those that stand first on their core, as many as it has slots left, or a
starved one. -/
def execRunStart (gid : Nat) (s : State) : Out :=
  match s.groups.find? (·.gid == gid) with
  | none => .next s
  | some g =>
    if s.slotFree && g.active && s.groupReady g &&
        (((s.startable g.core).take (s.slots g.core)).contains g || s.isStarved g) then .next (s.startRun g)
    else .next s

/-- ISSUE_STARVATION (R409): a starved group takes a slot ahead of the order. -/
def execIssueStarvation (gid : Nat) (s : State) : Out :=
  match s.groups.find? (·.gid == gid) with
  | none => .next s
  | some g => if s.slotFree && s.isStarved g then .next (s.startRun g) else .next s

/-! ### The active set (R406 to R408) -/

/-- The ready pending groups of a core, the earliest ready first, and those that yielded last among equals (R407). -/
def State.pendingReady (s : State) (core : Nat) : List Group :=
  sortBy (fun (x y : Group) => lexLe [x.readyAt, x.yielded] [y.readyAt, y.yielded])
    (s.groups.filter fun g => g.core == core && !g.active && g.stepping.isEmpty && s.enterable g)

/-- The active groups of a core. -/
def State.activeOn (s : State) (core : Nat) : List Group := s.groups.filter fun g => g.core == core && g.active

/-- The registers of a lane of a core that are spoken for when a group is active: the budgets of the lane's threads
that are in active groups, in the group, or pinned by a contract (R21, R396). -/
def State.laneRegs (s : State) (core lane : Nat) (g : Group) : Nat :=
  ((s.threads.filter fun t => t.live && t.core == core && t.lane == lane &&
    (t.gid == g.gid || (s.group t.gid).active || s.contracted (s.slice t.slice))).map fun t =>
      (s.launchOf t).regBudget t.role).sum

/-- Whether the registers of a group's threads can all be held in their lanes (R20, R21). -/
def State.regsFit (s : State) (g : Group) : Bool :=
  (s.groupThreads g.gid).all fun t => decide (s.laneRegs t.core t.lane g ≤ 1792)

/-- The ready pending group that takes a free one of a core's 8 places (R21, R406, R407). -/
def State.entrant (s : State) (core : Nat) : Option Group :=
  match s.pendingReady core with
  | [] => none
  | g :: _ => if decide ((s.activeOn core).length < 8) && s.regsFit g then some g else none

/-- A group enters the active set. -/
def State.activate (s : State) (core : Nat) : State :=
  match s.entrant core with
  | none => s
  | some g => s.setGroup g.gid fun x => { x with active := true, enteredAt := s.now }

/-- GROUP_ACTIVATION (R407): a free place of the 8 goes to the group ready longest. -/
def execGroupActivation (core : Nat) (s : State) : Out := .next (s.activate core)

/-- AGEING_ROTATION (R408): the active group that entered earliest makes room, at its next run boundary. -/
def execAgeingRotation (core : Nat) (s : State) : Out :=
  match s.pendingReady core,
      sortBy (fun (x y : Group) => decide (x.enteredAt ≤ y.enteredAt)) (s.activeOn core) with
  | p :: _, g :: _ =>
    if p.readyAt + p.skipped + 1024 ≤ s.now then .next (s.setGroup g.gid fun x => { x with yieldEnd := true })
    else .next s
  | _, _ => .next s

/-- A group leaves the active set, or stays pending, and is ready again from the next cycle at the earliest. -/
def Group.leave (g : Group) (now : Nat) : Group :=
  { g with active := false, readyAt := now + 1, skipped := 0, yielded := 0 }

/-- A group yields at a run end: it becomes the most recently ready of its core (R59, R407). -/
def State.yields (s : State) (g : Group) : Group :=
  { g.leave s.now with
    yieldEnd := false
    yielded := ((s.groups.filter (·.core == g.core)).map (·.yielded)).foldl max 0 + 1 }

/-- The instruction that a group is held at, if its word can be read. -/
def State.heldAt (s : State) (g : Group) : Option Instr :=
  match (g.run.getD []).head? with
  | none => none
  | some u =>
    let t := s.thread u
    match (s.codeWord t t.pc).map (parse (s.launchOf t).version) with
    | some (.ok i) => some i
    | _ => none

/-- Whether a group is held at a tile instruction: the only place inside a run where a stop may find it (R222, R279).
(DEDUCED, log 79) -/
def State.tileHeld (s : State) (g : Group) : Bool :=
  g.held && ((g.run.getD []).isEmpty || (s.heldAt g).any fun i => i.klass == some 5 || i.klass == some 6)

/-- Whether a group is held at a stalling instruction (R184). -/
def State.stallHeld (s : State) (g : Group) : Bool := g.held && (s.heldAt g).any Instr.stalling

/-- Whether a stop has reached a group: its slice is suspended, or its team is being saved or is gone (R402, R403). -/
def State.stopping (s : State) (g : Group) : Bool := (s.slice g.slice).suspended || !(s.team g.team).running

/-- Whether a stop takes a group where it stands inside its run (R222). -/
def State.stopsIn (s : State) (g : Group) : Bool := s.stopping g && s.tileHeld g

/-- What a group's standing becomes after a step: a group that is not ready, or that a stop takes inside its run, is
pending and is ready from when it becomes so; one that is to yield does so at its run end (R59, R407). -/
def State.standing (s : State) (g : Group) : Group :=
  if g.run.isSome then
    if s.stopsIn g || (!g.active && !s.mayIssue g) then g.leave s.now else g
  else if g.yieldEnd then s.yields g
  else if !s.groupReady g then g.leave s.now
  else g

/-- Whether a thread of the machine has not ended. -/
def State.alive (s : State) (u : Nat) : Bool := s.threads.any fun t => t.uid == u && t.live

/-- The run of a group without the threads that have ended, each thread once. -/
def State.liveRun (s : State) (g : Group) : Group :=
  match g.run with
  | none => g
  | some us =>
    let r := (us.filter s.alive).dedup
    { g with run := if r.isEmpty then none else some r }

/-- The free places of a core's active set are filled at once (R407). -/
def State.fillActive (s : State) : Nat → Nat → State
  | 0, _ => s
  | n + 1, core => if (s.entrant core).isNone then s else (s.activate core).fillActive n core

/-- The group whose word issues next, unless a group first starts a run. -/
def State.nextCur (s : State) : Option Nat :=
  match s.pick with
  | none => none
  | some g => if g.run.isSome then some g.gid else none

/-- The standing of every group after a step, the active sets, and the group that issues next. -/
def State.regroupAll (s : State) : State :=
  let s1 := { s with groups := s.groups.map s.liveRun }
  let s2 := { s1 with groups := s1.groups.map s1.standing }
  let s3 := s2.busyCores.foldl (fun s c => s.fillActive 8 c) s2
  { s3 with cur := s3.nextCur }

/-! ### Results (R50, R161) -/

/-- The results of an instance under PART return to every receiver together (R194). -/
def State.landPart (s : State) (n : Nat) : State :=
  s.threads.foldl (fun r t =>
    (t.pend.filter fun p => p.kind == .part n && !p.returned).foldl (fun r p => r.landOne t.uid p) r) s

/-- Some destinations of a computed result are written ahead of the others, which follow in a later cycle (R48). -/
def Thread.landEarly (t : Thread) (p : Pending) (ds : List (Dest × Word)) (now : Nat) : Thread :=
  let t1 := t.landSome p ((t.landing p).filter ds.contains)
  { t1 with pend := t1.pend.map fun q =>
      if q.id = p.id then { q with early := some now, dests := q.dests.filter fun d => !ds.contains d } else q }

/-- The destinations of a result that are written now ahead of the others, as a free value picks them: all are when it
picks none (R48). -/
def Pending.ahead (p : Pending) (now : Nat) : List (Dest × Word) :=
  if p.kind == .ready && p.fault.isNone then
    (p.dests.zipIdx.filter fun d => (Config.landsEarly now p.id).testBit d.2).map (·.1)
  else []

/-- Whether a result is computed and may return in this cycle: not one that has been written in part in it. -/
def Pending.computed (p : Pending) (now : Nat) : Bool :=
  !p.returned && p.early != some now && (match p.kind with
    | .ready | .part _ => true
    | _ => false)

/-- RESULT_RETURN (R50): a computed result returns; a poll whose hold has ended reads again and returns.
(DEDUCED, log 67) -/
def execResultReturn (uid id : Nat) (s : State) : Out :=
  let t := s.thread uid
  match t.pendOf id with
  | none => .next s
  | some p =>
    match p.kind with
    | .ready => .next (s.landOne uid p)
    | .part n => .next (s.landPart n)
    | .poll place scope expiry ea =>
      if expiry ≤ s.now then
        let s1 := s.reloadPoll t p place scope ea
        match (s1.thread uid).pendOf id with
        | none => .next s1
        | some q => .next (s1.landOne uid q)
      else .next s
    | _ => .next s

/-- LDPOLL_TIMEOUT (R161): a held poll reloads when its time is over. -/
def execLdpollTimeout (uid id : Nat) (s : State) : Out :=
  match (s.thread uid).pendOf id with
  | none => .next s
  | some p =>
    match p.kind with
    | .poll place scope expiry ea =>
      if expiry ≤ s.now then
        let s1 := s.reloadPoll (s.thread uid) p place scope ea
        match (s1.thread uid).pendOf id with
        | none => .next s1
        | some q => .next (s1.landOne uid q)
      else .next s
    | _ => .next s

/-! ### Faults due at run boundaries (R112, R115, R159) -/

/-- Deliver faults that were due where they are awaited: each thread's mask holds the lanes of this delivery
whose fault names the same instruction (R107, R159). `at_` is where RFE resumes, if it is not the thread's
own next run. -/
def State.deliverDue (s : State) (xs : List (Nat × Word × FaultInfo)) (at_ : Option Word) : State :=
  xs.foldl (fun s x =>
    let m := s.lanesMask ((xs.filter fun y => y.2.1 == x.2.1).map (·.1))
    let s1 := match at_ with
      | some pc => s.setThread x.1 fun t => t.newRun pc
      | none => s
    s1.deliver x.1 x.2.2 ⟨x.2.1, (s1.thread x.1).pos, true, true⟩ m) s

/-- The earliest returned result of a thread with a fault that a test picks. (DEDUCED, log 23) -/
def Thread.dueFault (t : Thread) (pick : Pending → Bool) : Option (Pending × FaultInfo) :=
  ((sortBy (fun (x y : Pending) => decide (x.id ≤ y.id)) (t.pend.filter fun p => p.returned && pick p)).filterMap
    fun p => p.fault.map fun f => (p, f)).head?

/-- Deliver the faults of results that a test picks, one in each thread. (DEDUCED, log 23; DEDUCED, log 27) -/
def State.deliverResults (s : State) (ts : List Thread) (pick : Thread → Pending → Bool) (at_ : Option Word) :
    State :=
  let xs := ts.filterMap fun t => (t.dueFault (pick t)).map fun r => (t, r)
  let s1 := xs.foldl (fun s x => s.setThread x.1.uid fun t =>
    { t with pend := t.pend.filter (·.id != x.2.1.id) }) s
  s1.deliverDue (xs.map fun x => (x.1.uid, x.2.1.pc, x.2.2)) at_

/-- Whether a thread's undetached result may have its fault delivered: it belongs to the code that now runs, and its
run is over (R51, R159). -/
def Thread.owns (t : Thread) (p : Pending) : Bool :=
  !p.detached && p.run != t.runId && (!t.inHandler || decide (t.resume.run < p.run))

/-- Whether a thread may take a fault of a run that is over, parked by an instruction of that run or not: it awaits no
result alone, and stands neither at an absent page nor in a debugger's hold (R159). (DEDUCED, log 27) -/
def Thread.takesDue (t : Thread) : Bool :=
  t.live && !t.pend.any Pending.polling && (match t.park with
    | .page .. | .debug => false
    | _ => true)

/-- The faults of awaited results of a group at a run boundary (R159, R380). (DEDUCED, log 27) -/
def State.boundaryFaults (s : State) (g : Group) : State :=
  if g.run.isSome || s.awaiting g || !g.waits.isEmpty then s
  else s.deliverResults ((s.groupThreads g.gid).filter Thread.takesDue) Thread.owns none

/-- The PC that a Budget fault resumes a thread at, when it is parked in a wait of its own. (DEDUCED, log 22) -/
def Thread.waitPc (t : Thread) : Option Word :=
  match t.park with
  | .join _ | .yield | .bar | .regroup .. => some t.parkPc
  | _ => none

/-- The threads and the PC of a wait of a group. -/
def GWait.uids : GWait → List Nat
  | .counters _ _ us _ | .tiles _ us _ => us
  | .queue _ cs _ => cs.map (·.uid)
  | .xwait r _ | .fget r _ => r.map (·.1)

/-- The PC of a wait of a group. -/
def GWait.pc : GWait → Word
  | .counters _ _ _ pc | .tiles _ _ pc | .queue _ _ pc | .xwait _ pc | .fget _ pc => pc

/-- A wait of a group is abandoned: what waits for it elsewhere goes too (R115, R287, R340). (DEDUCED, log 22) -/
def State.abandon (s : State) (g : Group) : State :=
  let s1 := s.setGroup g.gid fun x => { x with waits := [] }
  let s2 := s1.setSlice g.slice fun l => { l with queues := l.queues.map fun (q : RoleQueue) => q.forget [g.gid] }
  let us := (s.groupThreads g.gid).map (·.uid)
  { s2 with cloak := { s2.cloak with fgets := s2.cloak.fgets.filter fun (f : FGet) => !us.contains f.uid } }

/-- Put a thread back to the parking instruction that it waits at, if it waits at one; an arrival at a gathering
instruction stands, whose operands are read (R193). (DEDUCED, log 22) -/
def Thread.backTo (t : Thread) (waits : List GWait) : Thread :=
  match t.waitPc with
  | some pc => { t.newRun pc with park := .none }
  | none =>
    match waits.find? fun w => w.uids.contains t.uid with
    | some w => t.newRun w.pc
    | none => t

/-- The Budget faults of a group at a run boundary (R115): waits are abandoned, and each thread that has one
due takes it. (DEDUCED, log 22) -/
def State.budgetFaults (s : State) (g : Group) : State :=
  let due := fun (t : Thread) => t.budgetDue && t.pos == 0 && !g.inRun t.uid && !t.pend.any Pending.polling &&
    (match t.park with
     | .page .. | .debug => false
     | _ => true)
  let ts := (s.groupThreads g.gid).filter due
  if g.run.isSome || s.awaiting g || ts.isEmpty || !(s.team g.team).running then s
  else
    let s1 := if g.waits.isEmpty then s else
      (s.groupThreads g.gid).foldl (fun s t => if ts.any (·.uid == t.uid) then s
        else s.setThread t.uid fun x => x.backTo g.waits) (s.abandon g)
    ts.foldl (fun s t =>
      let s2 := s.setThread t.uid fun x => { x.backTo g.waits with budgetDue := false }
      s2.deliver t.uid (flt 0x0A 0) ⟨(s2.thread t.uid).pc, 0, false, true⟩ (s2.lanesMask [t.uid])) s1

/-! ### JOIN and BAR (R99, R205) -/

/-- Whether every position that a rejoin mask names holds a thread parked at the JOIN, an ended one, or
none (R99). -/
def State.joined (s : State) (g : Group) (here : List Thread) (m : DWord) : Bool :=
  (s.groupThreads g.gid).all fun t =>
    !m.getLsbD (s.position t) || here.any (·.uid == t.uid)

/-- Release the satisfied threads of a group's JOINs (R99). -/
def State.joinRelease (s : State) (g : Group) : State :=
  let parked := (s.groupThreads g.gid).filter fun t =>
    !g.inRun t.uid && (match t.standsAt with
      | .join _ => true
      | _ => false)
  let ok := parked.filter fun t =>
    match t.standsAt with
    | .join m => s.joined g (parked.filter (·.standsPc == t.standsPc)) m
    | _ => false
  if ok.isEmpty then s else s.setThreads (ok.map (·.uid)) Thread.unpark

/-- Complete a team's barrier phase once every thread that has not ended has arrived and its accesses have
returned (R205, R206): what an arrived thread has observed since its release goes with the phase, and each departure is
an acquire at team scope. -/
def State.barRelease (s : State) (m : Team) : State :=
  let ts := s.teamThreads m.uid
  let here := fun (t : Thread) => t.standsAt == .bar && !t.memoryOpen && !(s.group t.gid).inRun t.uid
  if ts.isEmpty || !ts.all here then s
  else
    let s1 := ts.foldl (fun s t => s.release t 3) s
    ts.foldl (fun s t => (s.setThread t.uid Thread.unpark).acquire t 3) s1

/-! ### The ends of group waits (R102, R243, R285 to R287, R297, R340) -/

/-- The threads of a list that have not ended. -/
def State.liveOf (s : State) (us : List Nat) : List Thread :=
  (us.map s.thread).filter Thread.live

/-- The classes of a WAITC mask. -/
def maskClasses (m : BitVec 4) : List CClass :=
  ([CClass.ld, .st, .tm, .ax].zipIdx.filter fun c => m.getLsbD c.2).map (·.1)

/-- The end of a WAITC (R102, R159): the wait is over, with the faults of the results it counts out. -/
def State.endCounters (s : State) (m : BitVec 4) (thr : Nat) (us : List Nat) (pc : Word) : Option State :=
  let ts := s.liveOf us
  let cs := maskClasses m
  if ts.all fun t => cs.all fun c => decide (t.ctr.get c ≤ thr) then
    some (s.deliverResults ts (fun _ p => p.detached && cs.contains p.cls) (some pc))
  else none

/-- The end of a TWAIT (R243, R245, R382). -/
def State.endTiles (s : State) (ids us : List Nat) (pc : Word) : Option State :=
  if s.ops.any fun o => ids.contains o.id && !o.finished then none
  else
    let bad := s.ops.filter fun o => ids.contains o.id && o.finished && us.contains o.uid && (s.thread o.uid).live
    let firsts := bad.filter fun o => !(bad.any fun p => p.uid == o.uid && decide (p.id < o.id))
    let s1 := { s with ops := s.ops.filter fun (o : TileOp) => !firsts.contains o }
    some (s1.deliverDue (firsts.filterMap fun o => o.poison.map fun f => (o.uid, o.pc, f)) (some pc))

/-- The barrier object of an XWAIT (R290, R297). -/
structure BarObj where
  expected : Nat
  arrived : Nat
  status : Nat
  scope : Nat
  poisoned : Bool
  deriving DecidableEq, Repr

/-- Read a barrier object. -/
def Team.barObj (m : Team) (o : Nat) : BarObj :=
  ⟨m.scratchWord o, m.scratchWord (o + 4), m.scratchWord (o + 8), m.scratchWord (o + 12) % 256, m.wordPoisoned o⟩

/-- The scope of an XWAIT's acquire: 0 and codes that name no scope act as team and system. -/
def xwaitScope (c : Nat) : Nat := if c = 0 then 3 else min c 9

/-- The end of an XWAIT (R297): each live thread acquires. A poisoned object raises Memory Poison. -/
def State.endXwait (s : State) (rest : List (Nat × Nat)) (pc : Word) : Option State :=
  let live := rest.filter fun r => (s.thread r.1).live
  let obj := fun (r : Nat × Nat) => (s.team (s.thread r.1).team).barObj r.2
  let done := fun (b : BarObj) => b.poisoned || decide (b.expected ≤ b.arrived) || b.status != 0
  if !live.all fun r => done (obj r) then none
  else
    let bad := live.filter fun r => (obj r).poisoned
    let s1 := live.foldl (fun s r =>
      if (obj r).poisoned then s else s.acquire (s.thread r.1) (xwaitScope (obj r).scope)) s
    some (s1.deliverDue (bad.map fun r => (r.1, pc, flt 0x0C 0 (barrierAddr r.2))) (some pc))

/-- The end of an FGET (R340): each live thread receives its result, or takes its Future fault. -/
def State.endFget (s : State) (rest : List (Nat × Nat)) : Option State :=
  let fs := s.cloak.fgets.filter fun (f : FGet) => rest.contains (f.uid, f.tag) && (s.thread f.uid).live
  if !fs.all fun (f : FGet) => f.got.isSome then none
  else
    let s1 := { s with cloak := { s.cloak with
      fgets := s.cloak.fgets.filter fun (f : FGet) => !rest.contains (f.uid, f.tag) } }
    let trapOf := fun (f : FGet) => if f.trap then (f.got.getD (.status 0)).trapSub else none
    let bad := fs.filter fun f => (trapOf f).isSome
    let s2 := fs.foldl (fun s (f : FGet) =>
      if (trapOf f).isSome then s else s.giveFget f.uid f.d f.p (f.got.getD (.status 0))) s1
    let m := s2.lanesMask (bad.map (·.uid))
    some (bad.foldl (fun s (f : FGet) => (s.setThread f.uid f.ctx.restore).deliver f.uid
      (futureFault ((trapOf f).getD 0) f.handle) ⟨f.ctx.pc, f.ctx.pos, true, false⟩ m) s2)

/-- Whether and how a wait of a group ends now. -/
def State.endWait (s : State) (g : Group) (w : GWait) : Option State :=
  match w with
  | .counters m thr us pc => s.endCounters m thr us pc
  | .tiles ids us pc => s.endTiles ids us pc
  | .queue q _ _ =>
    if (((s.slice g.slice).queue q).waiters).contains g.gid then none else some s
  | .xwait rest pc => s.endXwait rest pc
  | .fget rest _ => s.endFget rest

/-- End the waits of a group that are over, at its run end, once its results have returned (R50). -/
def State.waitRelease (s : State) (g : Group) : State :=
  if g.run.isSome || s.awaiting g || !(s.team g.team).running then s
  else g.waits.foldl (fun s w =>
    match s.endWait g w with
    | none => s
    | some s1 => s1.setGroup g.gid fun x => { x with waits := x.waits.filter (· != w) }) s

/-- Complete the gathering instances of a group that wait for no thread any more (R193). -/
def State.gatherRelease (s : State) (g : Group) : State :=
  let pcs := ((s.groupThreads g.gid).flatMap fun t => t.gather.map (·.pc)).dedup
  pcs.foldl (fun s pc => s.completeInstance g.gid pc) s

/-! ### Debug steps (R118 to R120) -/

/-- After an instruction of a group: a debugger's step ends its path's part of the run once a non-hint has
issued (R119), and one that reaches a run-ending instruction ends the run, with the trailer that may follow (R120). -/
def State.stepIssued (s : State) (gid : Nat) (i : Instr) : State :=
  let g := s.group gid
  if g.stepping.isEmpty || i.isHint || g.held || (i.runEnd && !i.sbit) then s
  else s.setGroup gid fun x => { x with run := none }

/-- Whether a path stands where a debugger may step it: it is not parked, and waits for nothing of its own (R90). -/
def Thread.steppable (t : Thread) : Bool :=
  t.live && (t.park == .none || t.park == .debug) && !t.openGather && !t.pend.any Pending.polling

/-- A step begins: its path's instruction is the group's next one (R119). -/
def State.stepStart (s : State) (g : Group) (d : DbgStep) : State :=
  let us := ((s.liveOf d.uids).filter Thread.steppable).map (·.uid)
  if us.isEmpty then s
  else
    { ((s.setThreads us fun t => { t with stamp := 0, park := .none }).setGroup g.gid fun x =>
        { x with run := some us }) with cur := some g.gid }

/-- Whether a step is over: every long-latency result of its path has returned, one that its thread awaits alone among
them (R119). -/
def State.stepOver (s : State) (d : DbgStep) : Bool :=
  d.begun && (s.liveOf d.uids).all fun t => !t.pend.any fun p => !p.detached && !p.returned

/-- A step that is over stops its path with Debug: not the threads that are parked, alone or with their group, and not
those that took a fault instead (R112, R119, R120). (DEDUCED, log 21) -/
def State.stepStop (s : State) (g : Group) (d : DbgStep) : State :=
  let stop := (s.liveOf d.uids).filter fun t =>
    t.park == .none && !(t.inHandler && !d.inH) && !g.waits.any fun w => w.uids.contains t.uid
  let m := s.lanesMask (stop.map (·.uid))
  stop.foldl (fun s t => s.deliver t.uid (flt 0x0F 2) ⟨t.pc, t.pos, false, true⟩ m) s

/-- The ends of a group's steps, and the beginning of the next one (R119). (DEDUCED, log 21) -/
def State.stepEnd (s : State) (g : Group) : State :=
  if g.stepping.isEmpty || g.run.isSome then s
  else
    let s1 := (g.stepping.filter s.stepOver).foldl (fun r d => r.stepStop g d) s
    let left := g.stepping.filter fun d => !s.stepOver d
    match left with
    | [] => s1.setGroup g.gid fun x => { x with stepping := [] }
    | d :: r =>
      if left.any (·.begun) then s1.setGroup g.gid fun x => { x with stepping := left }
      else (s1.setGroup g.gid fun x => { x with stepping := { d with begun := true } :: r }).stepStart g d

/-! ### Killing (R101) -/

/-- Kill the threads of a slice that have not ended (R101); the slice is marked faulted. -/
def State.killSlice (s : State) (n : Nat) : State :=
  ((s.sliceThreads n).foldl (fun s t => s.killThread t.uid) s).setSlice n fun l =>
    if l.live then { l with faulted := true } else l

/-- KILL (R101). -/
def execKill (slice : Nat) (s : State) : Out := .next (s.killSlice slice)

end Sys2Proof.Machine
end

