-- ==== Sys2Proof/Machine/Power.lean ====
section
/-! DEFINITION. Power phases, the Apron, the array's order of operations, cadence, gating and band rails
(R262 to R265, R411 to R414, R436 to R441), and the thermal cadence (R442). -/

namespace Sys2Proof.Machine

/-! ### Operations in the array (R414) -/

/-- Whether an operation is in the array: running, or waiting there for its phase's grant. -/
def TileOp.inArray (o : TileOp) : Bool := o.unit == .array && !o.finished && (o.started || o.waitsGrant)

/-- Whether a team's array operations go on: it is on its cores, and no stop has reached it (R402, R417). -/
def State.arrayGoes (s : State) (team : Nat) : Bool :=
  (s.team team).running && !(s.slice (s.team team).slice).suspended

/-- The operation in the array of a core: the one that runs, else the first that waits for its grant there. -/
def State.arrayOp (s : State) (core : Nat) : Option TileOp :=
  match s.ops.find? fun o => o.core == core && o.inArray && o.started && (s.team o.team).onCore with
  | some o => some o
  | none => s.ops.find? fun o => o.core == core && o.inArray && s.arrayGoes o.team

/-- Whether an earlier operation of the team on one of the same tiles is in flight (R222). -/
def State.opBlocked (s : State) (o : TileOp) : Bool :=
  s.ops.any fun p => p.team == o.team && !p.finished && decide (p.id < o.id) &&
    ((o.td.toList ++ o.reads).any fun h => p.td == some h || p.reads.contains h)

/-- Change an operation. -/
def State.setOp (s : State) (k : Nat) (f : TileOp → TileOp) : State :=
  { s with ops := s.ops.map fun (o : TileOp) => if o.id = k then f o else o }

/-- The number of bands of a set. -/
def bandCount (b : BitVec 4) : Nat := (bitsOf 4 b.getLsbD).length

/-- Demand of a class over a band set (R436). -/
def demandOf (cls : Nat) (b : BitVec 4) : Nat := (cls + 1) * bandCount b

/-- A quotient rounded up. -/
def ceilDiv (a b : Nat) : Nat := (a + b - 1) / b

/-- Whether a phase covers an operation (R264). -/
def Phase.covers (p : Phase) (o : TileOp) : Bool :=
  (bandSet o.kMax &&& ~~~p.bands) == 0 && decide (o.cls ≤ p.cls) && decide (0 < p.rows)

/-- The phase of a team with an operation's rows taken from it. -/
def Phase.take (p : Phase) (o : TileOp) : Phase := { p with rows := p.rows - o.rowsM }

/-- Whether the array of its core is an operation's to run in: it is the one there, its team's operations go on, and the
rails are on (R413, R414, R417). -/
def State.hasArray (s : State) (o : TileOp) : Bool :=
  (s.arrayOp o.core).map (·.id) == some o.id && s.arrayGoes o.team && s.apron.thermal.state != 3

/-- An operation begins to run in the array: bands that it needs and that are gated are to be powered
(R413). -/
def State.runOp (s : State) (o : TileOp) (undeclared : Bool) : State :=
  let s1 := s.setOp o.id fun x => { x with judged := true, started := true, waitsGrant := false, undeclared := undeclared }
  s1.setCore o.core fun (c : Core) =>
    let need := bitsOf 4 fun b => (c.gated &&& bandSet o.kMax).getLsbD b
    { c with bandWake := c.bandWake ++
        ((need.filter fun b => !c.bandWake.any (·.1 == b)).map fun b => (b, s.now)) }

/-- A team's phase ends, with its reservation and its floor (R263, R438). -/
def State.closePhase (s : State) (team : Nat) : State :=
  let s1 := s.setTeam team fun m => { m with phase := none }
  { s1 with apron := { s1.apron with
      queue := s1.apron.queue.filter fun (a : Announce) => a.team != team
      reserved := s1.apron.reserved.filter fun (r : Reservation) => r.team != some team } }

/-- A team's phase ends and covers no operation any more (R263, R439): one that its grant let run goes on at cadence 1. -/
def State.dropPhase (s : State) (team : Nat) : State :=
  let s0 := if (s.team team).phase.isNone then s else
    { s with ops := s.ops.map fun (o : TileOp) =>
        if o.team = team then { o with covered := false, kg := min o.kg 1 } else o }
  s0.closePhase team

/-- A granted phase whose rows are used up ends once every operation that waited for it has started: those go on at its
cadence (R263, R265). -/
def State.spentPhase (s : State) (team : Nat) : State :=
  match (s.team team).phase with
  | some p =>
    if p.st == .granted && p.spent && !(s.ops.any fun o => o.team == team && o.waitsGrant && !o.finished)
    then State.closePhase { s with ops := s.ops.map fun (o : TileOp) =>
      if o.team = team then { o with covered := false } else o } team
    else s
  | none => s

/-- A covered operation starts (R263): its team's granted phase has started one, and ends if that was the last that its
rows cover. -/
def State.runCovered (s : State) (o : TileOp) : State :=
  ((s.runOp o false).setTeam o.team fun m => { m with phase := m.phase.map fun (p : Phase) =>
    if p.st == .granted then { p with lastStart := s.now } else p }).spentPhase o.team

/-- An undeclared burst (R265, R436): it is counted and reserves its current, and runs once the array is its own. -/
def State.burst (s : State) (o : TileOp) (go : Bool) : State :=
  let d := demandOf o.cls (bandSet o.kMax)
  let s1 := (if go then s.runOp o true
    else s.setOp o.id fun x => { x with judged := true, waitsGrant := false, undeclared := true }).setSlice
      (s.team o.team).slice fun l => { l with undecl := bump32 l.undecl }
  { s1 with apron := { s1.apron with
      reserved := s1.apron.reserved ++ [⟨none, o.id, ceilDiv d 4, d, s.now⟩] } }

/-- An operation that a pending or deferred phase covers waits in the array for the grant (R265). -/
def State.waitGrant (s : State) (o : TileOp) (q : Phase) : State :=
  (s.setOp o.id fun x => { x with judged := true, waitsGrant := true, covered := true }).setTeam o.team fun m =>
    { m with phase := some { q with spent := q.rows == 0 } }

/-- An operation that has not been judged yet meets its team's phase (R265); `go` says that the array is its own. -/
def State.meetPhase (s : State) (o : TileOp) (go : Bool) : State :=
  match (s.team o.team).phase with
  | none => s.burst o go
  | some p =>
    if !p.covers o then s.burst o go
    else
      let q := p.take o
      if p.st = .granted then
        let s1 := (s.setOp o.id fun x => { x with judged := true, covered := true, waitsGrant := !go, kg := if go then 0 else p.icad }).setTeam
          o.team fun m => { m with phase := some { q with spent := q.rows == 0 } }
        if go then s1.runCovered o else s1
      else s.waitGrant o q

/-- The operation that is next in the array is judged (R265), and runs or waits; one whose grant came while it could not
run runs now. -/
def State.judge (s : State) (o : TileOp) : State :=
  if o.waitsGrant then s.runCovered o
  else if !o.burst || o.judged then s.runOp o o.undeclared
  else s.meetPhase o true

/-- The operations that wait for the grant of a team's phase. -/
def State.waitingOps (s : State) (team : Nat) : List TileOp :=
  s.ops.filter fun o => o.team == team && o.waitsGrant && o.kg == 0 && !o.finished

/-- The operations that waited for a phase that has ended are judged again (R265). One that cannot run where it stands, its
array in use or its team stopped, runs when it can. (DEDUCED, log 30) -/
def State.rejudge (s : State) (team : Nat) : State :=
  (s.waitingOps team).foldl (fun s o => s.meetPhase { o with waitsGrant := false } (s.hasArray o)) s

/-- The operation that the array of a core starts next (R414): the oldest of the teams there, with the array
free and its tiles free, or the one that waits there and whose grant has come, unless the rails are off. -/
def State.nextArrayOp (s : State) (core : Nat) : Option TileOp :=
  if s.apron.thermal.state == 3 then none
  else
    match s.arrayOp core with
    | some o => if o.waitsGrant && o.kg != 0 then some o else none
    | none =>
      match s.ops.find? fun o => o.core == core && o.unit == .array && !o.finished && s.arrayGoes o.team with
      | none => none
      | some o => if s.opBlocked o then none else some o

/-- ARRAY_OPERATION_START (R265, R414). -/
def execArrayOperationStart (core : Nat) (s : State) : Out :=
  match s.nextArrayOp core with
  | none => .next s
  | some o => .next (s.judge o)

/-! ### PHASE (R262, R263) -/

/-- The phase that an ANNOUNCE makes. -/
def phaseOf (o c lx m b : BitVec 4) (now : Nat) : Phase :=
  { at_ := now, onset := now + 64 * 2 ^ o.toNat, cls := c.toNat, rows := (m.toNat + 16) * 2 ^ lx.toNat,
    length := (m.toNat + 16) * 2 ^ lx.toNat, bands := b, st := .pending, grantAt := 0, lastStart := 0, icad := 1,
    spent := false }

/-- ANNOUNCE in one thread: the team's phase is replaced, and the announcement reaches the Apron 32 cycles
later (R263, R438). -/
def State.announce (s : State) (team : Nat) (p : Phase) : State :=
  let s1 := (s.dropPhase team).setTeam team fun m => { m with phase := some p }
  State.rejudge { s1 with apron := { s1.apron with
    queue := s1.apron.queue ++ [⟨team, s.now + 32, demandOf p.cls p.bands, p.cls / 4, none⟩] } } team

/-- PHASE.ANNOUNCE (R263). -/
def execPhaseAnnounce (e : Bool) (o c lx m b : BitVec 4) (s : State) : Out :=
  word (.phaseAnnounce e o c lx m b)
    (eachLane fun cx _ s => .ok (s.announce cx.team (phaseOf o c lx m b s.now))) s

/-- PHASE.END (R263). -/
def execPhaseEnd (e : Bool) (s : State) : Out :=
  word (.phaseEnd e) (eachLane fun cx _ s => .ok ((s.dropPhase cx.team).rejudge cx.team)) s

/-- The PGRANT code of a team's phase (R263). -/
def grantCode : Option Phase → Nat
  | none => 0
  | some p => match p.st with
    | .pending => 1
    | .granted => 2
    | .deferred => 3

/-- PHASE.QUERY (R263): PGRANT is bits [5:4] of %tstat. -/
def execPhaseQuery (e : Bool) (s : State) : Out :=
  word (.phaseQuery e)
    (eachLane fun cx t s => .ok (s.setThread t.uid fun x =>
      { x with tstat := (x.tstat &&& ~~~0x30) |||
          BitVec.ofNat 32 (16 * grantCode (s.team cx.team).phase) })) s

/-- Whether a phase's onset has passed without its grant (R263). (DEDUCED, log 30) -/
def Phase.late (p : Phase) (now : Nat) : Bool := p.st == .pending && decide (p.onset < now)

/-- PHASE_ONSET (R263). -/
def execPhaseOnset (team : Nat) (s : State) : Out :=
  match (s.team team).phase with
  | none => .next s
  | some p =>
    if p.late s.now then .next (s.setTeam team fun m => { m with phase := some { p with st := .deferred } })
    else .next s

/-- Whether a granted phase ends for want of a covered operation (R263). (DEDUCED, log 30) -/
def Phase.idle (p : Phase) (now : Nat) : Bool :=
  p.st == .granted && decide (p.lastStart < p.grantAt) && decide (p.grantAt + 65536 ≤ now)

/-- PHASE_IDLE_EXPIRY (R263). -/
def execPhaseIdleExpiry (team : Nat) (s : State) : Out :=
  match (s.team team).phase with
  | none => .next s
  | some p => if p.idle s.now then .next (s.dropPhase team) else .next s

/-! ### The rails (R440) -/

/-- Whether a team lies in a cluster. -/
def State.inCluster (s : State) (m : Team) (cl : Nat) : Bool :=
  m.onCore && m.cores.any fun c => (s.core c).clusterNo == cl

/-- The votes and floors on a rail: granted phases, announced phases that have reached the Apron, and
operations in progress. -/
def State.votes (s : State) (cl band : Nat) : List Nat :=
  let ph := s.teams.filterMap fun m =>
    match m.phase with
    | none => none
    | some p =>
      let floor := p.st == .granted || s.apron.queue.any fun a => a.team == m.uid && decide (a.at_ ≤ s.now)
      if floor && p.bands.getLsbD band && s.inCluster m cl then some (p.cls / 4) else none
  let op := s.ops.filterMap fun o =>
    if o.unit == .array && o.started && !o.finished && (bandSet o.kMax).getLsbD band &&
        (s.core o.core).clusterNo == cl && !(s.core o.core).gated.getLsbD band then some (o.cls / 4) else none
  ph ++ op

/-- The level that a rail is to run at. -/
def State.railTarget (s : State) (cl band : Nat) : Nat := (s.votes cl band).foldl max 0

/-- RAIL_CTL as it acts now (R437). -/
def State.railCtl (s : State) : Word :=
  if s.mgmt.railAt / 256 < s.now / 256 then s.mgmt.railCtl else s.mgmt.oldRail

/-- RAIL_HOLD in main cycles. (DEDUCED, log 64) -/
def State.railHold (s : State) : Nat := (s.railCtl.extractLsb' 0 16).toNat * 1900

/-- RAMP in main cycles. (DEDUCED, log 64) -/
def State.railRamp (s : State) : Nat := max 1 (s.railCtl.extractLsb' 16 8).toNat * 1900

/-- A rail meets the votes of now: a higher vote starts a step up, a vote at its level stops a descent, and
none at its level starts the hold. -/
def Rail.meet (r : Rail) (target now hold : Nat) : Rail :=
  if r.level < target then
    { r with upAt := some (r.upAt.getD (now + 256)), holdUntil := none, downAt := none }
  else if r.level = target then { r with upAt := none, holdUntil := none, downAt := none }
  else if r.holdUntil.isNone && r.downAt.isNone then { r with upAt := none, holdUntil := some (now + hold) }
  else { r with upAt := none }

/-- Whether nothing moves the rails: no phase, no operation, all at level 0. -/
def State.railsQuiet (s : State) : Bool :=
  (s.ops.all fun o => o.unit != .array) && (s.teams.all fun m => m.phase.isNone) &&
    s.apron.rails.all fun r => r.level == 0 && r.upAt.isNone

/-- Every rail meets the votes of now. -/
def State.meetRails (s : State) : State :=
  if s.railsQuiet then s
  else { s with apron := { s.apron with
    rails := s.apron.rails.map fun (r : Rail) => r.meet (s.railTarget r.cluster r.band) s.now s.railHold } }

/-- Change a rail. -/
def State.setRail (s : State) (cl band : Nat) (f : Rail → Rail) : State :=
  { s with apron := { s.apron with
    rails := s.apron.rails.map fun (r : Rail) => if r.cluster = cl && r.band == band then f r else r } }

/-- A rail by cluster and band. -/
def State.rail (s : State) (cl band : Nat) : Rail :=
  (s.apron.rails.find? fun r => r.cluster == cl && r.band == band).getD default

/-- RAIL_STEP_UP (R440). -/
def execRailStepUp (cluster band : Nat) (s : State) : Out :=
  let t := s.railTarget cluster band
  let r := s.rail cluster band
  if dueAt r.upAt s.now && decide (r.level < t) then
    .next (s.setRail cluster band fun x =>
      { x with level := x.level + 1, upAt := if x.level + 1 < t then some (s.now + 256) else none })
  else .next s

/-- A rail goes down a level, and is to go on while it is above every vote. (DEDUCED, log 30) -/
def Rail.descend (r : Rail) (target now ramp : Nat) : Rail :=
  { r with level := r.level - 1, holdUntil := none,
           downAt := if target < r.level - 1 then some (now + ramp) else none }

/-- RAIL_HOLD_EXPIRY (R440): the rail begins to step down. -/
def execRailHoldExpiry (cluster band : Nat) (s : State) : Out :=
  let t := s.railTarget cluster band
  let r := s.rail cluster band
  if dueAt r.holdUntil s.now && decide (t < r.level) then
    .next (s.setRail cluster band fun x => x.descend t s.now s.railRamp)
  else .next s

/-- RAIL_STEP_DOWN (R440). -/
def execRailStepDown (cluster band : Nat) (s : State) : Out :=
  let t := s.railTarget cluster band
  let r := s.rail cluster band
  if dueAt r.downAt s.now && decide (t < r.level) then
    .next (s.setRail cluster band fun x => x.descend t s.now s.railRamp)
  else .next s

/-! ### The Apron (R436, R438) -/

/-- APRON_CTL as it acts now (R437). -/
def State.apronCtl (s : State) : Word :=
  if s.mgmt.apronAt / 256 < s.now / 256 then s.mgmt.apronCtl else s.mgmt.oldApron

/-- The load limit. -/
def State.budgetUnits (s : State) : Nat := (s.apronCtl.extractLsb' 0 16).toNat

/-- The reservation allowed to begin in a window, in units. -/
def State.stagger (s : State) : Nat := 16 * max 1 (s.apronCtl.extractLsb' 16 8).toNat

/-- The Apron's load: every reservation held. -/
def State.load (s : State) : Nat := (s.apron.reserved.map (·.units)).sum

/-- The units of the reservations that begin in the window of a boundary. -/
def State.windowUnits (s : State) (t : Nat) : Nat :=
  ((s.apron.reserved.filter fun r => r.start / 256 == t / 256).map (·.units)).sum

/-- The clusters of a team's cores. -/
def State.teamClusters (s : State) (team : Nat) : List Nat :=
  ((s.team team).cores.map fun c => (s.core c).clusterNo).dedup

/-- The earliest start of an announced phase: now, or once the lowest of its rails can have come up. -/
def State.earliest (s : State) (a : Announce) : Nat :=
  let bands := match (s.team a.team).phase with
    | none => []
    | some p => bitsOf 4 p.bands.getLsbD
  let lows := (s.teamClusters a.team).flatMap fun c => bands.map fun b => (s.rail c b).level
  s.now + 256 * (a.level - lows.foldl min a.level)

/-- The cadence at which a demand fits the load (R438). -/
def State.cadenceFor (s : State) (d : Nat) : Option Nat :=
  ((List.range 16).map (· + 1)).find? fun k => decide (s.load + ceilDiv d k ≤ s.budgetUnits)

/-- The start and the cadence that the Apron decides for an announced phase, if any fits now (R438). -/
def State.decideGrant (s : State) (a : Announce) : Option (Nat × Nat) :=
  match s.cadenceFor a.demand with
  | none => none
  | some k =>
    let t0 := ceilDiv (s.earliest a) 256 * 256
    let ok := fun (t : Nat) =>
      let b := s.windowUnits t
      b == 0 || decide (b + a.demand ≤ s.stagger)
    ((List.range (s.apron.reserved.length + 1)).map fun j => t0 + 256 * j).find? ok |>.map fun t => (t, k)

/-- The announcement that the Apron treats next: the first undecided, once it has arrived. (DEDUCED, log 30) -/
def State.nextAnnounce (s : State) : Option Announce :=
  match s.apron.queue.find? fun a => a.decided.isNone with
  | none => none
  | some a => if a.at_ ≤ s.now then some a else none

/-- The Apron's decision on its next announcement. (DEDUCED, log 30) -/
def State.decision (s : State) : Option (Announce × Nat × Nat) :=
  match s.nextAnnounce with
  | none => none
  | some a => (s.decideGrant a).map fun d => (a, d)

/-- Record a decision: the start, the cadence and the reservation (R436, R438). -/
def State.decide_ (s : State) (a : Announce) (t k : Nat) : State :=
  { s with apron := { s.apron with
      queue := s.apron.queue.map fun (x : Announce) => if x = a then { x with decided := some (t, k) } else x
      reserved := s.apron.reserved ++ [⟨some a.team, 0, ceilDiv a.demand k, a.demand, t⟩] } }

/-- APRON_ANNOUNCEMENT (R438): the Apron treats the announcement of a team, when it is the next. -/
def execApronAnnouncement (team : Nat) (s : State) : Out :=
  match s.decision with
  | none => .next s
  | some d => if d.1.team = team then .next (s.decide_ d.1 d.2.1 d.2.2) else .next s

/-- The grant of a team's phase that is due: its cadence. -/
def State.grantDue (s : State) (team : Nat) : Option Nat :=
  match s.apron.queue.find? fun a => a.team == team with
  | none => none
  | some a => match a.decided with
    | none => none
    | some d => if d.1 ≤ s.now then some d.2 else none

/-- A phase is granted (R263, R265, R438): the operations that wait for it have its cadence, and run where the array is
theirs; a late grant counts them as deferred bursts. -/
def State.grant (s : State) (team k : Nat) (p : Phase) : State :=
  let late := decide (p.onset < s.now)
  let ws := s.waitingOps team
  let s1 := s.setTeam team fun m => { m with phase := some { p with st := .granted, grantAt := s.now, icad := k } }
  let s2 := { s1 with
    ops := s1.ops.map fun (o : TileOp) => if ws.any (·.id == o.id) then { o with kg := k } else o
    apron := { s1.apron with queue := s1.apron.queue.filter fun (a : Announce) => a.team != team } }
  let s3 := if late then s2.setSlice (s.team team).slice fun l =>
      { l with defer := ws.foldl (fun n _ => bump32 n) l.defer } else s2
  (ws.foldl (fun s o => if s.hasArray o then s.runCovered o else s) s3).spentPhase team

/-- PHASE_GRANT (R438): at its window boundary. -/
def execPhaseGrant (team : Nat) (s : State) : Out :=
  match s.grantDue team, (s.team team).phase with
  | some k, some p => .next (s.grant team k p)
  | _, _ => .next s

/-! ### Cadence and gating (R412, R413, R439) -/

/-- KTHERM of a core's die. -/
def State.kthermOf (s : State) (c : Core) : Nat := s.apron.thermal.ktherm.getD c.die 1

/-- The cadence of the granted phase that covers an operation, or 1: a phase that the team was granted since covers
later operations alone, and an operation that waited for its grant keeps the cadence that the grant gave it (R265).
(DEDUCED, log 30) -/
def State.grantedCadence (s : State) (o : TileOp) : Nat :=
  if o.kg != 0 then o.kg
  else
    match (s.team o.team).phase with
    | none => 1
    | some p => if p.st == .granted && o.covered then p.icad else 1

/-- 16 while a rail of an operation's band set is below its class's level (R439). -/
def State.railCadence (s : State) (c : Core) (o : TileOp) : Nat :=
  if (bitsOf 4 (bandSet o.kMax).getLsbD).any fun b => decide ((s.rail c.clusterNo b).level < o.cls / 4) then 16
  else 1

/-- What power control sets ICAD to on a core (R439). (DEDUCED, log 29) -/
def State.icadFor (s : State) (c : Core) : Nat :=
  match s.arrayOp c.num with
  | none => s.kthermOf c
  | some o => max (s.grantedCadence o) (max (s.kthermOf c) (s.railCadence c o))

/-- CADENCE_UPDATE (R439). -/
def execCadenceUpdate (core : Nat) (s : State) : Out :=
  .next (s.setCore core fun c => { c with icad := s.icadFor c })

/-- The effective interval of a core's array (R412). (DEDUCED, log 29) -/
def State.eff (s : State) (c : Core) : Nat :=
  match s.arrayOp c.num with
  | none => c.icad
  | some o => if o.undeclared then max 4 c.icad else c.icad

/-- ICAD as read (R412). -/
def State.icadReg (s : State) (c : Core) : Word := BitVec.ofNat 32 (c.icad % 32 + 256 * (s.eff c % 32))

/-- ASHAPE as read (R412): while a pass waits for a band to be powered (R413), none is in progress. -/
def State.ashapeReg (s : State) (c : Core) : Word :=
  let g := 16 * c.gated.toNat
  match s.arrayOp c.num with
  | none => BitVec.ofNat 32 g
  | some o => BitVec.ofNat 32
      ((if o.started && (c.gated &&& bandSet o.kMax) == 0 then 256 else 0) + g + (bandSet o.kMax).toNat)

/-- Whether an operation that runs in a core's array uses a band: one that waits for its grant makes no pass. -/
def State.bandBusy (s : State) (core band : Nat) : Bool :=
  s.ops.any fun o => o.core == core && o.inArray && o.started && (bandSet o.kMax).getLsbD band

/-- Whether a band is to be gated: powered, and unused for 1,024 cycles (R413). -/
def State.gateDue (s : State) (c : Core) (band : Nat) : Bool :=
  decide (band < 4) && !c.gated.getLsbD band && !s.bandBusy c.num band &&
    decide (c.bandUsed.getD band 0 + 1024 ≤ s.now)

/-- BAND_GATING (R413). -/
def execBandGating (core band : Nat) (s : State) : Out :=
  if s.gateDue (s.core core) band then
    .next (s.setCore core fun c => { c with gated := c.gated ||| BitVec.ofNat 4 (2 ^ band) })
  else .next s

/-- BAND_POWER_UP (R413): a gated band that a pass waits for is powered, within 128 cycles. -/
def execBandPowerUp (core band : Nat) (s : State) : Out :=
  if (s.core core).bandWake.any (·.1 == band) then
    .next (s.setCore core fun c => { c with
      gated := c.gated &&& ~~~(BitVec.ofNat 4 (2 ^ band))
      bandWake := c.bandWake.filter (·.1 != band)
      bandUsed := c.bandUsed.set band s.now })
  else .next s

/-- The bands in use are marked as used now, and the bursts that have completed release their current
(R413, R436). -/
def State.meetArray (s : State) : State :=
  if s.ops.isEmpty && s.apron.reserved.isEmpty then s
  else
    let s1 := s.ops.foldl (fun s o =>
      if o.unit == .array && o.started && !o.finished then
        let mark := fun (x : Nat × Nat) => if (bandSet o.kMax).getLsbD x.2 then s.now else x.1
        s.setCore o.core fun c => { c with bandUsed := c.bandUsed.zipIdx.map mark }
      else s) s
    { s1 with apron := { s1.apron with
      reserved := s1.apron.reserved.filter fun (r : Reservation) =>
        r.team.isSome || s1.ops.any fun o => o.id == r.op && !o.finished } }

/-! ### The thermal cadence (R442) -/

/-- KTHERM after an interval: it doubles at 95 °C or above, and halves at 93 °C or below. -/
def kthermNext (t k : Nat) : Nat :=
  if 95 * 16 ≤ t then min 16 (2 * k) else if t ≤ 93 * 16 then max 1 (k / 2) else k

/-- KTHERM_ADJUST (R442): every 4,096 cycles. -/
def execKthermAdjust (s : State) : Out :=
  let h := s.apron.thermal
  if h.adjustAt ≤ s.now then
    .next { s with apron := { s.apron with thermal := { h with
      ktherm := h.ktherm.zipIdx.map fun (x : Nat × Nat) => kthermNext (h.temp.getD x.2 0) x.1
      adjustAt := h.adjustAt + 4096 } } }
  else .next s

end Sys2Proof.Machine
end

