-- ==== Sys2Proof/Machine/Sched.lean ====
section
/-! DEFINITION. Scheduling from launch to core: jobs, releases, deadlines and budgets (R389 to R392),
contracts (R393 to R396), placement of gangs (R397 to R400), suspension, eviction, saves and restores (R401
to R405), context save and load (R362 to R364), and the end of a slice (R350). -/

namespace Sys2Proof.Machine

/-! ### Jobs (R389 to R392) -/

/-- The cores of a contract: the first of its cluster. (DEDUCED, log 43) -/
def State.contractCores (s : State) (k : Contract) : List Nat :=
  (s.cores.filter fun (c : Core) => c.clusterNo == k.cluster && decide (c.num % 4 < k.cores)).map (·.num)

/-- Whether a slice has a team resident on some of the cores. -/
def State.onSome (s : State) (n : Nat) (cores : List Nat) : Bool :=
  s.teams.any fun m => m.slice == n && m.onCore && m.cores.any cores.contains

/-- The contracts whose jobs stand in a slice's way: released, not ended, and needing a core of it (R402). -/
def State.inTheWay (s : State) (n : Nat) : Bool :=
  s.contracts.any fun k => k.slice != n && (s.slice k.slice).inJob &&
    s.onSome n (s.contractCores k)

/-- Ask for a slice's pre-emption: 0 suspends it for a contract's job, 1 evicts it, 2 suspends it for the head of a queue
(R400). An open deferral window holds the request
until it closes (R59). -/
def State.preempt (s : State) (n kind : Nat) : State :=
  s.setSlice n fun l =>
    match l.stopReq with
    | some _ => l
    | none => { l with stopReq := some (kind, match l.window with
        | some w => w
        | none => s.now) }

/-- A pre-emption request whose window is over takes effect (R59, R402, R403): groups stop at their next run
boundaries, and the array after the row in progress. -/
def State.applyStop (s : State) (l : Slice) : State :=
  match l.stopReq with
  | none => s
  | some (kind, w) =>
    if s.now < w then s
    else
      let s1 := (s.setSlice l.num fun x => { x with stopReq := none }).stopArray fun k => (s.team k).slice == l.num
      if kind = 1 then
        { s1 with teams := s1.teams.map fun m =>
          if m.slice = l.num && m.at_ == .resident then { m with at_ := .saving } else m }
      else s1.setSlice l.num fun x => { x with suspended := true, forHead := kind == 2 }

/-- Release a slice (R389): a new budget and deadline, and its threads parked at YIELD go on. A contract's
release suspends the slices in its way (R400). -/
def State.release_ (s : State) (n due : Nat) : State :=
  let s1 := s.setSlice n fun l => { l with
    jobOpen := true, releaseAt := due, budgetLeft := l.launch.budget, allowance := none,
    deadlineAt := if l.launch.deadline = 0 then none else some (due + l.launch.deadline),
    deadlineMissed := false }
  let s2 := s1.setThreads ((s1.sliceThreads n).map (·.uid)) fun t =>
    { (if t.standsAt == .yield then t.unpark else t) with budgetDue := false }
  match s2.contracts.find? fun k => k.slice == n with
  | none => s2
  | some k =>
    let cores := s2.contractCores k
    (s2.slices.filter fun x => x.live && !s2.contracted x && !x.suspended && s2.onSome x.num cores).foldl
      (fun s x => s.preempt x.num 0) s2

/-- Whether every thread of a slice that has not ended is parked at YIELD (R103). -/
def State.jobDone (s : State) (l : Slice) : Bool :=
  let ts := s.sliceThreads l.num
  l.live && l.jobOpen && !ts.isEmpty && ts.all fun t => t.park == .yield && !(s.group t.gid).inRun t.uid

/-- The end of a job by YIELD (R389, R394): without a contract a new release follows at once; with one, a
held release takes effect. -/
def State.endJob (s : State) (l : Slice) : State :=
  if l.contract.isNone then s.release_ l.num s.now
  else
    let s1 := s.setSlice l.num fun x => { x with jobOpen := false, allowance := none, deadlineAt := none, heldRelease := none }
    match l.heldRelease with
    | none => s1
    | some due => s1.release_ l.num due

/-- When a contract's next release falls due (R394). -/
def Contract.dueAt (k : Contract) : Nat := k.admittedAt + k.first + k.released * k.period

/-- CONTRACT_RELEASE (R394): the slice is released, or the release is held, or dropped.
(DEDUCED, log 44; DESIGN CHOICE, log 58) -/
def execContractRelease (contract : Nat) (s : State) : Out :=
  match s.contract? contract with
  | none => .next s
  | some k =>
    if s.now < k.dueAt then .next s
    else
      let s1 := { s with contracts := s.contracts.map fun (x : Contract) =>
        if x.id = k.id then { x with released := x.released + 1 } else x }
      let l := s.slice k.slice
      if l.jobOpen then
        .next (s1.setSlice l.num fun x => { x with heldRelease := some (x.heldRelease.getD k.dueAt) })
      else .next (s1.release_ l.num k.dueAt)

/-- Whether a slice's budget falls in a cycle (R391). -/
def State.counting (s : State) (l : Slice) : Bool :=
  s.apron.thermal.state != 2 && s.apron.thermal.state != 3 && l.inJob && !l.suspended &&
    s.teams.any fun m => m.slice == l.num && m.onCore

/-- Whether every active group of a core stands inside a run that a stalling or a tile instruction holds (R408). -/
def State.stalled (s : State) (core : Nat) : Bool :=
  !(s.activeOn core).isEmpty && (s.activeOn core).all fun g => s.tileHeld g || s.stallHeld g

/-- A cycle in which a core is stalled does not count for its pending groups (R408). -/
def State.uncount (s : State) (g : Group) : Group :=
  if !g.active && s.enterable g && s.stalled g.core then { g with skipped := g.skipped + 1 } else g

/-- One cycle passes. (DEDUCED, log 10; DEDUCED, log 64; DEDUCED, log 67) -/
def State.cycle (s : State) : State :=
  { s with
    now := s.now + 1
    groups := s.groups.map s.uncount
    slices := s.slices.map fun l =>
      if s.counting l then { l with budgetLeft := l.budgetLeft - 1, allowance := l.allowance.map (· - 1) } else l }

/-- Whether the budget of a slice's job has reached 0 and is not yet acted on. -/
def Slice.overBudget (l : Slice) : Bool :=
  l.inJob && l.launch.budget != 0 && l.budgetLeft == 0 && l.allowance.isNone

/-- BUDGET_EXHAUSTED (R115, R354, R392). -/
def execBudgetExhausted (slice : Nat) (s : State) : Out :=
  let l := s.slice slice
  if l.overBudget then
    let s1 := s.setSlice slice fun x => { x with bmiss := bump32 x.bmiss, allowance := some 32768 }
    .next (s1.setThreads ((s1.sliceThreads slice).map (·.uid)) fun t => { t with budgetDue := true })
  else .next s

/-- ALLOWANCE_EXPIRY (R392). -/
def execAllowanceExpiry (slice : Nat) (s : State) : Out :=
  let l := s.slice slice
  if l.inJob && l.allowance == some 0 then .next (s.killSlice slice) else .next s

/-- Whether a slice's deadline has passed before its job ended, uncounted (R392). -/
def Slice.missed (l : Slice) (now : Nat) : Bool :=
  l.inJob && !l.deadlineMissed && (match l.deadlineAt with
    | none => false
    | some d => decide (d < now))

/-- DEADLINE_MISS (R392). -/
def execDeadlineMiss (slice : Nat) (s : State) : Out :=
  if (s.slice slice).missed s.now then
    .next (s.setSlice slice fun x => { x with bmiss := bump32 x.bmiss, deadlineMissed := true })
  else .next s

/-- DEFERRAL_WINDOW_EXPIRY (R59). -/
def execDeferralWindowExpiry (slice : Nat) (s : State) : Out :=
  if dueAt (s.slice slice).window s.now then
    .next (s.setSlice slice fun x => { x with window := none })
  else .next s

/-! ### Waiting slices and the room they need (R397 to R400) -/

/-- Whether the front end dispatches: not during the critical sequence (R443, R444). -/
def State.dispatching (s : State) : Bool := decide (s.apron.thermal.state ≤ 1)

/-- Whether an admitted slice waits for its first placement (R394, R468). -/
def State.unplaced (s : State) (l : Slice) : Bool :=
  l.live && !l.placed && !l.faulted && l.jobOpen && !s.waitingInv.any fun w => w.1 == l.num

/-- Whether a slice's teams are out and wait to be restored. -/
def State.isOut (s : State) (l : Slice) : Bool :=
  l.live && l.placed && (s.teams.any fun m => m.slice == l.num && m.at_ == .out) &&
    !(s.teams.any fun m => m.slice == l.num && m.at_ == .saving)

/-- The context area of a slice that CTXLD has queued the teams of, the first (R363). -/
def State.loadOf (s : State) (l : Slice) : Option CtxArea :=
  s.ctxAreas.find? fun c => c.loading && c.slice == l.num

/-- The slices that wait for cores, in the order of R397: for their first placement, to be restored, or with teams that
CTXLD queued (R363, R404). (DEDUCED, log 44) -/
def State.waitingSlices (s : State) : List Slice :=
  inOrder (s.slices.filter fun l => s.unplaced l || s.isOut l || (l.live && (s.loadOf l).isSome))

/-- Whether a slice is on its way out: being saved, or to be when its window closes. -/
def State.leaving (s : State) (l : Slice) : Bool :=
  (s.teams.any fun m => m.slice == l.num && m.at_ == .saving) || l.stopReq.any (·.1 == 1)

/-- Take a team's place again with its base lanes, on some cores (R9). -/
def Launch.retake (l : Launch) (role : Nat) (bases : List Nat) (pinned : Bool) (cores : List Nat) (rs : List Room) :
    Option (List Room) :=
  let r := addTeam l role pinned cores bases rs
  if cores.all fun c => (roomOf r c).ok then some r else none

/-- The first of some sets of cores that take a team with its base lanes. -/
def Launch.refit (l : Launch) (role : Nat) (bases : List Nat) (pinned : Bool) (rs : List Room) :
    List (List Nat) → Option (List Nat × List Nat × List Room)
  | [] => none
  | cs :: t =>
    match l.retake role bases pinned cs rs with
    | some r => some (cs, bases, r)
    | none => l.refit role bases pinned rs t

/-- A team to be placed: its role, and its base lanes and former cores if it has been placed before. -/
abbrev Want := Nat × Option (List Nat × List Nat)

/-- A place for one team: its former cores if they take it, else the first that do. (DEDUCED, log 43) -/
def Launch.fitOne (l : Launch) (pinned : Bool) (cands : List (List Nat)) (w : Want) (rs : List Room) :
    Option (List Nat × List Nat × List Room) :=
  match w.2 with
  | none => l.firstFit w.1 pinned rs cands
  | some x => l.refit w.1 x.1 pinned rs ((cands.filter (· == x.2)) ++ cands)

/-- Places for teams, in order, as many as there is room for. -/
def Launch.fitSome (l : Launch) (pinned : Bool) (cands : List (List Nat)) :
    List Want → List Room → List (List Nat × List Nat)
  | [], _ => []
  | w :: t, rs =>
    match l.fitOne pinned cands w rs with
    | none => []
    | some x => (x.1, x.2.1) :: l.fitSome pinned cands t x.2.2

/-- Places for all of some teams, in the first of some sets of cores that has them: teams not placed before take any way
there is. -/
def Launch.fitAll (l : Launch) (pinned : Bool) (ws : List Want) (rs : List Room) :
    List (List Nat) → Option (List (List Nat × List Nat))
  | [] => none
  | cores :: t =>
    let ps := l.fitSome pinned (l.coreSets cores) ws rs
    if ps.length = ws.length then some ps
    else
      match if ws.all (·.2.isNone) then l.pack pinned rs (l.coreSets cores) else none with
      | some qs => some qs
      | none => l.fitAll pinned ws rs t

/-- The bytes of chip scratchpad free on a die when a slice's own are not counted. -/
def State.chipFreeFor (s : State) (n die : Nat) : Nat :=
  State.chipFree { s with slices := s.slices.filter (·.num != n) } die

/-- The teams of a slice that are out. -/
def State.outTeams (s : State) (n : Nat) : List Team :=
  s.teams.filter fun m => m.slice == n && m.at_ == .out

/-- The teams of a context area. -/
def State.areaTeams (s : State) (c : CtxArea) : List Team := s.teams.filter fun m => c.teams.contains m.uid

/-- The teams of a placed slice that are to come back: those that are out, else those that CTXLD queued. -/
def State.away (s : State) (l : Slice) : List Team :=
  if !l.placed then []
  else
    match s.outTeams l.num, s.loadOf l with
    | [], some c => s.areaTeams c
    | ms, _ => ms

/-- What a waiting slice has to place. -/
def State.wants (s : State) (l : Slice) : List Want :=
  if l.placed then (s.away l).map fun m => (m.role, some (m.bases, m.cores))
  else l.launch.teams.map fun t => (t.1, none)

/-- The rooms for a waiting slice when some slices are gone from the cores. -/
def State.roomsFor (s : State) (l : Slice) (gone : List Nat) : List Room :=
  s.rooms l.num (if l.placed then gone else l.num :: gone) ((s.away l).map (·.uid))

/-- The sets of cores among which a waiting slice's teams must all lie, within those that a test picks. -/
def State.within (s : State) (l : Slice) (free : Nat → Nat) (pick : Core → Bool) : List (List Nat) :=
  (s.coreChoices l.launch (l.contract.bind s.contract?) free).map fun cs => cs.filter fun c => pick (s.core c)

/-- Whether a waiting slice's teams would fit on otherwise empty cores that a test picks. -/
def State.fitsEmpty (s : State) (l : Slice) (pick : Core → Bool) : Bool :=
  (l.launch.fitAll (s.contracted l) (s.wants l) s.emptyRooms (s.within l s.chipCarve pick)).isSome

/-- The enabled clusters, ascending. -/
def State.clusterList (s : State) : List Nat := (s.cores.map Core.clusterNo).dedup

/-- Whether a slice's teams need more than one cluster (R399), whatever contracts keep it from. -/
def State.spans (s : State) (l : Slice) : Bool :=
  let z := { s with contracts := [] }
  !s.contracted l && !(s.clusterList.any fun k => z.fitsEmpty l fun c => c.clusterNo == k)

/-- Whether a core is one that a waiting slice is to be placed on: in the cluster it was dispatched to, or on the dies
that a spanning gang's turn has come on. -/
def Slice.mayTake (l : Slice) (c : Core) : Bool := l.waitsAt == some c.clusterNo || l.turn.contains c.die

/-- The places that a waiting slice takes, its whole, when some slices are gone from the cores.
(DEDUCED, log 43) -/
def State.fit (s : State) (l : Slice) (gone : List Nat) : Option (List (List Nat × List Nat)) :=
  l.launch.fitAll (s.contracted l) (s.wants l) (s.roomsFor l gone) (s.within l (s.chipFreeFor l.num) l.mayTake)

/-- Whether a waiting slice fits when some slices are gone from the cores. -/
def State.fits (s : State) (l : Slice) (gone : List Nat) : Bool := (s.fit l gone).isSome

/-! ### The ready queues and the turns of spanning gangs (R397, R399) -/

/-- The slices in the ready queue of a cluster. -/
def State.queueOf (s : State) (k : Nat) : List Slice := s.waitingSlices.filter fun l => l.waitsAt == some k

/-- Whether a cluster's ready queue has room for one more slice (R397). -/
def State.queueRoom (s : State) (k : Nat) : Bool := decide ((s.queueOf k).length < 256)

/-- The cluster that the front end dispatches a slice to, of those whose queue has room and that could take it: one that
takes it now, else the one with the fewest waiting, the lowest among equals. (DESIGN CHOICE, log 75) -/
def State.chooseCluster (s : State) (l : Slice) : Option Nat :=
  let ks := s.clusterList.filter fun k => s.queueRoom k && s.fitsEmpty l fun c => c.clusterNo == k
  match ks.find? fun k => s.fits { l with waitsAt := some k } [] with
  | some k => some k
  | none => ks.foldl (fun best k =>
      match best with
      | none => some k
      | some b => if (s.queueOf k).length < (s.queueOf b).length then some k else some b) none

/-- The front end dispatches a waiting slice, or holds it (R395, R397). -/
def State.enqueue (s : State) (l : Slice) : State :=
  let stays := match l.waitsAt with
    | some k => s.fitsEmpty l fun c => c.clusterNo == k
    | none => false
  if stays || !l.turn.isEmpty || s.spans l then s
  else
    let k := s.chooseCluster { l with waitsAt := none }
    s.setSlice l.num fun x => { x with waitsAt := k }

/-- The sets of compute dies that a spanning gang can be placed on: one of them where it fits, else both. -/
def State.gangDies (s : State) (l : Slice) : List (List Nat) :=
  match [[0], [1]].filter fun ds => s.fitsEmpty l fun c => ds.contains c.die with
  | [] => if s.fitsEmpty l fun _ => true then [[0, 1]] else []
  | ds => ds

/-- Turns for spanning gangs in queue order, one on each compute die (R399): `busy` are the dies whose turn is given, or
that a gang ahead waits for. -/
def State.giveTurns : List Slice → List Nat → State → State
  | [], _, s => s
  | l :: t, busy, s =>
    let ds := s.gangDies l
    match ds.find? fun d => d.all fun x => !busy.contains x with
    | some d => State.giveTurns t (busy ++ d) (s.setSlice l.num fun x => { x with turn := d })
    | none => State.giveTurns t (busy ++ ds.flatten) s

/-- The longest of some lists. -/
def longest (l : List (List (List Nat × List Nat))) : List (List Nat × List Nat) :=
  l.foldl (fun a b => if a.length < b.length then b else a) []

/-- Hold for a gang whose turn it is what there is room for (R399). -/
def State.holdGang (s : State) (l : Slice) : State :=
  let ws := s.wants l
  let rs := s.roomsFor l []
  let ps := longest ((s.within l (s.chipFreeFor l.num) l.mayTake).map fun cores =>
    l.launch.fitSome (s.contracted l) (l.launch.coreSets cores) ws rs)
  if ps.length ≤ l.gang.length then s
  else s.setSlice l.num fun x => { x with gang := (ws.zip ps).map fun w => (w.1.1, w.2.1, w.2.2) }

/-- The front end and the cluster schedulers take up what waits (R397, R399). -/
def State.meetQueues (s : State) : State :=
  if !s.dispatching || s.waitingSlices.isEmpty then s
  else
    let s1 := s.waitingSlices.foldl State.enqueue s
    let busy := (s1.waitingSlices.map (·.turn)).flatten
    let s2 := State.giveTurns (s1.waitingSlices.filter fun l => l.waitsAt.isNone && l.turn.isEmpty && s1.spans l) busy s1
    (s2.waitingSlices.filter fun l => !l.turn.isEmpty).foldl State.holdGang s2

/-- Whether a slice has a team on cores that a waiting slice is to be placed on. -/
def State.inPlaceOf (s : State) (n : Nat) (l : Slice) : Bool :=
  s.teams.any fun m => m.slice == n && m.onCore && m.cores.any fun c => l.mayTake (s.core c)

/-- The slices that may be taken from their cores for a waiting slice: resident there, behind it in order, without
a contract, the last in order first (R396, R400). -/
def State.behind (s : State) (l : Slice) : List Slice :=
  (inOrder (s.slices.filter fun x => x.live && x.resident && x.num != l.num && !s.contracted x &&
    !s.leaving x && !x.ahead l && s.inPlaceOf x.num l)).reverse

/-- Take slices in turn until a waiting slice fits. -/
def State.takeUntil (s : State) (l : Slice) : List Nat → List Slice → Option (List Nat)
  | gone, [] => if s.fits l gone then some gone else none
  | gone, x :: t => if s.fits l gone then some gone else s.takeUntil l (gone ++ [x.num]) t

/-- The slices to be taken from their cores for the slice at the head of a queue (R400): the last in order first, and no
more once it fits. (DEDUCED, log 44) -/
def State.victims (s : State) (l : Slice) : List Nat :=
  let base := (s.slices.filter s.leaving).map (·.num)
  match s.takeUntil l base (s.behind l) with
  | none => []
  | some gone => gone.drop base.length

/-- The bytes of the context pool (R403, R452). -/
def State.poolBytes (s : State) : Nat := (s.mgmt.ctxPool.extractLsb' 48 16).toNat * 2 ^ 20

/-- The bytes of the pool that saved teams take, and those that are to be saved. -/
def State.poolUsed (s : State) : Nat :=
  ((s.teams.filter fun m => (m.at_ == .out || m.at_ == .saving ||
    (m.at_ == .resident && (s.slice m.slice).stopReq.any (·.1 == 1))) && !s.ctxTeam m).map s.teamNeed).sum

/-- Whether the context pool can take a slice's teams. -/
def State.poolTakes (s : State) (n : Nat) : Bool :=
  decide (s.poolUsed + ((s.teams.filter fun m => m.slice == n && m.onCore).map s.teamNeed).sum ≤ s.poolBytes)

/-- Take a slice from its cores for another: evict it, or suspend it when the pool cannot take it (R400). -/
def State.takeAway (s : State) (n : Nat) : State :=
  if s.poolTakes n then s.preempt n 1
  else if (s.slice n).suspended then s
  else s.preempt n 2

/-! ### Placing a gang (R12, R40, R41, R399) -/

/-- The thread at a position of a group slot as its slice starts (R40). (DESIGN CHOICE, log 63) -/
def startThread (l : Slice) (uid team role core gid lane tid : Nat) : Thread :=
  let p := l.launch
  let t := Thread.start uid l.num team role core gid lane (BitVec.ofNat 32 tid) 0xFFFFFFFF
    (BitVec.ofNat 32 (p.roles.getD role default).entry) (p.privateBytes - p.handlerStack)
    (if l.super then .supervisor else .user)
  ((t.putG 2 (loWord p.argPtr)).putG 3 (hiWord p.argPtr)).putG 4 p.argLen

/-- A group slot of a team. -/
def startGroup (l : Slice) (gid team idx core base width now : Nat) : Group :=
  { (default : Group) with
    gid := gid, slice := l.num, team := team, idx := idx, core := core, base := base, width := width,
    readyAt := now }

/-- The threads below a role. -/
def Launch.threadsBelow (l : Launch) (role : Nat) : Nat := ((l.roles.take role).map RoleDesc.threads).sum

/-- Start a team at its place: the role, the first group and the groups that it holds, and the cores and
base lanes of its slots (R11, R12). -/
def State.startTeam (s : State) (l : Slice) (idx : Nat) (r : Nat × Nat × Nat) (p : List Nat × List Nat) : State :=
  let role := r.1
  let w := 2 ^ (l.launch.roles.getD role default).gwLog2
  let tu := s.nextUid
  let coreOf := fun (h : Nat) => p.1.getD (h % p.1.length) 0
  let gs := p.2.zipIdx.map fun (b : Nat × Nat) => startGroup l (tu + 1 + b.2) tu b.2 (coreOf b.2) b.1 w s.now
  let u0 := tu + 1 + gs.length
  let tid0 := l.launch.threadsBelow role + r.2.1 * w
  let ts := (List.range (r.2.2 * w)).map fun k =>
    startThread l (u0 + k) tu role (coreOf (k / w)) (tu + 1 + k / w) (p.2.getD (k / w) 0 + k % w) (tid0 + k)
  let m : Team :=
    { (default : Team) with uid := tu, slice := l.num, idx := idx, role := role, cores := p.1, at_ := .resident, bases := p.2 }
  let s1 := { s with
    nextUid := u0 + ts.length, teams := s.teams ++ [m], groups := s.groups ++ gs, threads := s.threads ++ ts }
  ts.foldl State.freePrivate (p.1.foldl State.dropClean s1)

/-- Place a gang: every team of every role at once (R399). (DEDUCED, log 43) -/
def State.placeGang (s : State) (l : Slice) (ps : List (List Nat × List Nat)) : State :=
  let s1 := ((ps.zip l.launch.teams).zipIdx).foldl (fun s x => s.startTeam l x.2 x.1.2 x.1.1) s
  s1.setSlice l.num fun x => { x with
    placed := true, resident := true, waitsAt := none, turn := [], gang := []
    chipDie := if l.launch.chipScratch = 0 then none
      else some (s.core ((ps.headD ([], [])).1.headD 0)).die }

/-- Whether a waiting slice is the first in its cluster's queue, or a spanning gang whose turn it is (R399, R400). -/
def State.isHead (s : State) (l : Slice) : Bool :=
  !l.turn.isEmpty || (match l.waitsAt with
    | some k => ((s.queueOf k).head?).map (·.num) == some l.num
    | none => false)

/-- Make room for a slice at the head of a queue. (DEDUCED, log 44) -/
def State.makeRoom (s : State) (l : Slice) : Option State :=
  if !s.isHead l then none
  else
    match s.victims l with
    | [] => none
    | vs =>
      if vs.all fun n => (s.slice n).stopReq.isSome || ((s.slice n).suspended && !s.poolTakes n) then none
      else some (vs.foldl State.takeAway s)

/-- What the placement of a waiting slice does now, if anything (R399, R400). -/
def State.place? (s : State) (n : Nat) : Option State :=
  match s.slice? n with
  | none => none
  | some l =>
    if !s.dispatching || !s.unplaced l then none
    else
      match s.fit l [] with
      | some ps => some (s.placeGang l ps)
      | none => s.makeRoom l

/-- PLACEMENT (R399, R400). -/
def execPlacement (slice : Nat) (s : State) : Out := .next ((s.place? slice).getD s)

/-! ### Saves and restores (R172, R403, R404) -/

/-- Whether an atomic or an acquire of a thread is on its way to another device: it completes before a save (R160). -/
def Pending.mustEnd (p : Pending) : Bool :=
  !p.returned && p.reload.isNone && (match p.kind with
    | .remote .. => true
    | _ => false)

/-- Whether every group of a team stands where it can be stopped: at a run boundary, or held at a tile
instruction (R52, R184, R222, R401), with no Hem operation running (R260, R279) and no atomic on its way (R160). -/
def State.atRest (s : State) (m : Team) : Bool :=
  ((s.groups.filter (·.team == m.uid)).all fun g => g.run.isNone || s.tileHeld g) &&
    !(s.ops.any fun o => o.team == m.uid && o.unit == .hem && !o.finished) &&
    !((s.teamThreads m.uid).any fun t => t.pend.any Pending.mustEnd)

/-- What a team's operations and transforms keep through a save: an operation in the array stops and, unless it is an
undeclared burst already, is judged again (R260, R265), and a transform's chunk begins again (R301). -/
def State.stopUnits (s : State) (team : Nat) : State :=
  { s with
    ops := s.ops.map fun (o : TileOp) =>
      if o.team = team && o.unit == TUnit.array then
        { o with started := false, waitsGrant := false, judged := o.undeclared, kg := 0 } else o
    xforms := s.xforms.map fun (x : Xform) => if x.team = team then { x with chunkAt := none } else x }

/-- Save a team (R172, R403): its loads are abandoned and its other results return (R160), its pushes and pops are
abandoned (R287), its parked FGETs too (R340), its stores reach the coherence order of the device, its phase ends, its operation in the array stops.
(DESIGN CHOICE, log 49) -/
def State.saveTeam (s : State) (m : Team) (where_ : TeamAt) : State :=
  let s1 := (s.teamThreads m.uid).foldl (fun s t => (s.abandonLoads t.uid).landReady t.uid) s
  let s2 := m.cores.foldl (fun s c => (s.drain c).grantAll (s.core c).die) (s1.stopQueues m)
  ((s2.dropPhase m.uid).stopUnits m.uid).setTeam m.uid fun x => { x with at_ := where_ }

/-- The teams of a slice being saved into the context pool. -/
def State.poolSaves (s : State) (n : Nat) : List Team :=
  s.teams.filter fun m => m.slice == n && m.at_ == .saving && !s.ctxTeam m

/-- Whether a slice's save may be finished now: in the critical sequence the slices are saved in the order of R397
(R443). -/
def State.saveTurn (s : State) (n : Nat) : Bool :=
  s.apron.thermal.state != 2 ||
    s.apron.thermal.saved.find? (fun k => s.teams.any fun m => m.slice == k && m.onCore) == some n

/-- SAVE_COMPLETE (R403); in the critical sequence the L2s are written back too, before their rails go
(R443). -/
def execSaveComplete (slice : Nat) (s : State) : Out :=
  let ms := s.poolSaves slice
  if ms.isEmpty || !ms.all s.atRest || !s.saveTurn slice then .next s
  else
    let s1 := (ms.foldl (fun s m => s.saveTeam m .out) s).setSlice slice fun l => { l with resident := false }
    .next (if s.apron.thermal.state = 2 then s1.flushL2 else s1)

/-- Apply the engine updates that fell due while a team was out (R307, R404). -/
def State.applyUpdates (s : State) (team : Nat) : State :=
  let us := s.updates.filter fun u => u.team == team
  us.foldl (fun s u => s.barrierUpdate u.team u.barrier u.status)
    { s with updates := s.updates.filter fun u => u.team != team }

/-- The core that takes the place of another. -/
def movedCore (old new_ : List Nat) (c : Nat) : Nat := new_.getD (old.idxOf c) c

/-- What has been written for a team at its former place while it was out enters the coherence order of the device
(R172, R189, R404). -/
def State.settlePlace (s : State) (m : Team) : State :=
  m.cores.foldl (fun s c => (s.drain c).grantAll (s.core c).die) s

/-- A thread's FGET that a save abandoned is issued again (R340): it becomes a waiter anew, and what comes under its former
tag is for no one. -/
def State.reissueFget (s : State) (f : FGet) : State :=
  let tag := s.cloak.nextTag
  let got := if badHandle f.handle then some (FRes.status stNULL) else none
  let s1 := { s with
    cloak := { s.cloak with
      nextTag := tag + 1
      fgets := s.cloak.fgets.map fun (x : FGet) => if x.uid = f.uid && x.tag = f.tag then { x with tag, got } else x }
    groups := s.groups.map fun g => { g with waits := g.waits.map fun
      | .fget rest pc => .fget (rest.map fun x => if x = (f.uid, f.tag) then (f.uid, tag) else x) pc
      | w => w } }
  if badHandle f.handle then s1 else s1.ownMsg f.handle (.waiter tag false) (some (.fget tag))

/-- A team's parked FGETs are issued again (R340). (DESIGN CHOICE, log 49) -/
def State.reissueFgets (s : State) (m : Team) : State :=
  let us := (s.teamThreads m.uid).map (·.uid)
  ((s.cloak.fgets.filter fun (f : FGet) => us.contains f.uid).foldl State.reissueFget s).drainCloak 4096

/-- Bring a team back on new cores, its lanes unchanged and its groups pending (R9, R172, R404, R406): what fell due while
it was out is applied, and its abandoned loads, pushes, pops and FGETs issue again (R160, R287, R340).
(DEDUCED, log 44) -/
def State.restoreTeam (s : State) (m : Team) (cores : List Nat) : State :=
  let mv := movedCore m.cores cores
  let s1 := (s.settlePlace m).setTeam m.uid fun x => { x with cores := cores, at_ := .resident }
  let s2 := { s1 with
    groups := s1.groups.map fun g =>
      if g.team = m.uid then { g with core := mv g.core, active := false, readyAt := s.now, skipped := 0 } else g
    threads := s1.threads.map fun t => if t.team = m.uid then { t with core := mv t.core } else t
    ops := s1.ops.map fun (o : TileOp) => if o.team = m.uid then { o with core := mv o.core } else o }
  let s3 := ((cores.foldl State.dropClean s2).applyUpdates m.uid).placeSlots m.uid
  ((s3.teamThreads m.uid).foldl (fun s t => s.reissueLoads t.uid) s3).reissueQueues m
    |>.reissueFgets m

/-- Bring teams of a slice back. -/
def State.restoreTeams (s : State) (l : Slice) (ms : List Team) (css : List (List Nat)) : State :=
  let s1 := (ms.zip css).foldl (fun s x => s.restoreTeam x.1 x.2) s
  s1.setSlice l.num fun x => { x with
    waitsAt := none, turn := [], gang := []
    resident := !(s1.teams.any fun m => m.slice == l.num && m.at_ == .out)
    chipDie := if l.launch.chipScratch = 0 then none else some (s.core ((css.headD []).headD 0)).die }

/-- What the restore of an evicted slice does now, if anything (R400, R404); after the critical sequence the
slices that it saved come back to their places (R444). -/
def State.restore? (s : State) (n : Nat) : Option State :=
  match s.slice? n with
  | none => none
  | some l =>
    let ms := s.outTeams n
    if !s.isOut l then none
    else if s.apron.thermal.state = 4 then
      if s.apron.thermal.saved.contains n then some (s.restoreTeams l ms (ms.map (·.cores))) else none
    else if !s.dispatching then none
    else
      match s.fit l [] with
      | some ps => some (s.restoreTeams l ms (ps.map (·.1)))
      | none => s.makeRoom l

/-- RESTORE_COMPLETE (R404). -/
def execRestoreComplete (slice : Nat) (s : State) : Out := .next ((s.restore? slice).getD s)

/-- Whether a suspended slice may go on: no contract's job is in its way (R402), and, where it was suspended for the head of
a queue, no slice ahead of it waits for its place (R400). (DEDUCED, log 44) -/
def State.mayResume (s : State) (l : Slice) : Bool :=
  l.suspended && !s.inTheWay l.num &&
    !(l.forHead && s.waitingSlices.any fun x => x.ahead l && s.inPlaceOf l.num x && !s.poolTakes l.num)

/-- SUSPEND_RESUME (R402). -/
def execSuspendResume (slice : Nat) (s : State) : Out :=
  if s.mayResume (s.slice slice) then .next (s.setSlice slice fun l => { l with suspended := false, forHead := false })
  else .next s

/-! ### Context save and load (R361 to R364) -/

/-- The header of a saved area (R361), but for STATE, CAPACITY and NEED, by offset. -/
def State.ctxHeader (s : State) (c : CtxArea) (len : Nat) : List (Nat × List Byte) :=
  [ (0, leBytes 4 0x4354584B), (4, leBytes 2 s.part.ctxver.toNat), (6, leBytes 1 s.devid), (0x10, leBytes 8 len),
    (0x18, leBytes 4 c.slice), (0x1C, leBytes 1 c.team) ]

/-- Whether a save by CTXSV can be finished: every team is out already, or stopped. -/
def State.ctxSaveReady (s : State) (c : CtxArea) : Bool :=
  !c.saved && !c.loading && c.stopAt.isNone && (s.areaTeams c).all fun m => m.at_ == .out || (m.at_ == .saving && s.atRest m)

/-- Finish a save by CTXSV (R362): the body, whose form is not given, the header, and STATE := 2 as a release
at device scope. (DESIGN CHOICE, log 49) -/
def State.ctxSaved (s : State) (c : CtxArea) : State :=
  let ms := s.areaTeams c
  let len := min c.need (s.areaNeed ms)
  let body := (List.range (len - 64)).map fun k => Config.freeByte (s.fresh + k)
  let s1 := ms.foldl (fun s m => if m.at_ == .saving then s.saveTeam m .held
    else s.setTeam m.uid fun x => { x with at_ := .held }) s
  let s2 := State.ctxWrite { s1 with fresh := s1.fresh + len } c 64 body
  let s3 := (s2.ctxHeader c len).foldl (fun s x => s.ctxWrite c x.1 x.2) s2
  let s4 := ((s3.grantAll 0).ctxWrite c 7 [2]).setSlice c.slice fun l => { l with
    held := true, resident := l.placed && !(s3.teams.any fun m => m.slice == l.num && m.at_ == .out) }
  { s4 with ctxAreas := s4.ctxAreas.map fun (x : CtxArea) => if x.id = c.id then { x with saved := true } else x }

/-- CONTEXT_SAVE_COMPLETE (R362). -/
def execContextSaveComplete (ctx : Nat) (s : State) : Out :=
  match s.ctxAreas.find? (·.id == ctx) with
  | none => .next s
  | some c => if s.ctxSaveReady c then .next (s.ctxSaved c) else .next s

/-- The teams that CTXLD queued are back: STATE := 3 as a release at device scope (R363). -/
def State.ctxLoaded (s : State) (l : Slice) (c : CtxArea) (css : List (List Nat)) : State :=
  let s1 := s.restoreTeams l (s.areaTeams c) css
  let s2 := s1.setSlice l.num fun x => { x with held := s1.teams.any fun m => m.slice == l.num && m.at_ == .held }
  { ((s2.grantAll 0).ctxWrite c 7 [3]) with ctxAreas := s2.ctxAreas.filter fun (x : CtxArea) => x.id != c.id }

/-- What the placement of the teams that CTXLD queued does now, if anything (R363, R398 to R400). -/
def State.ctxLoad? (s : State) (ctx : Nat) : Option State :=
  match s.ctxAreas.find? (·.id == ctx) with
  | none => none
  | some c =>
    match s.slice? c.slice with
    | none => none
    | some l =>
      if !c.loading || !s.dispatching || !l.live || (s.loadOf l).map (·.id) != some ctx ||
          !(s.outTeams l.num).isEmpty then none
      else
        match s.fit l [] with
        | some ps => some (s.ctxLoaded l c (ps.map (·.1)))
        | none => s.makeRoom l

/-- CONTEXT_LOAD_COMPLETE (R363). -/
def execContextLoadComplete (ctx : Nat) (s : State) : Out := .next ((s.ctxLoad? ctx).getD s)

/-! ### The end of a slice (R330, R350, R356) -/

/-- Whether a slice's last thread has ended, or it was killed before it was placed. -/
def State.over (s : State) (l : Slice) : Bool :=
  l.live && (l.placed || l.faulted) && (s.sliceThreads l.num).isEmpty

/-- The exit value of a slice with the %tid that gave it (R350). -/
def State.exitOf (s : State) (n : Nat) : Option (Nat × Word) :=
  let es := s.threads.filterMap fun t =>
    if t.slice = n then match t.ended with
      | some (.exited v) => some (t.tid.toNat, v)
      | _ => none
    else none
  (sortBy (fun (x y : Nat × Word) => decide (x.1 ≤ y.1)) es).head?

/-- The stores of a slice reach every core of the device before its handle completes (R330). -/
def State.settleStores (s : State) (n : Nat) : State :=
  (((s.teams.filter fun m => m.slice == n && m.onCore).flatMap (·.cores)).dedup).foldl
    (fun s c => (s.drain c).grantAll (s.core c).die) s

/-- The watches on an ended slice's counters are evaluated a last time and removed (R356, R358). -/
def State.endWatches (s : State) (n : Nat) : State :=
  let ws := s.watches.filter fun w => sliceCounter w.counter && w.slice == n
  let s1 := ws.foldl (fun s w => s.evalWatch w.id) s
  s1.dropWatches fun w => ws.any (·.id == w.id)

/-- The operations and transforms of teams that are not on their cores go with their slice (R405). -/
def State.dropOut (s : State) (n : Nat) : State :=
  let gone := (s.teams.filter fun m => m.slice == n && !m.onCore).map (·.uid)
  { s.dropOps fun o => gone.contains o.team with
    xforms := s.xforms.filter fun (x : Xform) => !gone.contains x.team
    xsubs := s.xsubs.filter fun (x : XSub) => !gone.contains x.team
    teams := s.teams.map fun m => if m.slice = n && m.at_ == .saving then { m with at_ := .resident } else m }

/-- A slice ends: its exit value is fixed, its handle completes or breaks, its contract, pockets and context
areas end (R310, R330, R350, R364, R393). -/
def State.endSlice (s : State) (l : Slice) : State :=
  let e := s.exitOf l.num
  let s1 := (s.settleStores l.num).dropOut l.num
  let s2 := { s1 with
    contracts := s1.contracts.filter fun (k : Contract) => k.slice != l.num
    pockets := s1.pockets.filter fun (p : PocketSet) => p.slice != l.num
    ctxAreas := s1.ctxAreas.filter fun (c : CtxArea) => c.slice != l.num
    waitingInv := s1.waitingInv.filter fun (w : Nat × List Byte) => w.1 != l.num }
  let s3 := s2.setSlice l.num fun x => { x with
    ended := true, exit := e, held := false, jobOpen := false, suspended := false, forHead := false, window := none,
    stopReq := none, argBlock := none, waitsAt := none, turn := [], gang := [] }
  State.drainCloak 4096 ((s3.endWatches l.num).endHandle l ((e.map (·.2)).getD 0))

/-- Whether nothing of an ended slice runs any more. -/
def State.quiet (s : State) (l : Slice) : Bool :=
  let us := (s.teams.filter (·.slice == l.num)).map (·.uid)
  l.ended && !us.isEmpty && !(s.ops.any fun o => us.contains o.team && !o.finished) &&
    !(s.xforms.any fun x => us.contains x.team) && !(s.xsubs.any fun x => us.contains x.team) &&
    !(s.colls.any fun c => us.contains c.team)

/-- The teams, groups and threads of an ended slice go, and its storage is free. -/
def State.clear (s : State) (l : Slice) : State :=
  let us := (s.teams.filter (·.slice == l.num)).map (·.uid)
  let s1 := us.foldl State.dropPhase s
  { s1 with
    teams := s1.teams.filter fun m => m.slice != l.num
    groups := s1.groups.filter fun g => g.slice != l.num
    threads := s1.threads.filter fun t => t.slice != l.num
    ops := s1.ops.filter fun (o : TileOp) => !us.contains o.team
    updates := s1.updates.filter fun (u : EngineUpdate) => !us.contains u.team
    cur := match s1.cur with
      | none => none
      | some g => if (s1.group g).slice = l.num then none else some g }

/-- The completion of a slice that is over is a release at domain scope (R330, R171): its stores drain, and what it has
sent to other devices until now is to be acknowledged. The slice's block of the argument pool is free at once, when its
last thread has ended (R468). -/
def State.closeSlice (s : State) (l : Slice) : State :=
  if l.endMark.isSome then s
  else (s.settleStores l.num).setSlice l.num fun x => { x with
    endMark := some s.fabric.nextTxn, argBlock := none }

/-- Whether a slice that is over waits for nothing of its own any more (R330). -/
def State.closed (s : State) (l : Slice) : Bool := s.over l && l.endMark.any fun n => !s.remoteBefore n

/-- Jobs and slices that are over end; what ended slices leave goes, and the records of slices whose numbers are allocated
again (R351). -/
def State.meetSlices (s : State) : State :=
  let s1 := s.slices.foldl (fun s l => s.applyStop l) s
  let s2 := (s1.ctxAreas.map (·.id)).foldl State.ctxStop s1
  let s3 := (s2.slices.filter s2.jobDone).foldl (fun s l => s.endJob l) s2
  let s4 := (s3.slices.filter s3.over).foldl State.closeSlice s3
  let s5 := ((s4.slices.filter s4.closed).foldl (fun s l => s.endSlice l) s4).sweepTiles
  let s6 := (s5.slices.filter s5.quiet).foldl (fun s l => s.clear l) s5
  { s6 with slices := s6.slices.filter fun l => !(decide (2 ^ 20 ≤ l.num) && !s6.teams.any (·.slice == l.num)) }

/-! ### Contracts (R393, R395) -/

/-- The contract that a descriptor describes, for a cluster. -/
def Contract.ofBytes (d : List Byte) (id cluster now : Nat) : Contract :=
  { id := id, period := fieldAt d 0 8, budget := fieldAt d 8 8, deadline := fieldAt d 0x10 8,
    first := fieldAt d 0x18 8, cores := byteAt d 0x28, cluster := cluster, slice := 0, admittedAt := now,
    released := 0 }

/-- Whether a contract descriptor is within its limits (R393). (DEDUCED, log 45) -/
def State.contractOk (s : State) (d : List Byte) : Bool :=
  let k := Contract.ofBytes d 0 0 0
  let cl := byteAt d 0x29
  decide (2 ^ 16 ≤ k.period) && decide (k.period ≤ 2 ^ 40) && decide (1 ≤ k.budget) && decide (k.budget ≤ k.period) &&
    decide (k.budget ≤ k.deadline) && decide (k.deadline ≤ k.period) && decide (k.first < k.period) &&
    decide (1 ≤ k.cores) && decide (k.cores ≤ 4) && (cl == 0xFF || s.clusterList.contains cl) &&
    (d.drop 0x2A).all (· == 0)

/-- Whether Σ B / P of some contracts is at most 0.90. -/
def utilOk (ks : List Contract) : Bool :=
  let r := ks.foldl (fun (a : Nat × Nat) k => (a.1 * k.period + k.budget * a.2, a.2 * k.period)) (0, 1)
  decide (10 * r.1 ≤ 9 * r.2)

/-- The utilisation test of a new contract on each of its cores (R393). -/
def State.utilTest (s : State) (k : Contract) : Bool :=
  (List.range k.cores).all fun c =>
    utilOk (k :: s.contracts.filter fun x => x.cluster == k.cluster && decide (c < x.cores))

/-- The largest stop latency in a cluster with a slice added (R393, R395). -/
def State.maxLatency (s : State) (k : Contract) (l : Launch) : Nat :=
  let here := s.slices.filter fun x => x.live &&
    ((s.teams.any fun m => m.slice == x.num && s.inCluster m k.cluster) ||
      s.contracts.any fun y => y.slice == x.num && y.cluster == k.cluster)
  (here.map (·.launch.stopLatency)).foldl max l.stopLatency

/-- The deadline test of a new contract (R393). -/
def State.deadlineTest (s : State) (k : Contract) (l : Launch) : Bool :=
  (k :: s.contracts.filter (·.cluster == k.cluster)).all fun x =>
    decide (x.budget + s.maxLatency k l ≤ x.deadline)

/-- The contracts that a descriptor may become, one for each cluster that it may go to. (DEDUCED, log 45) -/
def State.contractCands (s : State) (d : List Byte) : List Contract :=
  let cl := byteAt d 0x29
  (if cl = 0xFF then s.clusterList else [cl]).map fun c => Contract.ofBytes d s.nextContract c s.now

/-- The launch of a contract: the launch block with D and B in place of its DEADLINE and BUDGET. -/
def contractReq (d launch : List Byte) (asid : Nat) (any : Bool) : LaunchReq :=
  { block := launch, deadline := fieldAt d 0x10 8, budget := fieldAt d 8 8, asid := asid, anyAsid := any }

/-- Admit a contract (R385, R393): the refusal code, or the contract's number and the state. -/
def State.admitContract (s : State) (d launch : List Byte) (asid : Nat) (any : Bool) : Except Nat (Nat × State) :=
  let q := contractReq d launch asid any
  let l := q.launch
  match firstRefusal ((s.admitChecks q).take 8) with
  | some c => .error c
  | none =>
    if !s.contractOk d then .error (if s.placeable l none then 0x0A else 9)
    else
      let c9 := (s.contractCands d).filter fun k => s.placeable l (some k)
      let cB := c9.filter s.utilTest
      match c9, cB, cB.find? fun k => s.deadlineTest k l with
      | [], _, _ => .error 9
      | _, [], _ => .error 0x0B
      | _, _, none => .error 0x0C
      | _, _, some k =>
        match s.admitSlice { q with contract := some k } with
        | .error c => .error c
        | .ok r => .ok (k.id, { r.2 with
            contracts := r.2.contracts ++ [{ k with slice := r.1 }], nextContract := s.nextContract + 1 })

end Sys2Proof.Machine
end

