-- ==== Sys2Proof/Machine/Thermal.lean ====
section
/-! DEFINITION. The thermal marks: the sensors, the critical sequence, the cut-off and the resume (R442 to
R445). -/

namespace Sys2Proof.Machine

/-- Change the thermal state. -/
def State.setThermal (s : State) (f : Thermal → Thermal) : State :=
  { s with apron := { s.apron with thermal := f s.apron.thermal } }

/-- The hottest junction sensor, in 1/16 °C. -/
def State.hottest (s : State) : Nat := s.apron.thermal.temp.foldl max 0

/-- THERM_STAT as read (R437). (DEDUCED, log 52) -/
def State.thermStat (s : State) : Word :=
  let h := s.apron.thermal
  let hot := if h.temp.getD 0 0 < h.temp.getD 1 0 then 1 else 0
  BitVec.ofNat 32 (h.state % 8 + 8 * (h.ktherm.getD hot 1 % 32) + 256 * (s.hottest / 16 % 256))

/-- The thermal notice to every management session (R443, R451): OP 0x20, the length and STATE. -/
def State.thermalNotice (s : State) : State :=
  (s.sessions.filter (·.mgmt)).foldl (fun s x =>
    s.send (.supol x.num 0x08 0 0 0 (leBytes 4 0x20 ++ leBytes 4 4 ++ leBytes 4 s.apron.thermal.state))) s

/-- The critical sequence asks for the stop of a slice, whatever was asked before. -/
def Slice.criticalStop (l : Slice) (now : Nat) : Slice :=
  { l with stopReq := some (1, match l.stopReq with
      | some r => r.2
      | none => l.window.getD now) }

/-- The critical sequence begins (R443): dispatch stops, and every resident team is to be saved; a slice that an earlier
sequence saved and that is not back yet stays saved. (DEDUCED, log 44) -/
def State.beginCritical (s : State) : State :=
  let here := fun (l : Slice) => l.live && s.teams.any fun m => m.slice == l.num && m.onCore
  let ls := inOrder (s.slices.filter here)
  let all := inOrder (s.slices.filter fun l => here l || s.apron.thermal.saved.contains l.num)
  let s1 := s.setThermal fun h => { h with state := 2, saved := all.map (·.num) }
  let s2 := { s1 with slices := s1.slices.map fun (l : Slice) =>
    if (ls.map Slice.num).contains l.num then l.criticalStop s.now else l }
  s2.thermalNotice

/-- What a core holds goes with its rails: its L1, its TLB and its instruction cache; its bands are gated. -/
def Core.powerDown (c : Core) : Core :=
  { c with l1 := L1.empty, tlb := [], gated := 0xF, bandWake := [], icache := [] }

/-- An operation that ran in an array whose rails go begins again once they are back. -/
def TileOp.powerDown (o : TileOp) : TileOp :=
  if o.unit == .array then { o with started := false, waitsGrant := false, judged := o.undeclared, kg := 0 } else o

/-- The compute-die rails go, and HBM is in self-refresh (R443). -/
def State.powerDown (s : State) : State :=
  let s1 := s.setThermal fun h => { h with state := 3 }
  { s1 with
    ops := s1.ops.map TileOp.powerDown
    walkers := []
    cores := s1.cores.map Core.powerDown
    mem := { s1.mem with owner := [], dies := [DieMem.empty, DieMem.empty], selfRefresh := true } }

/-- The tile operations and the transforms of some slices' teams end with the rails (R445). -/
def State.dropUnits (s : State) (ls : List Nat) : State :=
  let us := (s.teams.filter fun m => ls.contains m.slice).map (·.uid)
  let s1 := s.dropOps fun o => us.contains o.team
  { s1 with
    xforms := s1.xforms.filter fun (x : Xform) => !us.contains x.team
    xsubs := s1.xsubs.filter fun (x : XSub) => !us.contains x.team }

/-- What the caches hold reaches HBM before the rails go: the L1s are drained, and the writes that wait for ownership enter
their lines (R371, R443). -/
def State.flushAll (s : State) : State :=
  (((s.cores.foldl (fun s (c : Core) => s.drain c.num) s).grantAll 0).grantAll 1).flushL2

/-- An RMA access whose writes the rails take with them, before it was performed, waits to begin again (R443). -/
def State.rmaAgain (s : State) : State :=
  { s with rma := s.rma.map fun (x : Rma) =>
      if x.lines.any fun l => s.mem.waits l.1 l.2 then { x with begun := false, lines := [] } else x }

/-- The cut-off (R445): stores that have not reached HBM are lost, and every slice not yet saved is
killed. -/
def State.cutOff (s : State) : State :=
  let s1 := s.rmaAgain
  let s1 := { s1 with mem := { s1.mem with l2 := [] } }
  let s2 := s1.powerDown
  let ls := (s2.slices.filter fun l => l.live && s2.teams.any fun m => m.slice == l.num && m.onCore).map (·.num)
  ls.foldl State.killSlice (s2.dropUnits ls)

/-- A sensor has reached 105 °C: the critical sequence begins, and is cut off at once where one has reached 110 °C (R443,
R445). -/
def State.critical (s : State) : State :=
  if 110 * 16 ≤ s.hottest then s.beginCritical.cutOff else s.beginCritical

/-- The device resumes (R444): HBM leaves self-refresh, and the saved slices are to be restored. -/
def State.resume (s : State) : State :=
  let s1 := s.setThermal fun h => { h with state := 4 }
  { s1 with mem := { s1.mem with selfRefresh := false } }

/-- The thermal state that sensor values bring about (R442 to R445). (DEDUCED, log 52) -/
def State.readSensors (s : State) : State :=
  let t := s.hottest
  let st := s.apron.thermal.state
  if st ≤ 1 then
    if 105 * 16 ≤ t then s.critical
    else s.setThermal fun h => { h with state := if 95 * 16 ≤ t then 1 else 0 }
  else if st = 2 then (if 110 * 16 ≤ t then s.cutOff else s)
  else if st = 3 then (if t < 90 * 16 then s.resume else s)
  else if 105 * 16 ≤ t then s.critical
  else s

/-- SENSOR_READ (R442): each die's hottest sensor, in 1/16 °C. (DESIGN CHOICE, log 53) -/
def execSensorRead (die0 die1 : Nat) (s : State) : Out :=
  .next (s.setThermal fun h => { h with temp := [die0, die1], readAt := s.now / 256 * 256 + 256 }).readSensors

/-- The critical sequence goes on: once every team is saved the rails go; once every saved slice is back the
sequence ends (R443, R444). -/
def State.meetThermal (s : State) : State :=
  let h := s.apron.thermal
  if h.state = 2 then
    if s.teams.any Team.onCore then s else s.flushAll.powerDown
  else if h.state = 4 then
    if h.saved.any fun n => s.isOut (s.slice n) then s
    else (s.setThermal fun x => { x with state := if 95 * 16 ≤ s.hottest then 1 else 0, saved := [] }).thermalNotice
  else s

end Sys2Proof.Machine
end

