-- ==== Sys2Proof/Machine/Host.lean ====
section
/-! DEFINITION. The Seam fabric and the Supol host link: links and members (R421 to R425), remote accesses at
their home and their replies (R380), placement reports (R388), and the messages of host sessions (R429 to R435). -/

namespace Sys2Proof.Machine

/-! ### Links (R421) -/

/-- Change a link. -/
def State.setLink (s : State) (n : Nat) (f : Link → Link) : State :=
  { s with fabric := { s.fabric with links := s.fabric.links.map fun (x : Link) => if x.num = n then f x else x } }

/-- LINK_LEVEL_RETRY (R421): timing only. (DESIGN CHOICE, log 53) -/
def execLinkLevelRetry (link : Nat) (s : State) : Out :=
  .next (s.setLink link fun x => { x with retries := x.retries + 1 })

/-- LINK_DOWN (R421): no traffic uses the link. (DESIGN CHOICE, log 53) -/
def execLinkDown (link : Nat) (s : State) : Out := .next (s.setLink link fun x => { x with up := false })

/-- LINK_RETRAINED (R421). (DESIGN CHOICE, log 53) -/
def execLinkRetrained (link : Nat) (s : State) : Out :=
  .next (s.setLink link fun x => { x with up := true, retries := 0 }).sendWaiting

/-! ### Remote accesses at their home (R380) -/

/-- Bytes at the L2 of their home die. -/
def State.homeBytes (s : State) (pa n : Nat) : List Byte := s.mem.readDie (s.homeDie pa) pa n

/-- Whether bytes at the L2 of their home die are poisoned (R159). -/
def State.homePoisoned (s : State) (pa n : Nat) : Bool := s.mem.poisonDie (s.homeDie pa) pa n

/-- Answer a remote request. -/
def State.answerRemote (s : State) (r : RemoteReq) (bs : List Byte) (poison : Bool) : State :=
  s.send (.remoteReply r.src ⟨r.txn, bs, poison, false⟩)

/-- Write for another device at the L2 of the home die. Whether the writing translation has the compressible attribute
does not travel with the request: it is a free value (R372). (DEDUCED, log 54) -/
def State.homeStore (s : State) (pa : Nat) (bs : List Byte) : State :=
  ((s.tick.ownedStore (s.homeDie pa) (numbered pa bs) none).markCmp (.phys pa)
    ((Config.freeByte s.fresh).getLsbD 0)).markWide (.phys pa) bs.length

/-- Perform a remote atomic at its home L2 (R167, R380). -/
def State.homeAtomic (s : State) (r : RemoteReq) (op f size : Nat) (a b : DWord) : State :=
  if s.homePoisoned r.pa size then s.answerRemote r [] true
  else
    let bs := s.homeBytes r.pa size
    match atomicNew op f (leNat bs) a.toNat b.toNat with
    | none => s.answerRemote r bs false
    | some v => (s.homeStore r.pa (leBytes size v)).answerRemote r bs false

/-- Perform a remote request; a polling load whose word has the expected value is held (R161, R234, R380).
(DEDUCED, log 54) -/
def State.performRemote (s : State) (r : RemoteReq) : State :=
  match r.op with
  | .load n => s.answerRemote r (if s.homePoisoned r.pa n then [] else s.homeBytes r.pa n) (s.homePoisoned r.pa n)
  | .store bs => (s.homeStore r.pa bs).answerRemote r [] false
  | .masked m v =>
    (s.homeStore r.pa [((s.homeBytes r.pa 1).headD 0 &&& ~~~m) ||| (v &&& m)]).answerRemote r [] false
  | .atomic op f size a b => s.homeAtomic r op f size a b
  | .poll old =>
    if s.homePoisoned r.pa 4 then s.answerRemote r [] true
    else if leNat (s.homeBytes r.pa 4) ≠ old.toNat then s.answerRemote r (s.homeBytes r.pa 4) false
    else { s with fabric := { s.fabric with polls := s.fabric.polls ++ [(r, s.now + pollCycles)] } }

/-- Whether accesses from outside wait: in the critical sequence, and until HBM has left self-refresh (R443). -/
def State.memWaits (s : State) : Bool := s.mem.selfRefresh || s.apron.thermal.state == 2

/-- REMOTE_ACCESS_REQUEST (R380): in the critical sequence and the power-down the request waits (R443).
(DEDUCED, log 54) -/
def execRemoteAccessRequest (src txn pa : Nat) (op : RemoteOp) (s : State) : Out :=
  let s1 := s.heard src
  let r : RemoteReq := ⟨src, txn, pa, op⟩
  if s1.memWaits then .next { s1 with fabric := { s1.fabric with held := s1.fabric.held ++ [r] } }
  else .next (s1.performRemote r)

/-- Held remote polls whose line has been written or has left its home, or whose time is over, are answered (R161);
requests that waited for HBM are performed. -/
def State.meetRemote (s : State) : State :=
  if s.memWaits then s
  else
    let ps := s.fabric.polls.filter fun x => x.2 ≤ s.now
    let hs := s.fabric.held
    let s1 := { s with fabric := { s.fabric with polls := s.fabric.polls.filter fun x => !ps.contains x, held := [] } }
    let s2 := ps.foldl (fun s x => s.answerRemote x.1 (s.homeBytes x.1.pa 4) (s.homePoisoned x.1.pa 4)) s1
    hs.foldl State.performRemote s2

/-! ### Replies to this device (R380) -/

/-- A number that no thread has, for the accesses of a host's RMA. -/
def hostUid (k : Nat) : Nat := 2 ^ 65 + k

/-- Whether a result waits for the reply to a transaction. -/
def Pending.awaits (p : Pending) (txn : Nat) : Bool :=
  match p.kind with
  | .remote n _ => n == txn
  | _ => false

/-- The fault that a reply brings, due where its result is awaited (R159, R380). -/
def RemoteWait.fault (w : RemoteWait) (r : RemoteReply) : Option FaultInfo :=
  if r.failed then some (accessFault 0x23 w.ea) else if r.poison then some (memPoison w.ea) else none

/-- The result of a thread's load or atomic is there, for the registers that no later write has taken (R49): its value, or
the fault that is due where it is awaited. An LDACQ's acquire acts as its word is read (R186). (DEDUCED, log 38) -/
def State.landRemote (s : State) (w : RemoteWait) (r : RemoteReply) : State :=
  match (s.thread w.uid).pend.find? (·.awaits w.txn) with
  | none => s
  | some p =>
    let s1 := s.setPend w.uid p.id fun q => { q.filled w.dests r.bytes (w.fault r) with
      demote := match w.cmp with
        | some c => (w.fault r).isNone && leNat r.bytes != c.toNat
        | none => q.demote }
    if p.acquire = 0 then s1 else s1.acquire (s.thread w.uid) p.acquire

/-- What a unit of this device has read of another's memory is there (R380). -/
def State.landRead (s : State) (r : RemoteReply) : State :=
  { s with fabric := { s.fabric with reads := s.fabric.reads.map fun (x : RemoteRead) =>
      if x.txn = r.txn then { x with got := some r } else x } }

/-- Bytes that an RMA_READ asked another device for arrive. -/
def State.landRma (s : State) (w : RemoteWait) (r : RemoteReply) : State :=
  { s with rma := s.rma.map fun (x : Rma) =>
    if w.uid != hostUid x.id then x
    else if r.failed then { x with status := 0x107 }
    else if r.poison then { x with status := 0x105 }
    else if w.isStore then x
    else { x with bytes := x.bytes.take w.pend ++ r.bytes ++ x.bytes.drop (w.pend + r.bytes.length) } }

/-- A reply to a remote access of this device. -/
def State.remoteDone (s : State) (w : RemoteWait) (r : RemoteReply) : State :=
  let s1 := { s with fabric := { s.fabric with remote := s.fabric.remote.filter (·.txn != w.txn) } }
  let s2 := s1.landRma w r
  if w.isStore then (if r.failed then s2.rasAdd 0x0E 1 else s2)
  else if w.uid = readUid then s2.landRead r
  else s2.landRemote w r

/-- REMOTE_ACCESS_REPLY (R380). -/
def execRemoteAccessReply (txn : Nat) (bytes : List Byte) (poison failed : Bool) (s : State) : Out :=
  match s.fabric.remote.find? (·.txn == txn) with
  | none => .next s
  | some w => .next ((s.heard w.home).remoteDone w ⟨txn, bytes, poison, failed⟩)

/-! ### Members (R388, R425) -/

/-- The other members that are not declared failed. -/
def State.peers (s : State) : List Nat := (bitsOf 64 s.mgmt.members.getLsbD).filter fun d => d != s.devid && s.reachable d

/-- LIVENESS_FLIT (R425): one that arrives, or those that this device sends every 65,536 cycles. -/
def execLivenessFlit (src : Option Nat) (s : State) : Out :=
  match src with
  | some d => .next (s.heard d)
  | none =>
    if s.fabric.livenessAt ≤ s.now then
      let s1 := (s.peers.filter fun d => !(s.fabric.routesTo d).isEmpty).foldl (fun s d => s.send (.liveness d)) s
      .next { s1 with fabric := { s1.fabric with livenessAt := s1.fabric.livenessAt + 65536 } }
    else .next s

/-- What a member's failure brings about here (R307, R337, R380). -/
def State.failMember (s : State) (dev : Nat) : State :=
  let s1 := { s with fabric := { s.fabric with
    members := s.fabric.members.map (fun (m : Member) => if m.dev = dev then { m with failed := true } else m)
    unsent := s.fabric.unsent.filter fun (m : OutMsg) => m.dest != some dev
    flights := s.fabric.flights.filter fun (x : Flight) => x.dev != dev } }
  let s2 := (s1.fabric.remote.filter (·.home == dev)).foldl
    (fun s w => s.remoteDone w ⟨w.txn, [], false, true⟩) s1
  let s3 := (s2.colls.filter fun c => c.devs.contains dev && !c.written).foldl (fun s c => s.failColl c) s2
  s3.breakDevice dev

/-- Whether a device is a member not declared failed. -/
def State.aliveMember (s : State) (dev : Nat) : Bool :=
  dev != s.devid && s.mgmt.members.getLsbD dev && s.fabric.members.any fun m => m.dev == dev && !m.failed

/-- Whether a member has been silent for 2^22 cycles while no route to it is up (R425). -/
def State.silent (s : State) (dev : Nat) : Bool :=
  (s.fabric.route? dev).isNone && s.fabric.members.any fun m => m.dev == dev && decide (m.heardAt + 2 ^ 22 ≤ s.now)

/-- MEMBER_FAILURE_DECLARED (R425): a member silent for 2^22 cycles with no route to it up is declared failed,
and the others are told. (DESIGN CHOICE, log 53) -/
def execMemberFailureDeclared (dev : Nat) (s : State) : Out :=
  if s.aliveMember dev && s.silent dev then
    let s1 := s.failMember dev
    .next (s1.peers.foldl (fun s d => s.send (.failure d dev)) s1)
  else .next s

/-- FAILURE_REPORT (R425): a flit of the device that reports, too. -/
def execFailureReport (report : FailReport) (s : State) : Out :=
  let s1 := s.heard report.src
  .next (if s1.aliveMember report.dev then s1.failMember report.dev else s1)

/-- Record a device's level and classes. -/
def State.reported (s : State) (m : Member) : State :=
  { s with fabric := { s.fabric with
    members := s.fabric.members.filter (fun (x : Member) => x.dev != m.dev) ++ [m] } }

/-- PLACEMENT_REPORT (R388): one that arrives, or this device's own every 65,536 cycles. -/
def execPlacementReport (src : Option Nat) (level : Nat) (classes : BitVec 16) (s : State) : Out :=
  match src with
  | some d =>
    match s.fabric.members.find? (·.dev == d) with
    | none => .next s
    | some m => .next (s.reported { m with heardAt := s.now, level := level, classes := classes })
  | none =>
    if s.fabric.reportAt ≤ s.now then
      let c : BitVec 16 := s.mgmt.teamClasses.setWidth 16
      let s1 := s.peers.foldl (fun s d => s.send (.level d s.starve c)) s
      let s2 := s1.reported ⟨s.devid, s.now, false, s.starve, c⟩
      .next { s2 with fabric := { s2.fabric with reportAt := s2.fabric.reportAt + 65536 } }
    else .next s

/-! ### Sessions and the order of their messages (R430, R435, R451) -/

/-- The session of a number. -/
def State.session? (s : State) (n : Nat) : Option Session := s.sessions.find? (·.num == n)

/-- Answer a requester: a session receives a reply, a mailbox nothing. (DEDUCED, log 65) -/
def State.answer (s : State) (w : Requester) (type : Nat) (target : DWord) (status : Nat) (pay : List Byte) : State :=
  match w with
  | .session h r => s.reply h.num r type target status pay
  | .mailbox _ => s

/-- The status of a header's own fields (R430, R432): a VERSION, TYPE, STATUS or reserved field outside its limits, then
LEN, 0 when none is. (DESIGN CHOICE, log 82) -/
def fieldStatus (h : SupolHead) : Nat :=
  if h.version != 1 || h.unknown.isSome || h.flags != 0 || h.status != 0 || h.reserved != 0 then 0x101
  else if h.len.isSome then 0x102
  else 0

/-- The status of a MGMT payload's own header (R451): an OP that the table does not list, then its length.
(DESIGN CHOICE, log 82) -/
def opStatus (h : SupolHead) : Nat :=
  if h.op.isSome then 0x101 else if h.opLen.isSome then 0x102 else 0

/-- Whether a message comes over the security association of a session that requires the transport security sublayer
(R429, R432). -/
def Session.over (x : Session) (h : SupolHead) : Bool := !x.secure || h.assoc == some x.assoc

/-- The status that answers a message for its header (R430, R432): its fields, then its session. (DESIGN CHOICE, log 82) -/
def State.headStatus (s : State) (h : SupolHead) : Nat :=
  if fieldStatus h != 0 then fieldStatus h
  else if (s.session? h.num).any fun x => x.over h then 0
  else 0x100

/-- The TYPE that a reply to a message of a type carries: an unknown TYPE is echoed (R431). -/
def typeOf (h : SupolHead) (type : Nat) : Nat := (h.unknown.map fun t => t.toNat % 128).getD type

/-- Whether a live supervisor slice has a number. -/
def State.superSlice (s : State) (n : Nat) : Bool := (s.slice n).live && (s.slice n).super && (s.slice? n).isSome

/-- Whether a message of a session must wait for what the session sent before it (R435). -/
def State.mustWait (s : State) (n : Nat) : Bool :=
  s.rma.any (·.session == n) || s.hostQ.any (·.1 == n)

/-- Whether a message is served: the device is up, and in recovery only what recovery serves (R447). -/
def State.serves (s : State) (recovery : Bool) : Bool := s.boot.on && (!s.boot.recovery || recovery)

/-- Perform a message of a requester (R430, R431, R447, R451): an unknown session and one without the privilege
are answered so, and a header field outside its limits first of all; a mailbox request of a supervisor slice is a release at
device scope. In recovery the messages that are served need no session. (DESIGN CHOICE, log 82) -/
def State.serve (s : State) (w : Requester) (type : Nat) (priv recovery : Bool) (go : State → State) : State :=
  if !s.serves recovery then s
  else
    match w with
    | .session h r =>
      let c := if s.boot.recovery then fieldStatus h else s.headStatus h
      if c != 0 then s.reply h.num r (typeOf h type) 0 c []
      else if s.boot.recovery then go s
      else if priv && !(s.session? h.num).any (·.mgmt) then s.reply h.num r type 0 0x108 []
      else go s
    | .mailbox k => if s.superSlice k then go (s.settleStores k) else s

/-- The RMA accesses of a session that are not yet performed. -/
def State.rmaOf (s : State) (n : Nat) : List Nat := (s.rma.filter (·.session == n)).map (·.id)

/-- A message of a requester in its order (R435): one of a session waits for the RMA accesses that the session sent
before it. -/
def State.inTurn (s : State) (w : Requester) (i : HostMsg) (go : State → State) : State :=
  match w with
  | .session h _ => if s.mustWait h.num then { s with hostQ := s.hostQ ++ [(h.num, s.rmaOf h.num, i)] } else go s
  | .mailbox _ => go s

/-- The address space that a requester acts in, and whether it may originate launches into any. -/
def State.originOf (s : State) (w : Requester) : Nat × Bool :=
  match w with
  | .session h _ => match s.session? h.num with
    | none => (0, false)
    | some x => (x.asid, x.mgmt)
  | .mailbox k => ((s.slice k).asid, true)

/-! ### Invocations by hosts (R343, R433) -/

/-- Whether an inline invocation has its lengths (R431, R432). (DEDUCED, log 55) -/
def inlineOk (desc launch args : List Byte) (lim : Nat) : Bool :=
  desc.length == 64 && launch.length == 256 && args.length == fieldAt desc 0x0C 4 && decide (args.length ≤ lim)

/-- Whether an invocation names this device as its DEVICE (R433). -/
def State.namesHere (s : State) (desc : List Byte) : Bool := byteAt desc 0 == s.devid

/-- A host's INVOKE (R433): where DEVICE names this device the reply follows admission; elsewhere it carries the handle,
which a refusal breaks. -/
def State.hostInvoke (s : State) (h : SupolHead) (r : Nat) (desc launch args : List Byte) : State :=
  if !inlineOk desc launch args 4096 then s.reply h.num r 1 0 0x102 []
  else
    match s.allocInv 2 desc with
    | none => s.reply h.num r 1 0 0x109 []
    | some x =>
      let o := s.originOf (.session h r)
      let y := x.2.sendInvoke (invocationOf desc launch args x.1 s.devid o.1 o.2)
      State.drainCloak 4096 (match y.2, s.namesHere desc with
        | some c, true => (y.1.dropEntry x.1).reply h.num r 1 0 c []
        | _, _ => y.1.reply h.num r 1 x.1 0 [])

/-- SUPOL_INVOKE (R433). -/
def State.doInvoke (h : SupolHead) (r : Nat) (desc launch args : List Byte) (s : State) : State :=
  s.serve (.session h r) 1 false false fun s => s.hostInvoke h r desc launch args

/-- A host's INVH with its new handle: at an upstream entry here, where the reply follows admission, or sent on
(R335, R433). -/
def State.hostInvhTo (s : State) (h : SupolHead) (r : Nat) (u : DWord) (i : Invocation) : State :=
  let elsewhere := fun (s : State) => (s.sendInvh i u).reply h.num r 2 i.handle 0 []
  match (if badHandle u then none else s.entryOf u) with
  | none => elsewhere s
  | some e =>
    if e.st == .forwarded || e.unplaced then elsewhere s
    else if !invhFieldsOk i.desc then
      let c := s.fieldCode (i.request (List.replicate 32 0))
      ((s.logRefusal c).dropEntry i.handle).reply h.num r 2 0 c []
    else
      let s1 := { s with cloak := { s.cloak with admits := s.cloak.admits ++ [(i.handle, h.num, r)] } }
      match e.result with
      | some v => s1.runQueued v i
      | none => s1.setEntry u fun x => { x with invhQ := x.invhQ ++ [i] }

/-- A host's INVH (R433). -/
def State.hostInvh (s : State) (h : SupolHead) (r : Nat) (u : DWord) (desc launch args : List Byte) : State :=
  if !inlineOk desc launch args 4064 then s.reply h.num r 2 0 0x102 []
  else
    match s.allocInv 2 desc with
    | none => s.reply h.num r 2 0 0x109 []
    | some x =>
      let o := s.originOf (.session h r)
      (x.2.hostInvhTo h r u (invocationOf desc launch args x.1 s.devid o.1 o.2)).drainCloak 4096

/-- SUPOL_INVH (R433). (DEDUCED, log 55) -/
def State.doInvh (h : SupolHead) (r : Nat) (u : DWord) (desc launch args : List Byte) (s : State) : State :=
  s.serve (.session h r) 2 false false fun s => s.hostInvh h r u desc launch args

/-- A host registers as a waiter on a handle (R433). -/
def State.hostNotify (s : State) (n r : Nat) (h : DWord) : State :=
  let elsewhere := fun (s : State) =>
    State.ownMsg { s with cloak := { s.cloak with hosts := s.cloak.hosts ++ [(h, n, r)] } } h (.waiter 0 true)
      (some (.host n r 3))
  if badHandle h then s.reply n r 3 h 0x106 []
  else
    State.drainCloak 4096 (match s.entryOf h with
      | none => if homeOf h = s.devid then s.reply n r 3 h 0x106 [] else elsewhere s
      | some e =>
        if e.st == .forwarded then elsewhere s
        else
          match e.result with
          | some v => (s.reply n r 3 h 0 []).notify n r h v
          | none => (s.setEntry h fun x => { x with waiters := x.waiters ++ [.session n r] }).reply n r 3 h 0 [])

/-- FGET_NOTIFY (R433). -/
def State.doNotify (n : SupolHead) (r : Nat) (h : DWord) (s : State) : State :=
  s.serve (.session n r) 3 false false fun s => s.hostNotify n.num r h

/-- SUPOL_FREL (R342, R343). -/
def State.doFrel (n : SupolHead) (r : Nat) (h : DWord) (s : State) : State :=
  s.serve (.session n r) 4 false false fun s =>
    if badHandle h then s.reply n.num r 4 h 0x106 []
    else (s.ownMsg h .frel (some (.host n.num r 4))).drainCloak 4096

/-- CONTRACT (R393, R431). -/
def State.doContract (w : Requester) (desc launch : List Byte) (s : State) : State :=
  s.serve w 5 true false fun s =>
    if desc.length != 64 || launch.length != 256 then s.answer w 5 0 0x102 []
    else
      let o := s.originOf w
      match s.admitContract desc launch o.1 o.2 with
      | .error c => (s.logRefusal c).answer w 5 0 c []
      | .ok x => x.2.answer w 5 (BitVec.ofNat 64 x.1) 0 []

/-- SUPOL_INVOKE (R433). -/
def execSupolInvoke (session : SupolHead) (reqId : Nat) (desc launch args : List Byte) (s : State) : Out :=
  .next (s.inTurn (.session session reqId) (.invoke session reqId desc launch args)
    (State.doInvoke session reqId desc launch args))

/-- SUPOL_INVH (R433). -/
def execSupolInvh (session : SupolHead) (reqId : Nat) (upstream : DWord) (desc launch args : List Byte) (s : State) : Out :=
  .next (s.inTurn (.session session reqId) (.invh session reqId upstream desc launch args)
    (State.doInvh session reqId upstream desc launch args))

/-- FGET_NOTIFY (R433). -/
def execFgetNotify (session : SupolHead) (reqId : Nat) (handle : DWord) (s : State) : Out :=
  .next (s.inTurn (.session session reqId) (.notify session reqId handle) (State.doNotify session reqId handle))

/-- SUPOL_FREL (R343). -/
def execSupolFrel (session : SupolHead) (reqId : Nat) (handle : DWord) (s : State) : Out :=
  .next (s.inTurn (.session session reqId) (.frel session reqId handle) (State.doFrel session reqId handle))

/-- CONTRACT (R393). -/
def execContract (who : Requester) (desc launch : List Byte) (s : State) : Out :=
  .next (s.inTurn who (.contract who desc launch) (State.doContract who desc launch))

/-- SUPOL_PACKET_DROP (R357, R429). -/
def execSupolPacketDrop (s : State) : Out := .next { s with starved := s.starved + 1 }

/-! ### RMA (R434, R435) -/

/-- A session's RMA access is recorded, or answered at once: a header outside its limits, an unknown session, or a length
outside its limits. -/
def State.startRma (s : State) (h : SupolHead) (x : Rma) : State :=
  let type := if x.write then 7 else 6
  if !s.serves false then s
  else if s.headStatus h != 0 then s.reply x.session x.reqId (typeOf h type) x.va (s.headStatus h) []
  else if x.len = 0 || 65536 < x.len then s.reply x.session x.reqId type x.va 0x102 []
  else { s with rma := s.rma ++ [{ x with id := s.nextRma }], nextRma := s.nextRma + 1 }

/-- RMA_READ (R434). -/
def execRmaRead (session : SupolHead) (reqId : Nat) (va : DWord) (len : Nat) (ordered : Bool) (s : State) : Out :=
  .next (s.startRma session
    ⟨0, session.num, reqId, false, ordered, va, len, List.replicate len 0, false, 0, []⟩)

/-- RMA_WRITE (R434). -/
def execRmaWrite (session : SupolHead) (reqId : Nat) (va : DWord) (bytes : List Byte) (ordered : Bool) (s : State) : Out :=
  .next (s.startRma session ⟨0, session.num, reqId, true, ordered, va, bytes.length, bytes, false, 0, []⟩)

/-- Whether two accesses overlap. -/
def Rma.overlaps (a b : Rma) : Bool :=
  decide (a.va.toNat < b.va.toNat + b.len) && decide (b.va.toNat < a.va.toNat + a.len)

/-- Whether an access must wait for an earlier one of its session (R435). -/
def Rma.waitsFor (x y : Rma) : Bool :=
  y.session == x.session && decide (y.id < x.id) &&
    (if x.write then y.write && (x.ordered || x.overlaps y) else x.ordered)

/-- The aligned 8-byte units of a range, the ends shorter: offset from its start and length (R434). Of a write, those that
make up a granule go together, since they clear its poison (R159, R381). -/
def unitsOf (write : Bool) (va : Nat) : Nat → Nat → Nat → List (Nat × Nat)
  | 0, _, _ => []
  | _, _, 0 => []
  | fuel + 1, off, left =>
    let n := if write && (va + off) % 32 == 0 && decide (32 ≤ left) then 32 else min left (8 - (va + off) % 8)
    (off, n) :: unitsOf write va fuel (off + n) (left - n)

/-- The place of a unit, or the status that answers the access (R432, R434). -/
def State.rmaPlace (s : State) (x : Rma) (off : Nat) : Except Nat Place :=
  let va := x.va.toNat + off
  let u := match s.session? x.session with
    | some y => y
    | none => default
  if 2 ^ 57 ≤ va then .error 0x103
  else
    match s.walk 0 u.asid va with
    | .absent => .error 0x104
    | .malformed => .error 0x103
    | .leaf e =>
      match permFault e (if x.write then .write else .read) (!u.mgmt), e.place va with
      | some _, _ => .error 0x103
      | none, .remote h pa => if s.reachable h then .ok (.remote h pa) else .error 0x107
      | none, p => .ok p

/-- The places of the units of an access, in order, or the first status that is not done. -/
def State.rmaPlaces (s : State) (x : Rma) : List (Nat × Nat) → Except Nat (List (Nat × Nat × Place))
  | [] => .ok []
  | u :: t =>
    match s.rmaPlace x u.1, s.rmaPlaces x t with
    | .error e, _ => .error e
    | .ok _, .error e => .error e
    | .ok p, .ok l => .ok ((u.1, u.2, p) :: l)

/-- Whether the page of a byte of an access is compressible (R372). -/
def State.rmaCmp (s : State) (x : Rma) (off : Nat) : Bool :=
  match s.walk 0 ((s.session? x.session).getD default).asid (x.va.toNat + off) with
  | .leaf e => e.cmp
  | _ => false

/-- Perform a unit, or the units of a granule, of an RMA_WRITE: at the L2 of its home die, or sent to its home device. (DEDUCED, log 54) -/
def State.rmaStore (s : State) (x : Rma) (u : Nat × Nat × Place) : State :=
  let bs := (x.bytes.drop u.1).take u.2.1
  match u.2.2 with
  | .phys pa =>
    ((s.l2Store (s.homeDie pa) (numbered pa bs) none).markCmp u.2.2 (s.rmaCmp x u.1)).markWide u.2.2 bs.length
  | .remote h pa => s.sendRemote h pa (.store bs) ⟨0, h, hostUid x.id, u.1, true, [], none, 0⟩
  | _ => s

/-- Perform one unit of an RMA_READ. (DEDUCED, log 54) -/
def State.rmaLoad (s : State) (x : Rma) (u : Nat × Nat × Place) : State :=
  match u.2.2 with
  | .phys pa =>
    s.landRma ⟨0, 0, hostUid x.id, u.1, false, [], none, 0⟩ ⟨0, s.homeBytes pa u.2.1, s.homePoisoned pa u.2.1, false⟩
  | .remote h pa => s.sendRemote h pa (.load u.2.1) ⟨0, h, hostUid x.id, u.1, false, [], none, 0⟩
  | _ => s

/-- The lines, with their home dies, that an RMA_WRITE writes here. -/
def State.rmaLines (s : State) (us : List (Nat × Nat × Place)) : List (Nat × Nat) :=
  (us.filterMap fun u => match u.2.2 with
    | .phys pa => some (s.homeDie pa, lineOf pa)
    | _ => none).dedup

/-- Change an RMA access. -/
def State.setRma (s : State) (k : Nat) (f : Rma → Rma) : State :=
  { s with rma := s.rma.map fun (x : Rma) => if x.id = k then f x else x }

/-- An RMA access begins (R434). (DEDUCED, log 54) -/
def State.beginRma (s : State) (x : Rma) : State :=
  match s.rmaPlaces x (unitsOf x.write x.va.toNat x.len 0 x.len) with
  | .error e => s.setRma x.id fun y => { y with begun := true, status := e }
  | .ok us =>
    let s1 := s.setRma x.id fun y => { y with begun := true, lines := if x.write then s.rmaLines us else [] }
    us.foldl (fun s u => if x.write then s.rmaStore x u else s.rmaLoad x u) s1

/-- Whether an RMA access that has begun is performed: its lines owned, its remote units answered. -/
def State.rmaDone (s : State) (x : Rma) : Bool :=
  x.begun && !(s.fabric.remote.any fun w => w.uid == hostUid x.id) &&
    !(x.lines.any fun l => s.mem.waits l.1 l.2)

/-- Answer a performed RMA access. (DEDUCED, log 54) -/
def State.endRma (s : State) (x : Rma) : State :=
  let s1 := { s with rma := s.rma.filter fun (y : Rma) => y.id != x.id }
  s1.reply x.session x.reqId (if x.write then 7 else 6) x.va x.status
    (if x.write || x.status != 0 then [] else x.bytes)

/-- RMA accesses go on: those performed are answered, those that need not wait begin. -/
def State.meetRma (s : State) : State :=
  if s.memWaits then s
  else
    let s1 := (s.rma.filter s.rmaDone).foldl State.endRma s
    (s1.rma.filter fun x => !x.begun && !(s1.rma.any fun y => x.waitsFor y)).foldl State.beginRma s1

end Sys2Proof.Machine
end

