-- ==== Sys2Proof/Machine/Sha.lean ====
section
/-! DEFINITION. SHA-512, and the RSASSA-PSS signatures of firmware images: the standard functions that R352, R447, R448 and
R450 name, as FIPS 180-4 and RFC 8017 define them. (PRESUMED, log 84) -/

namespace Sys2Proof.Machine

/-! ### SHA-512 -/

/-- Round constants 0 to 15 of SHA-512. -/
def shaK0 : List DWord :=
  [ 0x428A2F98D728AE22, 0x7137449123EF65CD, 0xB5C0FBCFEC4D3B2F, 0xE9B5DBA58189DBBC,
    0x3956C25BF348B538, 0x59F111F1B605D019, 0x923F82A4AF194F9B, 0xAB1C5ED5DA6D8118,
    0xD807AA98A3030242, 0x12835B0145706FBE, 0x243185BE4EE4B28C, 0x550C7DC3D5FFB4E2,
    0x72BE5D74F27B896F, 0x80DEB1FE3B1696B1, 0x9BDC06A725C71235, 0xC19BF174CF692694 ]

/-- Round constants 16 to 31 of SHA-512. -/
def shaK1 : List DWord :=
  [ 0xE49B69C19EF14AD2, 0xEFBE4786384F25E3, 0x0FC19DC68B8CD5B5, 0x240CA1CC77AC9C65,
    0x2DE92C6F592B0275, 0x4A7484AA6EA6E483, 0x5CB0A9DCBD41FBD4, 0x76F988DA831153B5,
    0x983E5152EE66DFAB, 0xA831C66D2DB43210, 0xB00327C898FB213F, 0xBF597FC7BEEF0EE4,
    0xC6E00BF33DA88FC2, 0xD5A79147930AA725, 0x06CA6351E003826F, 0x142929670A0E6E70 ]

/-- Round constants 32 to 47 of SHA-512. -/
def shaK2 : List DWord :=
  [ 0x27B70A8546D22FFC, 0x2E1B21385C26C926, 0x4D2C6DFC5AC42AED, 0x53380D139D95B3DF,
    0x650A73548BAF63DE, 0x766A0ABB3C77B2A8, 0x81C2C92E47EDAEE6, 0x92722C851482353B,
    0xA2BFE8A14CF10364, 0xA81A664BBC423001, 0xC24B8B70D0F89791, 0xC76C51A30654BE30,
    0xD192E819D6EF5218, 0xD69906245565A910, 0xF40E35855771202A, 0x106AA07032BBD1B8 ]

/-- Round constants 48 to 63 of SHA-512. -/
def shaK3 : List DWord :=
  [ 0x19A4C116B8D2D0C8, 0x1E376C085141AB53, 0x2748774CDF8EEB99, 0x34B0BCB5E19B48A8,
    0x391C0CB3C5C95A63, 0x4ED8AA4AE3418ACB, 0x5B9CCA4F7763E373, 0x682E6FF3D6B2B8A3,
    0x748F82EE5DEFB2FC, 0x78A5636F43172F60, 0x84C87814A1F0AB72, 0x8CC702081A6439EC,
    0x90BEFFFA23631E28, 0xA4506CEBDE82BDE9, 0xBEF9A3F7B2C67915, 0xC67178F2E372532B ]

/-- Round constants 64 to 79 of SHA-512. -/
def shaK4 : List DWord :=
  [ 0xCA273ECEEA26619C, 0xD186B8C721C0C207, 0xEADA7DD6CDE0EB1E, 0xF57D4F7FEE6ED178,
    0x06F067AA72176FBA, 0x0A637DC5A2C898A6, 0x113F9804BEF90DAE, 0x1B710B35131C471B,
    0x28DB77F523047D84, 0x32CAAB7B40C72493, 0x3C9EBE0A15C9BEBC, 0x431D67C49C100D4C,
    0x4CC5D4BECB3E42B6, 0x597F299CFC657E2A, 0x5FCB6FAB3AD6FAEC, 0x6C44198C4A475817 ]

/-- The round constants of SHA-512. -/
def shaK : List DWord := shaK0 ++ shaK1 ++ shaK2 ++ shaK3 ++ shaK4

/-- The eight working words of SHA-512. -/
structure ShaState where
  a : DWord
  b : DWord
  c : DWord
  d : DWord
  e : DWord
  f : DWord
  g : DWord
  h : DWord
  deriving DecidableEq, Repr

/-- The initial hash value of SHA-512. -/
def ShaState.init : ShaState :=
  ⟨0x6A09E667F3BCC908, 0xBB67AE8584CAA73B, 0x3C6EF372FE94F82B, 0xA54FF53A5F1D36F1,
    0x510E527FADE682D1, 0x9B05688C2B3E6C1F, 0x1F83D9ABFB41BD6B, 0x5BE0CD19137E2179⟩

/-- The sum of two hash values, word by word. -/
def ShaState.add (x y : ShaState) : ShaState :=
  ⟨x.a + y.a, x.b + y.b, x.c + y.c, x.d + y.d, x.e + y.e, x.f + y.f, x.g + y.g, x.h + y.h⟩

/-- One round of SHA-512 on a schedule word and its constant. -/
def ShaState.round (x : ShaState) (w k : DWord) : ShaState :=
  let s1 := x.e.rotateRight 14 ^^^ x.e.rotateRight 18 ^^^ x.e.rotateRight 41
  let ch := (x.e &&& x.f) ^^^ (~~~x.e &&& x.g)
  let t1 := x.h + s1 + ch + k + w
  let s0 := x.a.rotateRight 28 ^^^ x.a.rotateRight 34 ^^^ x.a.rotateRight 39
  let maj := (x.a &&& x.b) ^^^ (x.a &&& x.c) ^^^ (x.b &&& x.c)
  ⟨t1 + (s0 + maj), x.a, x.b, x.c, x.d + t1, x.e, x.f, x.g⟩

/-- The message schedule, the newest word first, `n` words longer. -/
def shaExtend : Nat → List DWord → List DWord
  | 0, l => l
  | n + 1, l =>
    let x := l.getD 1 0
    let y := l.getD 14 0
    let s1 := x.rotateRight 19 ^^^ x.rotateRight 61 ^^^ (x >>> 6)
    let s0 := y.rotateRight 1 ^^^ y.rotateRight 8 ^^^ (y >>> 7)
    shaExtend n ((s1 + l.getD 6 0 + s0 + l.getD 15 0) :: l)

/-- A number from bytes, the most significant first. -/
def beNat (l : List Byte) : Nat := l.foldl (fun v b => 256 * v + b.toNat) 0

/-- The `n` bytes of a number, the most significant first. -/
def beBytes (n v : Nat) : List Byte := (List.range n).map fun i => BitVec.ofNat 8 (v / 256 ^ (n - 1 - i))

/-- The schedule of a block of 128 bytes. -/
def shaSchedule (b : List Byte) : List DWord :=
  (shaExtend 64 ((List.range 16).map fun i => BitVec.ofNat 64 (beNat ((b.drop (8 * i)).take 8))).reverse).reverse

/-- A hash value with one block taken in. -/
def ShaState.block (x : ShaState) (b : List Byte) : ShaState :=
  x.add (((shaSchedule b).zip shaK).foldl (fun y w => y.round w.1 w.2) x)

/-- A message padded to whole blocks. -/
def shaPad (m : List Byte) : List Byte :=
  m ++ [0x80] ++ List.replicate ((111 + 128 - m.length % 128) % 128) 0 ++ beBytes 16 (8 * m.length)

/-- The blocks of a padded message taken in, `n` of them. -/
def shaBlocks : Nat → ShaState → List Byte → ShaState
  | 0, x, _ => x
  | n + 1, x, m => shaBlocks n (x.block (m.take 128)) (m.drop 128)

/-- The SHA-512 digest of a byte string: 64 bytes. -/
def sha512 (m : List Byte) : List Byte :=
  let p := shaPad m
  let x := shaBlocks (p.length / 128) ShaState.init p
  [x.a, x.b, x.c, x.d, x.e, x.f, x.g, x.h].flatMap fun w => beBytes 8 w.toNat

/-! ### RSASSA-PSS over SHA-512, with MGF1 and a salt of 64 bytes (R448) -/

/-- The mask of `n` bytes that MGF1 makes from a seed. -/
def mgf1 (seed : List Byte) (n : Nat) : List Byte :=
  ((List.range ((n + 63) / 64)).flatMap fun i => sha512 (seed ++ beBytes 4 i)).take n

/-- Bytes combined with a mask. -/
def xorBytes (a b : List Byte) : List Byte := (a.zip b).map fun x => x.1 ^^^ x.2

/-- Whether an encoded message of 512 bytes fits a digest (EMSA-PSS of a modulus of 4,096 bits). -/
def pssFits (digest em : List Byte) : Bool :=
  let mask := em.take 447
  let h := (em.drop 447).take 64
  let db := match xorBytes mask (mgf1 h 447) with
    | [] => []
    | b :: r => (b &&& 0x7F) :: r
  em.length == 512 && em.getLast? == some 0xBC && (mask.headD 0) &&& 0x80 == 0 &&
    db.take 383 == List.replicate 382 0 ++ [1] &&
    sha512 (List.replicate 8 0 ++ digest ++ db.drop 383) == h

/-- A power modulo a number, the exponent's bits taken from the lowest up, `n` of them. -/
def powMod : Nat → Nat → Nat → Nat → Nat
  | 0, _, _, m => 1 % m
  | n + 1, b, e, m => (if e % 2 = 1 then b else 1) * powMod n (b * b % m) (e / 2) m % m

/-- Whether a signature over a digest verifies with an RSA-4096 public key. -/
def rsaVerifies (modulus exponent signature : Nat) (digest : List Byte) : Bool :=
  decide (2 ^ 4095 ≤ modulus) && decide (modulus < 2 ^ 4096) && decide (signature < modulus) &&
    pssFits digest (beBytes 512 (powMod 4096 signature exponent modulus))

/-- Whether the signature that a firmware image carries verifies over the digest of what it signs, with the key in its
header (R448). (DESIGN CHOICE, log 6) -/
def signatureOk (image : List Byte) : Bool :=
  let k := Config.imageKey image
  rsaVerifies (Config.keyModulus k) (Config.keyExponent k) (Config.imageSignature image)
    (sha512 (Config.imageSigned image))

end Sys2Proof.Machine
end

