-- ==== Sys2Proof/Machine/Mgmt.lean ====
section
/-! DEFINITION. Bring-up and management: the registers (R452), the management service (R451), resets and boot
(R446 to R448), identity and quotes (R449, R450), and the debugger's commands (R119, R120). -/

namespace Sys2Proof.Machine

/-! ### Management registers (R437, R452) -/

/-- Bytes of the metadata array (R372). -/
def State.hbmMeta (s : State) : Nat := s.nstacks * (48 * 2 ^ 30) - s.memLimit

/-- CORE_ARRAY of a core: ICAD, and ASHAPE in the high half, at reset too, where the table of R452 gives 0 and R412 the
two registers' values (R412, R452). (DESIGN CHOICE, log 56) -/
def State.coreArray (s : State) (c : Nat) : DWord := s.ashapeReg (s.core c) ++ s.icadReg (s.core c)

/-- Read a management register; none at an offset that is not listed (R452). (DESIGN CHOICE, log 56) -/
def State.readMgmt (s : State) (o : Nat) : Option DWord :=
  let m := s.mgmt
  if o = 0x000 then some (BitVec.ofNat 64 (s.ncores + 256 * 64 + 65536 * s.nstacks))
  else if o = 0x008 then some m.astab
  else if o = 0x010 then some m.chipSp
  else if o = 0x018 then some (BitVec.ofNat 64 s.hbmMeta)
  else if o = 0x020 then some m.ctxPool
  else if o = 0x028 then some m.teamClasses
  else if o = 0x030 then some m.domain
  else if o = 0x038 then some m.members
  else if o = 0x040 then some m.routeBase
  else if o = 0x048 then some m.mbox
  else if o = 0x050 then some (m.apronCtl.setWidth 64)
  else if o = 0x058 then some (m.railCtl.setWidth 64)
  else if o = 0x060 then some (s.thermStat.setWidth 64)
  else if o = 0x068 then some m.invArgs
  else if o = 0x070 then some m.invArgsVa
  else if 0x100 ≤ o && (o - 0x100) % 8 == 0 && decide ((o - 0x100) / 8 < s.ncores) then
    some (s.coreArray ((o - 0x100) / 8))
  else none

/-- The offsets that WRITE_REG may write (R452). -/
def regWritable (o : Nat) : Bool :=
  o == 0x008 || o == 0x010 || o == 0x020 || o == 0x028 || o == 0x030 || o == 0x038 || o == 0x040 || o == 0x048 ||
    o == 0x050 || o == 0x058 || o == 0x068 || o == 0x070

/-- Whether a write is refused now (R452): the domain's registers while a slice is live, the argument pool's
while a live slice holds a block. -/
def State.regBusy (s : State) (o : Nat) : Bool :=
  ((o == 0x030 || o == 0x038 || o == 0x040) && s.slices.any Slice.live) ||
    ((o == 0x068 || o == 0x070) && s.slices.any fun l => l.live && l.argBlock.isSome)

/-- The records of the members of the domain, admitted anew (R424, R425). -/
def State.newMembers (s : State) (v : DWord) : List Member :=
  (bitsOf 64 v.getLsbD).map fun d => ⟨d, s.now, false, unreported, 0⟩

/-- A management register takes a value; reserved bits stay 0. APRON_CTL and RAIL_CTL act from the next window
(R437). (DESIGN CHOICE, log 56) -/
def State.putMgmt (s : State) (o : Nat) (v : DWord) : State :=
  let m := s.mgmt
  if o = 0x008 then { s with mgmt := { m with astab := v &&& 0x0000FFFFFFFFF000 } }
  else if o = 0x010 then { s with mgmt := { m with chipSp := v &&& 0x1F1F } }
  else if o = 0x020 then { s with mgmt := { m with ctxPool := v } }
  else if o = 0x028 then { s with mgmt := { m with teamClasses := v &&& 0xFFFE } }
  else if o = 0x030 then { s with mgmt := { m with domain := v &&& 0x3F } }
  else if o = 0x038 then
    { s with mgmt := { m with members := v }, fabric := { s.fabric with
      members := s.newMembers v
      unsent := s.fabric.unsent.filter fun (m : OutMsg) => m.dest.all v.getLsbD } }
  else if o = 0x040 then
    State.sendWaiting { s.tick with
      mgmt := { m with routeBase := v &&& 0x0000FFFFFFFFFFFF }
      fabric := { s.fabric with routes := Config.routeTable s.fresh } }
  else if o = 0x048 then { s with mgmt := { m with mbox := v &&& 0x0000FFFFFFFFFFFF } }
  else if o = 0x050 then
    { s with mgmt := { m with apronCtl := loWord v &&& 0x00FFFFFF, oldApron := s.apronCtl, apronAt := s.now } }
  else if o = 0x058 then
    { s with mgmt := { m with railCtl := loWord v &&& 0x00FFFFFF, oldRail := s.railCtl, railAt := s.now } }
  else if o = 0x068 then { s with mgmt := { m with invArgs := v &&& 0xFFFFFFFFFFFFE000 } }
  else if o = 0x070 then { s with mgmt := { m with invArgsVa := v &&& 0xFFFFFFFFFFFFE000 } }
  else s

/-- The status of a WRITE_REG (R452). CHIP_SP takes at most 16 steps a die (R370). (DESIGN CHOICE, log 56) -/
def State.writeStatus (s : State) (o : Nat) (v : DWord) : Nat :=
  if !regWritable o then 0x101
  else if s.regBusy o then 0x102
  else if o = 0x010 && (decide (16 < (v.extractLsb' 0 5).toNat) || decide (16 < (v.extractLsb' 8 5).toNat)) then 0x102
  else 0

/-! ### Resets and boot (R446 to R448) -/

/-- A device with every register at its reset value and nothing resident, its clock going on; each core's cycle
counter begins again. (DESIGN CHOICE, log 4; DESIGN CHOICE, log 57) -/
def State.blank (s : State) : State :=
  let z := State.cold s.part s.boot
  { z with
    now := s.now
    fresh := s.fresh
    nextUid := s.nextUid
    cores := z.cores.map fun (c : Core) => { c with cycBase := 2 ^ 64 - s.now % 2 ^ 64 }
    apron := { z.apron with thermal := { z.apron.thermal with adjustAt := s.now + 4096, readAt := s.now / 256 * 256 + 256 } }
    fabric := { z.fabric with nextTxn := s.fabric.nextTxn, livenessAt := s.now + 65536, reportAt := s.now + 65536 }
    agenda := s.agenda
    outbox := s.outbox
    mem := { z.mem with scrubAt := s.now } }

/-- The handle of a slice that a reset kills breaks with cause DEVICE (R446). -/
def State.breakHandle (s : State) (l : Slice) : State :=
  match l.handle with
  | none => s
  | some h =>
    match s.entryOf h with
    | none => s
    | some e => if e.st == .pending then s.complete h (.broken stDEVICE 0) else s

/-- Break the handles of slices that a reset kills. (DESIGN CHOICE, log 57) -/
def State.breakSlices (s : State) (ls : List Slice) : State :=
  (ls.foldl State.breakHandle s).drainCloak 4096

/-- Whether a firmware image passes (R448): it has its header of 1,024 bytes, its key matches the fuse, its signature
verifies, and its version is not below the counter. (DESIGN CHOICE, log 6) -/
def imagePasses (image : List Byte) : Bool :=
  decide (1024 ≤ image.length) && sha512 (Config.imageKey image) == Config.keyDigest && signatureOk image &&
    decide (Config.rollback ≤ Config.imageVersion image)

/-- The ROM enters recovery (R447): of the Ethernet ports only port 0 comes up, and no link of Seam. -/
def State.recover (s : State) : State :=
  { s with
    boot := { s.boot with on := true, recovery := true }
    fabric := { s.fabric with
      links := s.fabric.links.map fun (x : Link) => { x with up := false }
      ports := s.fabric.ports.map fun (x : Port) => { x with up := x.num == 0 } } }

/-- The registers that the firmware writes as it brings the device up. -/
def State.firmwareRegs (s : State) (image : List Byte) : State :=
  [0x008, 0x030, 0x038, 0x040].foldl (fun s o => s.putMgmt o (Config.firmwareReg image o)) s

/-- The firmware of an accepted image runs: it builds its tables, and releases the first supervisor slice in
address space 0 (R345, R447, R467). (DESIGN CHOICE, log 6) -/
def State.runFirmware (s : State) (image : List Byte) : State :=
  let s1 := { s with
    boot := { s.boot with
      on := true, recovery := false, fwDigest := sha512 image, fwVersion := Config.imageVersion image }
    mem := { s.mem with hbm := (Config.firmwareMemory image).foldl (fun m (c : Nat × Byte) => Memory.put m c.1 c.2) s.mem.hbm } }
  let s2 := s1.firmwareRegs image
  let c : DWord × Nat := Config.firmwareCode image
  let bytes := s2.codeImage codeObjUid 0 c.1.toNat c.2
  let s3 := { s2 with codes := [⟨1, c.1, c.2, 0, sha512 bytes⟩] }
  match s3.admitSlice { block := Config.firmwareLaunch image, super := true, anyAsid := true } with
  | .error _ => s3.recover
  | .ok r => r.2

/-- The ROM's sequence (R447): the fuses and the training of HBM, then slot A, or slot B if A fails; recovery where a step
fails. Each port has its MAC address (R428). (DESIGN CHOICE, log 6; DESIGN CHOICE, log 7) -/
def State.bootUp (s : State) : State :=
  let z := { s.tick with fabric := { s.fabric with
    ports := s.fabric.ports.map fun (p : Port) => { p with mac := Config.portMac p.num } } }
  if Config.bootFails s.fresh = 1 || Config.bootFails s.fresh = 2 then z.recover
  else if imagePasses z.boot.slotA then z.runFirmware z.boot.slotA
  else if imagePasses z.boot.slotB then z.runFirmware z.boot.slotB
  else z.recover

/-- A cold reset (R446): nothing is kept. -/
def State.coldReset (s : State) : State :=
  let s1 := s.breakSlices (s.slices.filter Slice.live)
  let z := s1.blank
  State.bootUp { z with boot := { z.boot with on := false, recovery := false } }

/-- A warm reset (R446, R370): HBM, slot generations and management sessions are kept, and CHIP_SP is
applied. (DESIGN CHOICE, log 57) -/
def State.warmReset (s : State) : State :=
  let s1 := s.breakSlices (s.slices.filter Slice.live)
  let z := s1.blank
  State.bootUp { z with
    boot := { z.boot with on := false, recovery := false }
    mem := { z.mem with hbm := s1.mem.hbm, poison := s1.mem.poison, comp := s1.mem.comp }
    cloak := { z.cloak with gens := s1.cloak.gens }
    sessions := s1.sessions.filter (·.mgmt)
    mgmt := { z.mgmt with chipSp := s1.mgmt.chipSp, chipSpNow := s1.mgmt.chipSp } }

/-- RESET, KIND 0 (R446): recovery does not serve it (R447). (DESIGN CHOICE, log 57) -/
def execResetCold (s : State) : Out := .next (if s.serves false then s.coldReset else s)

/-- RESET, KIND 1 (R446): recovery does not serve it (R447). (DESIGN CHOICE, log 57) -/
def execResetWarm (s : State) : Out := .next (if s.serves false then s.warmReset else s)

/-- The management port's watchdog (R446): a warm reset. -/
def execManagementWatchdog (s : State) : Out := .next s.warmReset

/-- Power-on (R446, R447): a cold reset, with the image that slot A holds.
(DESIGN CHOICE, log 7; DESIGN CHOICE, log 57) -/
def execPowerOn (slotA : List Byte) (s : State) : Out :=
  .next (State.coldReset { s with boot := { s.boot with slotA := slotA } })

/-- The slices that a partition reset kills: those with a team resident in the cluster, and those that wait in its ready
queue (R397, R446). -/
def State.inPartition (s : State) (cluster : Nat) : List Slice :=
  s.slices.filter fun l => l.live && (l.waitsAt == some cluster ||
    s.teams.any fun m => m.slice == l.num && m.onCore && s.inCluster m cluster)

/-- A partition reset (R446): the cores of one cluster, its ready queue and its resident teams are cleared; their slices are
killed. (DESIGN CHOICE, log 57) -/
def State.partitionReset (s : State) (cluster : Nat) : State :=
  let ls := s.inPartition cluster
  let gone := (s.teams.filter fun m => m.onCore && s.inCluster m cluster).map (·.uid)
  let s1 := s.breakSlices ls
  let s2 := ((ls.map (·.num)).foldl State.killSlice s1).dropOps fun o => gone.contains o.team
  { s2 with
    cores := s2.cores.map fun (c : Core) =>
      if c.clusterNo = cluster then
        { Core.reset c.num c.die c.cluster with cycBase := 2 ^ 64 - s.now % 2 ^ 64 }
      else c
    slices := s2.slices.map fun (l : Slice) => if l.waitsAt = some cluster then { l with waitsAt := none } else l
    xforms := s2.xforms.filter fun (x : Xform) => !gone.contains x.team
    xsubs := s2.xsubs.filter fun (x : XSub) => !gone.contains x.team
    updates := s2.updates.filter fun (u : EngineUpdate) => !gone.contains u.team }

/-! ### The debugger (R119, R120) -/

/-- Whether the debugger may step a group: it stands stopped, and no instruction of it is in progress. Threads that wait
alone for their own results do not move meanwhile (R119). -/
def State.maySingle (s : State) (g : Group) : Bool :=
  let l := s.slice g.slice
  (g.stopped || l.dbgStop) && g.run.isNone && g.waits.isEmpty && !s.awaiting g &&
    (s.team g.team).running && l.resident && !l.suspended

/-- The threads of a stopped group that stand in a path, in lane order. -/
def State.inPaths (s : State) (g : Group) : List Thread :=
  sortBy (fun (x y : Thread) => decide (x.lane ≤ y.lane)) ((s.groupThreads g.gid).filter
    Thread.steppable)

/-- The paths of a stopped group, in ascending order of PC (R90, R119). -/
def State.paths (s : State) (g : Group) : List (List Thread) :=
  let ts := s.inPaths g
  (sortBy (fun (x y : Nat) => decide (x ≤ y)) ((ts.map Thread.key).dedup)).map fun k => ts.filter (·.key == k)

/-- Begin to step paths of a group, in order (R119): the first begins at once. -/
def State.beginSteps (s : State) (g : Group) (ps : List (List Thread)) : State :=
  match ps.map fun p => (⟨p.map (·.uid), false, (p.headD default).inHandler⟩ : DbgStep) with
  | [] => s
  | d :: r =>
    (s.setGroup g.gid fun x => { x with
      stopped := true, stepping := { d with begun := true } :: r ++ x.stepping }).stepStart g d

/-- Step one path of a group, or every path: the paths that a test picks. -/
def State.debugStep (s : State) (slice gid : Nat) (pick : List (List Thread) → List (List Thread)) : State × Nat :=
  match s.groups.find? fun g => g.gid == gid && g.slice == slice with
  | none => (s, 0x102)
  | some g => if s.maySingle g then (s.beginSteps g (pick (s.paths g)), 0) else (s, 0x102)

/-- The path with a key (R90). -/
def pathAt (key : PathKey) (ps : List (List Thread)) : List (List Thread) :=
  (ps.filter fun p => (p.headD default).path == key).take 1

/-- The debugger lets the groups of a slice go on. (DEDUCED, log 21) -/
def State.debugResume (s : State) (n : Nat) : State :=
  let s1 := s.setThreads ((s.sliceThreads n).map (·.uid)) fun t =>
    { t with park := if t.park = .debug then .none else t.park }
  let s2 := { s1 with groups := s1.groups.map fun (g : Group) =>
    if g.slice = n then { g with stopped := false, stepping := [] } else g }
  s2.setSlice n fun l => { l with dbgStop := false }

/-! ### The management service (R384, R386, R449 to R451) -/

/-- A free CODE_ID. -/
def State.freeCodeId (s : State) : Option Nat :=
  ((List.range 4095).map (· + 1)).find? fun k => !s.codes.any (·.id == k)

/-- A free session number. -/
def State.freeSession (s : State) : Option Nat := (List.range 256).find? fun k => (s.session? k).isNone

/-- What a quote covers, in order (R450). (DESIGN CHOICE, log 56) -/
def State.quoteFields (s : State) (nonce : List Byte) : List Byte :=
  let w := fun (v : Word) => leBytes 4 v.toNat
  nonce ++ Config.romDigest ++ s.boot.fwDigest ++ leBytes 4 s.boot.fwVersion ++ w (s.devReg 0x8030) ++
    w (s.devReg 0x8031) ++ w (s.devReg 0x8032) ++ w (s.devReg 0x8033) ++
    (sortBy (fun (x y : CodeObj) => decide (x.id ≤ y.id)) s.codes).flatMap fun c =>
      leBytes 4 c.id ++ leBytes 8 c.len ++ c.digest

/-- A record of the RAS log as LOG_READ returns it. (DESIGN CHOICE, log 56) -/
def RasEvent.bytes (r : RasEvent) : List Byte :=
  leBytes 4 r.code ++ leBytes 4 r.where_ ++ leBytes 8 r.addr ++ leBytes 8 r.time

/-- A record of the refusal log as LOG_READ returns it. (DESIGN CHOICE, log 56) -/
def Refused.bytes (r : Refused) : List Byte := leBytes 4 r.slice ++ leBytes 4 r.code ++ leBytes 8 r.time

/-- A RAS counter (R384). -/
def State.rasCount (s : State) (code : Nat) : Nat := ((s.ras.find? (·.1 == code)).map (·.2)).getD 0

/-- ADMIT_CODE (R352). -/
def State.admitCode (s : State) (base : DWord) (len asid : Nat) : State × Nat × List Byte :=
  match s.freeCodeId with
  | none => (s, 0x102, [])
  | some k =>
    let d := sha512 (s.codeImage codeObjUid asid base.toNat len)
    ({ s with codes := s.codes ++ [⟨k, base, len, asid, d⟩] }, 0, leBytes 4 k)

/-- OPEN_SESSION (R451). (DEDUCED, log 55) -/
def State.openSession (s : State) (asid : Nat) (mgmt secure : Bool) : State × Nat × List Byte :=
  match s.freeSession with
  | none => (s, 0x102, [])
  | some k => ({ s with sessions := s.sessions ++ [⟨k, asid, mgmt, secure, k⟩] }, 0, leBytes 4 k)

/-- Whether a waiter is a host session's. -/
def Waiter.ofSession (n : Nat) : Waiter → Bool
  | .session k _ => k == n
  | _ => false

/-- CLOSE_SESSION (R451): what waits for the session goes with it. -/
def State.closeSession (s : State) (n : Nat) : State :=
  { s with
    sessions := s.sessions.filter (·.num != n)
    rma := s.rma.filter fun (x : Rma) => x.session != n
    hostQ := s.hostQ.filter (·.1 != n)
    cloak := { s.cloak with
      entries := s.cloak.entries.map fun (e : Entry) => { e with waiters := e.waiters.filter fun w => !w.ofSession n }
      hosts := s.cloak.hosts.filter fun x => x.2.1 != n
      admits := s.cloak.admits.filter fun x => x.2.1 != n } }

/-- A management operation: the state, the status and the payload of its reply. (DESIGN CHOICE, log 56) -/
def State.mgmtOp (s : State) : MgmtOp → State × Nat × List Byte
  | .readReg o =>
    match s.readMgmt o with
    | none => (s, 0x101, [])
    | some v => (s, 0, leBytes 8 v.toNat)
  | .writeReg o v =>
    let c := s.writeStatus o v
    (if c = 0 then s.putMgmt o v else s, c, [])
  | .admitCode base len asid => s.admitCode base len asid
  | .retireCode k =>
    if s.slices.any fun l => l.live && l.codeId == k then (s, 0x106, [])
    else if s.codes.any (·.id == k) then ({ s with codes := s.codes.filter fun (c : CodeObj) => c.id != k }, 0, [])
    else (s, 0x102, [])
  | .openSession asid mgmt secure => s.openSession asid mgmt secure
  | .closeSession n => if (s.session? n).isSome then (s.closeSession n, 0, []) else (s, 0x100, [])
  | .quote nonce =>
    if nonce.length = 64 then
      let q := s.quoteFields nonce
      (s, 0, q ++ Config.sign q)
    else (s, 0x102, [])
  | .getCert => (s, 0, Config.certificate)
  | .rasRead c => if 1 ≤ c ∧ c ≤ 0x0F then (s, 0, leBytes 4 (s.rasCount c)) else (s, 0x102, [])
  | .rasClear c =>
    if 1 ≤ c ∧ c ≤ 0x0F then ({ s with ras := s.ras.filter (·.1 != c) }, 0, []) else (s, 0x102, [])
  | .logRead k =>
    if k = 0 then (s, 0, s.rasLog.flatMap RasEvent.bytes)
    else if k = 1 then (s, 0, s.refusals.flatMap Refused.bytes)
    else (s, 0x102, [])
  | .debugStop n =>
    if (s.slice? n).isNone then (s, 0x102, [])
    else ({ s with groups := s.groups.map fun (g : Group) => if g.slice = n then { g with stopped := true } else g }, 0, [])
  | .debugStepPath n gid key =>
    let r := s.debugStep n gid (pathAt key)
    (r.1, r.2, [])
  | .debugStepAll n gid =>
    let r := s.debugStep n gid id
    (r.1, r.2, [])
  | .debugResume n => if (s.slice? n).isNone then (s, 0x102, []) else (s.debugResume n, 0, [])
  | .withdraw k =>
    match s.contract? k with
    | none => (s, 0x102, [])
    | some c =>
      (({ s with contracts := s.contracts.filter fun (x : Contract) => x.id != k }).setSlice c.slice fun l =>
        { l with heldRelease := none }, 0, [])
  | .reset kind cluster =>
    if kind = 0 then (s.coldReset, 0, [])
    else if kind = 1 then (s.warmReset, 0, [])
    else if kind = 2 ∧ cluster < 40 then (s.partitionReset cluster, 0, [])
    else (s, 0x102, [])
  | .loadFw image => ({ s with boot := { s.boot with slotB := image } }, 0, [])

/-- Whether an operation leaves nobody to answer: the reset that it was has taken the session (R446). -/
def State.unheard (s : State) (w : Requester) : MgmtOp → Bool
  | .reset .. => (match w with
    | .session h _ => (s.session? h.num).isNone
    | .mailbox _ => true)
  | _ => false

/-- Perform a management operation and answer it. (DESIGN CHOICE, log 56; DESIGN CHOICE, log 58) -/
def State.mgmtRun (s : State) (w : Requester) (op : MgmtOp) : State :=
  let r := s.mgmtOp op
  if r.1.unheard w op then r.1 else r.1.answer w 8 0 r.2.1 r.2.2

/-- The operations that recovery serves (R447). (DEDUCED, log 55) -/
def MgmtOp.inRecovery : MgmtOp → Bool
  | .readReg _ | .getCert | .loadFw _ => true
  | _ => false

/-- Whether a requester is no session of the device, with a header within its limits. -/
def State.stranger (s : State) : Requester → Bool
  | .session h _ => (s.session? h.num).isNone && fieldStatus h == 0
  | .mailbox _ => false

/-- Whether an operation opens the first management session, which no session can ask for. -/
def State.firstSession (s : State) (w : Requester) : MgmtOp → Bool
  | .openSession .. => s.boot.on && !s.boot.recovery && !s.sessions.any (·.mgmt) && s.stranger w
  | _ => false

/-- The status of a MGMT payload's own header (R451). -/
def payloadStatus : Requester → Nat
  | .session h _ => opStatus h
  | .mailbox _ => 0

/-- The bytes of other devices that an operation must read first: those of the code object that it admits (R352). -/
def State.mgmtMissing (s : State) : MgmtOp → List Gran
  | .admitCode base len asid => s.missing codeObjUid (s.hwGrans 0 asid base.toNat len)
  | _ => []

/-- The line in which a requester's messages stand. -/
def lineOfWho : Requester → Nat
  | .session h _ => h.num
  | .mailbox k => 2 ^ 32 + k

/-- The port that a MGMT message asks to run as one, two or four, and as how many (R428); recovery serves no such message
(R447). (DESIGN CHOICE, log 76) -/
def State.portAsked (s : State) : Requester → Option (Nat × Nat)
  | .session h _ =>
    match h.op with
    | some k => if s.boot.recovery || h.opLen.isSome then none else Config.portOp k.toNat
    | none => none
  | .mailbox _ => none

/-- A port's lanes run as so many ports (R428); a port or a number that there is none of is out of limits.
(DESIGN CHOICE, log 76) -/
def State.splitPort (s : State) (w : Requester) (port n : Nat) : State :=
  if decide (port < 8) && (n == 1 || n == 2 || n == 4) then
    State.answer { s with fabric := { s.fabric with
      ports := s.fabric.ports.map fun (p : Port) => if p.num = port then { p with split := n } else p } } w 8 0 0 []
  else s.answer w 8 0 0x102 []

/-- A MGMT operation whose message is in order: it is performed, or waits for the bytes of other devices that it reads. -/
def State.mgmtGo (w : Requester) (op : MgmtOp) (s : State) : State :=
  if let some x := s.portAsked w then s.splitPort w x.1 x.2
  else if payloadStatus w != 0 then s.answer w 8 0 (payloadStatus w) []
  else
    let g := s.mgmtMissing op
    if g.isEmpty then (s.mgmtRun w op).forget [codeObjUid]
    else { s.ask codeObjUid g with hostQ := (lineOfWho w, [], .mgmt w op) :: (s.ask codeObjUid g).hostQ }

/-- A MGMT message whose turn has come (R447, R451). (DEDUCED, log 55) -/
def State.doMgmt (w : Requester) (op : MgmtOp) (s : State) : State :=
  let go := State.mgmtGo w op
  if s.firstSession w op then go s else s.serve w 8 true op.inRecovery go

/-- A MGMT message in its order (R435, R451). -/
def State.mgmt_ (s : State) (w : Requester) (op : MgmtOp) : State := s.inTurn w (.mgmt w op) (State.doMgmt w op)

/-- READ_REG (R452). -/
def execReadReg (who : Requester) (offset : Nat) (s : State) : Out := .next (s.mgmt_ who (.readReg offset))

/-- WRITE_REG (R452). -/
def execWriteReg (who : Requester) (offset : Nat) (v : DWord) (s : State) : Out :=
  .next (s.mgmt_ who (.writeReg offset v))

/-- WRITE_REG of DOMAIN (R452). -/
def execWriteDomain (who : Requester) (v : DWord) (s : State) : Out := .next (s.mgmt_ who (.writeReg 0x030 v))

/-- WRITE_REG of MEMBERS (R452). -/
def execWriteMembers (who : Requester) (v : DWord) (s : State) : Out := .next (s.mgmt_ who (.writeReg 0x038 v))

/-- WRITE_REG of ROUTE_BASE (R452). -/
def execWriteRouteBase (who : Requester) (v : DWord) (s : State) : Out := .next (s.mgmt_ who (.writeReg 0x040 v))

/-- WRITE_REG of INV_ARGS (R452, R468). -/
def execWriteInvArgs (who : Requester) (v : DWord) (s : State) : Out := .next (s.mgmt_ who (.writeReg 0x068 v))

/-- WRITE_REG of INV_ARGS_VA (R452, R468). -/
def execWriteInvArgsVa (who : Requester) (v : DWord) (s : State) : Out := .next (s.mgmt_ who (.writeReg 0x070 v))

/-- ADMIT_CODE (R352). -/
def execAdmitCode (who : Requester) (base : DWord) (len asid : Nat) (s : State) : Out :=
  .next (s.mgmt_ who (.admitCode base len asid))

/-- RETIRE_CODE (R451). -/
def execRetireCode (who : Requester) (codeId : Nat) (s : State) : Out := .next (s.mgmt_ who (.retireCode codeId))

/-- OPEN_SESSION (R451). -/
def execOpenSession (who : Requester) (asid : Nat) (mgmt secure : Bool) (s : State) : Out :=
  .next (s.mgmt_ who (.openSession asid mgmt secure))

/-- CLOSE_SESSION (R451). -/
def execCloseSession (who : Requester) (session : Nat) (s : State) : Out :=
  .next (s.mgmt_ who (.closeSession session))

/-- QUOTE (R450). -/
def execQuote (who : Requester) (nonce : List Byte) (s : State) : Out := .next (s.mgmt_ who (.quote nonce))

/-- GET_CERT (R449). -/
def execGetCert (who : Requester) (s : State) : Out := .next (s.mgmt_ who .getCert)

/-- RAS_READ (R384). -/
def execRasRead (who : Requester) (code : Nat) (s : State) : Out := .next (s.mgmt_ who (.rasRead code))

/-- RAS_CLEAR (R384). -/
def execRasClear (who : Requester) (code : Nat) (s : State) : Out := .next (s.mgmt_ who (.rasClear code))

/-- LOG_READ (R384, R386). -/
def execLogRead (who : Requester) (which : Nat) (s : State) : Out := .next (s.mgmt_ who (.logRead which))

/-- DEBUG stop (R119). (DEDUCED, log 21) -/
def execDebugStop (who : Requester) (slice : Nat) (s : State) : Out := .next (s.mgmt_ who (.debugStop slice))

/-- DEBUG step path (R119). -/
def execDebugStepPath (who : Requester) (slice gid : Nat) (key : PathKey) (s : State) : Out :=
  .next (s.mgmt_ who (.debugStepPath slice gid key))

/-- DEBUG step all (R119). -/
def execDebugStepAll (who : Requester) (slice gid : Nat) (s : State) : Out :=
  .next (s.mgmt_ who (.debugStepAll slice gid))

/-- DEBUG resume (R451). -/
def execDebugResume (who : Requester) (slice : Nat) (s : State) : Out := .next (s.mgmt_ who (.debugResume slice))

/-- CONTRACT_WITHDRAW (R393). (DESIGN CHOICE, log 58) -/
def execContractWithdraw (who : Requester) (contract : Nat) (s : State) : Out :=
  .next (s.mgmt_ who (.withdraw contract))

/-- RESET by a requester (R446, R451): KIND 2 of a cluster, or KIND 0 or 1 of the whole device. (DESIGN CHOICE, log 57) -/
def execResetPartition (r : ResetReq) (s : State) : Out := .next (s.mgmt_ r.who (.reset r.kind r.cluster))

/-- LOAD_FW (R448). -/
def execLoadFw (who : Requester) (image : List Byte) (s : State) : Out := .next (s.mgmt_ who (.loadFw image))

/-! ### Messages that waited (R435) -/

/-- Perform a message of a session whose turn has come. -/
def State.hostRun (s : State) : HostMsg → State
  | .invoke n r d l a => s.doInvoke n r d l a
  | .invh n r u d l a => s.doInvh n r u d l a
  | .notify n r h => s.doNotify n r h
  | .frel n r h => s.doFrel n r h
  | .contract w d l => s.doContract w d l
  | .mgmt w op => s.doMgmt w op

/-- Whether a message that waits may be performed: it is its session's first, the RMA accesses sent before it are performed
(R435), and what it reads of other devices is there. -/
def State.hostReady (s : State) (x : Nat × List Nat × HostMsg) : Bool :=
  s.hostQ.find? (·.1 == x.1) == some x && (!s.rma.any fun r => x.2.1.contains r.id) &&
    (match x.2.2 with
     | .mgmt _ op => (s.mgmtMissing op).isEmpty
     | _ => true)

/-- The first message of each session is performed once the RMA accesses that the session sent before it are (R435). -/
def State.meetHosts (s : State) : State :=
  match s.hostQ.find? s.hostReady with
  | none => s
  | some x => State.hostRun { s with hostQ := s.hostQ.erase x } x.2.2

end Sys2Proof.Machine
end

