-- ==== Sys2Proof/Machine/MemEvents.lean ====
section
/-! DEFINITION. What the memories do of their own accord: write-backs (R181, R368), ownership (R371), HBM lines
(R372, R373), the scrubber, and errors (R381 to R384). -/

namespace Sys2Proof.Machine

/-! ### Lines (R181, R368, R371, R373) -/

/-- DIRTY_LINE_WRITE_BACK (R368): a line in the core's FIFO, or some of its stores. (DESIGN CHOICE, log 68) -/
def execDirtyLineWriteBack (core line : Nat) (s : State) : Out :=
  if (s.core core).l1.fifo.any (·.1 == line) then .next (s.writeSome core line) else .next s

/-- Whether a dirty line has reached the age limit (R181). -/
def State.lineAged (s : State) (core line : Nat) : Bool :=
  (s.core core).l1.fifo.any fun x => x.1 == line && decide (x.2 + 32768 ≤ s.now)

/-- L1_AGE_LIMIT (R181). -/
def execL1AgeLimit (core line : Nat) (s : State) : Out :=
  if s.lineAged core line then .next (s.writeBack core line) else .next s

/-- OWNERSHIP_GRANT (R371): a line that a die has asked for. -/
def execOwnershipGrant (die line : Nat) (s : State) : Out :=
  if (s.mem.die die).requests.any (·.1 == line) then .next (s.grantLine die line) else .next s

/-- HBM_WRITE_BACK (R373); none while HBM is in self-refresh. -/
def execHbmWriteBack (line : Nat) (s : State) : Out :=
  if s.mem.selfRefresh then .next s else .next (s.leaveL2 line)

/-! ### Errors (R381 to R384) -/

/-- Count an uncorrectable event and log it: the last 64 (R384). -/
def State.rasEvent (s : State) (code where_ addr : Nat) : State :=
  let s1 := s.rasAdd code 1
  { s1 with rasLog := (s1.rasLog ++ [RasEvent.mk code where_ addr s.now]).drop (s1.rasLog.length + 1 - 64) }

/-- Whether a register of a thread holds physical storage (R18, R116): a live g register, a k register, or a
predicate. -/
def Thread.holds (t : Thread) (sub : Nat) : Bool :=
  t.live && ((1 ≤ sub && sub < 120 && t.regs.any (·.1 == sub)) || (120 ≤ sub && sub < 128) ||
    (0x81 ≤ sub && sub ≤ 0xAF))

/-- Whether the L2s hold a whole granule, so that HBM's copy of it is not read. -/
def Mem.granuleInL2 (m : Mem) (g : Nat) : Bool := (List.range 32).all fun i => (m.l2.get? (32 * g + i)).isSome

/-- Poison a granule of memory. -/
def State.poisonGranule (s : State) (g : Nat) : State :=
  { s with mem := { s.mem with poison := (s.mem.poison ++ [g]).dedup } }

/-- Break a Cloakroom entry with cause DEVICE; the slice that it stands for is killed. -/
def State.loseEntry (s : State) (e : Entry) : State :=
  let s1 := (s.complete e.handle (.broken stDEVICE 0)).drainCloak 4096
  match e.slice with
  | none => s1
  | some n => s1.killSlice n

/-- The stack that holds a physical address, by its number among those that remain in %stackmask (R6, R384).
(DESIGN CHOICE, log 81) -/
def State.stackOf (s : State) (pa : Nat) : Nat := (bitsOf 8 s.part.stackmask.getLsbD).getD (pa / 512 % s.nstacks) 0

/-- Log an event of storage that has no physical address: the record's address is a free value (R384).
(DESIGN CHOICE, log 76) -/
def State.rasNowhere (s : State) (code where_ : Nat) : State := s.tick.rasEvent code where_ (Config.freeDWord s.fresh).toNat

/-- Log an event of storage of the I/O die or a die, which is no core's and no stack's: both fields are free values (R384).
(DESIGN CHOICE, log 76) -/
def State.rasUnplaced (s : State) (code : Nat) : State := s.tick.rasNowhere code (Config.freeWord s.fresh).toNat

/-- The core of a team whose scratchpad holds a byte: of a pair team's, each core holds SCRATCH_BYTES (R12, R33).
(DEDUCED, log 59) -/
def Team.scratchCore (m : Team) (bytes off : Nat) : Nat :=
  m.cores.getD (if off < bytes then 0 else 1) (m.cores.headD 0)

/-- What an uncorrectable error does (R116, R381). (DEDUCED, log 59) -/
def State.strike (s : State) : ErrLoc → State
  | .reg u sub =>
    if (s.thread u).holds sub && s.threads.any (·.uid == u) then
      (s.setThread u fun t => { t with poison := (t.poison ++ [sub]).dedup }).rasEvent 0x02 (s.thread u).core sub
    else s
  | .l1Clean c g =>
    let line := g / 4
    if (s.core c).l1.lines.any (·.line == line) && !(s.core c).l1.fifo.any (·.1 == line) then
      (s.dropLine c line).rasAdd 0x04 1
    else s
  | .l1Dirty c g =>
    if (s.core c).l1.fifo.any (·.1 == g / 4) then
      (s.setCore c fun x => { x with l1 := { x.l1 with
        poison := (g, BitVec.allOnes 32) :: x.l1.poison.filter (·.1 != g) } }).rasEvent 0x08 c (32 * g)
    else s
  | .scratch m g =>
    if s.teams.any fun x => x.uid == m && x.onCore then
      (s.setTeam m fun x => { x with scratchPoison := (x.scratchPoison ++ [g]).dedup }).rasNowhere 0x06
        ((s.team m).scratchCore (s.slice (s.team m).slice).launch.scratchBytes (32 * g))
    else s
  | .chip n g =>
    if (s.slice n).chipDie.isSome then
      (s.setSlice n fun x => { x with chipPoison := (x.chipPoison ++ [g]).dedup }).rasUnplaced 0x06
    else s
  | .l2 g => (s.poisonGranule g).rasEvent 0x08 (s.stackOf (32 * g)) (32 * g)
  | .hbm g => (if s.mem.granuleInL2 g then s else s.poisonGranule g).rasEvent 0x0A (s.stackOf (32 * g)) (32 * g)
  | .tile m h e =>
    if (s.team m).onCore && (s.team m).tiles.any (·.1 == h) then
      (s.setTeam m fun x => { x with tiles := x.tiles.map fun (y : Nat × Tile) =>
        if y.1 = h then (y.1, { y.2 with poison := (y.2.poison ++ [e]).dedup }) else y }).rasNowhere 0x0C
        ((s.team m).homeCore h)
    else s
  | .tlb c i =>
    if i < (s.core c).tlb.length then (s.setCore c fun x => { x with tlb := x.tlb.eraseIdx i }).rasAdd 0x0D 1 else s
  | .walker i => if i < s.walkers.length then State.rasAdd { s with walkers := s.walkers.eraseIdx i } 0x0D 1 else s
  | .cloak k =>
    match s.cloak.entries.find? (·.slot == k) with
    | none => s
    | some e => (s.loseEntry e).rasUnplaced 0x0F
  | .queue n q =>
    if (s.slice n).live && (s.slice? n).isSome then
      ((s.setQueue n q fun x => { x with entries := [] }).killSlice n).rasUnplaced 0x0F
    else s
  | .pocket n k =>
    if s.pockets.any fun p => p.slice == n && p.id == k then
      (State.killSlice { s with pockets := s.pockets.filter fun (p : PocketSet) => !(p.slice == n && p.id == k) }
        n).rasUnplaced 0x0F
    else s

/-- UNCORRECTABLE_ERROR (R381). (DEDUCED, log 59) -/
def execUncorrectableError (loc : ErrLoc) (s : State) : Out := .next (s.strike loc)

/-- What a corrected error does (R381): it is counted; a clean line or a TLB entry is dropped. (DEDUCED, log 59) -/
def State.corrected (s : State) : ErrLoc → State
  | .reg .. => s.rasAdd 0x01 1
  | .l1Clean c g => s.strike (.l1Clean c g)
  | .l1Dirty .. => s.rasAdd 0x04 1
  | .scratch .. | .chip .. => s.rasAdd 0x05 1
  | .l2 _ => s.rasAdd 0x07 1
  | .hbm _ => s.rasAdd 0x09 1
  | .tile .. => s.rasAdd 0x0B 1
  | .tlb c i => s.strike (.tlb c i)
  | .walker i => s.strike (.walker i)
  | .cloak _ | .queue .. | .pocket .. => s

/-- The scrubber reads a line of HBM: it counts what it corrects, which no thread sees, and marks what it cannot (R383).
What it finds is free. (DESIGN CHOICE, log 76) -/
def State.scrub (s : State) (line : Nat) : State :=
  let k := Config.scrubFinds line s.now
  if s.mem.selfRefresh then s
  else if k = 1 then s.rasAdd 0x09 1
  else if 2 ≤ k ∧ k ≤ 5 then s.strike (.hbm (4 * line + k - 2))
  else s

/-- SCRUB (R383). (DESIGN CHOICE, log 76) -/
def execScrub (line : Nat) (s : State) : Out := .next (s.scrub line)

/-- The main cycles between two lines of the scrubber, which reads every line once in 24 hours (R1, R383, R435). -/
def State.scrubPeriod (s : State) : Nat := 24 * 3600 * 1900000000 / (s.memLimit / 128)

/-- The scrubber goes on to its next line, ascending. (DESIGN CHOICE, log 76) -/
def State.scrubNext (s : State) : State :=
  { s with mem := { s.mem with scrubLine := (s.mem.scrubLine + 1) % (s.memLimit / 128), scrubAt := s.now } }

/-- CORRECTED_ERROR (R381). (DEDUCED, log 59) -/
def execCorrectedError (loc : ErrLoc) (s : State) : Out := .next (s.corrected loc)

end Sys2Proof.Machine
end

