-- ==== Sys2Proof/Machine/Settle.lean ====
section
/-! DEFINITION. The course of the machine: what follows from a step at once, the timers that run out, the work
that the device's units do beside the groups, and the fetch of the next word (R46, R64, R98, R346). -/

namespace Sys2Proof.Machine

/-- The state that a meaning answers. -/
def took (o : Out) (s : State) : State :=
  match o with
  | .next t => t
  | _ => s

/-! ### What follows from a step -/

/-- What a group's threads wait for ends, and the faults due at its run boundary are delivered. -/
def State.settleGroup (s : State) (gid : Nat) : State :=
  let s1 := s.gatherRelease (s.group gid)
  let s2 := s1.waitRelease (s1.group gid)
  let s3 := s2.boundaryFaults (s2.group gid)
  let s4 := s3.stepEnd (s3.group gid)
  let s5 := s4.joinRelease (s4.group gid)
  s5.budgetFaults (s5.group gid)

/-- The barrier phase of a team. -/
def State.settleTeam (s : State) (team : Nat) : State := s.barRelease (s.team team)

/-- Watches on counters that are no levels are evaluated as their counters change (R358). -/
def State.settleWatches (s : State) : State :=
  (s.watches.filter fun w => !levelCounter w.counter).foldl (fun s w => s.evalWatch w.id) s

/-- The engines and the front end take up what waits for them; messages that need wait no longer leave. -/
def State.settleUnits (s : State) : State :=
  let s0 := s.sendWaiting
  let s1 := s0.colls.foldl State.collRead s0
  let s2 := if s1.xsubs.isEmpty then s1 else s1.tryXsubs
  let s3 := (s2.watches.filter (·.due.isSome)).foldl (fun s w => s.tryWatch w.id) s2
  let s4 := (s3.drainCloak 4096).giveBlocks
  ((((s4.meetThermal.meetArray).meetRails).recallPolls.meetRemote.meetRma).meetHosts).trimL2

/-- What follows at once from a step. -/
def State.settle (s : State) : State :=
  let s1 := s.settleUnits
  let s2 := (s1.groups.map (·.gid)).foldl State.settleGroup s1
  let s3 := (s2.teams.map (·.uid)).foldl State.settleTeam s2
  s3.meetSlices.meetQueues.settleWatches.regroupAll

/-- Groups held at an instruction try it again: they have not been able to issue until now. One that a stop has taken
there does not (R222). -/
def State.retry (s : State) (but : Option Nat) : State :=
  { s with groups := s.groups.map fun (g : Group) =>
      if some g.gid = but || !g.held || s.stopsIn g then g else { g with held := false, ableAt := s.now } }

/-- After an event. -/
def State.afterEvent (s : State) : State := (s.retry none).settle

/-- After an instruction word of a group: unless the group is held, the others that are try again, and the cycle is
over when no other instruction can issue in it. (DEDUCED, log 10) -/
def State.afterWord (s : State) (gid : Nat) (i : Instr) : State :=
  let s1 := s.stepIssued gid i
  let s2 := if (s1.group gid).held then s1 else s1.retry (some gid)
  (if s2.pick.isSome then s2 else s2.cycle).settle

/-! ### Timers -/

/-- Lines whose stores have reached the age limit, and ownership that has been asked for long enough (R181,
R371). (DESIGN CHOICE, log 9) -/
def State.dueLine (s : State) : Option State :=
  match s.cores.findSome? fun c => (c.l1.fifo.find? fun x => x.2 + 32768 ≤ s.now).map fun x => (c.num, x.1) with
  | some x => some (took (execL1AgeLimit x.1 x.2 s) s)
  | none =>
    match [0, 1].findSome? fun d => ((s.mem.die d).requests.find? fun r => r.2 + 4096 ≤ s.now).map fun r => (d, r.1) with
    | some x => some (took (execOwnershipGrant x.1 x.2 s) s)
    | none => none

/-- Whether a pending result is a poll whose hold is over. -/
def Pending.expired (p : Pending) (now : Nat) : Bool :=
  match p.kind with
  | .poll _ _ x _ => decide (x ≤ now)
  | _ => false

/-- Polling loads whose hold is over (R161). (DEDUCED, log 50) -/
def State.duePoll (s : State) : Option State :=
  match s.threads.findSome? fun t =>
      if (s.team t.team).onCore then (t.pend.find? fun p => p.expired s.now).map fun p => (t.uid, p.id) else none with
  | none => none
  | some x => some (took (execLdpollTimeout x.1 x.2 s) s)

/-- Budgets, allowances, deadlines, windows and contract releases (R59, R392, R394). -/
def State.dueSlice (s : State) : Option State :=
  match s.slices.find? fun l => l.overBudget || (l.inJob && l.allowance == some 0) || l.missed s.now ||
      dueAt l.window s.now with
  | some l =>
    some (if l.overBudget then took (execBudgetExhausted l.num s) s
      else if l.missed s.now then took (execDeadlineMiss l.num s) s
      else if dueAt l.window s.now then took (execDeferralWindowExpiry l.num s) s
      else took (execAllowanceExpiry l.num s) s)
  | none =>
    match s.contracts.find? fun k => k.dueAt ≤ s.now with
    | some k => some (took (execContractRelease k.id s) s)
    | none => none

/-- Phases and the Apron (R263, R438). -/
def State.duePhase (s : State) : Option State :=
  match s.decision with
  | some d => some (took (execApronAnnouncement d.1.team s) s)
  | none =>
    match s.teams.find? fun m => m.phase.isSome && (s.grantDue m.uid).isSome with
    | some m => some (took (execPhaseGrant m.uid s) s)
    | none =>
      match s.teams.find? fun m => m.phase.any fun p => p.late s.now with
      | some m => some (took (execPhaseOnset m.uid s) s)
      | none =>
        match s.teams.find? fun m => m.phase.any fun p => p.idle s.now with
        | some m => some (took (execPhaseIdleExpiry m.uid s) s)
        | none => none

/-- Rails (R440). -/
def State.dueRail (s : State) : Option State :=
  match s.apron.rails.find? fun r => dueAt r.upAt s.now || dueAt r.holdUntil s.now || dueAt r.downAt s.now with
  | none => none
  | some r =>
    let t := s.railTarget r.cluster r.band
    if dueAt r.upAt s.now && decide (r.level < t) then some (took (execRailStepUp r.cluster r.band s) s)
    else if dueAt r.holdUntil s.now && decide (t < r.level) then some (took (execRailHoldExpiry r.cluster r.band s) s)
    else if dueAt r.downAt s.now && decide (t < r.level) then some (took (execRailStepDown r.cluster r.band s) s)
    else none

/-- The cadence of the arrays and their bands (R413, R439), the sensors and KTHERM (R442): a sensor shows what it showed
last until the world changes it. (DESIGN CHOICE, log 53) -/
def State.dueArray (s : State) : Option State :=
  let h := s.apron.thermal
  if h.readAt ≤ s.now then some (took (execSensorRead (h.temp.getD 0 0) (h.temp.getD 1 0) s) s)
  else if h.adjustAt ≤ s.now then some (took (execKthermAdjust s) s)
  else if s.ops.isEmpty && s.cores.all fun c => c.gated == 0xF && c.icad == s.kthermOf c then none
  else
    match s.cores.find? fun c => c.icad != s.icadFor c with
    | some c => some (took (execCadenceUpdate c.num s) s)
    | none =>
      match s.cores.findSome? fun c => ([0, 1, 2, 3].find? (s.gateDue c)).map fun b => (c.num, b) with
      | some x => some (took (execBandGating x.1 x.2 s) s)
      | none =>
        match s.cores.findSome? fun c => (c.bandWake.find? fun x => x.2 + 128 ≤ s.now).map fun x => (c.num, x.1) with
        | some x => some (took (execBandPowerUp x.1 x.2 s) s)
        | none => none

/-- Watches on levels (R358), the decoder's watchdog (R296), and the members of collectives (R307). -/
def State.dueUnit (s : State) : Option State :=
  match s.watches.find? fun w => levelCounter w.counter && decide (w.nextAt ≤ s.now) with
  | some w => some (took (execWatchEvaluation w.id s) s)
  | none =>
    match s.xforms.find? fun x => x.late s.now && (s.atWork x.tag).isSome with
    | some x => some (took (execDecoderWatchdog x.tag s) s)
    | none =>
      match s.colls.find? fun c =>
          decide (((s.collIn.filter (·.tag == c.tag)).map (·.at_)).foldl min c.issuedAt + 2 ^ 32 ≤ s.now) &&
            !c.written && c.devs.any fun d => d != s.devid && (s.collFrom c.tag d).isNone with
      | some c => some (took (execCollectiveMemberTimeout c.tag s) s)
      | none => none

/-- What the device sends its peers from time to time, and the members it declares failed (R388, R425). -/
def State.dueFabric (s : State) : Option State :=
  if s.fabric.livenessAt ≤ s.now then some (took (execLivenessFlit none s) s)
  else if s.fabric.reportAt ≤ s.now then some (took (execPlacementReport none 0 0 s) s)
  else
    match s.fabric.members.find? fun m => s.aliveMember m.dev && s.silent m.dev with
    | some m => some (took (execMemberFailureDeclared m.dev s) s)
    | none => none

/-- Whether the oldest active group of a core is to make room (R408). -/
def State.rotates (s : State) (core : Nat) : Bool :=
  match s.pendingReady core,
      sortBy (fun (x y : Group) => decide (x.enteredAt ≤ y.enteredAt)) (s.activeOn core) with
  | p :: _, g :: _ => decide (p.readyAt + p.skipped + 1024 ≤ s.now) && (s.entrant core).isNone && !g.yieldEnd
  | _, _ => false

/-- The scrubber's next line (R383). (DESIGN CHOICE, log 76) -/
def State.dueScrub (s : State) : Option State :=
  if s.mem.scrubAt + s.scrubPeriod ≤ s.now then some (took (execScrub s.mem.scrubLine s) s).scrubNext else none

/-- Groups that have waited long (R408). -/
def State.dueGroup (s : State) : Option State :=
  match s.busyCores.find? s.rotates with
  | none => none
  | some c => some (took (execAgeingRotation c s) s)

/-- The first of some alternatives that applies. -/
def firstOf (s : State) : List (State → Option State) → Option State
  | [] => none
  | f :: r =>
    match f s with
    | some t => some t
    | none => firstOf s r

/-- The timer that runs out first in the order taken here, if one has.
(DESIGN CHOICE, log 8; DESIGN CHOICE, log 9) -/
def State.due (s : State) : Option State :=
  firstOf s [State.dueSlice, State.dueLine, State.duePoll, State.duePhase, State.dueRail, State.dueArray,
    State.dueUnit, State.dueFabric, State.dueScrub, State.dueGroup]

/-! ### Work beside the groups -/

/-- A computed result returns, some of its destinations perhaps ahead of the others (R48, R50). (DEDUCED, log 67) -/
def State.workResult (s : State) : Option State :=
  match s.threads.findSome? fun t =>
      if (s.team t.team).onCore then (t.pend.find? (·.computed s.now)).map fun p => (t, p) else none with
  | none => none
  | some (t, p) =>
    let ds := p.ahead s.now
    if ds.isEmpty || ds.length = p.dests.length then some (took (execResultReturn t.uid p.id s) s)
    else some (s.setThread t.uid fun x => x.landEarly p ds s.now)

/-- A tile operation ends, or the next one starts in an array, or a band is powered (R221, R413, R414). -/
def State.workTile (s : State) : Option State :=
  if s.ops.isEmpty then none
  else
    match s.ops.find? s.canComplete with
    | some o => some (took (execTileOperationComplete o.id s) s)
    | none =>
      match ((s.ops.map (·.core)).dedup).find? fun c => (s.nextArrayOp c).isSome with
      | some c => some (took (execArrayOperationStart c s) s)
      | none =>
        match s.cores.findSome? fun c => (c.bandWake.head?).map fun x => (c.num, x.1) with
        | some x => some (took (execBandPowerUp x.1 x.2 s) s)
        | none => none

/-- Whether a transform at work has a step to take: it waits for no page and for no other device. -/
def State.xformGoes (s : State) (x : Xform) : Bool :=
  (s.atWork x.tag).isSome && x.page.isNone && !s.asking (engineUid x.tag) &&
    !(x.done && s.remoteStores (engineUid x.tag))

/-- Whether a collective may end here. -/
def State.collGoes (s : State) (c : Coll) : Bool :=
  c.page.isNone && !s.mem.selfRefresh && !s.remoteStores (collUid c.tag) &&
    (c.written || c.status != 0 || (c.mine.isSome && (c.devs.filter (· != s.devid)).all fun d => (s.collFrom c.tag d).isSome))

/-- The engines go on (R292, R305). -/
def State.workEngine (s : State) : Option State :=
  match s.xforms.find? s.xformGoes with
  | some x => some (if x.done then took (execTransformEnd x.tag s) s else took (execTransformChunk x.tag s) s)
  | none =>
    match s.colls.find? s.collGoes with
    | some c => some (took (execCollectiveComplete c.tag s) s)
    | none => none

/-- What a waiting slice does now, if anything: it is placed, restored or loaded, or room is made for it. -/
def State.workSlice (s : State) (l : Slice) : Option State :=
  if !l.placed then s.place? l.num
  else if s.isOut l then s.restore? l.num
  else (s.loadOf l).bind fun c => s.ctxLoad? c.id

/-- A waiting slice goes on, in the order of R397 (R363, R399, R404): one that fits in what is free does so at once, and
the head of a queue makes room (R400). -/
def State.workWaiting (s : State) : Option State := s.waitingSlices.findSome? s.workSlice

/-- Slices saved by the critical sequence come back, in the order of R397 (R444). -/
def State.workThermal (s : State) : Option State :=
  if s.apron.thermal.state = 4 then s.apron.thermal.saved.findSome? s.restore? else none

/-- Saves and resumes (R362, R402, R403). -/
def State.workSaves (s : State) : Option State :=
  match s.slices.find? fun l => !(s.poolSaves l.num).isEmpty && (s.poolSaves l.num).all s.atRest && s.saveTurn l.num with
  | some l => some (took (execSaveComplete l.num s) s)
  | none =>
    match s.ctxAreas.find? s.ctxSaveReady with
    | some c => some (took (execContextSaveComplete c.id s) s)
    | none =>
      match s.slices.find? s.mayResume with
      | some l => some (took (execSuspendResume l.num s) s)
      | none => none

/-- Whether a team's threads have all arrived at a REGROUP (R212). -/
def State.regroupGoes (s : State) (m : Team) : Bool :=
  let ts := s.teamThreads m.uid
  !ts.isEmpty && (ts.all fun t => t.arrivedAt.isSome) && m.at_ == .resident &&
    !(s.groups.any fun g => g.team == m.uid && g.run.isSome)

/-- The Teasel (R212). (DESIGN CHOICE, log 9) -/
def State.workGroups (s : State) : Option State :=
  match s.teams.find? s.regroupGoes with
  | some m => some (took (execRegroupOperation m.uid s) s)
  | none => none

/-- What a unit beside the groups does next, if anything. (DESIGN CHOICE, log 8; DESIGN CHOICE, log 9) -/
def State.background (s : State) : Option State :=
  firstOf s [State.workResult, State.workTile, State.workEngine, State.workGroups, State.workSaves,
    State.workThermal, State.workWaiting]

/-- The group that stands first starts a run, ahead of the order when it is starved (R409). -/
def State.startNext (s : State) : Option State :=
  match s.pick with
  | none => none
  | some g =>
    if g.run.isSome then none
    else if s.isStarved g then some (took (execIssueStarvation g.gid s) s)
    else some (took (execRunStart g.gid s) s)

/-! ### The next word (R46, R64, R98) -/

/-- The word at a thread's PC with the translation used, or the fault of its fetch (R98, R377, R380). -/
def State.fetch (s : State) (t : Thread) : Except FaultInfo (Word × Acc) :=
  let sl := s.slice t.slice
  let va := sl.codeBase + t.pc.setWidth 64
  if t.pc = 0xFFFFFFFC then .error (landingFault 0x02 va)
  else
    match s.checkVa t.core sl.asid va.toNat .fetch t.needU va with
    | .error f => .error f
    | .ok c =>
      match c.place with
      | .phys a => .ok (BitVec.ofNat 32 (leNat (s.codeBytes t.core a)), c)
      | p =>
        if (p.grans 4).any (s.granFailed (codeUid t.gid)) then .error (accessFault 0x23 va)
        else .ok (BitVec.ofNat 32 (leNat (s.readAny (codeUid t.gid) t.core p 4 true)), c)

/-- The granules of other devices that the rest of a thread's run may lie in (R380): a run spans two pages at most. -/
def State.runGrans (s : State) (t : Thread) : List Gran :=
  let n := 24 - t.pos
  if (s.codeGrans t t.pc 1).isEmpty && (s.codeGrans t (t.pc + BitVec.ofNat 32 (4 * (n - 1))) 1).isEmpty then []
  else s.codeGrans t t.pc n

/-- A line of code that is fetched here enters the core's instruction cache (R367). -/
def State.fetched (s : State) (core : Nat) (c : Acc) : State :=
  match c.place with
  | .phys a => (s.holdAcc core c).fillCode core (lineOf a)
  | _ => s.holdAcc core c

/-- The fetch of the issue set's word faults (R98). -/
def State.fetchFaults (s : State) (g : Group) (ts : List Thread) (f : FaultInfo) : State :=
  State.finishIssue (.nop false) g ts ⟨s, ts.map fun t => (t.uid, f)⟩

/-- The fault of a word that is no instruction, in a thread: Privilege alone where R346 gives it (R65), and the lower
subcode where the run is also too long (R44). (DEDUCED, log 60) -/
def badWordFault (w : Word) (x : Ill) (t : Thread) : FaultInfo :=
  let op := opcodeOf w
  if x != .opcode &&
      (((op == 0xE1 || op == 0xE3 || op == 0xE4 || op == 0xE5 || op == 0xE7) && t.unprivileged) ||
        (op == 0xE2 && t.mode == .user)) then privFault
  else if x == .trailer && decide (23 ≤ t.pos) then ill .runLength
  else if x == .variant && op == 0xB8 && w.extractLsb' 2 7 != 0 && !(t.hints.hmod.getD 0).getLsbD 16 then ill .reserved
  else ill x

/-- What stands for a word that is no instruction where it issues: it is a hint word or not, and it keeps its guard. -/
def standIn (w : Word) : Instr := if hintOpcode (opcodeOf w) then .nop (sBit w) else .mov (sBit w) 0 0

/-- A word that is no instruction raises Illegal Instruction in the threads that are not guarded off (R58,
R65); an HSCH whose target it is acts unless every thread faults (R59). (DEDUCED, log 60) -/
def State.badWord (s : State) (g : Group) (ts : List Thread) (w : Word) (x : Ill) : State :=
  let hint := hintOpcode (opcodeOf w)
  let i := standIn w
  let fs := ts.filterMap fun t =>
    if hint then some (t.uid, badWordFault w x t)
    else
      match t.guard i with
      | .on => some (t.uid, badWordFault w x t)
      | .off => none
      | .bad n => some (t.uid, poisonFault n)
  State.finishIssue i g ts ⟨s.hschAll i g ts fs [], fs⟩

/-- The instruction that a word is to be executed as: a word that parses but fails a check is left to the checks
of its issue (R65, R346). (DEDUCED, log 60) -/
def readWord (v : Nat) (w : Word) : Except Ill Instr :=
  if assigned v (opcodeOf w) then parse v w else .error .opcode

/-! ### The next step -/

/-- What the machine does next: a happening of the agenda, an instruction word of a group, or a step of its
own. -/
inductive Turn where
  | event (i : Instr) (s : State)
  | word (gid : Nat) (i : Instr) (s : State)
  | own (s : State)
  deriving DecidableEq, Repr

/-- Whether an instruction is no word but a happening. -/
def Instr.isEvent (i : Instr) : Bool := (encode i).isNone

/-- Whether a happening needs the links of Seam: what comes from another device, and the training of a link. -/
def Instr.overSeam : Instr → Bool
  | .cloakroomInvoke .. | .cloakroomInvh .. | .cloakroomFgetWaiter .. | .cloakroomFput .. | .cloakroomFbreak .. |
    .cloakroomFrel .. | .valueReply .. | .brokenReply .. | .routeUpdate .. | .acknowledgement .. | .linkRetrained _ |
    .remoteAccessRequest .. | .remoteAccessReply .. | .livenessFlit (some _) | .failureReport _ |
    .placementReport (some _) .. | .collectiveControlMessage .. => true
  | _ => false

/-- The first happening of the agenda that is due, taken from it; in recovery no link of Seam is up, and what would come
over one waits (R447). (DESIGN CHOICE, log 8) -/
def State.nextAgenda (s : State) : Option (Instr × State) :=
  match s.agenda.find? fun x => x.1 ≤ s.now && Instr.isEvent x.2 && !(s.boot.recovery && Instr.overSeam x.2) with
  | none => none
  | some x => some (x.2, { s with agenda := s.agenda.erase x })

/-- A cycle passes with nothing done. -/
def State.idleCycle (s : State) : State := s.cycle.afterEvent

/-- With no group in the midst of a run: one starts, or a unit goes on, or time passes. -/
def State.quietTurn (s : State) : State :=
  match s.startNext with
  | some t => t
  | none =>
    match s.background with
    | some t => t.afterEvent
    | none => s.idleCycle

/-- The next word of the group that issues. -/
def State.wordTurn (s : State) : Turn :=
  match s.issuing with
  | none => .own s.quietTurn
  | some (g, ts) =>
    let t := ts.headD default
    let far := s.runGrans t
    if !(s.missing (codeUid g.gid) far).isEmpty then
      .own (((s.ask (codeUid g.gid) far).holdGroup g.gid s.fabric.nextTxn).afterWord g.gid (.nop false))
    else match s.fetch t with
    | .error f => .own ((s.fetchFaults g ts f).afterWord g.gid (.nop false))
    | .ok x =>
      let s1 := s.fetched t.core x.2
      match readWord (s.slice t.slice).launch.version x.1 with
      | .ok i => .word g.gid i s1
      | .error e => .own ((s1.badWord g ts x.1 e).afterWord g.gid (standIn x.1))

/-- What the machine does next when no timer has run out. -/
def State.runTurn (s : State) : Turn :=
  if s.slotFree then .own s.quietTurn else s.wordTurn

/-- What the machine does next. Units beside the groups get their turn every 16 cycles.
(DESIGN CHOICE, log 8; DESIGN CHOICE, log 9) -/
def State.turn (s : State) : Turn :=
  match s.nextAgenda with
  | some x => .event x.1 x.2
  | none =>
    match s.due with
    | some t => .own t.afterEvent
    | none =>
      if s.now % 16 = 15 then
        match s.background with
        | some t => .own t.afterEvent
        | none => s.runTurn
      else s.runTurn

/-! ### A program's first word -/

/-- The launch block of the slice that `State.placeWord` makes: version 3, one group of 16 lanes, every class.
(DESIGN CHOICE, log 7) -/
def soloLaunch : Launch :=
  { (default : Launch) with
    version := 3
    groupsPerTeam := 1
    roles := [⟨0, 0, 0, 0⟩, ⟨0, 1, 4, 119⟩, ⟨0, 0, 0, 0⟩]
    scratchBytes := 65536
    poolPanels := 16
    tileWindow := 64
    queueDepth := [2, 2, 2, 2]
    pclass := 0x1FF
    trapVector := 0xFFFFFFFF
    handlerStack := 128
    privateBytes := 4096
    callStackBytes := 256 }

/-- A supervisor slice whose code object begins at VA 0 of address space 0. (DESIGN CHOICE, log 7) -/
def soloSlice (n : Nat) : Slice :=
  { (default : Slice) with
    num := n, launch := soloLaunch, codeLen := 65536, codeId := 1, super := true, placed := true, resident := true,
    jobOpen := true, queues := soloLaunch.queueDepth.map RoleQueue.start }

/-- Its one team, group and thread, at the code's first word, with the run that issues. (DESIGN CHOICE, log 7) -/
def State.solo (s : State) (n : Nat) : State :=
  let u := s.nextUid
  let l := soloSlice n
  let m : Team :=
    { (default : Team) with uid := u, slice := n, role := 1, cores := [0], at_ := .resident, bases := [0] }
  let g : Group := { startGroup l (u + 1) u 0 0 0 16 s.now with active := true, run := some [u + 2] }
  let t : Thread := { startThread l (u + 2) u 1 0 (u + 1) 0 0 with runId := 1, runSeq := 1 }
  { s with
    nextUid := u + 3, slices := s.slices ++ [l], teams := s.teams ++ [m], groups := s.groups ++ [g],
    threads := s.threads ++ [t], cur := some (u + 1) }

/-- The translation of the code's first page, as core 0 holds it. (DESIGN CHOICE, log 7) -/
def soloEntry : TlbEntry :=
  { asid := 0, base := 0, size := 65536, pa := 0, r := true, w := false, x := true, u := true, cmp := false,
    rmt := false, home := 0 }

/-- A word stored where the next step fetches it, in a slice of its own that is running. (DESIGN CHOICE, log 7) -/
def State.placeWord (s : State) (w : Nat) : State :=
  let s1 := (s.solo s.freeSlice).setCore 0 fun c => { c with tlb := soloEntry :: c.tlb, icache := [] }
  { s1 with
    agenda := []
    mem := { s1.mem with
      l2 := s1.mem.l2.cut 0 4
      hbm := (numbered 0 (leBytes 4 w)).foldl (fun m (c : Nat × Byte) => Memory.put m c.1 c.2) s1.mem.hbm } }

/-- Go on from an outcome. -/
def goOn (f : State → State) : Out → Out
  | .next t => .next (f t)
  | .fault r => .fault r
  | .refused r => .refused r

end Sys2Proof.Machine
end

