-- ==== Sys2Proof/Machine/Dispatch.lean ====
section
/-! DEFINITION. The meaning of every operation and event: one arm per constructor. -/

namespace Sys2Proof.Machine

/-- The meaning of an instruction or event. -/
def exec (i : Instr) (s : State) : Host.Outcome State Fault Refusal :=
  match i with
  | .himm e pl => Sys2Proof.Machine.execHimm e pl s
  | .hmod e pl => Sys2Proof.Machine.execHmod e pl s
  | .hgrd e p n c => Sys2Proof.Machine.execHgrd e p n c s
  | .trl m => Sys2Proof.Machine.execTrl m s
  | .hsch e cl df dm yl => Sys2Proof.Machine.execHsch e cl df dm yl s
  | .nop e => Sys2Proof.Machine.execNop e s
  | .phaseAnnounce e o c lx m b => Sys2Proof.Machine.execPhaseAnnounce e o c lx m b s
  | .phaseEnd e => Sys2Proof.Machine.execPhaseEnd e s
  | .phaseQuery e => Sys2Proof.Machine.execPhaseQuery e s
  | .brk e c => Sys2Proof.Machine.execBrk e c s
  | .trace e d c => Sys2Proof.Machine.execTrace e d c s
  | .add e d a b => Sys2Proof.Machine.execAdd e d a b s
  | .sub e d a b => Sys2Proof.Machine.execSub e d a b s
  | .mul e d a b => Sys2Proof.Machine.execMul e d a b s
  | .mulh e d a b f => Sys2Proof.Machine.execMulh e d a b f s
  | .mad e d a b => Sys2Proof.Machine.execMad e d a b s
  | .and e d a b => Sys2Proof.Machine.execAnd e d a b s
  | .or e d a b => Sys2Proof.Machine.execOr e d a b s
  | .xor e d a b => Sys2Proof.Machine.execXor e d a b s
  | .andn e d a b => Sys2Proof.Machine.execAndn e d a b s
  | .shl e d a b => Sys2Proof.Machine.execShl e d a b s
  | .shr e d a b => Sys2Proof.Machine.execShr e d a b s
  | .sra e d a b => Sys2Proof.Machine.execSra e d a b s
  | .min e d a b f => Sys2Proof.Machine.execMin e d a b f s
  | .max e d a b f => Sys2Proof.Machine.execMax e d a b f s
  | .abs e d a => Sys2Proof.Machine.execAbs e d a s
  | .clz e d a => Sys2Proof.Machine.execClz e d a s
  | .popc e d a => Sys2Proof.Machine.execPopc e d a s
  | .brev e d a => Sys2Proof.Machine.execBrev e d a s
  | .bfx e d a b => Sys2Proof.Machine.execBfx e d a b s
  | .bfi e d a b => Sys2Proof.Machine.execBfi e d a b s
  | .cmov e d p a => Sys2Proof.Machine.execCmov e d p a s
  | .div e d a b f => Sys2Proof.Machine.execDiv e d a b f s
  | .rem e d a b f => Sys2Proof.Machine.execRem e d a b f s
  | .adds e d a b f => Sys2Proof.Machine.execAdds e d a b f s
  | .subs e d a b f => Sys2Proof.Machine.execSubs e d a b f s
  | .movi e d imm => Sys2Proof.Machine.execMovi e d imm s
  | .addi e d a imm => Sys2Proof.Machine.execAddi e d a imm s
  | .andi e d a imm => Sys2Proof.Machine.execAndi e d a imm s
  | .ori e d a imm => Sys2Proof.Machine.execOri e d a imm s
  | .xori e d a imm => Sys2Proof.Machine.execXori e d a imm s
  | .shi e d a k n => Sys2Proof.Machine.execShi e d a k n s
  | .cmpi e p a c imm => Sys2Proof.Machine.execCmpi e p a c imm s
  | .cmpiV1 e p a c imm => Sys2Proof.Machine.execCmpiV1 e p a c imm s
  | .mov e d a => Sys2Proof.Machine.execMov e d a s
  | .s2g e d c => Sys2Proof.Machine.execS2g e d c s
  | .g2s e d c => Sys2Proof.Machine.execG2s e d c s
  | .ldpc e d imm => Sys2Proof.Machine.execLdpc e d imm s
  | .addw e d a b => Sys2Proof.Machine.execAddw e d a b s
  | .subw e d a b => Sys2Proof.Machine.execSubw e d a b s
  | .mulw e d a b f => Sys2Proof.Machine.execMulw e d a b f s
  | .shlw e d a b => Sys2Proof.Machine.execShlw e d a b s
  | .shrw e d a b f => Sys2Proof.Machine.execShrw e d a b f s
  | .leaw e d a b f => Sys2Proof.Machine.execLeaw e d a b f s
  | .movw e d a => Sys2Proof.Machine.execMovw e d a s
  | .cmp e p a b c => Sys2Proof.Machine.execCmp e p a b c s
  | .cmpw e p a b c => Sys2Proof.Machine.execCmpw e p a b c s
  | .plog e d a b f => Sys2Proof.Machine.execPlog e d a b f s
  | .p2g e d f => Sys2Proof.Machine.execP2g e d f s
  | .g2p e a b f => Sys2Proof.Machine.execG2p e a b f s
  | .fadd e d a b f => Sys2Proof.Machine.execFadd e d a b f s
  | .fsub e d a b f => Sys2Proof.Machine.execFsub e d a b f s
  | .fmul e d a b f => Sys2Proof.Machine.execFmul e d a b f s
  | .ffma e d a b f => Sys2Proof.Machine.execFfma e d a b f s
  | .fmin e d a b f => Sys2Proof.Machine.execFmin e d a b f s
  | .fmax e d a b f => Sys2Proof.Machine.execFmax e d a b f s
  | .fcmp e p a b t c => Sys2Proof.Machine.execFcmp e p a b t c s
  | .fcvt e d a fr tt => Sys2Proof.Machine.execFcvt e d a fr tt s
  | .icvt e d a m k f => Sys2Proof.Machine.execIcvt e d a m k f s
  | .rcp e d a f => Sys2Proof.Machine.execRcp e d a f s
  | .rsq e d a => Sys2Proof.Machine.execRsq e d a s
  | .sqrt e d a f => Sys2Proof.Machine.execSqrt e d a f s
  | .ex2 e d a => Sys2Proof.Machine.execEx2 e d a s
  | .lg2 e d a => Sys2Proof.Machine.execLg2 e d a s
  | .sin e d a => Sys2Proof.Machine.execSin e d a s
  | .cos e d a => Sys2Proof.Machine.execCos e d a s
  | .tanh e d a => Sys2Proof.Machine.execTanh e d a s
  | .dot4 e d a b f => Sys2Proof.Machine.execDot4 e d a b f s
  | .dot8 e d a b f => Sys2Proof.Machine.execDot8 e d a b f s
  | .pack e d a b f => Sys2Proof.Machine.execPack e d a b f s
  | .unpk e d a b f => Sys2Proof.Machine.execUnpk e d a b f s
  | .scl e d a b f => Sys2Proof.Machine.execScl e d a b f s
  | .br e p n o => Sys2Proof.Machine.execBr e p n o s
  | .jmpi e a => Sys2Proof.Machine.execJmpi e a s
  | .call e o => Sys2Proof.Machine.execCall e o s
  | .calli e a => Sys2Proof.Machine.execCalli e a s
  | .ret e => Sys2Proof.Machine.execRet e s
  | .join e a => Sys2Proof.Machine.execJoin e a s
  | .exit e a => Sys2Proof.Machine.execExit e a s
  | .trap e imm => Sys2Proof.Machine.execTrap e imm s
  | .land e => Sys2Proof.Machine.execLand e s
  | .yield e => Sys2Proof.Machine.execYield e s
  | .waitc e m t => Sys2Proof.Machine.execWaitc e m t s
  | .rfeReplay e => Sys2Proof.Machine.execRfeReplay e s
  | .rfeSkip e => Sys2Proof.Machine.execRfeSkip e s
  | .ldb e v b o => Sys2Proof.Machine.execLdb e v b o s
  | .ldh e v b o => Sys2Proof.Machine.execLdh e v b o s
  | .ldw e v b o => Sys2Proof.Machine.execLdw e v b o s
  | .ldd e v b o => Sys2Proof.Machine.execLdd e v b o s
  | .ldq e v b o => Sys2Proof.Machine.execLdq e v b o s
  | .stb e v b o => Sys2Proof.Machine.execStb e v b o s
  | .sth e v b o => Sys2Proof.Machine.execSth e v b o s
  | .stw e v b o => Sys2Proof.Machine.execStw e v b o s
  | .std e v b o => Sys2Proof.Machine.execStd e v b o s
  | .stq e v b o => Sys2Proof.Machine.execStq e v b o s
  | .lds e v b o => Sys2Proof.Machine.execLds e v b o s
  | .sts e v b o => Sys2Proof.Machine.execSts e v b o s
  | .ldpoll e v b o => Sys2Proof.Machine.execLdpoll e v b o s
  | .pref e v b o => Sys2Proof.Machine.execPref e v b o s
  | .aadd e d a b f => Sys2Proof.Machine.execAadd e d a b f s
  | .amm e d a b f => Sys2Proof.Machine.execAmm e d a b f s
  | .alog e d a b f => Sys2Proof.Machine.execAlog e d a b f s
  | .acas e d a b f => Sys2Proof.Machine.execAcas e d a b f s
  | .fenceAcq e sc => Sys2Proof.Machine.execFenceAcq e sc s
  | .fenceRel e sc => Sys2Proof.Machine.execFenceRel e sc s
  | .fenceAr e sc => Sys2Proof.Machine.execFenceAr e sc s
  | .ofence e => Sys2Proof.Machine.execOfence e s
  | .cdetect e d a => Sys2Proof.Machine.execCdetect e d a s
  | .ldacq e v b sc => Sys2Proof.Machine.execLdacq e v b sc s
  | .strel e v b sc => Sys2Proof.Machine.execStrel e v b sc s
  | .shfl e d a b f => Sys2Proof.Machine.execShfl e d a b f s
  | .bcast e d a b f => Sys2Proof.Machine.execBcast e d a b f s
  | .ballot e d a => Sys2Proof.Machine.execBallot e d a s
  | .vote e d a f => Sys2Proof.Machine.execVote e d a f s
  | .red e d a o v f => Sys2Proof.Machine.execRed e d a o v f s
  | .scan e d a o ex v f => Sys2Proof.Machine.execScan e d a o ex v f s
  | .topk e d a b f => Sys2Proof.Machine.execTopk e d a b f s
  | .matchv e d a f => Sys2Proof.Machine.execMatchv e d a f s
  | .sortkv e d a b f => Sys2Proof.Machine.execSortkv e d a b f s
  | .regroup e d a n => Sys2Proof.Machine.execRegroup e d a n s
  | .bar e => Sys2Proof.Machine.execBar e s
  | .cvinit e d a => Sys2Proof.Machine.execCvinit e d a s
  | .cvsign e d a => Sys2Proof.Machine.execCvsign e d a s
  | .elect e d => Sys2Proof.Machine.execElect e d s
  | .tload e d a b f => Sys2Proof.Machine.execTload e d a b f s
  | .tstore e d a b => Sys2Proof.Machine.execTstore e d a b s
  | .tbind e d a b => Sys2Proof.Machine.execTbind e d a b s
  | .tzero e d a f => Sys2Proof.Machine.execTzero e d a f s
  | .tfree e d => Sys2Proof.Machine.execTfree e d s
  | .tmma e d a b f => Sys2Proof.Machine.execTmma e d a b f s
  | .tmmas e d a b => Sys2Proof.Machine.execTmmas e d a b s
  | .tadd e d a b => Sys2Proof.Machine.execTadd e d a b s
  | .trnd e d a b => Sys2Proof.Machine.execTrnd e d a b s
  | .tdense e d a f => Sys2Proof.Machine.execTdense e d a f s
  | .tlrf e d a b => Sys2Proof.Machine.execTlrf e d a b s
  | .tscal e d a b f => Sys2Proof.Machine.execTscal e d a b f s
  | .tinfo e d a => Sys2Proof.Machine.execTinfo e d a s
  | .tmova e d a b => Sys2Proof.Machine.execTmova e d a b s
  | .tmovr e d a b => Sys2Proof.Machine.execTmovr e d a b s
  | .twait e d a b f => Sys2Proof.Machine.execTwait e d a b f s
  | .tlu e d => Sys2Proof.Machine.execTlu e d s
  | .ttrs e d a f => Sys2Proof.Machine.execTtrs e d a f s
  | .tcvt e d a m f => Sys2Proof.Machine.execTcvt e d a m f s
  | .ttran e d a f => Sys2Proof.Machine.execTtran e d a f s
  | .tset e d a b => Sys2Proof.Machine.execTset e d a b s
  | .tcopy e d a f => Sys2Proof.Machine.execTcopy e d a f s
  | .tget e d a b f => Sys2Proof.Machine.execTget e d a b f s
  | .tnorm e d a f => Sys2Proof.Machine.execTnorm e d a f s
  | .qpush e a b => Sys2Proof.Machine.execQpush e a b s
  | .qpushClose e a => Sys2Proof.Machine.execQpushClose e a s
  | .qpop e d a b => Sys2Proof.Machine.execQpop e d a b s
  | .xform e d a => Sys2Proof.Machine.execXform e d a s
  | .xwait e a => Sys2Proof.Machine.execXwait e a s
  | .xcancel e d a => Sys2Proof.Machine.execXcancel e d a s
  | .coll e a => Sys2Proof.Machine.execColl e a s
  | .popenNew e d a => Sys2Proof.Machine.execPopenNew e d a s
  | .popenReset e d a b => Sys2Proof.Machine.execPopenReset e d a b s
  | .pclaim e d a b => Sys2Proof.Machine.execPclaim e d a b s
  | .pcloseRet e d a b => Sys2Proof.Machine.execPcloseRet e d a b s
  | .pcloseSeal e d a b => Sys2Proof.Machine.execPcloseSeal e d a b s
  | .pbias e d a b => Sys2Proof.Machine.execPbias e d a b s
  | .fnew e d => Sys2Proof.Machine.execFnew e d s
  | .invoke e d a => Sys2Proof.Machine.execInvoke e d a s
  | .invh e d a b => Sys2Proof.Machine.execInvh e d a b s
  | .fput e d a b f => Sys2Proof.Machine.execFput e d a b f s
  | .fgetWait e d a b => Sys2Proof.Machine.execFgetWait e d a b s
  | .fgetPoll e d a b => Sys2Proof.Machine.execFgetPoll e d a b s
  | .fbreak e d a b => Sys2Proof.Machine.execFbreak e d a b s
  | .frel e d a => Sys2Proof.Machine.execFrel e d a s
  | .slice e d a => Sys2Proof.Machine.execSlice e d a s
  | .cwatchSet e d a => Sys2Proof.Machine.execCwatchSet e d a s
  | .cwatchClr e d a => Sys2Proof.Machine.execCwatchClr e d a s
  | .tlbinvPage e a b => Sys2Proof.Machine.execTlbinvPage e a b s
  | .tlbinvAsid e b => Sys2Proof.Machine.execTlbinvAsid e b s
  | .tlbinvAll e => Sys2Proof.Machine.execTlbinvAll e s
  | .ctxsv e d a b => Sys2Proof.Machine.execCtxsv e d a b s
  | .ctxld e d a => Sys2Proof.Machine.execCtxld e d a s
  | .cflush e a b f => Sys2Proof.Machine.execCflush e a b f s
  | .cinv e a b f => Sys2Proof.Machine.execCinv e a b f s
  | .runStart gid => Sys2Proof.Machine.execRunStart gid s
  | .resultReturn uid id => Sys2Proof.Machine.execResultReturn uid id s
  | .regroupOperation team => Sys2Proof.Machine.execRegroupOperation team s
  | .kill slice => Sys2Proof.Machine.execKill slice s
  | .groupActivation core => Sys2Proof.Machine.execGroupActivation core s
  | .ageingRotation core => Sys2Proof.Machine.execAgeingRotation core s
  | .issueStarvation gid => Sys2Proof.Machine.execIssueStarvation gid s
  | .deferralWindowExpiry slice => Sys2Proof.Machine.execDeferralWindowExpiry slice s
  | .ldpollTimeout uid id => Sys2Proof.Machine.execLdpollTimeout uid id s
  | .dirtyLineWriteBack core line => Sys2Proof.Machine.execDirtyLineWriteBack core line s
  | .l1AgeLimit core line => Sys2Proof.Machine.execL1AgeLimit core line s
  | .ownershipGrant die line => Sys2Proof.Machine.execOwnershipGrant die line s
  | .hbmWriteBack line => Sys2Proof.Machine.execHbmWriteBack line s
  | .scrub line => Sys2Proof.Machine.execScrub line s
  | .uncorrectableError loc => Sys2Proof.Machine.execUncorrectableError loc s
  | .pfdoneAcknowledge v => Sys2Proof.Machine.execPfdoneAcknowledge v s
  | .tstatClear uid v => Sys2Proof.Machine.execTstatClear uid v s
  | .trctlWrite slice v => Sys2Proof.Machine.execTrctlWrite slice v s
  | .dbgctlHold slice on => Sys2Proof.Machine.execDbgctlHold slice on s
  | .dbgctlStop slice on => Sys2Proof.Machine.execDbgctlStop slice on s
  | .specialRegisterWrite uid code v => Sys2Proof.Machine.execSpecialRegisterWrite uid code v s
  | .tileOperationComplete op => Sys2Proof.Machine.execTileOperationComplete op s
  | .arrayOperationStart core => Sys2Proof.Machine.execArrayOperationStart core s
  | .bandGating core band => Sys2Proof.Machine.execBandGating core band s
  | .cadenceUpdate core => Sys2Proof.Machine.execCadenceUpdate core s
  | .apronAnnouncement team => Sys2Proof.Machine.execApronAnnouncement team s
  | .phaseGrant team => Sys2Proof.Machine.execPhaseGrant team s
  | .phaseOnset team => Sys2Proof.Machine.execPhaseOnset team s
  | .phaseIdleExpiry team => Sys2Proof.Machine.execPhaseIdleExpiry team s
  | .railStepUp cluster band => Sys2Proof.Machine.execRailStepUp cluster band s
  | .railHoldExpiry cluster band => Sys2Proof.Machine.execRailHoldExpiry cluster band s
  | .railStepDown cluster band => Sys2Proof.Machine.execRailStepDown cluster band s
  | .sensorRead die0 die1 => Sys2Proof.Machine.execSensorRead die0 die1 s
  | .kthermAdjust => Sys2Proof.Machine.execKthermAdjust s
  | .transformChunk tag => Sys2Proof.Machine.execTransformChunk tag s
  | .transformEnd tag => Sys2Proof.Machine.execTransformEnd tag s
  | .decoderWatchdog tag => Sys2Proof.Machine.execDecoderWatchdog tag s
  | .collectiveComplete tag => Sys2Proof.Machine.execCollectiveComplete tag s
  | .collectiveMemberTimeout tag => Sys2Proof.Machine.execCollectiveMemberTimeout tag s
  | .cloakroomInvoke h desc launch args asid anyAsid => Sys2Proof.Machine.execCloakroomInvoke h desc launch args asid anyAsid s
  | .cloakroomInvh h newHandle desc launch args asid anyAsid => Sys2Proof.Machine.execCloakroomInvh h newHandle desc launch args asid anyAsid s
  | .cloakroomFgetWaiter h tag polling => Sys2Proof.Machine.execCloakroomFgetWaiter h tag polling s
  | .cloakroomFput h value => Sys2Proof.Machine.execCloakroomFput h value s
  | .cloakroomFbreak h cause depth => Sys2Proof.Machine.execCloakroomFbreak h cause depth s
  | .cloakroomFrel h => Sys2Proof.Machine.execCloakroomFrel h s
  | .valueReply h tag value => Sys2Proof.Machine.execValueReply h tag value s
  | .brokenReply h tag cause depth => Sys2Proof.Machine.execBrokenReply h tag cause depth s
  | .routeUpdate h location => Sys2Proof.Machine.execRouteUpdate h location s
  | .acknowledgement h accepted sub => Sys2Proof.Machine.execAcknowledgement h accepted sub s
  | .placement slice => Sys2Proof.Machine.execPlacement slice s
  | .saveComplete slice => Sys2Proof.Machine.execSaveComplete slice s
  | .restoreComplete slice => Sys2Proof.Machine.execRestoreComplete slice s
  | .suspendResume slice => Sys2Proof.Machine.execSuspendResume slice s
  | .contractRelease contract => Sys2Proof.Machine.execContractRelease contract s
  | .budgetExhausted slice => Sys2Proof.Machine.execBudgetExhausted slice s
  | .allowanceExpiry slice => Sys2Proof.Machine.execAllowanceExpiry slice s
  | .deadlineMiss slice => Sys2Proof.Machine.execDeadlineMiss slice s
  | .watchEvaluation watch => Sys2Proof.Machine.execWatchEvaluation watch s
  | .contextSaveComplete ctx => Sys2Proof.Machine.execContextSaveComplete ctx s
  | .contextLoadComplete ctx => Sys2Proof.Machine.execContextLoadComplete ctx s
  | .linkLevelRetry link => Sys2Proof.Machine.execLinkLevelRetry link s
  | .linkDown link => Sys2Proof.Machine.execLinkDown link s
  | .linkRetrained link => Sys2Proof.Machine.execLinkRetrained link s
  | .remoteAccessRequest src txn pa op => Sys2Proof.Machine.execRemoteAccessRequest src txn pa op s
  | .remoteAccessReply txn bytes poison failed => Sys2Proof.Machine.execRemoteAccessReply txn bytes poison failed s
  | .livenessFlit src => Sys2Proof.Machine.execLivenessFlit src s
  | .memberFailureDeclared dev => Sys2Proof.Machine.execMemberFailureDeclared dev s
  | .failureReport report => Sys2Proof.Machine.execFailureReport report s
  | .placementReport src level classes => Sys2Proof.Machine.execPlacementReport src level classes s
  | .supolInvoke session reqId desc launch args => Sys2Proof.Machine.execSupolInvoke session reqId desc launch args s
  | .supolInvh session reqId upstream desc launch args => Sys2Proof.Machine.execSupolInvh session reqId upstream desc launch args s
  | .fgetNotify session reqId handle => Sys2Proof.Machine.execFgetNotify session reqId handle s
  | .supolFrel session reqId handle => Sys2Proof.Machine.execSupolFrel session reqId handle s
  | .contract who desc launch => Sys2Proof.Machine.execContract who desc launch s
  | .rmaRead session reqId va len ordered => Sys2Proof.Machine.execRmaRead session reqId va len ordered s
  | .rmaWrite session reqId va bytes ordered => Sys2Proof.Machine.execRmaWrite session reqId va bytes ordered s
  | .readReg who offset => Sys2Proof.Machine.execReadReg who offset s
  | .writeReg who offset v => Sys2Proof.Machine.execWriteReg who offset v s
  | .writeDomain who v => Sys2Proof.Machine.execWriteDomain who v s
  | .writeMembers who v => Sys2Proof.Machine.execWriteMembers who v s
  | .writeRouteBase who v => Sys2Proof.Machine.execWriteRouteBase who v s
  | .writeInvArgs who v => Sys2Proof.Machine.execWriteInvArgs who v s
  | .writeInvArgsVa who v => Sys2Proof.Machine.execWriteInvArgsVa who v s
  | .admitCode who base len asid => Sys2Proof.Machine.execAdmitCode who base len asid s
  | .retireCode who codeId => Sys2Proof.Machine.execRetireCode who codeId s
  | .openSession who asid mgmt secure => Sys2Proof.Machine.execOpenSession who asid mgmt secure s
  | .closeSession who session => Sys2Proof.Machine.execCloseSession who session s
  | .quote who nonce => Sys2Proof.Machine.execQuote who nonce s
  | .getCert who => Sys2Proof.Machine.execGetCert who s
  | .rasRead who code => Sys2Proof.Machine.execRasRead who code s
  | .rasClear who code => Sys2Proof.Machine.execRasClear who code s
  | .logRead who which => Sys2Proof.Machine.execLogRead who which s
  | .debugStop who slice => Sys2Proof.Machine.execDebugStop who slice s
  | .debugStepPath who slice gid key => Sys2Proof.Machine.execDebugStepPath who slice gid key s
  | .debugStepAll who slice gid => Sys2Proof.Machine.execDebugStepAll who slice gid s
  | .debugResume who slice => Sys2Proof.Machine.execDebugResume who slice s
  | .contractWithdraw who contract => Sys2Proof.Machine.execContractWithdraw who contract s
  | .resetCold => Sys2Proof.Machine.execResetCold s
  | .resetWarm => Sys2Proof.Machine.execResetWarm s
  | .resetPartition r => Sys2Proof.Machine.execResetPartition r s
  | .loadFw who image => Sys2Proof.Machine.execLoadFw who image s
  | .managementWatchdog => Sys2Proof.Machine.execManagementWatchdog s
  | .powerOn slotA => Sys2Proof.Machine.execPowerOn slotA s
  | .supolPacketDrop => Sys2Proof.Machine.execSupolPacketDrop s
  | .bandPowerUp core band => Sys2Proof.Machine.execBandPowerUp core band s
  | .correctedError loc => Sys2Proof.Machine.execCorrectedError loc s
  | .collectiveControlMessage src tag fields data => Sys2Proof.Machine.execCollectiveControlMessage src tag fields data s

end Sys2Proof.Machine
end

