-- ==== Sys2Proof/Machine/Step.lean ====
section
/-! DEFINITION. One step of the machine. -/

namespace Sys2Proof.Machine

/-- One step: a happening of the agenda, an instruction word of a group, or a step of the machine's own.
(DESIGN CHOICE, log 8) -/
def step (s : State) : Host.Outcome State Fault Refusal :=
  match s.turn with
  | .event i t => goOn State.afterEvent (exec i t)
  | .word gid i t => goOn (fun x => x.afterWord gid i) (exec i t)
  | .own t => .next t

/-- A state whose next step runs an instruction of the table: its word stands in a code object of a slice that is
running, where the next fetch reads it. (DESIGN CHOICE, log 7) -/
def State.withFetchWord (s : State) (_nbits w : Nat) : State := s.placeWord w

end Sys2Proof.Machine
end

