-- ==== Sys2Proof/WellFormed.lean ====
section
/-! DEFINITION. Well-formed instructions: those the decoder accepts, every reserved field zero, every
variant listed and every register number in range (R62, R69). A step that is no instruction word is
well-formed always. -/

namespace Sys2Proof

/-- The checks of the word alone all pass (R65, subcodes 0x02 to 0x04). -/
def Instr.wellFormed (i : Instr) : Bool := i.reservedOk && i.variantOk && i.regsOk

end Sys2Proof
end

