-- ==== Sys2Proof/Safety.lean ====
section
/-! DEFINITION. What counts as a safe step, and the terms in which claims speak of the issue of an instruction
word. -/

namespace Sys2Proof

/-! ### Instructions that compute on a thread's own registers -/

/-- The integer and predicate instructions of opcode rows 1 to 4, S2G, G2S and LDPC apart (R70 to R88). -/
def Instr.integer : Instr → Bool
  | .add .. | .sub .. | .mul .. | .mulh .. | .mad .. | .and .. | .or .. | .xor .. | .andn .. | .shl .. | .shr ..
  | .sra .. | .min .. | .max .. | .abs .. | .clz .. | .popc .. | .brev .. | .bfx .. | .bfi .. | .cmov .. | .div ..
  | .rem .. | .adds .. | .subs .. | .movi .. | .addi .. | .andi .. | .ori .. | .xori .. | .shi .. | .mov ..
  | .movw .. | .addw .. | .subw .. | .mulw .. | .shlw .. | .shrw .. | .leaw .. | .cmp .. | .cmpw .. | .cmpi ..
  | .cmpiV1 .. | .plog .. | .p2g .. | .g2p .. => true
  | _ => false

/-- The floating-point and packed instructions of opcode rows 5 and 6 (R128 to R139). -/
def Instr.floating : Instr → Bool
  | .fadd .. | .fsub .. | .fmul .. | .ffma .. | .fmin .. | .fmax .. | .fcmp .. | .fcvt .. | .icvt .. | .rcp .. | .rsq ..
  | .sqrt .. | .ex2 .. | .lg2 .. | .sin .. | .cos .. | .tanh .. | .dot4 .. | .dot8 .. | .pack .. | .unpk ..
  | .scl .. => true
  | _ => false

/-- The instructions that may set %iflags (R73, R76, R77, R135, R136). -/
def Instr.integerFlags : Instr → Bool
  | .abs .. | .div .. | .rem .. | .adds .. | .subs .. | .dot4 .. | .dot8 .. => true
  | _ => false

/-- The registers an instruction may write, as SUBCODE of R116 numbers them: its written operands, and the bank of
predicates that G2P scatters to (R88). -/
def Instr.writes (i : Instr) (m : BitVec 23) : List Nat :=
  ((i.operandsUnder m).filter (·.wr)).flatMap Opnd.regs ++
    (match i with
     | .g2p _ _ _ f => if f = 0 then (List.range 32).map (0x80 + ·) else (List.range 16).map (0xA0 + ·)
     | _ => [])

end Sys2Proof

namespace Sys2Proof.Machine

/-- A step goes on: the machine neither stops with a fault nor refuses. -/
def State.goesOn (s : State) : Prop := ∃ t, step s = .next t

/-! ### The issue of an instruction word -/

/-- The threads of an issue set that an instruction acts for: those that no HGRD guards off (R58). -/
def acting (i : Instr) (ts : List Thread) : List Thread := ts.filter fun t => t.guard i == .on

/-- A group issues an instruction for the threads `ts` together: they hold the same pending hints, no check of
R346 fails for those it acts for, and no guard and no source register is poisoned (R46, R58, R65, R116). -/
def State.issues (s : State) (i : Instr) (g : Group) (ts : List Thread) : Bool :=
  s.issuing == some (g, ts) && hintClasses ts == [ts] && (ts.all fun t => t.guard i == .on || t.guard i == .off) &&
    ((acting i ts).isEmpty || (s.illegal (g.context i ts) i (acting i ts)).isNone) &&
    (acting i ts).all fun t => (t.poisonRead i (g.context i ts).m).isNone

/-- The state that an instruction's effect begins from: poison that only threads which are not live for it would have
read is counted (R117, R384). -/
def State.opened (s : State) (i : Instr) (g : Group) (ts : List Thread) : State := s.rasAdd 0x03 (s.unread i g ts)

/-- What the issue leaves once the effect has made the state `r` and raised the faults `fs`: a pending HSCH acts,
the faults are delivered, and every other thread of the set goes on (R46, R50, R59, R107). -/
def State.issued (i : Instr) (g : Group) (ts : List Thread) (r : State) (fs : List (Nat × FaultInfo)) : State :=
  State.finishIssue i g ts ⟨r.hschAll i g ts [] (acting i ts), fs⟩

/-- Every acting thread writes its own registers, from what they were before the issue. -/
def State.lanes (s : State) (i : Instr) (g : Group) (ts : List Thread) (w : Cx → Thread → Thread → Thread) :
    Out :=
  let cx := g.context i ts
  .next (State.issued i g ts ((acting i ts).foldl (fun s t =>
    s.setThread t.uid fun x => w cx t (x.lastRelease cx.last)) (s.opened i g ts)) [])

/-- Every acting thread has its effect on the machine, in ascending lane order. -/
def State.each (s : State) (i : Instr) (g : Group) (ts : List Thread) (eff : Cx → Thread → State → State) :
    Out :=
  let cx := g.context i ts
  .next (State.issued i g ts ((acting i ts).foldl (fun s t =>
    eff cx t (s.lastRelease cx t.uid)) (s.opened i g ts)) [])

/-- The acting threads have one effect together. -/
def State.together (s : State) (i : Instr) (g : Group) (ts : List Thread)
    (eff : Cx → List Thread → State → State) : Out :=
  let cx := g.context i ts
  .next (State.issued i g ts (eff cx (acting i ts)
    ((acting i ts).foldl (fun s t => s.lastRelease cx t.uid) (s.opened i g ts))) [])

/-- Every acting thread takes a fault. -/
def State.raises (s : State) (i : Instr) (g : Group) (ts : List Thread) (f : Cx → Thread → FaultInfo) : Out :=
  .next (State.issued i g ts (s.opened i g ts) ((acting i ts).map fun t => (t.uid, f (g.context i ts) t)))

/-- No acting thread has reason to wait, as `p` says it. -/
def State.unheld (s : State) (i : Instr) (g : Group) (ts : List Thread) (p : Thread → State → Bool) : Bool :=
  (acting i ts).all fun t => !p t (s.opened i g ts)

/-- The checks of an access of every acting thread, made before any of them acts (R148), find no fault, and no
acquire load is on its way (R186). -/
def State.passes {α : Type} (s : State) (i : Instr) (g : Group) (ts : List Thread)
    (chk : Cx → State → Thread → Except FaultInfo α) : Bool :=
  (acting i ts).all fun t => !t.acquiring && (match chk (g.context i ts) (s.opened i g ts) t with
    | .ok _ => true
    | .error _ => false)

/-- Every acting thread makes the access that its check found, in ascending lane order. -/
def State.accesses {α : Type} (s : State) (i : Instr) (g : Group) (ts : List Thread)
    (chk : Cx → State → Thread → Except FaultInfo α) (eff : Cx → Thread → α → State → State) : Out :=
  s.each i g ts fun cx t x =>
    match chk cx (s.opened i g ts) t with
    | .ok c => eff cx t c x
    | .error _ => x

/-- What the acting threads read of other devices' memory, as `w` says it, is there (R380). -/
def State.near (s : State) (i : Instr) (g : Group) (ts : List Thread) (w : Far) : Bool :=
  let o := s.opened i g ts
  (acting i ts).all fun t => (o.missing t.uid (w (g.context i ts) o t)).isEmpty

/-- The tile operation of one thread on a state and the faults so far. -/
def tileStepOn (f : TileStep) (cx : Cx) (r : State × List (Nat × FaultInfo)) (t : Thread) :
    State × List (Nat × FaultInfo) :=
  let x := f cx t r.1
  match x.2 with
  | none => (x.1.lastRelease cx t.uid, r.2)
  | some e => (x.1, r.2 ++ [(t.uid, e)])

/-- The threads that a tile instruction has still to act for, in ascending lane order: all that act, less those whose
operation its unit took while the others had to wait (R414, R419). -/
def State.tileThreads (s : State) (i : Instr) (g : Group) (ts : List Thread) : List Thread :=
  (s.opened i g ts).undone (g.context i ts) (acting i ts)

/-- The tile operation of each of those threads, in ascending lane order: the state and the faults. -/
def State.tileRun (s : State) (i : Instr) (g : Group) (ts : List Thread) (f : TileStep) :
    State × List (Nat × FaultInfo) :=
  (s.tileThreads i g ts).foldl (tileStepOn f (g.context i ts)) (s.opened i g ts, [])

/-- Whether the unit of a tile instruction has room for the operation of each thread as its turn comes. -/
def tileRoom (full : Cx → State → Bool) (f : TileStep) (cx : Cx) : List Thread → State × List (Nat × FaultInfo) → Bool
  | [], _ => true
  | t :: l, r => !full cx r.1 && tileRoom full f cx l (tileStepOn f cx r t)

/-- The entries that a tile instruction names are not busy, its unit has room, no acquire load is on its way, and no
operation faults (R186, R221, R222, R414, R419). -/
def State.tileFree (s : State) (i : Instr) (g : Group) (ts : List Thread) (named : List Nat)
    (full : Cx → State → Bool) (f : TileStep) : Bool :=
  !(s.opened i g ts).tileWaits named (g.context i ts) (acting i ts) &&
    tileRoom full f (g.context i ts) (s.tileThreads i g ts) (s.opened i g ts, []) && (s.tileRun i g ts f).2.isEmpty

/-- The effect of every acting thread that may fault, in ascending lane order: the state and the faults. -/
def State.tries (s : State) (i : Instr) (g : Group) (ts : List Thread)
    (f : Cx → Thread → State → Except FaultInfo State) : State × List (Nat × FaultInfo) :=
  (acting i ts).foldl (fun (r : State × List (Nat × FaultInfo)) t =>
    match f (g.context i ts) t (r.1.lastRelease (g.context i ts) t.uid) with
    | .ok x => (x, r.2)
    | .error e => (r.1, r.2 ++ [(t.uid, e)])) (s.opened i g ts, [])

/-! ### What an instruction does, for every state in which it is issued -/

/-- Each acting thread computes on its own registers. -/
def Computes (i : Instr) (w : Cx → Thread → Thread → Thread) : Prop :=
  ∀ s g ts, s.issues i g ts = true → exec i s = s.lanes i g ts w

/-- Each acting thread has an effect on the machine. -/
def Does (i : Instr) (eff : Cx → Thread → State → State) : Prop :=
  ∀ s g ts, s.issues i g ts = true → exec i s = s.each i g ts eff

/-- The acting threads have one effect together. -/
def DoesTogether (i : Instr) (eff : Cx → List Thread → State → State) : Prop :=
  ∀ s g ts, s.issues i g ts = true → exec i s = s.together i g ts eff

/-- Each acting thread has an effect, once none has reason to wait. -/
def DoesWhen (i : Instr) (p : Thread → State → Bool) (eff : Cx → Thread → State → State) : Prop :=
  ∀ s g ts, s.issues i g ts = true → s.unheld i g ts p = true → exec i s = s.each i g ts eff

/-- Each acting thread raises a fault. -/
def Raises (i : Instr) (f : Cx → Thread → FaultInfo) : Prop :=
  ∀ s g ts, s.issues i g ts = true → exec i s = s.raises i g ts f

/-- Each acting thread accesses memory, where its check finds no fault. -/
def Accesses {α : Type} (i : Instr) (chk : Cx → State → Thread → Except FaultInfo α)
    (eff : Cx → Thread → α → State → State) : Prop :=
  ∀ s g ts, s.issues i g ts = true → s.passes i g ts chk = true → exec i s = s.accesses i g ts chk eff

/-- Each acting thread accesses memory, once none has reason to wait and where its check finds no fault. -/
def AccessesWhen {α : Type} (i : Instr) (p : Thread → State → Bool)
    (chk : Cx → State → Thread → Except FaultInfo α) (eff : Cx → Thread → α → State → State) : Prop :=
  ∀ s g ts, s.issues i g ts = true → s.unheld i g ts p = true → s.passes i g ts chk = true →
    exec i s = s.accesses i g ts chk eff

/-- Each acting thread accesses memory, once none has reason to wait, what it reads of other devices' memory is there,
and its check finds no fault. -/
def AccessesFar {α : Type} (i : Instr) (w : Far) (p : Thread → State → Bool)
    (chk : Cx → State → Thread → Except FaultInfo α) (eff : Cx → Thread → α → State → State) : Prop :=
  ∀ s g ts, s.issues i g ts = true → s.near i g ts w = true → s.unheld i g ts p = true →
    s.passes i g ts chk = true → exec i s = s.accesses i g ts chk eff

/-- Each acting thread has a tile operation performed, where the tiles named are free, what it reads of other devices'
memory is there, and nothing faults. -/
def Tiles (i : Instr) (named : List Nat) (w : Far) (full : Cx → State → Bool) (f : TileStep) : Prop :=
  ∀ s g ts, s.issues i g ts = true → s.near i g ts w = true → s.tileFree i g ts named full f = true →
    exec i s = .next (State.issued i g ts (s.tileRun i g ts f).1 [])

/-- Each acting thread has an effect on the machine, once none has reason to wait and where none faults. -/
def Tries (i : Instr) (p : Thread → State → Bool) (f : Cx → Thread → State → Except FaultInfo State) : Prop :=
  ∀ s g ts, s.issues i g ts = true → s.unheld i g ts p = true → (s.tries i g ts f).2 = [] →
    exec i s = .next (State.issued i g ts (s.tries i g ts f).1 [])

/-- A gathering instruction without HMOD.PART: each acting thread arrives with its sources, each thread that is guarded
off arrives empty, and the instance completes once every thread of the group has arrived (R193, R195). With HMOD.PART the
acting threads alone contribute, and their results are in flight at once (R194). -/
def Gathers (i : Instr) : Prop := ∀ s g ts, s.issues i g ts = true →
  ((g.context i ts).m.getLsbD 17 = false → exec i s = .next (State.issued i g ts
    (State.completeInstance
      (((s.opened i g ts).offThreads (g.context i ts) i).foldl (fun x t =>
          x.setThread t.uid fun y => y.arriveOff (g.context i ts) i)
        ((acting i ts).foldl (fun x t => x.setThread t.uid fun y =>
          (t.arrive (g.context i ts) i y).lastRelease (g.context i ts).last) (s.opened i g ts)))
      g.gid (g.context i ts).pc) [])) ∧
  ((g.context i ts).m.getLsbD 17 = true → exec i s = .next (State.issued i g ts
    (let cx := g.context i ts
     let o := s.opened i g ts
     let w := (o.group cx.gid).width
     let lane := fun (t : Thread) => (⟨o.position t, (gatherSrc i t).1, (gatherSrc i t).2⟩ : Lane)
     let cs := sortBy (fun x y => decide (x.pos ≤ y.pos)) ((acting i ts).map lane)
     ((if writesOff i then o.offThreads cx i else []).foldl (fun r t => r.setThread t.uid fun x =>
         x.launchPart cx o.fresh (gatherRes i w cs ⟨o.position t, 0, 0⟩))
       ((acting i ts).foldl (fun x t => x.setThread t.uid fun y =>
         (y.lastRelease cx.last).launchPart cx o.fresh (gatherRes i w cs (lane t))) o)).tick) []))

/-! ### Numbers -/

/-- The number that a value stands for: a finite value's own, or, where its tail is set, one strictly between two
neighbours of its scale. -/
def Val.holds : Val → ℝ → Prop
  | .fin neg m e s, x =>
    let y : ℝ := if neg then -x else x
    if s then (m : ℝ) * 2 ^ e < y ∧ y < ((m : ℝ) + 1) * 2 ^ e else y = (m : ℝ) * 2 ^ e
  | _, _ => False

/-- `n` units `u` are the magnitude `x` of a number of a sign, rounded under RNE, RZ, RD or RU (R31, R124). -/
def Rounds (mode : Nat) (neg : Bool) (x u : ℝ) (n : Nat) : Prop :=
  (mode = 0 → 2 * |n * u - x| ≤ u ∧ (2 * |n * u - x| = u → n % 2 = 0)) ∧
  (mode = 1 ∨ (mode = 2 ∧ neg = false) ∨ (mode = 3 ∧ neg = true) → n * u ≤ x ∧ x < n * u + u) ∧
  ((mode = 2 ∧ neg = true) ∨ (mode = 3 ∧ neg = false) → x ≤ n * u ∧ n * u < x + u)

/-- The largest finite magnitude of a format (R121). -/
def Fmt.largest (f : Fmt) : ℚ := f.maxM * 2 ^ f.maxE

/-- The smallest normal magnitude of a format (R121). -/
def Fmt.smallest (f : Fmt) : ℚ := 2 ^ (1 - (f.bias : Int))

/-- `r` is what `round_to` of R124 gives, with its flags, for the number of magnitude `x` above 0 and a sign: `y` is
that magnitude rounded to the format's precision, with its minimum exponent and no maximum. -/
def Fmt.RoundsTo (f : Fmt) (mode : Nat) (sat ftz neg : Bool) (x : ℝ) (r : Rd) : Prop :=
  ∃ (n : Nat) (q : Int) (y : ℝ), y = n * 2 ^ q ∧ f.qmin ≤ q ∧ (q = f.qmin ∨ (2 : ℝ) ^ (q + f.frac) ≤ x) ∧
    x < (2 : ℝ) ^ (q + f.frac + 1) ∧ Rounds mode neg x (2 ^ q) n ∧
    (f.largest < y → r = (overflowValue f neg mode sat, OF ||| NX)) ∧
    (y ≤ f.largest →
      (ftz = true → f.flushes = true → 0 < y → y < f.smallest → r = (f.signBits neg, UF ||| NX)) ∧
      (ftz = false ∨ f.flushes = false ∨ y = 0 ∨ f.smallest ≤ y →
        (f.dec r.1).neg? = neg ∧ (f.dec r.1).holds (if neg then -y else y) ∧ (y = x → r.2 = 0) ∧
        (y ≠ x → y < f.smallest → r.2 = UF ||| NX) ∧ (y ≠ x → f.smallest ≤ y → r.2 = NX)))

/-- `r` is `round_to` of a number that is not zero. -/
def Fmt.RoundTo (f : Fmt) (mode : Nat) (sat ftz : Bool) (x : ℝ) (r : Rd) : Prop :=
  (0 < x → f.RoundsTo mode sat ftz false x r) ∧ (x < 0 → f.RoundsTo mode sat ftz true (-x) r)

/-! ### Messages of hosts -/

/-- The device serves a message of a requester now: it is up and not in recovery, and the requester is a session
without earlier messages that wait, a management session where `priv` asks for one, or a live supervisor slice
(R430, R431, R435, R447, R451). -/
def State.takesFrom (s : State) (w : Requester) (priv : Bool) : Bool :=
  s.boot.on && !s.boot.recovery && (match w with
    | .session h _ => !s.mustWait h.num && s.headStatus h == 0 && (s.session? h.num).any fun x => !priv || x.mgmt
    | .mailbox k => s.superSlice k)

/-- The state in which a message of a requester is performed: a slice's request is a release at device scope. -/
def State.atRequest (s : State) (w : Requester) : State :=
  match w with
  | .session _ _ => s
  | .mailbox k => s.settleStores k

/-! ### Lines that a store makes a core give up -/

/-- The line that a full set of a core's L1 evicts when a line is brought in (R151). -/
def State.evicts (s : State) (core line : Nat) : Option Nat :=
  let ls := (s.core core).l1.lines
  let set := ls.filter fun x => x.line % 128 == line % 128
  if ls.any (·.line == line) || decide (set.length < 16) then none else (victim set).map (·.line)

/-- The lines that a store makes a core write back: the one that its set evicts, and then the oldest of a dirty-line
FIFO that has no room for the line stored to (R151, R368). -/
def State.givesUp (s : State) (core line : Nat) : List Nat :=
  let e := s.evicts core line
  let fifo := (s.core core).l1.fifo.filter fun x => some x.1 != e
  e.toList ++
    (if fifo.any (·.1 == line) || decide (fifo.length < 256) then [] else (fifo.head?.map (·.1)).toList)

/-! ### Runs -/

/-- What holds of the runs that groups are issuing: each names at least one thread, each thread once, and every
one of them is a thread of the machine that has not ended (R46, R91). -/
def State.RunsSound (s : State) : Prop :=
  ∀ g ∈ s.groups, ∀ us, g.run = some us → us ≠ [] ∧ us.Nodup ∧ ∀ u ∈ us, s.alive u = true

end Sys2Proof.Machine
end

