-- ==== Sys2Proof/Certificates/Slice0/Obligations.lean ====
section
/-! DEFINITION. The statements about the machine that the provers prove. -/

open Sys2Proof Sys2Proof.Machine

/-! ### Integer, address and predicate instructions -/

/-- ADD to ANDN write the result of R71 to g[d] and set no flag: MULH is the high word of the exact product. -/
def Obligations.IntegerArithmeticWritesResult : Prop := ∀ (e : Bool) (d a b : BitVec 7) (f : BitVec 2),
  Computes (.add e d a b) (fun _ t x => x.setG d.toNat (t.g a.toNat + t.g b.toNat)) ∧
  Computes (.sub e d a b) (fun _ t x => x.setG d.toNat (t.g a.toNat - t.g b.toNat)) ∧
  Computes (.mul e d a b) (fun _ t x => x.setG d.toNat (t.g a.toNat * t.g b.toNat)) ∧
  Computes (.mulh e d a b f) (fun _ t x => x.setG d.toNat
    (if f == 0 then (BitVec.ofInt 64 ((t.g a.toNat).toInt * (t.g b.toNat).toInt) >>> 32).setWidth 32
     else (BitVec.ofNat 64 ((t.g a.toNat).toNat * (t.g b.toNat).toNat) >>> 32).setWidth 32)) ∧
  Computes (.mad e d a b) (fun _ t x => x.setG d.toNat (t.g d.toNat + t.g a.toNat * t.g b.toNat)) ∧
  Computes (.and e d a b) (fun _ t x => x.setG d.toNat (t.g a.toNat &&& t.g b.toNat)) ∧
  Computes (.or e d a b) (fun _ t x => x.setG d.toNat (t.g a.toNat ||| t.g b.toNat)) ∧
  Computes (.xor e d a b) (fun _ t x => x.setG d.toNat (t.g a.toNat ^^^ t.g b.toNat)) ∧
  Computes (.andn e d a b) (fun _ t x => x.setG d.toNat (t.g a.toNat &&& ~~~(t.g b.toNat)))

/-- SHL, SHR and SRA take the whole of g[b] as the amount: 32 or more gives 0, or bit 31 everywhere (R72). -/
def Obligations.ShiftsTakeTheWholeAmount : Prop := ∀ (e : Bool) (d a b : BitVec 7),
  Computes (.shl e d a b) (fun _ t x => x.setG d.toNat
    (if 32 ≤ (t.g b.toNat).toNat then 0 else t.g a.toNat <<< (t.g b.toNat).toNat)) ∧
  Computes (.shr e d a b) (fun _ t x => x.setG d.toNat
    (if 32 ≤ (t.g b.toNat).toNat then 0 else t.g a.toNat >>> (t.g b.toNat).toNat)) ∧
  Computes (.sra e d a b) (fun _ t x => x.setG d.toNat
    (if 32 ≤ (t.g b.toNat).toNat then (t.g a.toNat).sshiftRight 31
     else (t.g a.toNat).sshiftRight (t.g b.toNat).toNat))

/-- MIN, MAX, ABS, CLZ, POPC and BREV (R73): ABS without SAT wraps at the most negative number, and with SAT clamps
there and sets %iflags.SAT. -/
def Obligations.MinMaxAbsAndCounts : Prop := ∀ (e : Bool) (d a b : BitVec 7) (f : BitVec 2),
  Computes (.min e d a b f) (fun _ t x => x.setG d.toNat
    (if below (f == 0) (t.g b.toNat) (t.g a.toNat) then t.g b.toNat else t.g a.toNat)) ∧
  Computes (.max e d a b f) (fun _ t x => x.setG d.toNat
    (if below (f == 0) (t.g a.toNat) (t.g b.toNat) then t.g b.toNat else t.g a.toNat)) ∧
  Computes (.abs e d a) (fun cx t x =>
    if (t.g a.toNat).toInt = -2147483648 then
      if cx.sat then (x.setG d.toNat 0x7FFFFFFF).orI SAT else x.setG d.toNat 0x80000000
    else x.setG d.toNat (BitVec.ofNat 32 (t.g a.toNat).toInt.natAbs)) ∧
  Computes (.clz e d a) (fun _ t x => x.setG d.toNat
    (if t.g a.toNat = 0 then 32 else BitVec.ofNat 32 (31 - (t.g a.toNat).toNat.log2))) ∧
  Computes (.popc e d a) (fun _ t x => x.setG d.toNat
    (BitVec.ofNat 32 ((List.range 32).filter (t.g a.toNat).getLsbD).length)) ∧
  Computes (.brev e d a) (fun _ t x => x.setG d.toNat
    (BitVec.ofFnLE fun k : Fin 32 => (t.g a.toNat).getLsbD (31 - k)))

/-- BFX and BFI under the control word of g[b], and CMOV (R74, R75): a field is cut at bit 31. -/
def Obligations.BitFieldsAreCutAtBit31 : Prop := ∀ (e : Bool) (d a b : BitVec 7) (p : BitVec 6),
  Computes (.bfx e d a b) (fun _ t x => x.setG d.toNat
    (let c := t.g b.toNat
     let pos := c.toNat % 32
     let n := min (c.toNat / 256 % 32 + 1) (32 - pos)
     let v := (t.g a.toNat).toNat / 2 ^ pos % 2 ^ n
     if c.getLsbD 16 then BitVec.ofInt 32 (if 2 ^ n ≤ 2 * v then (v : Int) - 2 ^ n else v) else BitVec.ofNat 32 v)) ∧
  Computes (.bfi e d a b) (fun _ t x => x.setG d.toNat
    (let c := t.g b.toNat
     let pos := c.toNat % 32
     let n := min (c.toNat / 256 % 32 + 1) (32 - pos)
     BitVec.ofFnLE fun k : Fin 32 => if pos ≤ k ∧ k < pos + n then (t.g a.toNat).getLsbD (k - pos)
       else (t.g d.toNat).getLsbD k)) ∧
  Computes (.cmov e d p a) (fun _ t x => if t.p p.toNat then x.setG d.toNat (t.g a.toNat) else x)

/-- DIV and REM truncate toward zero; by zero they set %iflags.IDZ, and DIV.s of the most negative number by −1 sets
%iflags.SAT (R76). -/
def Obligations.DivisionTruncatesTowardZero : Prop := ∀ (e : Bool) (d a b : BitVec 7),
  Computes (.div e d a b 0) (fun _ t x =>
    if t.g b.toNat = 0 then (x.setG d.toNat (if 0 ≤ (t.g a.toNat).toInt then 0x7FFFFFFF else 0x80000000)).orI IDZ
    else if (t.g a.toNat).toInt = -2147483648 ∧ (t.g b.toNat).toInt = -1 then (x.setG d.toNat 0x7FFFFFFF).orI SAT
    else x.setG d.toNat (BitVec.ofInt 32 ((t.g a.toNat).toInt.tdiv (t.g b.toNat).toInt))) ∧
  Computes (.div e d a b 1) (fun _ t x =>
    if t.g b.toNat = 0 then (x.setG d.toNat 0xFFFFFFFF).orI IDZ
    else x.setG d.toNat (BitVec.ofNat 32 ((t.g a.toNat).toNat / (t.g b.toNat).toNat))) ∧
  Computes (.rem e d a b 0) (fun _ t x =>
    if t.g b.toNat = 0 then (x.setG d.toNat (t.g a.toNat)).orI IDZ
    else if (t.g a.toNat).toInt = -2147483648 ∧ (t.g b.toNat).toInt = -1 then x.setG d.toNat 0
    else x.setG d.toNat (BitVec.ofInt 32 ((t.g a.toNat).toInt.tmod (t.g b.toNat).toInt))) ∧
  Computes (.rem e d a b 1) (fun _ t x =>
    if t.g b.toNat = 0 then (x.setG d.toNat (t.g a.toNat)).orI IDZ
    else x.setG d.toNat (BitVec.ofNat 32 ((t.g a.toNat).toNat % (t.g b.toNat).toNat)))

/-- ADDS and SUBS clamp to the range of their variant and set %iflags.SAT when they do (R77). -/
def Obligations.SaturatingAddsClamp : Prop := ∀ (e : Bool) (d a b : BitVec 7),
  (Computes (.adds e d a b 0) (fun _ t x =>
    let r := (t.g a.toNat).toInt + (t.g b.toNat).toInt
    if r < -2147483648 then (x.setG d.toNat 0x80000000).orI SAT
    else if 2147483647 < r then (x.setG d.toNat 0x7FFFFFFF).orI SAT
    else x.setG d.toNat (BitVec.ofInt 32 r))) ∧
  (Computes (.subs e d a b 0) (fun _ t x =>
    let r := (t.g a.toNat).toInt - (t.g b.toNat).toInt
    if r < -2147483648 then (x.setG d.toNat 0x80000000).orI SAT
    else if 2147483647 < r then (x.setG d.toNat 0x7FFFFFFF).orI SAT
    else x.setG d.toNat (BitVec.ofInt 32 r))) ∧
  (Computes (.adds e d a b 1) (fun _ t x =>
    let r := (t.g a.toNat).toNat + (t.g b.toNat).toNat
    if 4294967295 < r then (x.setG d.toNat 0xFFFFFFFF).orI SAT else x.setG d.toNat (BitVec.ofNat 32 r))) ∧
  (Computes (.subs e d a b 1) (fun _ t x =>
    if (t.g a.toNat).toNat < (t.g b.toNat).toNat then (x.setG d.toNat 0).orI SAT
    else x.setG d.toNat (BitVec.ofNat 32 ((t.g a.toNat).toNat - (t.g b.toNat).toNat))))

/-- The immediate instructions (R79, R80, R81): the field is extended as its entry says, and under HIMM the immediate
is the hint's payload above the field (R55). -/
def Obligations.ImmediatesExtendOrTakeTheHint : Prop := ∀ (e : Bool) (d a : BitVec 7) (j : BitVec 16) (i : BitVec 9) (n : BitVec 5),
  Computes (.movi e d j) (fun cx _ x => x.setG d.toNat (immS cx.himm j)) ∧
  Computes (.addi e d a i) (fun cx t x => x.setG d.toNat (t.g a.toNat + immS cx.himm i)) ∧
  Computes (.andi e d a i) (fun cx t x => x.setG d.toNat (t.g a.toNat &&& immZ cx.himm i)) ∧
  Computes (.ori e d a i) (fun cx t x => x.setG d.toNat (t.g a.toNat ||| immZ cx.himm i)) ∧
  Computes (.xori e d a i) (fun cx t x => x.setG d.toNat (t.g a.toNat ^^^ immZ cx.himm i)) ∧
  Computes (.shi e d a 0 n) (fun _ t x => x.setG d.toNat (t.g a.toNat <<< n.toNat)) ∧
  Computes (.shi e d a 1 n) (fun _ t x => x.setG d.toNat (t.g a.toNat >>> n.toNat)) ∧
  Computes (.shi e d a 2 n) (fun _ t x => x.setG d.toNat ((t.g a.toNat).sshiftRight n.toNat)) ∧
  Computes (.mov e d a) (fun _ t x => x.setG d.toNat (t.g a.toNat)) ∧
  immS none j = j.signExtend 32 ∧ immS none i = i.signExtend 32 ∧ immZ none i = BitVec.ofNat 32 i.toNat ∧
  (∀ h : BitVec 23, immS (some h) j = BitVec.ofNat 32 (h.toNat * 2 ^ 16 + j.toNat) ∧
    immS (some h) i = BitVec.ofNat 32 (h.toNat * 2 ^ 9 + i.toNat) ∧
    immZ (some h) i = BitVec.ofNat 32 (h.toNat * 2 ^ 9 + i.toNat))

/-- The 64-bit and address instructions (R83 to R85) and MOVW (R81): LDPC adds the word offset to the base of the
slice's code object and the PC of the LDPC itself. -/
def Obligations.WideAndAddressArithmetic : Prop := ∀ (e : Bool) (d a b : BitVec 7) (f : BitVec 2) (j : BitVec 16),
  Computes (.addw e d a b) (fun _ t x => x.setW d.toNat (t.w a.toNat + t.w b.toNat)) ∧
  Computes (.subw e d a b) (fun _ t x => x.setW d.toNat (t.w a.toNat - t.w b.toNat)) ∧
  Computes (.mulw e d a b 0) (fun _ t x => x.setW d.toNat (t.w a.toNat * t.w b.toNat)) ∧
  Computes (.mulw e d a b 1) (fun _ t x => x.setW d.toNat
    (BitVec.ofInt 64 ((t.g a.toNat).toInt * (t.g b.toNat).toInt))) ∧
  Computes (.mulw e d a b 2) (fun _ t x => x.setW d.toNat
    (BitVec.ofNat 64 ((t.g a.toNat).toNat * (t.g b.toNat).toNat))) ∧
  Computes (.shlw e d a b) (fun _ t x => x.setW d.toNat
    (if 64 ≤ (t.g b.toNat).toNat then 0 else t.w a.toNat <<< (t.g b.toNat).toNat)) ∧
  Computes (.shrw e d a b 0) (fun _ t x => x.setW d.toNat
    (if 64 ≤ (t.g b.toNat).toNat then 0 else t.w a.toNat >>> (t.g b.toNat).toNat)) ∧
  Computes (.shrw e d a b 1) (fun _ t x => x.setW d.toNat
    ((t.w a.toNat).sshiftRight (min (t.g b.toNat).toNat 63))) ∧
  Computes (.leaw e d a b f) (fun _ t x => x.setW d.toNat
    (t.w a.toNat + BitVec.ofInt 64 ((t.g b.toNat).toInt * 2 ^ f.toNat))) ∧
  Computes (.movw e d a) (fun _ t x => x.setW d.toNat (t.w a.toNat)) ∧
  (∀ s g ts, s.issues (.ldpc e d j) g ts = true → exec (.ldpc e d j) s = s.lanes (.ldpc e d j) g ts fun cx _ x =>
    x.setW d.toNat ((s.slice g.slice).codeBase + cx.pc.setWidth 64 +
      BitVec.ofInt 64 (4 * (immS cx.himm j).toInt)))

/-- CMP, CMPW and CMPI write the condition that their cond field names (R86), CMPI_V1 likewise under version 1; the
immediate is signed, of 7 bits, or of 30 bits under HIMM (R55). -/
def Obligations.ComparesWriteTheirCondition : Prop := ∀ (e : Bool) (p : BitVec 6) (a b : BitVec 7) (c : BitVec 3) (i : BitVec 7),
  Computes (.cmp e p a b c) (fun _ t x => x.setP p.toNat (icond c (t.g a.toNat) (t.g b.toNat))) ∧
  Computes (.cmpw e p a b c) (fun _ t x => x.setP p.toNat (icond c (t.w a.toNat) (t.w b.toNat))) ∧
  Computes (.cmpi e p a c i) (fun cx t x => x.setP p.toNat (icond c (t.g a.toNat) (immS cx.himm i))) ∧
  Computes (.cmpiV1 e p a c i) (fun cx t x => x.setP p.toNat (icond c (t.g a.toNat) (immS cx.himm i))) ∧
  (∀ (n : Nat) (x y : BitVec n),
    icond 0 x y = decide (x = y) ∧ icond 1 x y = decide (x ≠ y) ∧
    icond 2 x y = decide (x.toInt < y.toInt) ∧ icond 3 x y = decide (y.toInt ≤ x.toInt) ∧
    icond 4 x y = decide (x.toNat < y.toNat) ∧ icond 5 x y = decide (y.toNat ≤ x.toNat) ∧
    icond 6 x y = decide (x &&& y ≠ 0) ∧ icond 7 x y = decide (x &&& y = 0)) ∧
  immS none i = i.signExtend 32 ∧ (∀ h : BitVec 23, immS (some h) i =
    BitVec.ofInt 32 (if 2 ^ 29 ≤ h.toNat * 128 + i.toNat then ((h.toNat * 128 + i.toNat : Nat) : Int) - 2 ^ 30
      else ((h.toNat * 128 + i.toNat : Nat) : Int)))

/-- PLOG on predicates, P2G gathering them into a register, and G2P scattering a register into those that a mask names
(R87, R88): p0 reads true and discards writes. -/
def Obligations.PredicateLogicAndBanks : Prop := ∀ (e : Bool) (d a b : BitVec 7),
  Computes (.plog e d a b 0) (fun _ t x => x.setP d.toNat (t.p a.toNat && t.p b.toNat)) ∧
  Computes (.plog e d a b 1) (fun _ t x => x.setP d.toNat (t.p a.toNat || t.p b.toNat)) ∧
  Computes (.plog e d a b 2) (fun _ t x => x.setP d.toNat (t.p a.toNat ^^ t.p b.toNat)) ∧
  Computes (.plog e d a b 3) (fun _ t x => x.setP d.toNat (t.p a.toNat && !t.p b.toNat)) ∧
  Computes (.p2g e d 0) (fun _ t x => x.setG d.toNat (BitVec.ofFnLE fun k : Fin 32 => t.p k)) ∧
  Computes (.p2g e d 1) (fun _ t x => x.setG d.toNat
    (BitVec.ofFnLE fun k : Fin 32 => decide ((k : Nat) < 16) && t.p (32 + k))) ∧
  Computes (.g2p e a b 0) (fun _ t x => ((List.range 32).drop 1).foldl (fun y k =>
    if (t.g b.toNat).getLsbD k then y.setP k ((t.g a.toNat).getLsbD k) else y) x) ∧
  Computes (.g2p e a b 1) (fun _ t x => (List.range 16).foldl (fun y k =>
    if (t.g b.toNat).getLsbD k then y.setP (32 + k) ((t.g a.toNat).getLsbD k) else y) x)

/-! ### Floating-point instructions -/

/-- FADD, FSUB, FMUL, FFMA, FMIN and FMAX in .f32, .f64 and .bf16x2, under the rounding mode of R66 and FTZ, with
their flags merged into %fpflags; FCMP writes a predicate (R129 to R131). What an encoding stands for (R121), and a
flushed input (R126). Of finite numbers a sum, a difference, a product and a fused product and sum are round_to of the
exact number, and where that is 0 a zero of the sign of R129; a comparison is that of the numbers, and a minimum or
maximum of different numbers is that operand. A NaN operand, ∞ − ∞ and 0 × ∞ give the canonical NaN. -/
def Obligations.FloatArithmeticMergesItsFlags : Prop :=
  (∀ (e : Bool) (d a b : BitVec 7) (f : BitVec 2) (p : BitVec 6) (ty : BitVec 1) (c : BitVec 2),
  Computes (.fadd e d a b f) (fun cx t => fpBin (fun fm => fpAdd fm (cx.mode t) t.ftz) f d.toNat a.toNat b.toNat t) ∧
  Computes (.fsub e d a b f) (fun cx t => fpBin (fun fm => fpSub fm (cx.mode t) t.ftz) f d.toNat a.toNat b.toNat t) ∧
  Computes (.fmul e d a b f) (fun cx t => fpBin (fun fm => fpMul fm (cx.mode t) t.ftz) f d.toNat a.toNat b.toNat t) ∧
  Computes (.ffma e d a b f) (fun cx => ffmaWrite cx f d.toNat a.toNat b.toNat) ∧
  Computes (.fmin e d a b f) (fun _ t => fpBin (fun fm => fpPick false fm t.ftz) f d.toNat a.toNat b.toNat t) ∧
  Computes (.fmax e d a b f) (fun _ t => fpBin (fun fm => fpPick true fm t.ftz) f d.toNat a.toNat b.toNat t) ∧
  Computes (.fcmp e p a b ty c) (fun cx t x =>
    (x.setP p.toNat (fcmpRes cx ty c a.toNat b.toNat t).1).orF (fcmpRes cx ty c a.toNat b.toNat t).2)) ∧
  (∀ (f : Fmt) (b : Nat),
    let S := b / 2 ^ (f.width - 1) % 2
    let E := b / 2 ^ f.frac % 2 ^ f.expo
    let M := b % 2 ^ f.frac
    (E = 0 → (f.dec b).holds ((-1) ^ S * 2 ^ (1 - (f.bias : Int)) * (M / 2 ^ f.frac))) ∧
    (0 < E → (if f.hasInf then E < 2 ^ f.expo - 1 else f = .e4m3 → E = 15 → M ≠ 7) →
      (f.dec b).holds ((-1) ^ S * 2 ^ ((E : Int) - f.bias) * (1 + M / 2 ^ f.frac))) ∧
    (f.hasInf = true → E = 2 ^ f.expo - 1 → if M = 0 then f.dec b = .inf (S == 1) else (f.dec b).isNan = true) ∧
    (f = .e4m3 → E = 15 → M = 7 → (f.dec b).isNan = true) ∧ ((f.dec b).isNan = false → (f.dec b).neg? = (S == 1)) ∧
    (f.flushes = true → E = 0 → M ≠ 0 → f.input true b = .zero (S == 1)) ∧
    (f.flushes = false ∨ E ≠ 0 ∨ M = 0 → f.input true b = f.dec b) ∧ f.input false b = f.dec b) ∧
  (∀ (f : Fmt) (mode : Nat) (ftz : Bool) (a b z : Nat) (X Y Z : ℝ), mode < 4 →
    let x := f.input ftz a
    let y := f.input ftz b
    let w := f.input ftz z
    (x.holds X → y.holds Y →
      (X + Y ≠ 0 → f.RoundTo mode false ftz (X + Y) (fpAdd f mode ftz a b)) ∧
      (X + Y = 0 → fpAdd f mode ftz a b =
        (f.signBits (if X = 0 ∧ x.neg? = y.neg? then x.neg? else mode == 2), 0)) ∧
      (X - Y ≠ 0 → f.RoundTo mode false ftz (X - Y) (fpSub f mode ftz a b)) ∧
      (X - Y = 0 → fpSub f mode ftz a b =
        (f.signBits (if X = 0 ∧ x.neg? = !y.neg? then x.neg? else mode == 2), 0)) ∧
      (X * Y ≠ 0 → f.RoundTo mode false ftz (X * Y) (fpMul f mode ftz a b)) ∧
      (X * Y = 0 → fpMul f mode ftz a b = (f.signBits (x.neg? != y.neg?), 0)) ∧
      (w.holds Z → X * Y + Z ≠ 0 → f.RoundTo mode false ftz (X * Y + Z) (fpFma f mode ftz a b z)) ∧
      (w.holds Z → X * Y + Z = 0 → fpFma f mode ftz a b z =
        (f.signBits (if X * Y = 0 ∧ (x.neg? != y.neg?) = w.neg? then w.neg? else mode == 2), 0)) ∧
      ((fpCmp f ftz 0 a b).1 = true ↔ X < Y) ∧ ((fpCmp f ftz 1 a b).1 = true ↔ X ≤ Y) ∧
      ((fpCmp f ftz 2 a b).1 = true ↔ X = Y) ∧ (fpCmp f ftz 3 a b).1 = false ∧
      (X < Y → fpPick false f ftz a b = (f.flushed ftz a, 0) ∧ fpPick true f ftz a b = (f.flushed ftz b, 0)) ∧
      (Y < X → fpPick false f ftz a b = (f.flushed ftz b, 0) ∧ fpPick true f ftz a b = (f.flushed ftz a, 0))) ∧
    (x.isNan = true ∨ y.isNan = true → fpAdd f mode ftz a b = (f.nanBits, sigNV [x, y]) ∧
      fpSub f mode ftz a b = (f.nanBits, sigNV [x, y]) ∧ fpMul f mode ftz a b = (f.nanBits, sigNV [x, y])) ∧
    (∀ n, x = .inf n → (y = .inf !n → fpAdd f mode ftz a b = (f.nanBits, NV)) ∧
      (y = .inf n → fpSub f mode ftz a b = (f.nanBits, NV)) ∧
      (y.holds Y → fpAdd f mode ftz a b = roundTo f mode false ftz (.inf n)) ∧
      (y.holds 0 → fpMul f mode ftz a b = (f.nanBits, NV) ∧ fpFma f mode ftz a b z = (f.nanBits, NV))))

/-- FCVT and ICVT convert between formats at once; the special functions set their flags at once and put their result
in flight under c.ax (R132 to R134). A conversion of a finite number is round_to of it, and one to an integer is the
number rounded to an integer, held to the range. The reciprocal, the square root and the reciprocal square root of a
finite number are round_to of the exact one, so are the power of two of a whole number below 256 in magnitude and the
logarithm of a power of two other than 1, and the special inputs give the values and flags of R134's table. -/
def Obligations.ConversionsAndSpecialFunctions : Prop :=
  (∀ (e : Bool) (d a : BitVec 7) (fr tt m : BitVec 3) (k f : BitVec 2),
  Computes (.fcvt e d a fr tt) (fun cx t x => x.fpOut (Fmt.ofCode tt.toNat) d.toNat
    (fpCvt (Fmt.ofCode fr.toNat) (Fmt.ofCode tt.toNat) (cx.mode t) cx.sat t.ftz
      (t.fpIn (Fmt.ofCode fr.toNat) a.toNat))) ∧
  Computes (.icvt e d a m k f) (fun cx => icvtWrite cx d.toNat a.toNat m k f) ∧
  Computes (.rcp e d a f) (fun cx t => specialWrite .rcp f (if f = 1 then cx.mode t else 0) cx d.toNat a.toNat t) ∧
  Computes (.sqrt e d a f) (fun cx t => specialWrite .sqrt f (cx.mode t) cx d.toNat a.toNat t) ∧
  Computes (.rsq e d a) (fun cx => specialWrite .rsq 0 0 cx d.toNat a.toNat) ∧
  Computes (.ex2 e d a) (fun cx => specialWrite .ex2 0 0 cx d.toNat a.toNat) ∧
  Computes (.lg2 e d a) (fun cx => specialWrite .lg2 0 0 cx d.toNat a.toNat) ∧
  Computes (.sin e d a) (fun cx => specialWrite .sin 0 0 cx d.toNat a.toNat) ∧
  Computes (.cos e d a) (fun cx => specialWrite .cos 0 0 cx d.toNat a.toNat) ∧
  Computes (.tanh e d a) (fun cx => specialWrite .tanh 0 0 cx d.toNat a.toNat)) ∧
  (∀ (fr f : Fmt) (mode : Nat) (sat ftz : Bool) (a : Nat) (X : ℝ), mode < 4 →
    let x := fr.input ftz a
    (x.isNan = true → (fpCvt fr f mode sat ftz a).1 = f.nanBits) ∧
    (x.holds X →
      (X ≠ 0 → f.RoundTo mode sat ftz X (fpCvt fr f mode sat ftz a)) ∧
      (X = 0 → fpCvt fr f mode sat ftz a = (f.signBits x.neg?, 0)) ∧
      (X ≠ 0 → fr.RoundTo mode false ftz (1 / X) (fpSpecial .rcp fr mode ftz a)) ∧
      (0 < X → fr.RoundTo mode false ftz (Real.sqrt X) (fpSpecial .sqrt fr mode ftz a) ∧
        fr.RoundTo mode false ftz (1 / Real.sqrt X) (fpSpecial .rsq fr mode ftz a)))) ∧
  (∀ (ftz : Bool) (a : Nat) (n : Int),
    let x := Fmt.fp32.input ftz a
    (x.holds n → n.natAbs < 256 → Fmt.fp32.RoundTo 0 false ftz ((2 : ℝ) ^ n) (fpSpecial .ex2 .fp32 0 ftz a)) ∧
    (x.holds ((2 : ℝ) ^ n) → n ≠ 0 → Fmt.fp32.RoundTo 0 false ftz n (fpSpecial .lg2 .fp32 0 ftz a))) ∧
  (∀ (f : Fmt) (mode : Nat) (sat ftz : Bool) (n : Int), mode < 4 →
    (n ≠ 0 → f.RoundTo mode sat ftz n (roundTo f mode sat ftz (intVal n))) ∧
    (n = 0 → roundTo f mode sat ftz (intVal n) = (0, 0))) ∧
  (∀ (f : Fmt) (mode : Nat) (ftz : Bool) (lo hi : Int) (a : Nat) (X : ℝ), mode < 4 →
    let x := f.input ftz a
    let r := fpToInt f mode ftz lo hi a
    (x.isNan = true → r = (0, NV)) ∧ (∀ n, x = .inf n → r = (if n then lo else hi, NV)) ∧
    (x.holds X → ∃ (k : Nat) (n : Int), Rounds mode x.neg? |X| 1 k ∧ n = (if x.neg? then -(k : Int) else k) ∧
      (n < lo → r = (lo, NV)) ∧ (lo ≤ n → hi < n → r = (hi, NV)) ∧
      (lo ≤ n → n ≤ hi → r.1 = n ∧ ((n : ℝ) = X → r.2 = 0) ∧ ((n : ℝ) ≠ X → r.2 = NX)))) ∧
  (∀ n s : Bool,
    (∀ fn, SFn.val fn (.nan s) = (.nan false, if s then NV else 0)) ∧
    SFn.val .rcp (.zero n) = (.inf n, DZ) ∧ SFn.val .rsq (.zero n) = (.inf n, DZ) ∧
    SFn.val .sqrt (.zero n) = (.zero n, 0) ∧ SFn.val .ex2 (.zero n) = (.fin false 1 0 false, 0) ∧
    SFn.val .lg2 (.zero n) = (.inf true, DZ) ∧ SFn.val .sin (.zero n) = (.zero n, 0) ∧
    SFn.val .cos (.zero n) = (.fin false 1 0 false, 0) ∧ SFn.val .tanh (.zero n) = (.zero n, 0) ∧
    SFn.val .rcp (.inf n) = (.zero n, 0) ∧
    SFn.val .rsq (.inf n) = (if n then (.nan false, NV) else (.zero false, 0)) ∧
    SFn.val .sqrt (.inf n) = (if n then (.nan false, NV) else (.inf false, 0)) ∧
    SFn.val .ex2 (.inf n) = (if n then (.zero false, 0) else (.inf false, 0)) ∧
    SFn.val .lg2 (.inf n) = (if n then (.nan false, NV) else (.inf false, 0)) ∧
    SFn.val .sin (.inf n) = (.nan false, NV) ∧ SFn.val .cos (.inf n) = (.nan false, NV) ∧
    SFn.val .tanh (.inf n) = (.fin n 1 0 false, 0)) ∧
  (∀ (m : Nat) (e : Int) (s : Bool), m ≠ 0 → SFn.val .rsq (.fin true m e s) = (.nan false, NV) ∧
    SFn.val .sqrt (.fin true m e s) = (.nan false, NV) ∧ SFn.val .lg2 (.fin true m e s) = (.nan false, NV))

/-- DOT4, DOT8, PACK, UNPK and SCL (R135 to R138). An integer dot product adds the products of the two's-complement
elements to the third operand; one of finite elements is round_to of the exact sum. An element that PACK, UNPK or SCL
converts is round_to of it times the power of two of the control word, or the canonical NaN under E = 0xFF, and PACK
puts its two elements into the slot named and keeps every other bit. -/
def Obligations.DotProductsPackingAndScaling : Prop :=
  (∀ (e : Bool) (d a b : BitVec 7) (f : BitVec 2),
  Computes (.dot4 e d a b f) (fun cx t x =>
    if f = 2 then x.setGI d.toNat (dotInt 8 4 cx.sat (t.g d.toNat) (t.g a.toNat).toNat (t.g b.toNat).toNat)
    else x.setGF d.toNat (dotFloat (if f = 0 then .e4m3 else .e5m2) 4 (cx.mode t) t.ftz
      (t.g d.toNat).toNat (t.g a.toNat).toNat (t.g b.toNat).toNat)) ∧
  Computes (.dot8 e d a b f) (fun cx t x =>
    if f = 1 then x.setGI d.toNat (dotInt 4 8 cx.sat (t.g d.toNat) (t.g a.toNat).toNat (t.g b.toNat).toNat)
    else x.setGF d.toNat (dotFloat .e2m1 8 (cx.mode t) t.ftz
      (t.g d.toNat).toNat (t.g a.toNat).toNat (t.g b.toNat).toNat)) ∧
  Computes (.pack e d a b f) (fun cx t x => x.setGF d.toNat
    (packRes f (cx.mode t) cx.sat t.ftz (t.g d.toNat).toNat (t.g b.toNat) (t.w a.toNat).toNat)) ∧
  Computes (.unpk e d a b f) (fun cx t x => x.setWF d.toNat
    (unpkRes f (cx.mode t) t.ftz (t.g b.toNat) (t.g a.toNat).toNat)) ∧
  Computes (.scl e d a b f) (fun cx t x =>
    if f = 0 then x.setGF d.toNat (sclElem (cx.mode t) t.ftz (t.g b.toNat) .fp32 (t.g a.toNat).toNat)
    else if f = 1 then x.setWF d.toNat (sclElem (cx.mode t) t.ftz (t.g b.toNat) .fp64 (t.w a.toNat).toNat)
    else x.setGF d.toNat (pairRd
      (sclElem (cx.mode t) t.ftz (t.g b.toNat) .bf16 ((t.g a.toNat).toNat % 65536))
      (sclElem (cx.mode t) t.ftz (t.g b.toNat) .bf16 ((t.g a.toNat).toNat / 65536))))) ∧
  (∀ (w n : Nat) (sat : Bool) (z a b : Word), (w = 8 ∧ n = 4) ∨ (w = 4 ∧ n = 8) →
    dotInt w n sat z a.toNat b.toNat =
      (let v := z.toInt + ((List.range n).map fun j =>
        (a.extractLsb' (w * j) w).toInt * (b.extractLsb' (w * j) w).toInt).sum
       if sat then satS v else (BitVec.ofInt 32 v, 0))) ∧
  (∀ (f : Fmt) (n mode : Nat) (ftz : Bool) (z a b : Nat) (X Y : Nat → ℝ) (Z : ℝ), mode < 4 →
    (∀ j < n, (f.dec (elemAt f.width a j)).holds (X j)) → (∀ j < n, (f.dec (elemAt f.width b j)).holds (Y j)) →
    (Fmt.fp32.input ftz z).holds Z →
    let s := Z + ((List.range n).map fun j => X j * Y j).sum
    s ≠ 0 → Fmt.fp32.RoundTo mode false ftz s (dotFloat f n mode ftz z a b)) ∧
  (∀ (f : Fmt) (mode : Nat) (sat ftz : Bool) (c : Word) (x : Nat) (X : ℝ), mode < 4 →
    let ev := scaleE c
    (ev ≠ 0xFF →
      ((Fmt.fp32.input ftz x).holds X → X ≠ 0 →
        f.RoundTo mode sat ftz (X * 2 ^ (127 - (ev : Int))) (packElem f mode sat ftz ev x)) ∧
      ((f.input ftz x).holds X → X ≠ 0 →
        Fmt.fp32.RoundTo mode false ftz (X * 2 ^ ((ev : Int) - 127)) (unpkElem f mode ftz ev x) ∧
        f.RoundTo mode false ftz (X * 2 ^ ((ev : Int) - 127)) (sclElem mode ftz c f x))) ∧
    (ev = 0xFF → packElem f mode sat ftz ev x = (f.nanBits, NV) ∧ (unpkElem f mode ftz ev x).1 = Fmt.fp32.nanBits ∧
      sclElem mode ftz c f x = (f.nanBits, NV))) ∧
  (∀ (f : BitVec 2) (mode : Nat) (sat ftz : Bool) (old c : Word) (x : DWord), mode < 4 →
    let w := (packFmt f).width
    let k := (if f = 2 then 8 * ((c.toNat / 256) % 4) else if f = 3 then 0 else 16 * ((c.toNat / 256) % 2))
    let e0 := packElem (packFmt f) mode sat ftz (c.toNat % 256) (loWord x).toNat
    let e1 := packElem (packFmt f) mode sat ftz (c.toNat % 256) (hiWord x).toNat
    let r := packRes f mode sat ftz old.toNat c x.toNat
    r.2 = e0.2 ||| e1.2 ∧ ((BitVec.ofNat 32 r.1).extractLsb' k w).toNat = e0.1 ∧
      ((BitVec.ofNat 32 r.1).extractLsb' (k + w) w).toNat = e1.1 ∧
      ∀ i, i < k ∨ k + 2 * w ≤ i → (BitVec.ofNat 32 r.1).getLsbD i = old.getLsbD i)

/-! ### Hints and control flow -/

/-- A hint waits for its target with its own word; HGRD covers CNT + 1 instructions; TRL detaches the results that its
mask does not name; NOP and LAND do nothing (R53 to R60, R97). -/
def Obligations.HintsWaitForTheirTarget : Prop := ∀ (e : Bool) (pl : BitVec 23) (p : BitVec 6) (n : BitVec 1) (c : BitVec 2)
    (cl dm yl : BitVec 1) (df : BitVec 13),
  Computes (.himm e pl) (fun _ _ x => { x with hints := { x.hints with himm := encode (.himm e pl) } }) ∧
  Computes (.hmod e pl) (fun _ _ x => { x with hints := { x.hints with hmod := encode (.hmod e pl) } }) ∧
  Computes (.hgrd e p n c) (fun _ _ x =>
    { x with hints := { x.hints with hgrd := encode (.hgrd e p n c), cover := c.toNat + 1 } }) ∧
  Computes (.hsch e cl df dm yl) (fun _ _ x =>
    { x with hints := { x.hints with hsch := encode (.hsch e cl df dm yl) } }) ∧
  Computes (.trl pl) (fun cx _ x => x.trailer pl cx.pos) ∧
  DoesTogether (.nop e) (fun _ _ s => s) ∧ DoesTogether (.land e) (fun _ _ s => s)

/-- BR goes to its target where its predicate says so, and to the next word elsewhere; JMPI goes to the landing pad
that its check found, once the word there has come if it lies on another device; the run's end takes the thread there
(R45, R95, R97). Where the spec leaves a point open, or says it only by inference, this is the model's choice (log 38,
71). -/
def Obligations.BranchesSetWhereTheRunGoesOn : Prop := ∀ (e : Bool) (p : BitVec 6) (n : BitVec 1) (o : BitVec 16) (a : BitVec 7),
  Computes (.br e p n o) (fun cx t x => { x with after := some (.goto
    (if t.p p.toNat ≠ decide (n = 1) then cx.pc + 4 * immS cx.himm o else cx.pc + 4)) }) ∧
  AccessesFar (.jmpi e a) (fun _ s t => s.landingGrans t (t.w a.toNat)) (fun _ _ => false)
    (fun _ s t => s.landingCheck t (t.w a.toNat)) (fun _ t r s =>
    (s.holdAcc t.core r.2).setThread t.uid fun x => { x with after := some (.goto r.1) })

/-- CALL and CALLI push the offset of the next word on the call stack and go to their target; RET pops it, or ends the
thread with the value 0 on an empty stack; CALLI and RET act once what they read of other devices is there (R96).
Where the spec leaves a point open, or says it only by inference, this is the model's choice (log 16, 38, 71, 81). -/
def Obligations.CallsPushAndReturnsPop : Prop := ∀ (e : Bool) (o : BitVec 23) (a : BitVec 7),
  Accesses (.call e o) (fun _ s t => s.pushCheck t) (fun cx t c s =>
    ((s.holdAcc t.core c.acc).putAt t c.acc.place c.acc.cmp c.ea (leBytes 4 (cx.pc + 4).toNat) 0).setThread t.uid
      fun x => { x with after := some (.goto (cx.pc + 4 * immS cx.himm o)), csp := x.csp - 4 }) ∧
  AccessesFar (.calli e a) (fun _ s t => s.landingGrans t (t.w a.toNat)) (fun _ _ => false)
    (fun _ s t => calliCheck a.toNat s t) (fun cx t r s =>
    (((s.holdAcc t.core r.1.2).holdAcc t.core r.2.acc).putAt t r.2.acc.place r.2.acc.cmp r.2.ea
      (leBytes 4 (cx.pc + 4).toNat) 0).setThread t.uid
        fun x => { x with after := some (.goto r.1.1), csp := x.csp - 4 }) ∧
  AccessesFar (.ret e) (fun _ s t => s.retGrans t) (fun _ _ => false) (fun _ s t => s.retCheck t) (fun _ t r s => s.setThread t.uid fun x =>
    match r with
    | none => x.quit (.exited 0)
    | some v => { x with after := some (.goto v), csp := x.csp + 4 })

/-- JOIN and YIELD park the thread where it stands, EXIT ends it with its exit value, and WAITC parks the group until
the named counters of its live threads have fallen (R99 to R103). -/
def Obligations.JoinYieldExitAndWaitc : Prop := ∀ (e : Bool) (a : BitVec 7) (m : BitVec 4) (n : BitVec 6),
  Computes (.join e a) (fun cx t x => { x with park := .join (t.w a.toNat), parkPc := cx.pc }) ∧
  Computes (.exit e a) (fun _ t x => x.quit (.exited (t.g a.toNat))) ∧
  Computes (.yield e) (fun cx _ x => { x with park := .yield, parkPc := cx.pc }) ∧
  DoesTogether (.waitc e m n) (fun cx ts s =>
    s.setGroup cx.gid fun x => { x with waits := x.waits ++ [.counters m n.toNat (ts.map (·.uid)) cx.pc] })

/-- TRAP raises a Trap fault with the code as %faddr and SUBCODE 0, under HIMM the code of 32 bits (R111); BRK raises
a Debug fault with the break code (R118). -/
def Obligations.TrapAndBreakRaiseTheirFault : Prop := ∀ (e : Bool) (i : BitVec 9) (c : BitVec 23),
  Raises (.trap e i) (fun cx _ => ⟨0x10, 0, (immZ cx.himm i).setWidth 64, none⟩) ∧
  Raises (.brk e c) (fun _ _ => ⟨0x0F, 1, c.setWidth 64, none⟩)

/-- RFE reads the run context of the fault frame, once it is there; the run's end takes the thread back to where it
faulted, or past it for .skip; a thread stopped at a run boundary or by a debugger goes back to where it stood with
the frame's hints under either RFE (R112, R119). Where the spec leaves a point open, or says it only by inference,
this is the model's choice (log 15, 38, 80). -/
def Obligations.RfeTakesTheThreadBack : Prop := ∀ (e : Bool),
  AccessesFar (.rfeReplay e) (fun _ s t => s.frameGrans t) (fun _ _ => false) (fun _ s t => s.frameCtx t) (fun _ t c s => s.setThread t.uid fun x =>
    { x with after := some (.rfe false c.k c.hints) }) ∧
  AccessesFar (.rfeSkip e) (fun _ s t => s.frameGrans t) (fun _ _ => false) (fun _ s t => s.frameCtx t) (fun _ t c s => s.setThread t.uid fun x =>
    { x with after := some (.rfe true c.k c.hints), gather := x.gather ++ s.skipArrival t c }) ∧
  (∀ (t : Thread) (skip : Bool) (k : List Word) (h : Hints), t.after = some (.rfe skip k h) →
    (t.runOver).mode = (if t.mode = .superHandler then .supervisor else .user) ∧ (t.runOver).csp = t.userCsp ∧
    (t.runOver).pc = (if t.resume.boundary || !skip then t.resume.pc else t.resume.pc + 4) ∧
    (t.resume.boundary = true → (t.runOver).pos = t.resume.pos ∧ (t.runOver).hints = h) ∧
    (t.resume.boundary = false → skip = false → (t.runOver).pos = t.resume.pos ∧ (t.runOver).hints = h) ∧
    (t.resume.boundary = false → skip = true → t.resume.ends = false →
      (t.runOver).pos = t.resume.pos + 1 ∧ (t.runOver).hints = h.consume) ∧
    (∀ n, n < 120 → (t.runOver).g n = t.g n) ∧ (t.runOver).preds = t.preds ∧ (t.runOver).frec = t.frec)

/-! ### Memory instructions -/

/-- The loads check the address of R147 for their own size, in every acting thread before any acts (R148), and put the
loaded value in flight (R149); LDS does so in the scratchpad. The value of the bytes, the first lowest: LDB and LDH
extend with zeros, LDD fills a pair, LDQ two pairs, g0 takes nothing, and w0 puts the high half into g1 alone (R14,
R15, R146, R149). The bytes are those of the scratchpads, or of device memory as the core sees it, or at its die's L2
under the bypassing policy, once the line has been brought in (R151). Where the spec leaves a point open, or says it
only by inference, this is the model's choice (log 32, 38, 67, 68, 78). -/
def Obligations.LoadsPutTheirValueInFlight : Prop := (∀ (e : Bool) (v b : BitVec 7) (o : BitVec 9),
  Accesses (.ldb e v b o) (fun cx s t => s.checkAt t (genericEa cx t b.toNat o 1) 1 .read) (loadEff (.byte v.toNat)) ∧
  Accesses (.ldh e v b o) (fun cx s t => s.checkAt t (genericEa cx t b.toNat o 2) 2 .read) (loadEff (.half v.toNat)) ∧
  Accesses (.ldw e v b o) (fun cx s t => s.checkAt t (genericEa cx t b.toNat o 4) 4 .read) (loadEff (.word v.toNat)) ∧
  Accesses (.ldd e v b o) (fun cx s t => s.checkAt t (genericEa cx t b.toNat o 8) 8 .read) (loadEff (.dword v.toNat)) ∧
  Accesses (.ldq e v b o) (fun cx s t => s.checkAt t (genericEa cx t b.toNat o 16) 16 .read)
    (loadEff (.quad v.toNat)) ∧
  Accesses (.lds e v b o) (fun cx s t => checkScratch cx s t b.toNat o) (loadEff (.word v.toNat)) ∧
  (∀ (cx : Cx) (t : Thread) (n : Nat), genericEa cx t b.toNat o n =
    t.w b.toNat + BitVec.ofInt 64 (n * (immS cx.himm o).toInt)) ∧
  (∀ (cx : Cx) (t : Thread), scratchOff cx t b.toNat o = (t.g b.toNat).toNat + 4 * (immS cx.himm o).toInt)) ∧
  (∀ (n : Nat) (b0 b1 b2 b3 b4 b5 b6 b7 c0 c1 c2 c3 c4 c5 c6 c7 : Byte),
    let lo : Word := b3 ++ b2 ++ b1 ++ b0
    let hi : Word := b7 ++ b6 ++ b5 ++ b4
    let pair := fun (m : Nat) (l h : Word) => (if m = 0 then [] else [(Dest.reg (2 * m), l)]) ++ [(Dest.reg (2 * m + 1), h)]
    (∀ l ∈ [LoadTo.byte 0, .half 0, .word 0], ∀ bs, l.dests bs = []) ∧
    (0 < n → (LoadTo.byte n).dests [b0] = [(.reg n, b0.setWidth 32)] ∧
      (LoadTo.half n).dests [b0, b1] = [(.reg n, (b1 ++ b0).setWidth 32)] ∧
      (LoadTo.word n).dests [b0, b1, b2, b3] = [(.reg n, lo)]) ∧
    (LoadTo.dword n).dests [b0, b1, b2, b3, b4, b5, b6, b7] = pair n lo hi ∧
    (LoadTo.quad n).dests [b0, b1, b2, b3, b4, b5, b6, b7, c0, c1, c2, c3, c4, c5, c6, c7] =
      pair n lo hi ++ pair (n + 1) (c3 ++ c2 ++ c1 ++ c0) (c7 ++ c6 ++ c5 ++ c4)) ∧
  (∀ (l : LoadTo) (cx : Cx) (t : Thread) (c : Chk) (s : State), (∃ x ∈ s.threads, x.uid = t.uid) →
    (∀ home pa, c.acc.place ≠ .remote home pa) →
    let o := (s.holdAcc t.core c.acc).loadBytes t.core c.acc l.size cx.cache
    (∃ p ∈ ((readEff l cx t c s).thread t.uid).pend, p.cls = .ld ∧ p.dests = l.dests o.2.1 ∧ p.pc = cx.pc ∧
      p.fault = if o.2.2 then some (memPoison c.ea) else none) ∧
    (∀ pa k, c.acc.place = .phys pa → k < l.size → o.2.1.getD k 0 =
      if c.acc.isGlobal && cx.cache == 3 then o.1.mem.atDie (o.1.core t.core).die (pa + k)
      else o.1.l1Byte (o.1.core t.core) (pa + k)) ∧
    (∀ u a k, c.acc.place = .scratch u a → k < l.size → o.2.1.getD k 0 = (s.team u).scratchByte (a + k)) ∧
    (∀ x a k, c.acc.place = .chip x a → k < l.size → o.2.1.getD k 0 = (s.slice x).chipByte (a + k)))

/-- The stores check the address of R147 for their own size and write the low bytes of their register, or pair, or two
pairs, in little-endian order (R149, R150); STS does so in the scratchpad. Where the spec leaves a point open, or says
it only by inference, this is the model's choice (log 32, 38, 69). -/
def Obligations.StoresWriteTheLowBytes : Prop := ∀ (e : Bool) (v b : BitVec 7) (o : BitVec 9),
  Accesses (.stb e v b o) (fun cx s t => s.checkAt t (genericEa cx t b.toNat o 1) 1 .write)
    (storeEff (fun _ t => leBytes 1 (t.g v.toNat).toNat) Cx.cache) ∧
  Accesses (.sth e v b o) (fun cx s t => s.checkAt t (genericEa cx t b.toNat o 2) 2 .write)
    (storeEff (fun _ t => leBytes 2 (t.g v.toNat).toNat) Cx.cache) ∧
  Accesses (.stw e v b o) (fun cx s t => s.checkAt t (genericEa cx t b.toNat o 4) 4 .write)
    (storeEff (fun _ t => leBytes 4 (t.g v.toNat).toNat) Cx.cache) ∧
  Accesses (.std e v b o) (fun cx s t => s.checkAt t (genericEa cx t b.toNat o 8) 8 .write)
    (storeEff (fun _ t => leBytes 8 (t.w v.toNat).toNat) Cx.cache) ∧
  Accesses (.stq e v b o) (fun cx s t => s.checkAt t (genericEa cx t b.toNat o 16) 16 .write)
    (storeEff (fun _ t => leBytes 8 (t.w v.toNat).toNat ++ leBytes 8 (t.w (v.toNat + 1)).toNat) Cx.cache) ∧
  Accesses (.sts e v b o) (fun cx s t => checkScratch cx s t b.toNat o)
    (storeEff (fun _ t => leBytes 4 (t.g v.toNat).toNat) fun _ => 0)

/-- The atomics check an aligned address in a pair and apply R165's operation to the value there; LDPOLL reads at its
scope, and PREF raises nothing (R161, R164 to R167). What an atomic writes over an old value, from its operand and,
for ACAS, from the register it compares with: sums of 32 and 64 bits, FP32 sums and pairs of BF16 sums rounded RNE,
signed and unsigned minimum and maximum, the bitwise operations, exchange, and compare-and-swap (R165). Where the spec
leaves a point open, or says it only by inference, this is the model's choice (log 32, 38, 69). -/
def Obligations.AtomicsApplyTheirOperation : Prop :=
  (∀ (e : Bool) (d a b : BitVec 7) (f : BitVec 2) (o : BitVec 9),
    (∀ n, n = (if f = 2 then 8 else 4) → Accesses (.aadd e d a b f) (fun _ s t => s.checkAt t (t.w a.toNat) n .atomic)
      (atomicEff fun t => ⟨0x90, f.toNat, n, t.sized n b.toNat, 0, oldDests n d.toNat⟩)) ∧
    Accesses (.amm e d a b f) (fun _ s t => s.checkAt t (t.w a.toNat) 4 .atomic)
      (atomicEff fun t => ⟨0x91, f.toNat, 4, (t.g b.toNat).toNat, 0, oldDests 4 d.toNat⟩) ∧
    Accesses (.alog e d a b f) (fun _ s t => s.checkAt t (t.w a.toNat) 4 .atomic)
      (atomicEff fun t => ⟨0x92, f.toNat, 4, (t.g b.toNat).toNat, 0, oldDests 4 d.toNat⟩) ∧
    (∀ n, n = (if f = 1 then 8 else 4) → Accesses (.acas e d a b f) (fun _ s t => s.checkAt t (t.w a.toNat) n .atomic)
      (atomicEff fun t => ⟨0x93, f.toNat, n, t.sized n b.toNat, t.sized n d.toNat, oldDests n d.toNat⟩)) ∧
    Accesses (.ldpoll e d a o) (fun cx s t => s.checkAt t (genericEa cx t a.toNat o 4) 4 .read) (pollEff d.toNat) ∧
    Does (.pref e d a o) (fun cx t s => prefEff d.toNat (genericEa cx t a.toNat o 128) t s)) ∧
  (∀ (x y c : BitVec 32) (p q : BitVec 64),
    atomicNew 0x90 0 x.toNat y.toNat 0 = some (x + y).toNat ∧
    atomicNew 0x90 1 x.toNat y.toNat 0 = some (fpAdd .fp32 0 false x.toNat y.toNat).1 ∧
    atomicNew 0x90 2 p.toNat q.toNat 0 = some (p + q).toNat ∧
    atomicNew 0x90 3 x.toNat y.toNat 0 = some
      ((fpAdd .bf16 0 false (x.setWidth 16).toNat (y.setWidth 16).toNat).1 +
        65536 * (fpAdd .bf16 0 false (x.extractLsb' 16 16).toNat (y.extractLsb' 16 16).toNat).1) ∧
    atomicNew 0x91 0 x.toNat y.toNat 0 = some (if x.toInt ≤ y.toInt then x else y).toNat ∧
    atomicNew 0x91 1 x.toNat y.toNat 0 = some (if y.toInt ≤ x.toInt then x else y).toNat ∧
    atomicNew 0x91 2 x.toNat y.toNat 0 = some (if x.toNat ≤ y.toNat then x else y).toNat ∧
    atomicNew 0x91 3 x.toNat y.toNat 0 = some (if y.toNat ≤ x.toNat then x else y).toNat ∧
    atomicNew 0x92 0 x.toNat y.toNat 0 = some (x &&& y).toNat ∧
    atomicNew 0x92 1 x.toNat y.toNat 0 = some (x ||| y).toNat ∧
    atomicNew 0x92 2 x.toNat y.toNat 0 = some (x ^^^ y).toNat ∧
    atomicNew 0x92 3 x.toNat y.toNat 0 = some y.toNat ∧
    atomicNew 0x93 0 x.toNat y.toNat c.toNat = (if x = c then some y.toNat else none) ∧
    (∀ r : BitVec 64, atomicNew 0x93 1 p.toNat q.toNat r.toNat = if p = r then some q.toNat else none))

/-- A fence below group scope (code 2) has no effect; from it up a fence waits for its threads' accesses, then
releases, acquires or does both; OFENCE drains the core's FIFO; LDACQ and STREL acquire and release at their scope;
CFLUSH and CINV act on the lines of a range (R183 to R191). Where the spec leaves a point open, or says it only by
inference, this is the model's choice (log 38, 39, 68, 74, 78). -/
def Obligations.FencesReleaseAndAcquire : Prop := ∀ (e : Bool) (sc : BitVec 4) (d a b : BitVec 7) (f : BitVec 2),
  (scopeOf sc < 2 → DoesTogether (.fenceAcq e sc) (fun _ _ s => s) ∧ DoesTogether (.fenceRel e sc) (fun _ _ s => s) ∧
    DoesTogether (.fenceAr e sc) (fun _ _ s => s)) ∧
  (2 ≤ scopeOf sc →
    DoesWhen (.fenceAcq e sc) (fun t _ => t.memoryOpen)
      (fun _ t s => (s.landReady t.uid).acquire t (scopeOf sc)) ∧
    DoesWhen (.fenceRel e sc) (releaseWaits (scopeOf sc))
      (fun _ t s => (s.landReady t.uid).release t (scopeOf sc)) ∧
    DoesWhen (.fenceAr e sc) (releaseWaits (scopeOf sc))
      (fun _ t s => ((s.landReady t.uid).release t (scopeOf sc)).acquire t (scopeOf sc))) ∧
  DoesWhen (.ofence e) (fun t _ => t.memoryOpen) (fun _ t s => s.drain t.core) ∧
  Accesses (.ldacq e d b sc) (fun _ s t => s.checkAt t (t.w b.toNat) 4 .read) (ldacqEff d.toNat (scopeOf sc)) ∧
  AccessesWhen (.strel e d b sc) (fun t s => decide (2 ≤ scopeOf sc) && releaseWaits (scopeOf sc) t s)
    (fun _ s t => s.checkAt t (t.w b.toNat) 4 .write) (strelEff d.toNat (scopeOf sc)) ∧
  Does (.cflush e a b f) (fun _ t s => cflushEff (f == 1) (t.w a.toNat) (t.g b.toNat).toNat t s) ∧
  Does (.cinv e a b f) (fun _ t s => cinvEff f.toNat (t.w a.toNat) (t.g b.toNat).toNat t s)

/-! ### Instructions of a group or a team -/

/-- A gathering instruction joins its group's instance, or completes at once under HMOD.PART (R193 to R195). From the
contributors' values (R170, R197 to R204): a ballot has a bit for each position whose predicate is true, a match for
each with the receiver's value, and CDETECT for each of those below the receiver; a vote asks whether any is true, all
are, or all agree; SHFL takes the value from the position above, below, at the exclusive-or or at the index, or keeps
the receiver's own where no contributor stands; BCAST gives all the value at the lowest contributor's index, or its
own; RED combines every value, in the pairs of R200 where the order matters, and nothing gives the identity and a
false predicate; SCAN combines those at or below the receiver, or below it, in the order of R201; TOPK gives the pair
with as many before it as the receiver's position modulo 2^f, and SORTKV that with as many before it as there are
contributors below the receiver, where a floating value stands by its sign and magnitude and every NaN outside the
numbers. Where the spec leaves a point open, or says it only by inference, this is the model's choice (log 24, 80). -/
def Obligations.GatheringJoinsAnInstance : Prop :=
  (∀ (e : Bool) (d a b : BitVec 7) (f : BitVec 2) (o v : BitVec 3) (x : BitVec 1),
  Gathers (.cdetect e d a) ∧ Gathers (.shfl e d a b f) ∧ Gathers (.bcast e d a b f) ∧ Gathers (.ballot e d a) ∧
  Gathers (.vote e d a f) ∧ Gathers (.red e d a o v f) ∧ Gathers (.scan e d a o x v f) ∧ Gathers (.topk e d a b f) ∧
  Gathers (.matchv e d a f) ∧ Gathers (.sortkv e d a b f)) ∧
  (∀ (e : Bool) (d a b : BitVec 7) (f : BitVec 2) (o v : BitVec 3) (x : BitVec 1) (w : Nat) (cs : List Lane) (own : Lane),
    gatherRes (.ballot e d a) w cs own = wDests d.toNat (ballotRes cs) ∧
    gatherRes (.matchv e d a f) w cs own = wDests d.toNat (matchRes cs own) ∧
    gatherRes (.cdetect e d a) w cs own = wDests d.toNat (cdetectRes cs own) ∧
    gatherRes (.vote e d a f) w cs own = pDests d.toNat (voteRes f.toNat cs) ∧
    gatherRes (.shfl e d a b f) w cs own = gDests d.toNat (shflRes f.toNat w cs own) ∧
    gatherRes (.red e d a o v f) w cs own =
      (let r := redRes o.toNat f.toNat w cs
       gDests d.toNat (r.getD (redIdent o.toNat f.toNat)) ++ pDests v.toNat r.isSome) ∧
    gatherRes (.bcast e d a b f) w cs own = gDests d.toNat (bcastRes f.toNat w cs own) ∧
    gatherRes (.scan e d a o x v f) w cs own =
      (let r := scanRes o.toNat f.toNat (x == 1) w cs own.pos
       gDests d.toNat (r.getD (redIdent o.toNat f.toNat)) ++ pDests v.toNat r.isSome) ∧
    gatherRes (.topk e d a b f) w cs own =
      (let r := topkRes f.toNat cs own.pos
       gDests d.toNat r.1 ++ gDests (d.toNat + 1) r.2) ∧
    gatherRes (.sortkv e d a b f) w cs own =
      (let r := sortRes f.toNat cs own
       gDests d.toNat r.1 ++ gDests (d.toNat + 1) r.2)) ∧
  (∀ (cs : List Lane) (own : Lane) (k : Nat), k < 64 →
    ((ballotRes cs).getLsbD k = true ↔ ∃ c ∈ cs, c.pos = k ∧ c.a ≠ 0) ∧
    ((matchRes cs own).getLsbD k = true ↔ ∃ c ∈ cs, c.pos = k ∧ c.a = own.a) ∧
    ((cdetectRes cs own).getLsbD k = true ↔ ∃ c ∈ cs, c.pos = k ∧ k < own.pos ∧ c.a = own.a)) ∧
  (∀ cs : List Lane, (voteRes 0 cs = true ↔ ∃ c ∈ cs, c.a ≠ 0) ∧ (voteRes 1 cs = true ↔ ∀ c ∈ cs, c.a ≠ 0) ∧
    (voteRes 2 cs = true ↔ ∀ c ∈ cs, ∀ x ∈ cs, c.a = x.a)) ∧
  (∀ (f w : Nat) (cs : List Lane) (own : Lane) (q : Int), (cs.map (·.pos)).Nodup → f < 4 →
    q = (if f = 0 then (own.pos : Int) - (own.b.toNat : Int) else if f = 1 then (own.pos : Int) + (own.b.toNat : Int)
      else if f = 2 then ((Nat.xor own.pos own.b.toNat : Nat) : Int) else ((own.b.toNat % w : Nat) : Int)) →
    (∀ c ∈ cs, (c.pos : Int) = q → shflRes f w cs own = loWord c.a) ∧
    ((∀ c ∈ cs, (c.pos : Int) ≠ q) → shflRes f w cs own = loWord own.a)) ∧
  (∀ (op f n : Nat) (cs : List Lane) (c : Lane), ((c :: cs).map (·.pos)).Nodup → (∀ x ∈ c :: cs, x.pos < 2 ^ n) →
    op < 6 → f ≠ 2 →
    redRes op f (2 ^ n) (c :: cs) = some ((cs.map fun x => loWord x.a).foldl (redOp op f) (loWord c.a)) ∧
    redRes op f (2 ^ n) [] = none) ∧
  (∀ (f w q : Nat) (l own : Lane) (cs : List Lane), ((l :: cs).map (·.pos)).Nodup →
    q = (if f = 0 then l.b.toNat % w else l.pos) →
    (∀ c ∈ l :: cs, c.pos = q → bcastRes f w (l :: cs) own = loWord c.a) ∧
    ((∀ c ∈ l :: cs, c.pos ≠ q) → bcastRes f w (l :: cs) own = loWord own.a)) ∧
  (∀ (op f n k : Nat) (x : Bool) (cs : List Lane), (cs.map (·.pos)).Nodup → (∀ c ∈ cs, c.pos < 2 ^ n) → k < 2 ^ n →
    op < 6 → f ≠ 2 →
    scanRes op f x (2 ^ n) cs k = (match cs.filter fun c => if x then decide (c.pos < k) else decide (c.pos ≤ k) with
      | [] => none
      | c :: l => some ((l.map fun y => loWord y.a).foldl (redOp op f) (loWord c.a)))) ∧
  (∀ (f k : Nat) (cs : List Lane), (cs.map (·.pos)).Nodup →
    let rank := fun x : Word => (if 0x7F800000 < x.toNat % 2 ^ 31 then -(2 ^ 33)
      else if x.getLsbD 31 then -1 - ((x.toNat % 2 ^ 31 : Nat) : Int) else ((x.toNat % 2 ^ 31 : Nat) : Int))
    let before := fun x y : Lane => decide (rank (loWord y.a) < rank (loWord x.a) ∨
      rank (loWord y.a) = rank (loWord x.a) ∧ (x.b.toNat < y.b.toNat ∨ x.b = y.b ∧ x.pos < y.pos))
    (∀ c ∈ cs, (cs.filter (before · c)).length = k % 2 ^ f → topkRes f cs k = (loWord c.a, c.b)) ∧
    (cs.length ≤ k % 2 ^ f → topkRes f cs k = (0x7FC00000, 0xFFFFFFFF))) ∧
  (∀ (f : Nat) (cs : List Lane) (own : Lane), cs.Pairwise (fun x y => x.pos < y.pos) → own ∈ cs →
    let key := fun x : Word => (if f = 0 then (x.toNat : Int) else if f = 1 then x.toInt
      else if 0x7F800000 < x.toNat % 2 ^ 31 then 2 ^ 33
      else if x.getLsbD 31 then -1 - ((x.toNat % 2 ^ 31 : Nat) : Int) else ((x.toNat % 2 ^ 31 : Nat) : Int))
    let before := fun x y : Lane => decide (key (loWord x.a) < key (loWord y.a) ∨
      key (loWord x.a) = key (loWord y.a) ∧ x.pos < y.pos)
    ∀ c ∈ cs, (cs.filter (before · c)).length = (cs.filter fun x => decide (x.pos < own.pos)).length →
      sortRes f cs own = (loWord c.a, c.b)) ∧
  (∀ (op f : Nat) (x0 x1 x2 x3 : Word), redRes op f 4 [⟨0, x0.setWidth 64, 0⟩, ⟨1, x1.setWidth 64, 0⟩,
    ⟨2, x2.setWidth 64, 0⟩, ⟨3, x3.setWidth 64, 0⟩] = some (redOp op f (redOp op f x0 x1) (redOp op f x2 x3)) ∧
    (List.range 4).map (scanRes op f false 4 [⟨0, x0.setWidth 64, 0⟩, ⟨1, x1.setWidth 64, 0⟩, ⟨2, x2.setWidth 64, 0⟩,
      ⟨3, x3.setWidth 64, 0⟩]) = [some x0, some (redOp op f x0 x1), some (redOp op f x0 (redOp op f x1 x2)),
      some (redOp op f (redOp op f x0 x1) (redOp op f x2 x3))]) ∧
  (∀ (f : Nat) (x y : Word),
    (f ≠ 2 → redOp 0 f x y = x + y) ∧
    redOp 1 0 x y = (if x.toInt ≤ y.toInt then x else y) ∧ redOp 1 1 x y = (if x.toNat ≤ y.toNat then x else y) ∧
    redOp 2 0 x y = (if y.toInt ≤ x.toInt then x else y) ∧ redOp 2 1 x y = (if y.toNat ≤ x.toNat then x else y) ∧
    redOp 3 f x y = x &&& y ∧ redOp 4 f x y = x ||| y ∧ redOp 5 f x y = x ^^^ y ∧
    redOp 0 2 x y = BitVec.ofNat 32 (fpAdd .fp32 0 false x.toNat y.toNat).1 ∧
    redOp 1 2 x y = BitVec.ofNat 32 (fpPick false .fp32 false x.toNat y.toNat).1 ∧
    redOp 2 2 x y = BitVec.ofNat 32 (fpPick true .fp32 false x.toNat y.toNat).1)

/-- BAR releases at team scope and parks its threads; CVINIT sets a convergence register from the lowest thread;
CVSIGN signs it; ELECT gives true to the lowest thread alone; REGROUP parks its threads with their keys, and those
guarded off with 0xFFFFFFFF (R205 to R211, R214). Where the spec leaves a point open, or says it only by inference,
this is the model's choice (log 39, 61). -/
def Obligations.TeamInstructionsAct : Prop := ∀ (e : Bool) (d a n : BitVec 7),
  Does (.bar e) (fun cx t s => (s.release t 3).setThread t.uid fun x => { x with park := .bar, parkPc := cx.pc }) ∧
  DoesTogether (.cvinit e d a) (fun cx ts s => match ts.head? with
    | none => s
    | some l => s.setTeam cx.team fun m => m.cvPut d.toNat (min (l.g a.toNat).toNat 1024, 0)) ∧
  DoesWhen (.cvsign e d a) (fun t _ => t.memoryOpen) (fun cx t s => cvsignEff d.toNat a.toNat cx t s) ∧
  DoesTogether (.elect e d) (fun _ ts s => ts.foldl (fun s t => s.setThread t.uid fun x =>
    x.setP d.toNat (t.uid == (ts.headD default).uid)) s) ∧
  (∀ s g ts, s.issues (.regroup e d a n) g ts = true → exec (.regroup e d a n) s =
    .next (State.issued (.regroup e d a n) g ts
      (((s.opened (.regroup e d a n) g ts).offThreads (g.context (.regroup e d a n) ts) (.regroup e d a n)).foldl
        (fun s t => (s.release t 3).setThread t.uid fun x =>
          { x with park := .regroup 0xFFFFFFFF 0 0, parkPc := (ts.headD default).pc })
        ((acting (.regroup e d a n) ts).foldl (fun s t => (s.release t 3).setThread t.uid fun x =>
          { x.lastRelease ((Instr.regroup e d a n).lastRegs (g.context (.regroup e d a n) ts).m) with
            park := .regroup (t.g a.toNat) n.toNat d.toNat, parkPc := (ts.headD default).pc })
          (s.opened (.regroup e d a n) g ts))) []))

/-- The team's role queues (R285, R286, R288): where the queue exists, and neither its close has issued nor a thread's
earlier accesses are outstanding, QPUSH releases at the slice's scope, joins the queue and parks its group; a close
joins it without parking; QPOP joins the takers and parks its group. -/
def Obligations.QueuesPushPopAndPark : Prop := ∀ (e : Bool) (d a b : BitVec 7) (s : State) (g : Group) (ts : List Thread),
  (s.issues (.qpush e a b) g ts = true → acting (.qpush e a b) ts ≠ [] →
    (∀ t ∈ acting (.qpush e a b) ts, t.acquiring = false) →
    ((s.slice g.slice).queue a.toNat).depth ≠ 0 → ((s.slice g.slice).queue a.toNat).closing = false →
    s.unheld (.qpush e a b) g ts (releaseWaits (s.sliceScope g.slice)) = true →
    exec (.qpush e a b) s = .next (State.issued (.qpush e a b) g ts
      (let l := acting (.qpush e a b) ts
       let cx := g.context (.qpush e a b) ts
       let s1 := l.foldl (fun x t => x.release t (s.sliceScope g.slice)) (s.opened (.qpush e a b) g ts)
       l.foldl (fun x t => x.lastRelease cx t.uid)
         (((s1.setQueue g.slice a.toNat fun r =>
             { r with puts := r.puts ++ [.push g.gid ((l.headD default).w b.toNat)] }).addWait g.gid
           (.queue a.toNat (l.map Thread.runCtx) cx.pc)).serveQueue g.slice a.toNat)) [])) ∧
  (s.issues (.qpushClose e a) g ts = true → acting (.qpushClose e a) ts ≠ [] →
    (∀ t ∈ acting (.qpushClose e a) ts, t.acquiring = false) →
    ((s.slice g.slice).queue a.toNat).depth ≠ 0 → ((s.slice g.slice).queue a.toNat).closing = false →
    s.unheld (.qpushClose e a) g ts (releaseWaits (s.sliceScope g.slice)) = true →
    exec (.qpushClose e a) s = .next (State.issued (.qpushClose e a) g ts
      (let l := acting (.qpushClose e a) ts
       let s1 := l.foldl (fun x t => x.release t (s.sliceScope g.slice)) (s.opened (.qpushClose e a) g ts)
       l.foldl (fun x t => x.lastRelease (g.context (.qpushClose e a) ts) t.uid)
         ((s1.setQueue g.slice a.toNat fun r => { r with puts := r.puts ++ [.close], closing := true }).serveQueue
           g.slice a.toNat)) [])) ∧
  (s.issues (.qpop e d a b) g ts = true → acting (.qpop e d a b) ts ≠ [] →
    (∀ t ∈ acting (.qpop e d a b) ts, t.acquiring = false) →
    ((s.slice g.slice).queue a.toNat).depth ≠ 0 →
    exec (.qpop e d a b) s = .next (State.issued (.qpop e d a b) g ts
      (let l := acting (.qpop e d a b) ts
       let cx := g.context (.qpop e d a b) ts
       l.foldl (fun x t => x.lastRelease cx t.uid)
         ((((s.opened (.qpop e d a b) g ts).setQueue g.slice a.toNat fun r =>
             { r with takes := r.takes ++ [⟨g.gid, l.map (·.uid), d.toNat, b.toNat⟩] }).addWait g.gid
           (.queue a.toNat (l.map Thread.runCtx) cx.pc)).serveQueue g.slice a.toNat)) []))

/-! ### Tile instructions -/

/-- The tile instructions that make, move and describe tiles, where the tiles they name are free, what they read of
other devices is there and nothing faults (R215 to R240), and those that compute, under the same conditions and where
their unit has room (R241 to R259). What they make: TZERO zeros of the shape named; TCOPY, TTRAN and TCVT the same
elements, with rows and columns or factors exchanged, or in the new format (R235, R237); a product or a low-rank
expansion the partial sums of R140, each step the exact product added with one rounding, in ascending k, and of
integers the exact sum (R143); TMMA an accumulator, or factors joined while their rank is at most 64 (R249, R250);
TADD, TSCAL and TLRF the sum, the scaled elements and the factors (R254 to R256). Each element that TTRS solves for is
the element that stood there, less the products with those already solved in ascending order, each step fused, and
under .ru over the diagonal; TLU puts the quotient by the pivot below it and takes its products off the rest of the
row (R258, R259). Where the spec leaves a point open, or says it only by inference, this is the model's choice (log
25, 26, 35, 36, 38, 39, 72, 81). -/
def Obligations.TileOperationsRunWhereTilesAreFree : Prop :=
  (∀ (e : Bool) (d a b : BitVec 7) (f : BitVec 2) (m : BitVec 4),
    Tiles (.tload e d a b f) [d.toNat] (recordFar a.toNat b.toNat true) freeUnit (fun cx t s =>
      s.runJob cx t (tloadJob d.toNat a.toNat b.toNat f.toNat t s)) ∧
    Tiles (.tstore e d a b) [d.toNat]
      (fun cx s t => recordFar a.toNat b.toNat false cx s t ++ viewFar [d.toNat] cx s t) freeUnit (fun cx t s =>
      s.runJob cx t (tstoreJob d.toNat a.toNat b.toNat cx t s)) ∧
    Tiles (.tbind e d a b) [d.toNat] (recordFar a.toNat b.toNat false) freeUnit (tbindStep d.toNat a.toNat b.toNat) ∧
    Tiles (.tzero e d a f) [d.toNat] noFar freeUnit (fun cx t s =>
      s.runJob cx t (tzeroJob d.toNat f.toNat (t.g a.toNat))) ∧
    Tiles (.tfree e d) [d.toNat] noFar freeUnit (fun cx _ s =>
      (s.setTeam cx.team fun m => m.freeTile d.toNat, none)) ∧
    Tiles (.tcopy e d a f) [d.toNat, a.toNat] (viewFar [a.toNat]) freeUnit (fun cx t s =>
      s.runJob cx t (moveJob d.toNat a.toNat f.toNat ((s.team cx.team).tile a.toNat).fmt copyTile cx t s)) ∧
    Tiles (.ttran e d a f) [d.toNat, a.toNat] (viewFar [a.toNat]) freeUnit (fun cx t s =>
      s.runJob cx t (moveJob d.toNat a.toNat f.toNat ((s.team cx.team).tile a.toNat).fmt
        (fun x loc => ((copyTile x loc).1.transposed, (copyTile x loc).2)) cx t s)) ∧
    Tiles (.tcvt e d a m f) [d.toNat, a.toNat] (viewFar [a.toNat]) freeUnit (fun cx t s =>
      s.runJob cx t (moveJob d.toNat a.toNat f.toNat m.toNat (fun x loc => convertTile x m.toNat loc cx.sat) cx t s)) ∧
    Tiles (.tset e d a b) [d.toNat] noFar freeUnit (tsetStep d.toNat a.toNat b.toNat)) ∧
  (∀ (e : Bool) (d a b : BitVec 7) (f : BitVec 2),
    Tiles (.tmma e d a b f) [d.toNat, a.toNat, b.toNat] (viewFar [a.toNat, b.toNat])
      (fun cx s => ((s.team cx.team).tile a.toNat).kind != .z && ((s.team cx.team).tile b.toNat).kind != .z &&
        s.arrayFull ((s.team cx.team).homeCore d.toNat))
      (tmmaStep d.toNat a.toNat b.toNat (f.getLsbD 0) (f.getLsbD 1)) ∧
    Tiles (.tmmas e d a b) [d.toNat, a.toNat, b.toNat]
      (fun cx s t => viewFar [a.toNat, b.toNat] cx s t ++ scaleFar [a.toNat, b.toNat] cx s t)
      (fun cx s => s.arrayFull ((s.team cx.team).homeCore d.toNat))
      (tmmasStep d.toNat a.toNat b.toNat) ∧
    Tiles (.tadd e d a b) [d.toNat, a.toNat, b.toNat] (viewFar [a.toNat, b.toNat]) freeUnit (fun cx t s =>
      s.runJob cx t (taddJob d.toNat a.toNat b.toNat cx t s)) ∧
    Tiles (.trnd e d a b) [d.toNat, a.toNat] (viewFar [a.toNat])
      (fun cx s => ((s.team cx.team).tile a.toNat).kind == .l && s.hemBusy cx d.toNat)
      (fun cx t s => s.runJob cx t (trndJob d.toNat a.toNat b.toNat cx t s)) ∧
    Tiles (.tdense e d a f) [d.toNat, a.toNat] (viewFar [a.toNat])
      (fun cx s => ((s.team cx.team).tile a.toNat).kind == .l && s.arrayFull ((s.team cx.team).homeCore d.toNat))
      (fun cx t s => s.runJob cx t (tdenseJob d.toNat a.toNat f.toNat cx t s)) ∧
    Tiles (.tlrf e d a b) [d.toNat, a.toNat, b.toNat] (viewFar [a.toNat, b.toNat]) freeUnit (fun cx t s =>
      s.runJob cx t (tlrfJob d.toNat a.toNat b.toNat cx t s)) ∧
    Tiles (.tscal e d a b f) [d.toNat, a.toNat] (viewFar [a.toNat]) freeUnit (fun cx t s =>
      s.runJob cx t (tscalJob d.toNat a.toNat b.toNat f.toNat cx t s)) ∧
    Tiles (.tlu e d) [d.toNat] noFar (fun cx s => s.hemBusy cx d.toNat) (fun cx t s =>
      s.runJob cx t (tluJob d.toNat cx s)) ∧
    Tiles (.ttrs e d a f) [d.toNat, a.toNat] noFar (fun cx s => s.hemBusy cx d.toNat) (ttrsStep d.toNat a.toNat f.toNat) ∧
    Tiles (.tget e d a b f) [a.toNat] (fun cx s t => elementFar a.toNat (t.g b.toNat) cx s t) freeUnit (tgetStep d.toNat a.toNat b.toNat f.toNat) ∧
    Tiles (.tnorm e d a f) [a.toNat] (viewFar [a.toNat]) freeUnit (tnormStep d.toNat a.toNat f.toNat)) ∧
  (∀ (td : Nat) (w : Word) (m n k : Nat), m = (w.extractLsb' 0 7).toNat + 1 → n = (w.extractLsb' 8 7).toNat + 1 →
    k = (w.extractLsb' 16 4).toNat → k < 9 →
    (∃ j, tzeroJob td 0 w = .ok j ∧ j.td = some td ∧ j.result = Tile.mkZ k m n) ∧
    (fmtAcc k = true → ∃ j, tzeroJob td 1 w = .ok j ∧ j.td = some td ∧ j.result.kind = .d ∧ j.result.fmt = k ∧
      j.result.loc = .acc ∧ j.result.m = m ∧ j.result.n = n ∧
      ∀ r c, r < m → c < n → elemOf j.result.rows r c = 0)) ∧
  (∀ (x : Tile) (loc : TLoc) (f r c : Nat) (sat : Bool) (v : Val), r < x.rows.length → c < x.n →
    (∀ l ∈ x.rows, l.length = x.n) →
    (x.kind = .d →
      elemOf x.transposed.rows c r = elemOf x.rows r c ∧ x.transposed.m = x.n ∧ x.transposed.n = x.m ∧
      ((x.fmt ≠ 7 ∨ (x.loc = .acc ↔ loc = .acc)) → elemOf (copyTile x loc).1.rows r c = elemOf x.rows r c) ∧
      elemOf (convertTile x f loc sat).1.rows r c =
        elemEnc f (loc == .acc) sat (elemVal x.fmt (x.loc == .acc) (elemOf x.rows r c)) ∧
      (v.isZero = false → elemOf (scaleTile x v sat).rows r c =
        elemEnc x.fmt false sat (vmul v (elemVal x.fmt false (elemOf x.rows r c)))))) ∧
  (∀ (x y : Tile) (v : Val) (sat : Bool),
    (x.kind = .l → x.transposed.u = x.v ∧ x.transposed.v = x.u ∧ (copyTile x .pool).1.u = x.u ∧
      (copyTile x .pool).1.v = x.v ∧ (copyTile x .pool).1.rank = x.rank ∧
      (v.isZero = false → (scaleTile x v sat).v = x.v)) ∧
    (v.isZero = true → (scaleTile x v sat).kind = .z) ∧
    (x.kind = .l → y.kind = .l → x.rank + y.rank ≤ 64 → (addTiles x y).1.kind = .l ∧
      (addTiles x y).1.rank = x.rank + y.rank ∧ (addTiles x y).1.u = joinCols x.u y.u ∧
      (addTiles x y).1.v = joinCols x.v y.v) ∧
    (x.kind = .d → y.kind = .d → ∀ r c, r < x.exact.length → r < y.exact.length → c < (x.exact.getD r []).length →
      c < (y.exact.getD r []).length → elemOf (addTiles x y).1.rows r c =
        arrayAcc (psOf x.fmt) (roundTo (psOf x.fmt) 0 false false (elemOf x.exact r c)).1 (some (elemOf y.exact r c)))) ∧
  (∀ (f b : Nat) (acc sat : Bool) (v : Val),
    (f ≤ 6 → elemVal f acc b = (Fmt.ofCode f).dec b ∧ elemEnc f acc sat v = (roundTo (Fmt.ofCode f) 0 sat false v).1) ∧
    elemVal 7 false b = intVal (signedElem 8 b) ∧ elemVal 7 true b = intVal (signedElem 32 b) ∧
    elemVal 8 acc b = intVal (signedElem 4 b)) ∧
  (∀ (ps : Fmt) (x yt : VMat) (c : Nat → Nat → Val) (neg : Bool) (i j : Nat), i < x.length → j < yt.length →
    elemOf (arrayMat ps x yt c neg) i j = arrayAdd ps (c i j) neg (arrayDot ps (x.getD i []) (yt.getD j [])) ∧
    elemOf (intMat x yt c neg) i j =
      (let q := (((x.getD i []).zip (yt.getD j [])).map fun p => valInt p.1 * valInt p.2).sum
       ((valInt (c i j) + (if neg then -q else q)) % 2 ^ 32).toNat)) ∧
  (∀ (ps : Fmt) (xs ys : List Val) (x y : Val), xs.length = ys.length → arrayDot ps [] [] = 0 ∧
    arrayDot ps (xs ++ [x]) (ys ++ [y]) = arrayAcc ps (arrayDot ps xs ys) (arrayMul x y)) ∧
  (∀ (ps f h : Fmt) (acc a b : Nat) (S X Y : ℝ), (ps.dec acc).holds S → (f.dec a).holds X → (h.dec b).holds Y →
    S + X * Y ≠ 0 → ∃ r, ps.RoundTo 0 false false (S + X * Y) r ∧
      arrayAcc ps acc (arrayMul (f.dec a) (h.dec b)) =
        (if ps = .fp32 ∧ ps.subnormal r.1 = true then r.1 / 2 ^ 31 * 2 ^ 31 else r.1)) ∧
  (∀ (c : Tile) (x yt : VMat) (u v : Mat) (kp k f facc m n : Nat) (neg : Bool), c.st ≠ .empty →
    (c.kind = .z → (combine c (.dense x yt) kp f facc m n neg).map (·.tile) =
      some (Tile.mkD facc .acc m n (addDense facc none x yt neg))) ∧
    (c.kind = .d → (combine c (.dense x yt) kp f facc m n neg).map (·.tile) =
      some (Tile.mkD facc .acc m n (addDense facc (some c.exact) x yt neg))) ∧
    (c.kind = .z → (combine c (.low u v k) kp f facc m n neg).map (·.tile) =
      some (Tile.mkL f m n k (negU neg f u) v)) ∧
    (c.kind = .l → c.rank + k ≤ 64 → (combine c (.low u v k) kp f facc m n neg).map (·.tile) =
      some (Tile.mkL f m n (c.rank + k) (joinCols c.u (negU neg f u)) (joinCols c.v v)))) ∧
  (∀ (f : Fmt) (a x : VMat) (perm : List Nat) (piv r : List Val) (n i j c : Nat),
    (j < n → n ≤ r.length → (ruRow f a n r).getD j default = vdiv f
      ((List.range j).foldl (fun v k => vfms f v ((ruRow f a n r).getD k default) (elemOf a k j)) (r.getD j default))
      (elemOf a j j)) ∧
    (i < perm.length → c < (x.getD (perm.getD i 0) []).length → elemOf (lluSolve f a perm x) i c =
      (List.range i).foldl (fun v k => vfms f v (elemOf a i k) (elemOf (lluSolve f a perm x) k c))
        (elemOf x (perm.getD i 0) c)) ∧
    (i < r.length → (luRow f j piv r).getD i default =
      (let q := vdiv f (r.getD j default) (piv.getD j default)
       if i < j then r.getD i default else if i = j then q else vfms f (r.getD i default) q (piv.getD i default))))

/-- TINFO puts a tile's description in flight; TWAIT parks its group on the team's unfinished operations that it
names; TMOVA and TMOVR move one row between a tile and the registers of the group's threads when the threads agree on
the row and the row's checks pass (R235, R236, R221). Where the spec leaves a point open, or says it only by
inference, this is the model's choice (log 35, 37, 73, 81). -/
def Obligations.TileRowsDescriptionsAndWaits : Prop := ∀ (e : Bool) (d a b : BitVec 7) (f : BitVec 2),
  Does (.tinfo e d a) (fun cx t s => tinfoEff d.toNat a.toNat cx t s) ∧
  DoesTogether (.twait e d a b f) (fun cx ts s =>
    let us := ts.map (·.uid)
    let ids := (s.ops.filter fun o => o.team == cx.team && twaitNames d.toNat a.toNat b.toNat f.toNat o &&
      (!o.finished || us.contains o.uid)).map (·.id)
    if us.isEmpty || ids.isEmpty then s else s.addWait cx.gid (.tiles ids us cx.pc)) ∧
  (∀ s g ts t r q, s.issues (.tmova e d a b) g ts = true → s.tileBusy g.team a.toNat = false →
    (∀ u ∈ acting (.tmova e d a b) ts, u.acquiring = false) →
    rowLeader b.toNat (acting (.tmova e d a b) ts) = ([], t :: r) →
    rowChecks ((s.team g.team).tile a.toNat)
      (rowMove (t.g b.toNat) (s.group g.gid).width d.toNat ((s.team g.team).tile a.toNat))
      ((s.launchOf t).regBudget t.role) a.toNat = .ok q →
    exec (.tmova e d a b) s = .next (State.issued (.tmova e d a b) g ts
      (tmovaRun a.toNat (rowMove (t.g b.toNat) (s.group g.gid).width d.toNat ((s.team g.team).tile a.toNat))
        ((s.team g.team).tile a.toNat) (g.context (.tmova e d a b) ts) (t :: r) (s.opened (.tmova e d a b) g ts)) [])) ∧
  (∀ s g ts t r q, s.issues (.tmovr e d a b) g ts = true → s.tileBusy g.team a.toNat = false →
    (∀ u ∈ acting (.tmovr e d a b) ts, u.acquiring = false) →
    rowLeader b.toNat (acting (.tmovr e d a b) ts) = ([], t :: r) →
    rowChecks ((s.team g.team).tile a.toNat)
      (rowMove (t.g b.toNat) (s.group g.gid).width d.toNat ((s.team g.team).tile a.toNat))
      ((s.launchOf t).regBudget t.role) a.toNat = .ok q →
    (∀ u ∈ t :: r, u.poisonIn
      (rowMove (t.g b.toNat) (s.group g.gid).width d.toNat ((s.team g.team).tile a.toNat)).d
      (rowMove (t.g b.toNat) (s.group g.gid).width d.toNat ((s.team g.team).tile a.toNat)).last = none) →
    exec (.tmovr e d a b) s = .next (State.issued (.tmovr e d a b) g ts
      (tmovrRun a.toNat (rowMove (t.g b.toNat) (s.group g.gid).width d.toNat ((s.team g.team).tile a.toNat))
        ((s.team g.team).tile a.toNat) (g.context (.tmovr e d a b) ts) (t :: r) (s.opened (.tmovr e d a b) g ts)) []))

/-! ### Engines, pockets, futures -/

/-- XFORM and COLL hand a checked descriptor to their engine once what they read of other devices is there, XFORM when
earlier accesses are done and COLL as a release at domain scope; XCANCEL reports whether a command was there, and ends
it now or once its writes to other devices are performed; XWAIT parks its group on the barrier objects of its threads
(R290, R291, R297, R299, R302, R306). Where the spec leaves a point open, or says it only by inference, this is the
model's choice (log 38, 39, 40, 81). -/
def Obligations.EnginesTakeTheirDescriptors : Prop := ∀ (e : Bool) (d a : BitVec 7),
  AccessesFar (.xform e d a) (descFar a.toNat 0x14) (fun t _ => t.memoryOpen) (fun _ s t => s.engineCheck t (t.w a.toNat) 0x14)
    (xformEff d.toNat a.toNat) ∧
  AccessesFar (.coll e a) (collFar a.toNat) (releaseWaits 8) (fun _ s t => s.engineCheck t (t.w a.toNat) 0x1C) (collEff a.toNat) ∧
  Does (.xcancel e d a) (fun cx t s => match s.xforms.find? fun x =>
      x.tag == (t.g a.toNat).toNat && x.slice == cx.slice && !x.done with
    | some x => (if s.remoteStores (engineUid x.tag) then
          s.setXform x.tag fun y => { y with status := 4, page := none }
        else s.endXform x 4).pendResult cx t.uid .ax (gDests d.toNat 1) id
    | none => s.pendResult cx t.uid .ax (gDests d.toNat 0) id) ∧
  (∀ s g ts, s.issues (.xwait e a) g ts = true → acting (.xwait e a) ts ≠ [] →
    (∀ t ∈ acting (.xwait e a) ts,
      (s.opened (.xwait e a) g ts).barrierCheck t (t.g a.toNat).toNat = .ok ()) →
    exec (.xwait e a) s = .next (State.issued (.xwait e a) g ts
      (((acting (.xwait e a) ts).foldl (fun x t => x.lastRelease (g.context (.xwait e a) ts) t.uid)
        (s.opened (.xwait e a) g ts)).addWait g.gid
          (.xwait ((acting (.xwait e a) ts).map fun t => (t.uid, (t.g a.toNat).toNat)) (ts.headD default).pc)) []))

/-- POPEN opens a set once for its threads, when what it reads of other devices is there, and gives each its id;
PCLAIM, PCLOSE and PBIAS act on one expert of a set, PCLOSE once its thread's release need not wait, the others once
no acquire is on its way (R311 to R318). What a claim gives (R313): a sealed expert gives no slot and status 3; else
the sender's own next reserved slot (status 0), else the next slot of the pool (1), else the highest left of the
sender with the most left, the last of such senders (2), else none (4) where no sender has one left. Where the spec
leaves a point open, or says it only by inference, this is the model's choice (log 38, 39, 42). -/
def Obligations.PocketsOpenClaimAndClose : Prop :=
  (∀ (e : Bool) (d a b : BitVec 7),
    (∀ s g ts t r p, s.issues (.popenNew e d a) g ts = true → acting (.popenNew e d a) ts = t :: r →
      (∀ u ∈ t :: r, u.memoryOpen = false) →
      (s.opened (.popenNew e d a) g ts).missing t.uid
        (popenFar a.toNat (g.context (.popenNew e d a) ts) (s.opened (.popenNew e d a) g ts) t) = [] →
      (s.opened (.popenNew e d a) g ts).popenRead t (t.w a.toNat) none = .ok p →
      exec (.popenNew e d a) s = .next (State.issued (.popenNew e d a) g ts
        (let cx := g.context (.popenNew e d a) ts
         let s1 := (t :: r).foldl (fun s t => (s.drain t.core).lastRelease cx t.uid) (s.opened (.popenNew e d a) g ts)
         let s2 := { s1 with pockets := p :: s1.pockets.filter fun q => !(q.slice == p.slice && q.id == p.id) }
         let s3 := (List.range p.experts.length).foldl
           (fun s e => s.pocketStore t (p.countVa + BitVec.ofNat 64 (4 * e)) 0) s2
         (t :: r).foldl (fun s t => s.pendResult cx t.uid .ax (gDests d.toNat (BitVec.ofNat 32 p.id)) id) s3) [])) ∧
    (∀ s g ts t r p, s.issues (.popenReset e d a b) g ts = true → acting (.popenReset e d a b) ts = t :: r →
      (∀ u ∈ t :: r, u.memoryOpen = false) →
      (s.opened (.popenReset e d a b) g ts).missing t.uid
        (popenFar a.toNat (g.context (.popenReset e d a b) ts) (s.opened (.popenReset e d a b) g ts) t) = [] →
      (s.opened (.popenReset e d a b) g ts).popenRead t (t.w a.toNat) (some (t.g b.toNat).toNat) = .ok p →
      exec (.popenReset e d a b) s = .next (State.issued (.popenReset e d a b) g ts
        (let cx := g.context (.popenReset e d a b) ts
         let s1 := (t :: r).foldl (fun s t => (s.drain t.core).lastRelease cx t.uid)
           (s.opened (.popenReset e d a b) g ts)
         let s2 := { s1 with pockets := p :: s1.pockets.filter fun q => !(q.slice == p.slice && q.id == p.id) }
         let s3 := (List.range p.experts.length).foldl
           (fun s e => s.pocketStore t (p.countVa + BitVec.ofNat 64 (4 * e)) 0) s2
         (t :: r).foldl (fun s t => s.pendResult cx t.uid .ax (gDests d.toNat (BitVec.ofNat 32 p.id)) id) s3) [])) ∧
    Tries (.pclaim e d a b) (fun t _ => t.acquiring) (pclaimEff d.toNat a.toNat b.toNat) ∧
    Tries (.pcloseRet e d a b) (releaseWaits 7) (pcloseRetEff d.toNat a.toNat b.toNat) ∧
    Tries (.pcloseSeal e d a b) (releaseWaits 7) (pcloseSealEff d.toNat a.toNat b.toNat) ∧
    Tries (.pbias e d a b) (fun t _ => t.acquiring) (fun cx t s => match s.pocketArgs t a.toNat b.toNat false with
      | .error f => .error f
      | .ok r => .ok (s.pendResult cx t.uid .ax (gDests d.toNat (r.set.expert r.e).bias) id))) ∧
  (∀ (p : PocketSet) (x : Expert) (v : Nat),
    (x.isSealed = true → p.claim x v = (0xFFFFFFFF, 3, x)) ∧
    (x.isSealed = false → 0 < p.unused x v →
      (p.claim x v).1 = BitVec.ofNat 32 (v * p.reserve + x.own.getD v 0) ∧ (p.claim x v).2.1 = 0 ∧
      (v < x.own.length → p.unused (p.claim x v).2.2 v = p.unused x v - 1) ∧ (p.claim x v).2.2.pool = x.pool) ∧
    (x.isSealed = false → p.unused x v = 0 → ∀ n r, x.pool = n :: r →
      p.claim x v = (BitVec.ofNat 32 n, 1, { x with pool := r })) ∧
    (x.isSealed = false → p.unused x v = 0 → x.pool = [] → ∀ w, w < p.senders → 0 < p.unused x w →
      (∀ k, k < p.senders → p.unused x k < p.unused x w ∨ p.unused x k = p.unused x w ∧ k ≤ w) →
      p.claim x v = (BitVec.ofNat 32 (w * p.reserve + p.reserve - 1 - x.stolen.getD w 0), 2,
        { x with stolen := x.stolen.set w (x.stolen.getD w 0 + 1) })) ∧
    (x.isSealed = false → (∀ w, w < p.senders → p.unused x w = 0) → v < p.senders → x.pool = [] →
      p.claim x v = (0xFFFFFFFF, 4, x)))

/-- FNEW makes a handle; INVOKE, INVH and SLICE read a whole invocation, once what lies on other devices is there,
release, make a handle and send it; FPUT, FBREAK and FREL send a request for a handle; FGET.wait parks the group for
its handles, and FGET.poll, which HMOD.POLL also selects, answers at once (R325 to R342, R349). Where the spec leaves
a point open, or says it only by inference, this is the model's choice (log 38, 45, 62, 81). -/
def Obligations.FutureInstructionsSendTheirRequest : Prop := ∀ (e : Bool) (d a b : BitVec 7) (f : BitVec 2),
  Does (.fnew e d) (fun cx t s => fnewEff d.toNat cx t s) ∧
  AccessesFar (.invoke e d a) (invFar a.toNat 4096) (releaseWaits 8) (fun _ s t => s.readInv t (t.w a.toNat) 4096)
    (invEff d.toNat fun _ i s => (s.sendInvoke i).1) ∧
  AccessesFar (.invh e d a b) (invFar b.toNat 4064) (releaseWaits 8) (fun _ s t => s.readInv t (t.w b.toNat) 4064)
    (invEff d.toNat fun t i s => s.sendInvh i (t.w a.toNat)) ∧
  AccessesFar (.slice e d a) (invFar a.toNat 4096) (releaseWaits 8) (fun _ s t => s.readInv t (t.w a.toNat) 4096)
    (invEff d.toNat sliceGo) ∧
  DoesWhen (.fput e d a b f) (releaseWaits 8) (fun cx t s => requestEff d.toNat (t.w a.toNat)
    (.fput (putValue t b.toNat (4 * 2 ^ f.toNat))) cx.trap cx t (s.release t 8)) ∧
  Tries (.fbreak e d a b) (releaseWaits 8) (fbreakEff d.toNat a.toNat b.toNat) ∧
  Does (.frel e d a) (fun cx t s => requestEff d.toNat (t.w a.toNat) .frel cx.trap cx t s) ∧
  Tries (.fgetPoll e d a b) (fun t _ => t.acquiring) (fgetPollEff d.toNat a.toNat b.toNat) ∧
  (∀ s g ts, s.issues (.fgetWait e d a b) g ts = true →
    s.unheld (.fgetWait e d a b) g ts (fun t _ => t.acquiring) = true → acting (.fgetWait e d a b) ts ≠ [] →
    ((g.context (.fgetWait e d a b) ts).m.getLsbD 13 = true → (s.tries (.fgetWait e d a b) g ts
        (fgetPollEff d.toNat a.toNat b.toNat)).2 = [] →
      exec (.fgetWait e d a b) s = .next (State.issued (.fgetWait e d a b) g ts
        (s.tries (.fgetWait e d a b) g ts (fgetPollEff d.toNat a.toNat b.toNat)).1 [])) ∧
    ((g.context (.fgetWait e d a b) ts).m.getLsbD 13 = false → exec (.fgetWait e d a b) s =
      s.together (.fgetWait e d a b) g ts fun cx l x =>
        let tags := l.zipIdx.map fun t => (t.1.uid, x.cloak.nextTag + t.2)
        let y := l.foldl (fun s t => fgetWaitEff d.toNat a.toNat b.toNat cx t s) x
        (if l.isEmpty then y else y.addWait cx.gid (.fget tags cx.pc)).drainCloak 4096))

/-! ### System instructions -/

/-- S2G reads a special register, and a read of %cycles latches its high half; G2S writes one, to %pfdone as a release
at device scope; both wait at %tstat for the thread's tile operations; TRACE appends its record (R27 to R31, R82,
R355, R365). What registers of R27 read as, and what writing them leaves: a thread's own numbers, its floating-point
and integer controls and flags with their reserved bits 0, and its fault record (R31, R82). Where the spec leaves a
point open, or says it only by inference, this is the model's choice (log 4, 38, 47, 51). -/
def Obligations.SpecialRegistersReadAndWrite : Prop :=
  (∀ (e : Bool) (d : BitVec 7) (c : BitVec 16),
    DoesWhen (.s2g e d c) (sregWaits c.toNat) (fun _ t s => s.setThread t.uid fun x =>
      { x.setG d.toNat (s.sreg t c.toNat) with
        cycHi := if c = 0x11 then hiWord (s.cycles t.core) else x.cycHi }) ∧
    DoesWhen (.g2s e d c) (fun t s => sregWaits c.toNat t s || (c == 0x8024 && releaseWaits 7 t s))
      (fun _ t s => (if c = 0x8024 then s.release t 7 else s).setSreg t.uid c.toNat (t.g d.toNat)) ∧
    Does (.trace e d c) (fun _ t s => traceEff d.toNat c.toNat t s)) ∧
  (∀ (s : State) (t : Thread) (v : Word),
    s.sreg t 1 = t.tid ∧ s.sreg t 2 = BitVec.ofNat 32 t.lane ∧ s.sreg t 6 = BitVec.ofNat 32 t.role ∧
    s.sreg t 7 = BitVec.ofNat 32 t.slice ∧ s.sreg t 0x12 = t.cycHi ∧ s.sreg t 0x30 = t.frec.code ∧
    s.sreg t 0x31 = t.frec.pc ∧ (s.sreg t 0x33 ++ s.sreg t 0x32) = t.frec.addr ∧ s.sreg t 0x34 = t.frec.info ∧
    (s.sreg t 0x36 ++ s.sreg t 0x35) = t.frec.mask ∧
    (t ∈ s.threads → (∀ u ∈ s.threads, u.uid = t.uid → u = t) →
      let r := fun (c : Nat) => let x := s.setSreg t.uid c v
        x.sreg (x.thread t.uid) c
      r 0x20 = v &&& 7 ∧ r 0x21 = v &&& 0x1F ∧ r 0x22 = v &&& 3 ∧
      r 0x23 = t.tstat &&& ~~~(v &&& 0xF &&& ~~~(if t.tset.1 = s.now then t.tset.2 else 0)) ∧
      r 0x8000 = v &&& 0xFFFFF))

/-- CWATCH.set reads a watch's descriptor, once it is there, and CWATCH.clr removes a watch, one whose firing is still
due once it has fired; TLBINV drops translations when no load issued before it, of another device or a held poll that
used one of them, has yet to return; CTXSV and CTXLD act on a context area (R350 to R352, R356 to R364, R374). Where
the spec leaves a point open, or says it only by inference, this is the model's choice (log 32, 37, 38, 43, 48, 49,
50, 81). -/
def Obligations.SystemInstructionsAct : Prop := ∀ (e : Bool) (d a b : BitVec 7),
  AccessesFar (.cwatchSet e d a) (cwatchFar a.toNat) (fun _ _ => false) (fun _ s t => s.readAt t (t.w a.toNat) 64)
    (fun _ t l s => cwatchSetEff d.toNat t l s) ∧
  Does (.cwatchClr e d a) (fun _ t s =>
    State.setThread { s with watches :=
      (s.watches.filter fun w => w.id != (t.g a.toNat).toNat || w.due.isSome).map fun w =>
        if w.id = (t.g a.toNat).toNat then { w with gone := true } else w } t.uid fun x =>
      x.setG d.toNat (if s.watches.any fun w => w.id == (t.g a.toNat).toNat && !w.gone then 0 else 0xFFFFFFFF)) ∧
  DoesWhen (.tlbinvPage e a b) (fun t => tlbWaits (fun x =>
      x.ofPage ((t.g b.toNat).toNat % 4096) (t.w a.toNat).toNat) t) (fun _ t s => s.tlbinv
    (fun x => x.asid == (t.g b.toNat).toNat % 4096 && decide (x.base ≤ (t.w a.toNat).toNat) &&
      decide ((t.w a.toNat).toNat < x.base + x.size))
    fun x => x.asid == (t.g b.toNat).toNat % 4096 && x.tag == walkTag x.lvl (t.w a.toNat).toNat) ∧
  DoesWhen (.tlbinvAsid e b) (fun t => tlbWaits (fun x => x.asid == (t.g b.toNat).toNat % 4096) t)
    (fun _ t s => s.tlbinv (fun x => x.asid == (t.g b.toNat).toNat % 4096)
    fun x => x.asid == (t.g b.toNat).toNat % 4096) ∧
  DoesWhen (.tlbinvAll e) (tlbWaits fun _ => true) (fun _ _ s => s.tlbinv (fun _ => true) fun _ => true) ∧
  AccessesFar (.ctxsv e d a b) (ctxFar a.toNat) (fun _ _ => false) (fun _ s t => s.ctxCheck t (t.w a.toNat))
    (fun _ t h s => ctxsvEff d.toNat a.toNat b.toNat t h s) ∧
  AccessesFar (.ctxld e d a) (ctxFar a.toNat) (fun _ _ => false) (fun _ s t => s.ctxCheck t (t.w a.toNat)) (fun _ t h s => ctxldEff d.toNat a.toNat t h s)

/-- PHASE.ANNOUNCE announces the team's phase, PHASE.END ends it, and PHASE.QUERY puts its state into bits [5:4] of
%tstat and changes no other bit of it (R261 to R263). Where the spec leaves a point open, or says it only by
inference, this is the model's choice (log 30). -/
def Obligations.PhaseAnnounceEndAndQuery : Prop := ∀ (e : Bool) (o c lx m b : BitVec 4),
  Does (.phaseAnnounce e o c lx m b) (fun cx _ s => s.announce cx.team (phaseOf o c lx m b s.now)) ∧
  Does (.phaseEnd e) (fun cx _ s => (s.dropPhase cx.team).rejudge cx.team) ∧
  Does (.phaseQuery e) (fun cx t s => s.setThread t.uid fun x => { x with
    tstat := BitVec.ofFnLE fun k : Fin 32 =>
      if (k : Nat) = 4 ∨ (k : Nat) = 5 then (grantCode (s.team cx.team).phase).testBit (k - 4)
      else x.tstat.getLsbD k })

/-! ### Happenings beside the instruction words -/

/-- What happens to runs, groups and pending results, when its condition holds (R21, R46, R50, R59, R101, R161, R194,
R212, R407, R408): a group starts its run, a result lands, and all results of one .part collective together, a team
regroups, a slice is killed, a group enters its core's active set when a place and room for its registers are there,
or is to leave it, a deferral window closes, a poll ends. Where the spec leaves a point open, or says it only by
inference, this is the model's choice (log 10, 13, 50, 61, 67, 77). -/
def Obligations.RunsGroupsAndResultsGoOn : Prop := ∀ (s : State) (g : Group) (n u id c : Nat),
  (s.groups.find? (·.gid == n) = some g → s.slotFree = true → g.active = true → s.groupReady g = true →
    g ∈ (s.startable g.core).take (s.slots g.core) → exec (.runStart n) s = .next (s.startRun g)) ∧
  (s.groups.find? (·.gid == n) = some g → s.slotFree = true → s.isStarved g = true →
    exec (.issueStarvation n) s = .next (s.startRun g)) ∧
  (∀ p, (s.thread u).pendOf id = some p → p.kind = .ready → exec (.resultReturn u id) s = .next (s.landOne u p)) ∧
  (∀ p m, (s.thread u).pendOf id = some p → p.kind = .part m → exec (.resultReturn u id) s = .next (s.landPart m)) ∧
  (∀ p q pl sc ex ea, (s.thread u).pendOf id = some p → p.kind = .poll pl sc ex ea → ex ≤ s.now →
    ((s.reloadPoll (s.thread u) p pl sc ea).thread u).pendOf id = some q →
    exec (.ldpollTimeout u id) s = .next ((s.reloadPoll (s.thread u) p pl sc ea).landOne u q)) ∧
  (s.teamThreads n ≠ [] → (∀ t ∈ s.teamThreads n, t.arrivedAt.isSome = true) → (s.team n).at_ = .resident →
    (∀ x ∈ s.groups, x.team = n → x.run = none) → exec (.regroupOperation n) s =
      .next (s.regroup n ((s.teamThreads n).filterMap fun t => t.arrivedAt.map fun a => (t, a)))) ∧
  (∃ t, exec (.kill n) s = .next t ∧ t.sliceThreads n = [] ∧ t.mem = s.mem ∧
    (∀ x ∈ s.threads, x.slice ≠ n → (∀ y ∈ s.threads, y.uid = x.uid → y = x) → x ∈ t.threads) ∧
    ((s.slice n).live = true → (s.slice? n).isSome = true → (t.slice n).faulted = true)) ∧
  (∀ r, s.pendingReady c = g :: r → (s.activeOn c).length < 8 → s.regsFit g = true → exec (.groupActivation c) s =
    .next (s.setGroup g.gid fun x => { x with active := true, enteredAt := s.now })) ∧
  (∀ p r q, s.pendingReady c = p :: r →
    sortBy (fun (x y : Group) => decide (x.enteredAt ≤ y.enteredAt)) (s.activeOn c) = g :: q →
    p.readyAt + p.skipped + 1024 ≤ s.now →
    exec (.ageingRotation c) s = .next (s.setGroup g.gid fun x => { x with yieldEnd := true })) ∧
  (dueAt (s.slice n).window s.now = true →
    exec (.deferralWindowExpiry n) s = .next (s.setSlice n fun x => { x with window := none }))

/-- What happens to lines and memory (R181, R368, R371, R373, R381, R383): a dirty line is written back, whole or some
of its stores, and whole at the latest at the age limit; ownership passes to a die that asked for it; a line goes to
HBM, but not in self-refresh; a scrub changes no byte and no thread and takes away no poison; errors strike or are
corrected. An uncorrectable error at the L2 poisons its granule and changes no byte, is the last event of the log, and
counts one unless its counter stood at its limit (R381, R384). Where the spec leaves a point open, or says it only by
inference, this is the model's choice (log 59, 68, 76). -/
def Obligations.MemoryWritesBackAndTakesErrors : Prop :=
  (∀ (s : State) (c line die : Nat) (loc : ErrLoc),
    (line ∈ (s.core c).l1.fifo.map (·.1) → exec (.dirtyLineWriteBack c line) s = .next (s.writeSome c line)) ∧
    ((∃ x ∈ (s.core c).l1.fifo, x.1 = line ∧ x.2 + 32768 ≤ s.now) →
      exec (.l1AgeLimit c line) s = .next (s.writeBack c line)) ∧
    (line ∈ (s.mem.die die).requests.map (·.1) → exec (.ownershipGrant die line) s = .next (s.grantLine die line)) ∧
    (s.mem.selfRefresh = false → exec (.hbmWriteBack line) s = .next (s.leaveL2 line)) ∧
    (s.mem.selfRefresh = true → exec (.hbmWriteBack line) s = .next s) ∧
    (∃ t, exec (.scrub line) s = .next t ∧ t = s.scrub line ∧ t.threads = s.threads ∧ t.mem.hbm = s.mem.hbm ∧
      t.mem.l2 = s.mem.l2 ∧ ∀ h ∈ s.mem.poison, h ∈ t.mem.poison) ∧
    exec (.uncorrectableError loc) s = .next (s.strike loc) ∧ exec (.correctedError loc) s = .next (s.corrected loc)) ∧
  (∀ (s : State) (g : Nat),
    ∃ t, exec (.uncorrectableError (.l2 g)) s = .next t ∧ g ∈ t.mem.poison ∧
      (∀ h ∈ s.mem.poison, h ∈ t.mem.poison) ∧ (∀ h ∈ t.mem.poison, h = g ∨ h ∈ s.mem.poison) ∧
      t.mem.hbm = s.mem.hbm ∧ t.mem.l2 = s.mem.l2 ∧ t.threads = s.threads ∧
      t.rasLog.getLast? = some ⟨0x08, s.stackOf (32 * g), 32 * g, s.now⟩ ∧
      t.rasCount 0x08 = min (s.rasCount 0x08 + 1) 0xFFFFFFFF)

/-- Writes of special registers as happenings (R31, R82, R365, R366): a thread's own register takes the value as G2S
gives it; a 1 written to %tstat clears its bit, but PGRANT stays, and so does a bit that a completion has set in the
same cycle; %trctl keeps two bits and starting a trace clears its counts; the debugger's two bits are set. Where the
spec leaves a point open, or says it only by inference, this is the model's choice (log 21, 47). -/
def Obligations.RegisterWritesAsHappenings : Prop := ∀ (s : State) (t : Thread) (v : Word) (n : Nat) (b : Bool),
  (t ∈ s.threads → t.live = true → (∀ x ∈ s.threads, x.uid = t.uid → x = t) →
    (∃ r, exec (.tstatClear t.uid v) s = .next r ∧ (r.thread t.uid).tstat =
      t.tstat &&& ~~~(v &&& 0xF &&& ~~~(if t.tset.1 = s.now then t.tset.2 else 0))) ∧
    (∀ c : BitVec 16, c = 0x20 ∨ c = 0x21 ∨ c = 0x22 →
      exec (.specialRegisterWrite t.uid c v) s = .next (s.setSreg t.uid c.toNat v)) ∧
    (t.unprivileged = false → exec (.specialRegisterWrite t.uid 0x8000 v) s = .next (s.setSreg t.uid 0x8000 v)) ∧
    (t.unprivileged = true → exec (.specialRegisterWrite t.uid 0x8000 v) s = .next s)) ∧
  ((s.slice? n).isSome = true →
    (∃ r, exec (.trctlWrite n v) s = .next r ∧ (r.slice n).trctl = v &&& 3 ∧
      (r.slice n).trhead = (if v.getLsbD 0 then 0 else (s.slice n).trhead) ∧
      (r.slice n).trdrop = (if v.getLsbD 0 then 0 else (s.slice n).trdrop)) ∧
    (∃ r, exec (.dbgctlHold n b) s = .next r ∧ (r.slice n).dbgHold = b ∧ (r.slice n).dbgStop = (s.slice n).dbgStop) ∧
    (∃ r, exec (.dbgctlStop n b) s = .next r ∧ (r.slice n).dbgStop = b ∧ (r.slice n).dbgHold = (s.slice n).dbgHold)) ∧
  exec (.pfdoneAcknowledge v) s = .next (s.pfDone v)

/-- Array, phase and rail happenings, when their condition holds (R221, R263, R413, R414, R436 to R440): a tile
operation completes; an array takes up its next operation; a band is gated or powered; a core's cadence, an
announcement, a grant, an onset and an idle phase are settled; a rail steps up or down. Where the spec leaves a point
open, or says it only by inference, this is the model's choice (log 29, 30, 64, 79). -/
def Obligations.ArraysPhasesAndRailsStep : Prop := ∀ (s : State) (o : TileOp) (c b m k : Nat) (p : Phase),
  (s.ops.find? (·.id == k) = some o → s.canComplete o = true →
    exec (.tileOperationComplete k) s = .next (s.completeOp o)) ∧
  (s.nextArrayOp c = some o → exec (.arrayOperationStart c) s = .next (s.judge o)) ∧
  (s.gateDue (s.core c) b = true → exec (.bandGating c b) s =
    .next (s.setCore c fun x => { x with gated := x.gated ||| BitVec.ofNat 4 (2 ^ b) })) ∧
  (b ∈ (s.core c).bandWake.map (·.1) → exec (.bandPowerUp c b) s =
    .next (s.setCore c fun x => { x with
      gated := x.gated &&& ~~~(BitVec.ofNat 4 (2 ^ b))
      bandWake := x.bandWake.filter (·.1 != b)
      bandUsed := x.bandUsed.set b s.now })) ∧
  exec (.cadenceUpdate c) s = .next (s.setCore c fun x => { x with icad := s.icadFor x }) ∧
  (∀ d, s.decision = some d → exec (.apronAnnouncement d.1.team) s = .next (s.decide_ d.1 d.2.1 d.2.2)) ∧
  (s.grantDue m = some k → (s.team m).phase = some p → exec (.phaseGrant m) s = .next (s.grant m k p)) ∧
  ((s.team m).phase = some p → p.late s.now = true → exec (.phaseOnset m) s =
    .next (s.setTeam m fun x => { x with phase := some { p with st := .deferred } })) ∧
  ((s.team m).phase = some p → p.idle s.now = true → exec (.phaseIdleExpiry m) s = .next (s.dropPhase m)) ∧
  (dueAt (s.rail c b).upAt s.now = true → (s.rail c b).level < s.railTarget c b → exec (.railStepUp c b) s =
    .next (s.setRail c b fun x => { x with
      level := x.level + 1
      upAt := if x.level + 1 < s.railTarget c b then some (s.now + 256) else none })) ∧
  (dueAt (s.rail c b).holdUntil s.now = true → s.railTarget c b < (s.rail c b).level →
    exec (.railHoldExpiry c b) s = .next (s.setRail c b fun x => x.descend (s.railTarget c b) s.now s.railRamp)) ∧
  (dueAt (s.rail c b).downAt s.now = true → s.railTarget c b < (s.rail c b).level →
    exec (.railStepDown c b) s = .next (s.setRail c b fun x => x.descend (s.railTarget c b) s.now s.railRamp))

/-- The thermal marks (R442 to R445): below 95 °C the state is 0, from 95 °C it is 1; from 105 °C the critical
sequence begins, also while saved slices are being restored; at 110 °C the rails are cut off, at once where the first
reading is as high; below 90 °C the device resumes; the sensors are read again 256 cycles on; KTHERM is adjusted every
4,096 cycles. Where the spec leaves a point open, or says it only by inference, this is the model's choice (log 44,
52, 53). -/
def Obligations.ThermalMarksChangeTheState : Prop := ∀ (s : State) (x y : Nat),
  let u := s.setThermal fun h => { h with temp := [x, y], readAt := s.now / 256 * 256 + 256 }
  (s.apron.thermal.state ≤ 1 → x < 95 * 16 → y < 95 * 16 →
    exec (.sensorRead x y) s = .next (u.setThermal fun h => { h with state := 0 })) ∧
  (s.apron.thermal.state ≤ 1 → (95 * 16 ≤ x ∨ 95 * 16 ≤ y) → x < 105 * 16 → y < 105 * 16 →
    exec (.sensorRead x y) s = .next (u.setThermal fun h => { h with state := 1 })) ∧
  (s.apron.thermal.state ≤ 1 ∨ s.apron.thermal.state = 4 → (105 * 16 ≤ x ∨ 105 * 16 ≤ y) → x < 110 * 16 →
    y < 110 * 16 → exec (.sensorRead x y) s = .next u.beginCritical) ∧
  (s.apron.thermal.state ≤ 1 ∨ s.apron.thermal.state = 4 → (110 * 16 ≤ x ∨ 110 * 16 ≤ y) →
    exec (.sensorRead x y) s = .next u.beginCritical.cutOff) ∧
  (s.apron.thermal.state = 2 → (110 * 16 ≤ x ∨ 110 * 16 ≤ y) → exec (.sensorRead x y) s = .next u.cutOff) ∧
  (s.apron.thermal.state = 3 → x < 90 * 16 → y < 90 * 16 → exec (.sensorRead x y) s = .next u.resume) ∧
  (s.apron.thermal.adjustAt ≤ s.now → exec .kthermAdjust s = .next { s with apron := { s.apron with
    thermal := { s.apron.thermal with
      ktherm := s.apron.thermal.ktherm.zipIdx.map fun k => kthermNext (s.apron.thermal.temp.getD k.2 0) k.1
      adjustAt := s.apron.thermal.adjustAt + 4096 } } })

/-- Steps of the engines (R290, R292, R300, R303 to R307): a transform takes its next chunk unless it waits for bytes
of another device, ends once its work and its writes are done, or is ended by its decoder's watchdog; a collective
writes its result when every member's message is here, and ends once its writes are performed; it fails when a member
has stayed silent for 2^32 cycles; a member's message is kept in order, one from a device outside MEMBERS is answered,
and a collective of which some message differs from its own ends with status 9 (R303). Where the spec leaves a point
open, or says it only by inference, this is the model's choice (log 38, 40, 41, 81). -/
def Obligations.EnginesTakeTheirSteps : Prop := ∀ (s : State) (x : Xform) (c : Coll) (k src tag : Nat) (f d : List Nat),
  (s.atWork k = some x → x.done = false → x.page = none → s.asking (engineUid k) = false →
    exec (.transformChunk k) s = .next (s.xformChunk x)) ∧
  (s.atWork k = some x → x.done = true → x.page = none → s.remoteStores (engineUid k) = false →
    (x.status ≠ 0 ∨ x.op ≠ 3 ∨ x.outDone = true) → exec (.transformEnd k) s = .next (s.endXform x x.status)) ∧
  (∀ t, s.atWork k = some x → x.op = 4 → x.done = false → x.chunkAt = some t → t + x.wdCycles < s.now → exec (.decoderWatchdog k) s =
    .next (s.setXform k fun y => { y with status := 2, page := none })) ∧
  (∀ m, s.colls.find? (·.tag == k) = some c → c.page = none → s.mem.selfRefresh = false →
    s.remoteStores (collUid k) = false → c.written = false → c.status = 0 → c.mine = some m → (∀ e ∈ c.devs, e ≠ s.devid → (s.collFrom k e).isSome = true) →
    exec (.collectiveComplete k) s = .next (s.finishColl c m)) ∧
  (s.colls.find? (·.tag == k) = some c → c.page = none → s.mem.selfRefresh = false →
    s.remoteStores (collUid k) = false → c.written = true → exec (.collectiveComplete k) s = .next (s.endColl c 0)) ∧
  (s.colls.find? (·.tag == k) = some c → c.page = none → s.mem.selfRefresh = false →
    s.remoteStores (collUid k) = false → c.written = false → c.status ≠ 0 →
    exec (.collectiveComplete k) s = .next (s.endColl c c.status)) ∧
  (s.colls.find? (·.tag == k) = some c →
    ((s.collIn.filter (·.tag == k)).map (·.at_)).foldl min c.issuedAt + 2 ^ 32 ≤ s.now →
    c.written = false → (∃ e ∈ c.devs, e ≠ s.devid ∧ s.collFrom k e = none) →
    exec (.collectiveMemberTimeout k) s = .next (s.failColl c)) ∧
  (∃ t, exec (.collectiveControlMessage src tag f d) s = .next t ∧ t.colls = s.colls ∧
    t.collIn = s.collIn ++ [⟨src, tag, f, d, s.now⟩]) ∧
  (∀ m, s.colls.find? (·.tag == tag) = some c → c.mine = some m → src ∉ c.devs →
    (∀ x ∈ s.collIn, x.src = src → x.tag ≠ tag) → exec (.collectiveControlMessage src tag f d) s = .next
      (State.send { s.heard src with collIn := s.collIn ++ [⟨src, tag, f, d, s.now⟩] } (.coll src tag c.fields m))) ∧
  (∀ m x, x ∈ s.collIn → x.tag = c.tag → x.src ∉ c.devs → x.fields ≠ c.fields →
    (∀ y ∈ s.collIn, y.tag = c.tag → y.src = x.src → y = x) → s.finishColl c m = s.endColl c 9) ∧
  (∀ m x e, e ∈ c.devs → e ≠ s.devid → s.collFrom c.tag e = some x → x.fields ≠ c.fields →
    s.finishColl c m = s.endColl c 9)

/-- A Cloakroom message is taken as heard from its sender, performed, and followed by what it brings about at this
device (R324 to R342). At its entry, where no invocation waits to be placed (R338, R339, R340, R342): an FPUT fills a
pending future whose results are inline and is turned away by one that is not pending, with subcode 3 from a full one;
an FBREAK breaks a pending one alone; a waiter or an INVH of a pending one waits there; a pending one is released
once. Where the spec leaves a point open, or says it only by inference, this is the model's choice (log 45, 46, 62).
-/
def Obligations.CloakroomMessagesArePerformed : Prop :=
  (∀ (s : State) (h : MsgHead) (n : DWord) (d l a v : List Byte)
      (asid tag depth loc sub : Nat) (any poll ok : Bool) (cause : Word),
    let go := fun (k : MsgKind) => (((s.heard h.src).handleMsg ⟨h, k⟩).drainCloak 4096)
    exec (.cloakroomInvoke h d l a asid any) s =
      .next (go (.invoke (invocationOf d l a h.handle h.issuer asid any))) ∧
    exec (.cloakroomInvh h n d l a asid any) s = .next (go (.invh (invocationOf d l a n h.issuer asid any))) ∧
    exec (.cloakroomFgetWaiter h tag poll) s = .next (go (.waiter tag poll)) ∧
    exec (.cloakroomFput h v) s = .next (go (.fput v)) ∧
    exec (.cloakroomFbreak h cause depth) s = .next (go (.fbreak cause depth)) ∧
    exec (.cloakroomFrel h) s = .next (go .frel) ∧
    exec (.valueReply h tag v) s = .next (go (.valueReply tag v)) ∧
    exec (.brokenReply h tag cause depth) s = .next (go (.brokenReply tag cause depth)) ∧
    exec (.routeUpdate h loc) s = .next (go (.routeUpdate loc)) ∧
    exec (.acknowledgement h ok sub) s = .next (go (.ack ok sub))) ∧
  (∀ (s : State) (m : CMsg) (e : Entry) (i : Invocation) (v : List Byte) (c : Word) (d tag : Nat),
    s.entryOf m.head.handle = some e → e.st ≠ .forwarded → e.handle = m.head.handle → e.unplaced = false →
    (m.kind = .fput v → e.st = .pending → e.resLen ≤ 32 →
      s.handleMsg m = (s.complete e.handle (.full v)).ackMsg m true 0) ∧
    (m.kind = .fput v → e.st = .pending → 32 < e.resLen → s.handleMsg m = s.ackMsg m false 5) ∧
    (m.kind = .fput v → e.st = .full → s.handleMsg m = (s.ackMsg m false 3).reclaim e.handle) ∧
    (m.kind = .fput v → e.st = .broken → s.handleMsg m = (s.ackMsg m false 5).reclaim e.handle) ∧
    (m.kind = .fbreak c d → e.st = .pending → s.handleMsg m = (s.complete e.handle (.broken c d)).ackMsg m true 0) ∧
    (m.kind = .fbreak c d → e.st ≠ .pending → s.handleMsg m = (s.ackMsg m false 5).reclaim e.handle) ∧
    (m.kind = .waiter tag false → e.st = .pending → s.handleMsg m = (s.ackMsg m true 0).setEntry e.handle fun x =>
      { x with waiters := x.waiters ++ [.device m.head.issuer tag] }) ∧
    (m.kind = .invh i → e.st = .pending → s.handleMsg m = (s.ackMsg m true 0).setEntry e.handle fun x =>
      { x with invhQ := x.invhQ ++ [i] }) ∧
    (m.kind = .frel → e.st = .pending → e.released = false →
      s.handleMsg m = (s.setEntry e.handle fun x => { x with released := true }).ackMsg m true 0) ∧
    (m.kind = .frel → e.st = .pending → e.released = true → s.handleMsg m = s.ackMsg m false 5))

/-- Scheduling happenings, when their condition holds (R350, R358, R362, R363, R389 to R405): a slice is placed,
saved, restored or resumed; a contract releases its slice, or holds the release while a job is open; an exhausted
budget is counted and gives an allowance of 32,768 cycles, after which the slice is killed; a missed deadline is
counted; a level watch is evaluated; contexts are saved and loaded. Where the spec leaves a point open, or says it
only by inference, this is the model's choice (log 43, 44, 48, 49, 58, 75, 79). -/
def Obligations.SlicesArePlacedReleasedAndSaved : Prop := ∀ (s t : State) (n : Nat) (k : Contract) (w : Watch) (c : CtxArea),
  (s.place? n = some t → exec (.placement n) s = .next t) ∧
  (s.poolSaves n ≠ [] → (∀ m ∈ s.poolSaves n, s.atRest m = true) → s.apron.thermal.state ≠ 2 →
    exec (.saveComplete n) s = .next (((s.poolSaves n).foldl (fun s m => s.saveTeam m .out) s).setSlice n fun l =>
      { l with resident := false })) ∧
  (s.restore? n = some t → exec (.restoreComplete n) s = .next t) ∧
  (s.mayResume (s.slice n) = true →
    exec (.suspendResume n) s = .next (s.setSlice n fun l =>
      { l with suspended := false, forHead := false })) ∧
  (s.contract? n = some k → k.dueAt ≤ s.now → (s.slice k.slice).jobOpen = false → exec (.contractRelease n) s =
    .next (State.release_ { s with contracts := s.contracts.map fun x =>
      if x.id = k.id then { x with released := x.released + 1 } else x } (s.slice k.slice).num k.dueAt)) ∧
  (s.contract? n = some k → k.dueAt ≤ s.now → (s.slice k.slice).jobOpen = true → exec (.contractRelease n) s =
    .next (State.setSlice { s with contracts := s.contracts.map fun x =>
      if x.id = k.id then { x with released := x.released + 1 } else x } (s.slice k.slice).num fun x =>
        { x with heldRelease := some (x.heldRelease.getD k.dueAt) })) ∧
  ((s.slice n).overBudget = true → exec (.budgetExhausted n) s =
    .next ((s.setSlice n fun x => { x with bmiss := bump32 x.bmiss, allowance := some 32768 }).setThreads
      ((s.sliceThreads n).map (·.uid)) fun t => { t with budgetDue := true })) ∧
  ((s.slice n).inJob = true → (s.slice n).allowance = some 0 →
    exec (.allowanceExpiry n) s = .next (s.killSlice n)) ∧
  ((s.slice n).missed s.now = true → exec (.deadlineMiss n) s =
    .next (s.setSlice n fun x => { x with bmiss := bump32 x.bmiss, deadlineMissed := true })) ∧
  (s.watches.find? (·.id == n) = some w → levelCounter w.counter = true → w.nextAt ≤ s.now →
    exec (.watchEvaluation n) s = .next ((s.setWatch n fun x => { x with nextAt := s.now + 4096 }).evalWatch n)) ∧
  (s.ctxAreas.find? (·.id == n) = some c → s.ctxSaveReady c = true →
    exec (.contextSaveComplete n) s = .next (s.ctxSaved c)) ∧
  (s.ctxLoad? n = some t → exec (.contextLoadComplete n) s = .next t)

/-- The fabric between devices (R380, R388, R421, R423, R425): links count their retries, go down, and come up again,
when what waited for a route leaves; a remote request is performed at its home, or waits while the device does not
serve its memory; a reply completes its access; members are heard, declared failed after 2^22 silent cycles with no
route to them up, and report their levels. A message over Seam leaves at once where some of the first four routes to
its receiver has all its links up, no message of its class for the receiver waits, and none that took another route is
still on its way, and else waits here (R423). Where the spec leaves a point open, or says it only by inference, this
is the model's choice (log 53, 54, 65, 83). -/
def Obligations.DevicesExchangeRequestsAndReports : Prop := ∀ (s : State) (l m n t pa : Nat) (op : RemoteOp) (bs : List Byte) (p f : Bool)
    (cl : BitVec 16),
  exec (.linkLevelRetry l) s = .next (s.setLink l fun x => { x with retries := x.retries + 1 }) ∧
  exec (.linkDown l) s = .next (s.setLink l fun x => { x with up := false }) ∧
  exec (.linkRetrained l) s = .next (s.setLink l fun x => { x with up := true, retries := 0 }).sendWaiting ∧
  ((∃ e ∈ s.fabric.routes, e.1 = n) →
    ((∀ e ∈ s.fabric.routes, e.1 = n → ∃ r ∈ e.2.take 4, ∀ k ∈ r, ∃ x ∈ s.fabric.links, x.num = k ∧ x.up = true) →
      s.fabric.route? n ≠ none) ∧
    ((∀ e ∈ s.fabric.routes, e.1 = n → ∀ r ∈ e.2.take 4, ∃ k ∈ r, ∀ x ∈ s.fabric.links, x.num = k → x.up = false) →
      s.fabric.route? n = none)) ∧
  (∀ m : OutMsg, m.dest = some n →
    let waits := { s with fabric := { s.fabric with unsent := s.fabric.unsent ++ [m] } }
    (s.fabric.route? n = none → s.send m = waits) ∧
    (∀ r, s.fabric.route? n = some r →
      ((∃ x ∈ s.fabric.unsent, x.dest = some n ∧ x.klass = m.klass) → s.send m = waits) ∧
      ((∃ x ∈ s.fabric.flights, x.dev = n ∧ x.cls = m.klass ∧ x.route ≠ r ∧ s.now < x.until_) → s.send m = waits) ∧
      ((∀ x ∈ s.fabric.unsent, x.dest = some n → x.klass ≠ m.klass) →
        (∀ x ∈ s.fabric.flights, x.dev = n → x.cls = m.klass → x.route = r ∨ x.until_ ≤ s.now) →
        s.send m = { s with
          outbox := s.outbox ++ [m]
          fabric := { s.fabric with flights := s.fabric.flown s.now s.outbox.length m } }))) ∧
  (s.memWaits = false →
    exec (.remoteAccessRequest n t pa op) s = .next ((s.heard n).performRemote ⟨n, t, pa, op⟩)) ∧
  (s.mem.selfRefresh = true ∨ s.apron.thermal.state = 2 → ∃ u, exec (.remoteAccessRequest n t pa op) s = .next u ∧
    u.fabric.held = s.fabric.held ++ [⟨n, t, pa, op⟩] ∧ u.mem = s.mem) ∧
  (∀ w, s.fabric.remote.find? (·.txn == t) = some w →
    exec (.remoteAccessReply t bs p f) s = .next ((s.heard w.home).remoteDone w ⟨t, bs, p, f⟩)) ∧
  exec (.livenessFlit (some n)) s = .next (s.heard n) ∧
  (s.fabric.livenessAt ≤ s.now → ∃ u, exec (.livenessFlit none) s = .next u ∧
    u.fabric.livenessAt = s.fabric.livenessAt + 65536) ∧
  (s.aliveMember n = true → s.fabric.route? n = none →
    (∃ m ∈ s.fabric.members, m.dev = n ∧ m.heardAt + 2 ^ 22 ≤ s.now) → exec (.memberFailureDeclared n) s =
      .next ((s.failMember n).peers.foldl (fun x d => x.send (.failure d n)) (s.failMember n))) ∧
  ((s.heard m).aliveMember n = true → exec (.failureReport ⟨m, n⟩) s = .next ((s.heard m).failMember n)) ∧
  (∀ m, s.fabric.members.find? (·.dev == n) = some m → exec (.placementReport (some n) l cl) s =
    .next (s.reported { m with heardAt := s.now, level := l, classes := cl })) ∧
  (s.fabric.reportAt ≤ s.now → ∃ u, exec (.placementReport none l cl) s = .next u ∧
    u.fabric.reportAt = s.fabric.reportAt + 65536)

/-- Messages of hosts (R343, R393, R429 to R435). With nothing of its session waiting, a request of a known session is
performed at once: an INVOKE with room for its handle is answered with that handle, or, where its DEVICE is this one,
with the code that refuses it, and one without room with 0x109; an INVH whose fields are outside their limits is
answered with the code where its upstream entry is here; an INVH for a pending handle joins the handle's queue, a
waiter joins a pending handle and is answered, one of a handle that has its result is told it at once, a handle is
released through its entry, a handle of a bad form is answered with 0x106, an admitted contract is answered with its
number, an RMA access of 1 to 65,536 bytes is recorded, and a dropped packet is counted. Before that, a header with a
field outside its limits is answered with 0x101 or 0x102, an unknown session, or one that requires the transport's
security and is used over another association, with status 0x100, and a request whose lengths are wrong with 0x102.
Where the spec leaves a point open, or says it only by inference, this is the model's choice (log 45, 46, 55, 62, 65,
81, 82). -/
def Obligations.HostMessagesArePerformed : Prop := ∀ (s : State) (q : SupolHead) (r len : Nat) (h : DWord) (d l a bs : List Byte) (w : Requester)
    (o : Bool),
  (s.takesFrom (.session q r) false = true →
    (∀ x t, inlineOk d l a 4096 = true → s.allocInv 2 d = some x →
      x.2.sendInvoke (invocationOf d l a x.1 s.devid (s.originOf (.session q r)).1 (s.originOf (.session q r)).2) = (t, none) →
      exec (.supolInvoke q r d l a) s = .next ((t.reply q.num r 1 x.1 0 []).drainCloak 4096)) ∧
    (∀ x t c, inlineOk d l a 4096 = true → s.allocInv 2 d = some x →
      x.2.sendInvoke (invocationOf d l a x.1 s.devid (s.originOf (.session q r)).1 (s.originOf (.session q r)).2) =
        (t, some c) →
      (byteAt d 0 = s.devid →
        exec (.supolInvoke q r d l a) s = .next (((t.dropEntry x.1).reply q.num r 1 0 c []).drainCloak 4096)) ∧
      (byteAt d 0 ≠ s.devid →
        exec (.supolInvoke q r d l a) s = .next ((t.reply q.num r 1 x.1 0 []).drainCloak 4096))) ∧
    (inlineOk d l a 4096 = true → s.allocInv 2 d = none →
      exec (.supolInvoke q r d l a) s = .next (s.reply q.num r 1 0 0x109 [])) ∧
    (∀ x e, inlineOk d l a 4064 = true → s.allocInv 2 d = some x → badHandle h = false → descFieldsOk d 4064 = true →
      byteAt d 1 ≤ 15 → x.2.entryOf h = some e → e.st = .pending → e.unplaced = false →
      exec (.supolInvh q r h d l a) s = .next ((State.setEntry
        { x.2 with cloak := { x.2.cloak with admits := x.2.cloak.admits ++ [(x.1, q.num, r)] } } h fun y =>
          { y with invhQ := y.invhQ ++ [invocationOf d l a x.1 s.devid (s.originOf (.session q r)).1
            (s.originOf (.session q r)).2] }).drainCloak 4096)) ∧
    (∀ x e, inlineOk d l a 4064 = true → s.allocInv 2 d = some x → badHandle h = false →
      (descFieldsOk d 4064 = false ∨ 15 < byteAt d 1) → x.2.entryOf h = some e → e.st ≠ .forwarded → e.unplaced = false →
      let c := x.2.fieldCode ((invocationOf d l a x.1 s.devid (s.originOf (.session q r)).1
        (s.originOf (.session q r)).2).request (List.replicate 32 0))
      exec (.supolInvh q r h d l a) s = .next ((((x.2.logRefusal c).dropEntry x.1).reply q.num r 2 0 c []).drainCloak 4096)) ∧
    (∀ e, badHandle h = false → s.entryOf h = some e → e.st = .pending → exec (.fgetNotify q r h) s = .next
      (((s.setEntry h fun x => { x with waiters := x.waiters ++ [.session q.num r] }).reply q.num r 3 h 0 []).drainCloak 4096)) ∧
    (∀ e v, badHandle h = false → s.entryOf h = some e → e.st ≠ .forwarded → e.result = some v →
      exec (.fgetNotify q r h) s = .next (((s.reply q.num r 3 h 0 []).notify q.num r h v).drainCloak 4096)) ∧
    (badHandle h = true → exec (.fgetNotify q r h) s = .next (s.reply q.num r 3 h 0x106 []) ∧
      exec (.supolFrel q r h) s = .next (s.reply q.num r 4 h 0x106 [])) ∧
    (badHandle h = false → exec (.supolFrel q r h) s =
      .next ((s.ownMsg h .frel (some (.host q.num r 4))).drainCloak 4096)) ∧
    (0 < len → len ≤ 65536 → exec (.rmaRead q r h len o) s = .next { s with
      rma := s.rma ++ [⟨s.nextRma, q.num, r, false, o, h, len, List.replicate len 0, false, 0, []⟩],
      nextRma := s.nextRma + 1 }) ∧
    (0 < bs.length → bs.length ≤ 65536 → exec (.rmaWrite q r h bs o) s = .next { s with
      rma := s.rma ++ [⟨s.nextRma, q.num, r, true, o, h, bs.length, bs, false, 0, []⟩], nextRma := s.nextRma + 1 }) ∧
    (inlineOk d l a 4096 = false → exec (.supolInvoke q r d l a) s = .next (s.reply q.num r 1 0 0x102 [])) ∧
    (inlineOk d l a 4064 = false → exec (.supolInvh q r h d l a) s = .next (s.reply q.num r 2 0 0x102 [])) ∧
    (len = 0 ∨ 65536 < len → exec (.rmaRead q r h len o) s = .next (s.reply q.num r 6 h 0x102 [])) ∧
    (bs.length = 0 ∨ 65536 < bs.length → exec (.rmaWrite q r h bs o) s = .next (s.reply q.num r 7 h 0x102 []))) ∧
  (s.boot.on = true → s.boot.recovery = false → fieldStatus q = 0 → s.mustWait q.num = false →
    (∀ x, s.session? q.num = some x → x.secure = true ∧ q.assoc ≠ some x.assoc) →
    exec (.supolInvoke q r d l a) s = .next (s.reply q.num r 1 0 0x100 []) ∧
    exec (.supolInvh q r h d l a) s = .next (s.reply q.num r 2 0 0x100 []) ∧
    exec (.fgetNotify q r h) s = .next (s.reply q.num r 3 0 0x100 []) ∧
    exec (.supolFrel q r h) s = .next (s.reply q.num r 4 0 0x100 []) ∧
    exec (.contract (.session q r) d l) s = .next (s.reply q.num r 5 0 0x100 []) ∧
    exec (.rmaRead q r h len o) s = .next (s.reply q.num r 6 h 0x100 []) ∧
    exec (.rmaWrite q r h bs o) s = .next (s.reply q.num r 7 h 0x100 [])) ∧
  (s.boot.on = true → s.boot.recovery = false → s.mustWait q.num = false →
    (fieldStatus q = 0x101 ↔ q.version ≠ 1 ∨ q.unknown ≠ none ∨ q.flags ≠ 0 ∨ q.status ≠ 0 ∨ q.reserved ≠ 0) ∧
    (fieldStatus q ≠ 0 →
      exec (.supolInvoke q r d l a) s = .next (s.reply q.num r (typeOf q 1) 0 (fieldStatus q) []) ∧
      exec (.supolInvh q r h d l a) s = .next (s.reply q.num r (typeOf q 2) 0 (fieldStatus q) []) ∧
      exec (.fgetNotify q r h) s = .next (s.reply q.num r (typeOf q 3) 0 (fieldStatus q) []) ∧
      exec (.supolFrel q r h) s = .next (s.reply q.num r (typeOf q 4) 0 (fieldStatus q) []) ∧
      exec (.contract (.session q r) d l) s = .next (s.reply q.num r (typeOf q 5) 0 (fieldStatus q) []) ∧
      exec (.rmaRead q r h len o) s = .next (s.reply q.num r (typeOf q 6) h (fieldStatus q) []) ∧
      exec (.rmaWrite q r h bs o) s = .next (s.reply q.num r (typeOf q 7) h (fieldStatus q) []))) ∧
  (s.takesFrom w true = true →
    let u := s.atRequest w
    (∀ x, d.length = 64 → l.length = 256 → u.admitContract d l (u.originOf w).1 (u.originOf w).2 = .ok x →
      exec (.contract w d l) s = .next (x.2.answer w 5 (BitVec.ofNat 64 x.1) 0 [])) ∧
    (∀ c, d.length = 64 → l.length = 256 → u.admitContract d l (u.originOf w).1 (u.originOf w).2 = .error c →
      exec (.contract w d l) s = .next ((u.logRefusal c).answer w 5 0 c [])) ∧
    (d.length ≠ 64 ∨ l.length ≠ 256 → exec (.contract w d l) s = .next (u.answer w 5 0 0x102 []))) ∧
  exec .supolPacketDrop s = .next { s with starved := s.starved + 1 }

/-- Management operations (R119, R120, R384, R386, R393, R448 to R452): each is answered with its status and payload,
to a management session or for a live supervisor slice, one whose payload begins with an unlisted OP that asks for no
port or with a wrong length with 0x101 or 0x102. A code object is measured once what of it lies on other devices is
there (R352). Where the spec leaves a point open, or says it only by inference, this is the model's choice (log 6, 17,
21, 55, 56, 58, 65, 82, 83, 84). -/
def Obligations.ManagementOperationsAnswer : Prop := ∀ (s : State) (w : Requester), s.takesFrom w true = true →
  let u := s.atRequest w
  let did := fun (x : State) (status : Nat) (pay : List Byte) =>
    (Host.Outcome.next ((x.answer w 8 0 status pay).forget [codeObjUid]) : Out)
  (u.portAsked w = none → payloadStatus w ≠ 0 → ∀ o v, exec (.readReg w o) s = .next (u.answer w 8 0 (payloadStatus w) []) ∧
    exec (.writeReg w o v) s = .next (u.answer w 8 0 (payloadStatus w) [])) ∧
  (payloadStatus w = 0 →
  (∀ o v, u.readMgmt o = some v → exec (.readReg w o) s = did u 0 (leBytes 8 v.toNat)) ∧
  (∀ o v, u.writeStatus o v = 0 → exec (.writeReg w o v) s = did (u.putMgmt o v) 0 []) ∧
  (∀ o v, u.writeStatus o v ≠ 0 → exec (.writeReg w o v) s = did u (u.writeStatus o v) []) ∧
  (∀ v, u.slices.any Slice.live = false →
    exec (.writeDomain w v) s = did { u with mgmt := { u.mgmt with domain := v &&& 0x3F } } 0 [] ∧
    exec (.writeMembers w v) s = did { u with
      mgmt := { u.mgmt with members := v }
      fabric := { u.fabric with
        members := u.newMembers v
        unsent := u.fabric.unsent.filter fun m => m.dest.all v.getLsbD } } 0 [] ∧
    exec (.writeRouteBase w v) s = did (State.sendWaiting { u with
      fresh := u.fresh + 1
      mgmt := { u.mgmt with routeBase := v &&& 0x0000FFFFFFFFFFFF }
      fabric := { u.fabric with routes := Config.routeTable u.fresh } }) 0 [] ∧
    exec (.writeInvArgs w v) s = did { u with mgmt := { u.mgmt with invArgs := v &&& 0xFFFFFFFFFFFFE000 } } 0 [] ∧
    exec (.writeInvArgsVa w v) s = did { u with mgmt := { u.mgmt with invArgsVa := v &&& 0xFFFFFFFFFFFFE000 } } 0 []) ∧
  (∀ b len asid k, u.freeCodeId = some k → u.missing codeObjUid (u.hwGrans 0 asid b.toNat len) = [] →
    exec (.admitCode w b len asid) s = did { u with
      codes := u.codes ++ [⟨k, b, len, asid, sha512 (u.codeImage codeObjUid asid b.toNat len)⟩] } 0 (leBytes 4 k)) ∧
  (∀ k, u.slices.any (fun l => l.live && l.codeId == k) = true → exec (.retireCode w k) s = did u 0x106 []) ∧
  (∀ k, u.slices.any (fun l => l.live && l.codeId == k) = false → u.codes.any (·.id == k) = true →
    exec (.retireCode w k) s = did { u with codes := u.codes.filter fun c => c.id != k } 0 []) ∧
  (∀ k a m e, s.sessions.any (·.mgmt) = true → u.freeSession = some k → exec (.openSession w a m e) s =
    did { u with sessions := u.sessions ++ [⟨k, a, m, e, k⟩] } 0 (leBytes 4 k)) ∧
  (∀ n, (u.session? n).isSome = true → exec (.closeSession w n) s = did (u.closeSession n) 0 []) ∧
  (∀ q : List Byte, q.length = 64 →
    exec (.quote w q) s = did u 0 (u.quoteFields q ++ Config.sign (u.quoteFields q))) ∧
  exec (.getCert w) s = did u 0 Config.certificate ∧
  (∀ c, 1 ≤ c → c ≤ 0x0F → exec (.rasRead w c) s = did u 0 (leBytes 4 (u.rasCount c))) ∧
  (∀ c, 1 ≤ c → c ≤ 0x0F → exec (.rasClear w c) s = did { u with ras := u.ras.filter (·.1 != c) } 0 []) ∧
  exec (.logRead w 0) s = did u 0 (u.rasLog.flatMap RasEvent.bytes) ∧
  exec (.logRead w 1) s = did u 0 (u.refusals.flatMap Refused.bytes) ∧
  (∀ n, (u.slice? n).isSome = true → exec (.debugStop w n) s = did { u with
    groups := u.groups.map fun g => if g.slice = n then { g with stopped := true } else g } 0 []) ∧
  (∀ n g gid key, u.groups.find? (fun g => g.gid == gid && g.slice == n) = some g → u.maySingle g = true →
    exec (.debugStepPath w n gid key) s = did (u.beginSteps g (((u.paths g).filter fun p =>
      (⟨(p.headD default).pc, (p.headD default).rank, (p.headD default).pos⟩ : PathKey) == key).take 1)) 0 [] ∧
    exec (.debugStepAll w n gid) s = did (u.beginSteps g (u.paths g)) 0 []) ∧
  (∀ n, (u.slice? n).isSome = true → exec (.debugResume w n) s = did (u.debugResume n) 0 []) ∧
  (∀ k c, u.contract? k = some c → exec (.contractWithdraw w k) s =
    did (State.setSlice { u with contracts := u.contracts.filter fun x => x.id != k } c.slice fun l =>
      { l with heldRelease := none }) 0 []) ∧
  (∀ img, exec (.loadFw w img) s = did { u with boot := { u.boot with slotB := img } } 0 []))

/-- Resets (R446, R447): a cold reset and power-on keep no memory, session, slice, thread or handle; a warm reset,
which the watchdog also brings about, keeps HBM, the slots' generations and the management sessions; then the ROM runs
slot A's image where it passes, else slot B's, else it enters recovery, as it does where the fuses or the training of
HBM fail; there no link of Seam is up and RESET is not served. Each port has its MAC address. A partition reset gives
the cores of the cluster their reset state and empties its ready queue. That HBM reads 0 after a cold reset is the
model's choice (log 1): the rule leaves its contents undefined. Where the spec leaves a point open, or says it only by
inference, this is the model's choice (log 1, 4, 5, 6, 7, 57, 76, 84). -/
def Obligations.ResetsClearTheDevice : Prop := ∀ (s : State) (img : List Byte) (w : Requester) (c : Nat),
  let b := s.breakSlices (s.slices.filter Slice.live)
  let boots := fun (x : State) =>
    let z := { x with
      fresh := x.fresh + 1
      fabric := { x.fabric with ports := x.fabric.ports.map fun (p : Port) => { p with mac := Config.portMac p.num } } }
    (if Config.bootFails x.fresh = 1 ∨ Config.bootFails x.fresh = 2 then z.recover
    else if imagePasses b.boot.slotA then z.runFirmware b.boot.slotA
    else if imagePasses b.boot.slotB then z.runFirmware b.boot.slotB else z.recover)
  (s.serves false = true → exec .resetCold s = .next s.coldReset ∧ exec .resetWarm s = .next s.warmReset) ∧
  (s.boot.recovery = true → exec .resetCold s = .next s ∧ exec .resetWarm s = .next s) ∧
  exec .managementWatchdog s = .next s.warmReset ∧
  exec (.powerOn img) s = .next (State.coldReset { s with boot := { s.boot with slotA := img } }) ∧
  (∃ z, s.coldReset = boots z ∧ z.slices = [] ∧ z.threads = [] ∧ z.groups = [] ∧ z.sessions = [] ∧ z.codes = [] ∧
    z.mem.hbm = [] ∧ z.mem.l2 = [] ∧ z.cloak.entries = [] ∧ z.mgmt = State.reset.mgmt) ∧
  (∃ z, s.warmReset = boots z ∧ z.slices = [] ∧ z.threads = [] ∧ z.groups = [] ∧ z.codes = [] ∧
    z.sessions = b.sessions.filter Session.mgmt ∧ z.mem.hbm = b.mem.hbm ∧ z.mem.l2 = [] ∧ z.cloak.entries = [] ∧
    z.cloak.gens = b.cloak.gens) ∧
  (∀ z : State, z.recover.boot.recovery = true ∧ z.recover.threads = z.threads ∧ z.recover.mem = z.mem ∧
    ∀ n, z.recover.fabric.linkUp n = false) ∧
  (s.takesFrom w true = true → payloadStatus w = 0 → c < 40 →
    ∃ t, exec (.resetPartition ⟨w, 2, c⟩) s = .next t ∧ (∀ x ∈ t.cores, x.clusterNo = c →
      x = { Core.reset x.num x.die x.cluster with cycBase := 2 ^ 64 - (s.atRequest w).now % 2 ^ 64 }) ∧
      ∀ l ∈ t.slices, l.waitsAt ≠ some c)

/-! ### The encoding -/

/-- Every well-formed instruction word is read back from its own encoding, with every operand, under each version that
has the instruction (R43, R61 to R64). Where the spec leaves a point open, or says it only by inference, this is the
model's choice (log 31). -/
def Obligations.DecodeOfEncode : Prop := ∀ (i : Instr) (v : Nat), i.wellFormed = true → Machine.Instr.isEvent i = false →
  1 ≤ v → v ≤ 3 → i.inVersion v = true → ∃ w, encode i = some w ∧ decode v w = .ok i

/-- A word that a version accepts is the encoding of what it is read as, so no two words are one instruction, and the
instruction is well-formed and of that version (R61 to R65). Where the spec leaves a point open, or says it only by
inference, this is the model's choice (log 31). -/
def Obligations.EncodeOfDecode : Prop := ∀ (v : Nat) (w : Word) (i : Instr), 1 ≤ v → v ≤ 3 → decode v w = .ok i →
  encode i = some w ∧ i.wellFormed = true ∧ i.inVersion v = true

/-- Words written out field by field, S, opcode and payload, from the encodings of R53, R70, R94, R128, R145, R183,
R192, R232, R246, R283, R308, R325 and R348 are read as the instructions they stand for; a reserved bit, an unlisted
variant, a register out of range and an unassigned opcode are each refused by name (R65). Where the spec leaves a
point open, or says it only by inference, this is the model's choice (log 24, 31). -/
def Obligations.DecodeWords : Prop :=
  decode 3 0b00001000000001010000110000011100#32 = .ok (.add false 5 6 7) ∧
  decode 3 0b10001000100001010000110000011100#32 = .ok (.sub true 5 6 7) ∧
  decode 3 0b00000001100101100000000000000001#32 = .error .reserved ∧
  decode 3 0b00000001100101100000000000000000#32 = .ok (.hgrd false 11 0 0) ∧
  decode 3 0b00011000000001011111111111111101#32 = .ok (.movi false 5 0xFFFD) ∧
  decode 3 0b10111000000000101000000000000100#32 = .ok (.br true 1 0 0x8004) ∧
  decode 3 0b00101001100001010000110000011110#32 = .ok (.ffma false 5 6 7 2) ∧
  decode 3 0b01000001000001010000011111111110#32 = .ok (.ldw false 5 3 0x1FE) ∧
  decode 3 0b01001000000001010000011000011101#32 = .ok (.aadd false 5 3 7 1) ∧
  decode 3 0b01001010000000000000000000001101#32 = .ok (.fenceRel false 3) ∧
  decode 3 0b01010010000001010000110010001101#32 = .ok (.red false 5 6 2 3 1) ∧
  decode 3 0b01011010100000010000010000001101#32 = .ok (.tmma false 1 2 3 1) ∧
  decode 3 0b01100100000000000000010000011100#32 = .ok (.qpush false 2 7) ∧
  decode 3 0b01101000100001000000101000011000#32 = .ok (.pclaim false 4 5 6) ∧
  decode 3 0b01101011100001000000101000010010#32 = .ok (.fput false 4 5 4 2) ∧
  decode 3 0b01110001100000000000101000011000#32 = .ok (.tlbinvPage false 5 6) ∧
  decode 3 0b00001001100001010000110000011110#32 = .error .variant ∧
  decode 3 0b00010010000001011111111000000000#32 = .error .register ∧
  decode 3 0b01111111100000000000000000000000#32 = .error .opcode ∧
  decode 2 0b00000100100001010000000000000001#32 = .error .opcode ∧
  decode 3 0b00000100100001010000000000000001#32 = .ok (.trace false 5 1)

/-! ### The step -/

/-- With nothing of the agenda due, no timer over, no unit's turn and no run to begin, and once what the rest of the
run needs of another device's code has come, the machine fetches at the issue set's PC: where the word there decodes,
the step is that instruction's meaning in the state that holds the fetch's translation, followed by what a step brings
about: the cycle passes when no other instruction can issue in it, and held groups and units go on (R46, R98; the
order of a step's parts is the model's choice, log 8). Where the spec leaves a point open, or says it only by
inference, this is the model's choice (log 9, 10, 31, 38, 70). -/
def Obligations.StepRunsDecoded : Prop := ∀ (s : State) (g : Group) (ts : List Thread) (x : Word × Acc) (i : Instr),
  s.nextAgenda = none → s.due = none → (s.now % 16 ≠ 15 ∨ s.background = none) → s.slotFree = false →
  s.issuing = some (g, ts) → s.missing (codeUid g.gid) (s.runGrans (ts.headD default)) = [] →
  s.fetch (ts.headD default) = .ok x →
  decode (s.slice (ts.headD default).slice).launch.version x.1 = .ok i →
  step s = goOn (fun r => r.afterWord g.gid i) (exec i (s.fetched (ts.headD default).core x.2))

/-- The machine never stops: from every state, a step answers a next state. -/
def Obligations.StepGoesOn : Prop := ∀ s : State, s.goesOn

/-- Whatever a step does, the runs that groups are issuing stay sound: each names at least one thread, each thread
once, and every one a thread of the machine that has not ended (R46, R91, R100). Where the spec leaves a point open,
or says it only by inference, this is the model's choice (log 8). -/
def Obligations.RunsStaySound : Prop := ∀ s t : State, s.RunsSound → step s = .next t → t.RunsSound

/-- What reset leaves (R446, R452): no slice, thread, handle, session or code object, device memory with nothing
listed, the management registers at their reset values, every core's L1 and TLB empty and every array band gated, and
the runs sound. That the part is a full one is the model's choice (log 5), and so are the values that no rule states
(log 4, log 63). Where the spec leaves a point open, or says it only by inference, this is the model's choice (log 1).
-/
def Obligations.ResetState : Prop :=
  State.reset.RunsSound ∧ State.reset.threads = [] ∧ State.reset.groups = [] ∧ State.reset.teams = [] ∧
  State.reset.slices = [] ∧ State.reset.codes = [] ∧ State.reset.sessions = [] ∧ State.reset.cloak.entries = [] ∧
  State.reset.pockets = [] ∧ State.reset.watches = [] ∧ State.reset.mem.hbm = [] ∧ State.reset.mem.l2 = [] ∧
  State.reset.mem.selfRefresh = false ∧ State.reset.ncores = 160 ∧ State.reset.nstacks = 8 ∧
  (∀ c ∈ State.reset.cores, c.l1 = L1.empty ∧ c.tlb = [] ∧ c.gated = 0xF ∧ c.icad = 1) ∧
  State.reset.mgmt.apronCtl = 0x00402800 ∧ State.reset.mgmt.railCtl = 0x00020032 ∧ State.reset.mgmt.members = 0 ∧
  State.reset.mgmt.astab = 0 ∧ State.reset.devid = 0 ∧ State.reset.pf.size = 0

/-! ### Faults -/

/-- An instruction that a check of R346 refuses has no effect, and every thread it would act for takes the fault; a
privileged instruction in user or handler mode raises Privilege whatever else is wrong, and otherwise the first of the
checks of R65 in ascending subcode decides. A thread that would read a poisoned register takes Register Poison with
the lowest such register in place of the effect (R65, R104, R116, R346). Where the spec leaves a point open, or says
it only by inference, this is the model's choice (log 12, 20, 60). -/
def Obligations.RefusedInstructionsOnlyFault : Prop := ∀ (i : Instr) (s : State) (g : Group) (ts : List Thread) (f : FaultInfo),
  Machine.Instr.isEvent i = false → s.issuing = some (g, ts) → hintClasses ts = [ts] →
  (∀ t ∈ ts, t.guard i = .on) →
  (s.illegal (g.context i ts) i ts = some f →
    exec i s = .next (State.finishIssue i g ts ⟨s.opened i g ts, ts.map fun t => (t.uid, f)⟩)) ∧
  (i.privileged = true → (ts.headD default).unprivileged = true →
    s.illegal (g.context i ts) i ts = some ⟨0x02, 0, 0, none⟩) ∧
  (privilegeBad i (ts.headD default) = false → ∀ x : Ill, s.illegal (g.context i ts) i ts = some (ill x) ↔
    ∃ a b, s.illegalChecks (g.context i ts) i ts = a ++ (true, x) :: b ∧ ∀ c ∈ a, c.1 = false) ∧
  (i.integer = true ∨ i.floating = true → s.illegal (g.context i ts) i ts = none →
    (∀ t ∈ ts, (t.poisonRead i (g.context i ts).m).isSome = true) →
    exec i s = .next (State.finishIssue i g ts ⟨s.opened i g ts,
      ts.map fun t => (t.uid, flt 0x0B ((t.poisonRead i (g.context i ts).m).getD 0))⟩))

/-- Taking a fault (R32, R104, R107 to R110, R114, R347, R355). A fault other than Page, outside a handler, and unless
a debugger holds the slice at a Debug fault: the record of the fault is written and the thread enters its handler: a
new run at TRAP_VECTOR in position 0, the mode changed, an empty handler call stack, k0 to k7 at 0, its g registers
and predicates as they were, and the place to come back to saved, with the poisoned k registers and what they held.
With no vector, or a handler stack below 128 bytes, it is killed. Such a fault in a handler kills the thread, keeping
its first record. The slice counts the fault. A Page fault, in a handler or not, parks the thread where it stands once
the ring exists: no handler runs, and its registers, predicates, mode, call stacks, run context, fault record and
place to come back to stay; it has joined the page's record, of which there is one. While %pfsize is 0, the thread
takes an Access fault of subcode 0x21 in its place. Of the threads that fault at one instruction, all that park have
joined before records are written. Where the spec leaves a point open, or says it only by inference, this is the
model's choice (log 15, 16, 17, 18). -/
def Obligations.FaultEntrySavesAndRedirects : Prop := ∀ (s : State) (t : Thread) (f : FaultInfo) (w : FaultAt) (m : DWord),
  t ∈ s.threads → (∀ x ∈ s.threads, x.uid = t.uid → x = t) →
  let z := s.takeFault t.uid f w m
  let l := (s.slice t.slice).launch
  let r := z.thread t.uid
  (f.code ≠ 0x04 → (f.code ≠ 0x0F ∨ (s.slice t.slice).dbgHold = false) →
    (t.inHandler = false → l.trapVector ≠ 0xFFFFFFFF → 128 ≤ l.handlerStack →
      r.frec = ⟨BitVec.ofNat 32 f.code, w.fpc, f.addr, f.finfo, m⟩ ∧ r.pc = l.trapVector ∧ r.pos = 0 ∧
      r.mode = (if t.mode = .supervisor then .superHandler else .handler) ∧ r.csp = l.privateBytes - 128 ∧
      r.userCsp = t.csp ∧ r.hints = Hints.zero ∧ (∀ n, n < 120 → r.g n = t.g n) ∧
      (∀ n, 120 ≤ n → r.g n = 0) ∧ r.preds = t.preds ∧ r.fpctl = t.fpctl ∧ r.fpflags = t.fpflags ∧
      r.iflags = t.iflags ∧ r.tstat = t.tstat ∧ r.ended = t.ended ∧
      r.resume = ⟨if w.boundary then t.pc else w.fpc, w.pos, t.runId, w.ends, w.boundary,
        (t.poison.filter fun n => 120 ≤ n && n < 128).map fun n => (n, t.g n),
        if w.boundary then t.park else .none, t.parkPc⟩) ∧
    (t.inHandler = false → (l.trapVector = 0xFFFFFFFF ∨ l.handlerStack < 128) →
      r.frec = ⟨BitVec.ofNat 32 f.code, w.fpc, f.addr, f.finfo, m⟩ ∧ r.ended = some .killed) ∧
    (t.inHandler = true → r.frec = t.frec ∧ r.ended = some .killed) ∧
    ((s.slice? t.slice).isSome = true → (z.slice t.slice).faults = bump32 (s.slice t.slice).faults)) ∧
  (f.code = 0x04 → s.pf.size ≠ 0 →
    let va := s.faultVa t f.addr
    let a := (s.slice t.slice).asid
    let same := fun (x : PfRecord) => x.asid == a && x.va.toNat / 65536 == va / 65536
    r.park = .page a (va / 65536) f.addr w.ends m ∧ r.regs = t.regs ∧ r.preds = t.preds ∧ r.mode = t.mode ∧
    r.csp = t.csp ∧ r.userCsp = t.userCsp ∧ r.pc = t.pc ∧ r.pos = t.pos ∧ r.hints = t.hints ∧ r.frec = t.frec ∧
    r.resume = t.resume ∧ r.poison = t.poison ∧ r.fpctl = t.fpctl ∧ r.fpflags = t.fpflags ∧ r.iflags = t.iflags ∧
    r.tstat = t.tstat ∧ r.ended = t.ended ∧ (z.slice t.slice).faults = (s.slice t.slice).faults ∧
    (va < 2 ^ 64 → ∃ x ∈ z.pf.recs, same x = true ∧ t.uid ∈ x.uids) ∧
    (s.pf.recs.any same = false →
      z.pf.recs = s.pf.recs ++ [⟨0, a, BitVec.ofNat 64 va, t.slice, f.sub, false, [t.uid], false⟩]) ∧
    z.pf.recs.length = (if s.pf.recs.any same then s.pf.recs.length else s.pf.recs.length + 1)) ∧
  (f.code = 0x04 → s.pf.size = 0 → z = s.takeFault t.uid ⟨0x05, 0x21, f.addr, none⟩ w m) ∧
  (∀ fs : List (Nat × FaultInfo), (∃ x ∈ fs, x.2.code = 0x04) → s.takeFaults fs w =
    (fs.foldl (fun y x => y.takeFault x.1 x.2 w (s.lanesMask (fs.map (·.1)))) s).pfWrite)

/-! ### Frames -/

/-- What an instruction that computes on a thread's own registers leaves as it was (R46, R58, R71 to R88, R129 to
R139): nothing of the machine but its threads, their group and the error counters changes; of a thread that acts,
registers and predicates that it does not write and LAST does not release keep their values, no flag is cleared,
%iflags changes only where the instruction may set it and %fpflags only for the floating-point instructions, and no
other special register, counter or fault record changes; a thread that is guarded off goes on unchanged; every other
thread is untouched. -/
def Obligations.ComputingFrame : Prop := ∀ (i : Instr) (s : State) (g : Group) (ts : List Thread),
  (i.integer = true ∨ i.floating = true) → i.sbit = false → s.RunsSound → s.issues i g ts = true →
  (ts.headD default).hints.hsch = none →
  ∃ r, exec i s = .next r ∧
    { r with threads := s.threads, groups := s.groups, ras := s.ras, fabric := s.fabric } = s ∧
    { r.fabric with reads := s.fabric.reads } = s.fabric ∧
    (∀ n, n ≠ g.gid → r.group n = s.group n) ∧ (∀ u, (∀ t ∈ ts, t.uid ≠ u) → r.thread u = s.thread u) ∧
    (∀ t ∈ ts, let x := r.thread t.uid
      (t.live = true → x.pc = t.pc + 4 ∧ x.pos = t.pos + 1 ∧ x.hints = t.hints.consume) ∧ x.live = t.live ∧
      x.fpctl = t.fpctl ∧ x.tstat = t.tstat ∧ x.frec = t.frec ∧ x.ctr = t.ctr ∧ x.cycHi = t.cycHi ∧ x.ssel = t.ssel ∧
      x.mode = t.mode ∧ x.csp = t.csp ∧ x.park = t.park ∧ x.after = t.after ∧
      (t.guard i = .off → x.regs = t.regs ∧ x.preds = t.preds ∧ x.iflags = t.iflags ∧ x.fpflags = t.fpflags) ∧
      (∀ n, n ∉ i.writes (g.context i ts).m → n ∉ i.lastRegs (g.context i ts).m → x.g n = t.g n) ∧
      (∀ n, n < 48 → 0x80 + n ∉ i.writes (g.context i ts).m → x.p n = t.p n) ∧
      x.iflags &&& t.iflags = t.iflags ∧ x.fpflags &&& t.fpflags = t.fpflags ∧
      (i.integerFlags = false → x.iflags = t.iflags) ∧ (i.floating = false → x.fpflags = t.fpflags))

/-- A thread's registers (R14 to R16, R18, R49): g0 reads 0 and p0 reads true whatever is written to them; another
register reads what was last put into it; writing one changes no other; w_n is g(2n+1) above g(2n), and w0 writes g1
alone; a released register reads 0, but g0 and k0 to k7 are not released. -/
def Obligations.RegisterFileReadsBack : Prop := ∀ (t : Thread) (n k : Nat) (v : Word) (x : DWord) (b : Bool),
  t.g 0 = 0 ∧ t.setG 0 v = { t with pend := (t.setG 0 v).pend } ∧ t.p 0 = true ∧ (t.setP 0 b).preds = t.preds ∧
  (0 < n → (t.setG n v).g n = v) ∧ (k ≠ n → (t.setG n v).g k = t.g k) ∧
  (0 < n → n < 48 → (t.setP n b).p n = b) ∧ (k ≠ n → k < 48 → n < 48 → (t.setP n b).p k = t.p k) ∧
  (0 < n → (t.setW n x).w n = x) ∧ (t.setW 0 x).g 1 = hiWord x ∧ t.w n = t.g (2 * n + 1) ++ t.g (2 * n) ∧
  (0 < n → (t.setW n x).g (2 * n) = x.extractLsb' 0 32 ∧ (t.setW n x).g (2 * n + 1) = x.extractLsb' 32 32) ∧
  (k ≠ 2 * n → k ≠ 2 * n + 1 → (t.setW n x).g k = t.g k) ∧
  (0 < n → n < 120 → (t.release n).g n = 0) ∧ (120 ≤ n → t.release n = t) ∧ (k ≠ n → (t.release n).g k = t.g k) ∧
  (∀ p ∈ (t.setG n v).pend, ∀ d ∈ p.dests, d.1 ≠ .reg n)

/-- A result in flight returns (R17, R26, R47 to R50, R159): without a fault its values are written, but a k register
only inside the run that issued the result; every other register, and every predicate that it does not name, keeps its
value; the result leaves the thread, and a detached one counts its counter down. With a fault nothing is written and
the result stays, as returned. -/
def Obligations.ResultLanding : Prop := ∀ (t : Thread) (p : Pending),
  let x := t.ret p
  (p.fault = none →
    ((p.dests.map (·.1)).Nodup → ∀ n v, 0 < n → (Dest.reg n, v) ∈ p.dests → n < 120 ∨ p.run = t.runId → x.g n = v) ∧
    ((p.dests.map (·.1)).Nodup → ∀ n v, 0 < n → n < 48 → (Dest.pred n, v) ∈ p.dests →
      x.p n = decide (v ≠ 0)) ∧
    (∀ n, 120 ≤ n → p.run ≠ t.runId → x.g n = t.g n) ∧ (∀ q ∈ x.pend, q.id ≠ p.id)) ∧
  (∀ n, Dest.reg n ∉ p.dests.map (·.1) → x.g n = t.g n) ∧
  (∀ n, n < 48 → Dest.pred n ∉ p.dests.map (·.1) → x.p n = t.p n) ∧
  (p.fault ≠ none → x.regs = t.regs ∧ x.preds = t.preds ∧
    (∀ q ∈ x.pend, q.id = p.id → q.returned = true ∧ q.dests = []) ∧ (p ∈ t.pend → ∃ q ∈ x.pend, q.id = p.id)) ∧
  x.ctr.get p.cls = (if p.detached then t.ctr.get p.cls - 1 else t.ctr.get p.cls) ∧
  (∀ c, c ≠ p.cls → x.ctr.get c = t.ctr.get c) ∧ x.pc = t.pc ∧ x.fpflags = t.fpflags ∧ x.iflags = t.iflags ∧
  x.tstat = t.tstat ∧ x.frec = t.frec

/-- LDS and STS (R147 to R150, R153). STS changes nothing outside the scratchpads' bytes that its threads' checks
give: every other byte of every team reads as before, and the memory, the cores and the slices are as they were; the
last thread in lane order to write a word has its own four bytes there. LDS changes no byte, and puts in flight, for
each thread, the word at the offset that its check gives. Each thread's registers keep their values until then. Where
the spec leaves a point open, or says it only by inference, this is the model's choice (log 2). -/
def Obligations.ScratchpadAccess : Prop := ∀ (e : Bool) (v b : BitVec 7) (o : BitVec 9) (s : State) (g : Group)
    (ts : List Thread), s.RunsSound → (ts.headD default).hints.hsch = none →
  (s.issues (.sts e v b o) g ts = true → s.passes (.sts e v b o) g ts (fun cx s t => checkScratch cx s t b.toNat o) = true →
    ∃ r, exec (.sts e v b o) s = .next r ∧ r.mem = s.mem ∧ r.cores = s.cores ∧ r.slices = s.slices ∧
      (∀ u q, (∀ t ∈ acting (.sts e v b o) ts, ∀ c k,
          checkScratch (g.context (.sts e v b o) ts) (s.opened (.sts e v b o) g ts) t b.toNat o = .ok c →
          c.acc.place = .scratch u k → q < k ∨ k + 4 ≤ q) →
        (r.team u).scratchByte q = (s.team u).scratchByte q) ∧
      (∀ l t l' c u k n, acting (.sts e v b o) ts = l ++ t :: l' →
        checkScratch (g.context (.sts e v b o) ts) (s.opened (.sts e v b o) g ts) t b.toNat o = .ok c →
        c.acc.place = .scratch u k → n < 4 → (∃ x ∈ s.teams, x.uid = u) →
        (∀ y ∈ l', ∀ c' k', checkScratch (g.context (.sts e v b o) ts) (s.opened (.sts e v b o) g ts) y b.toNat o =
          .ok c' → c'.acc.place = .scratch u k' → k + n < k' ∨ k' + 4 ≤ k + n) →
        (r.team u).scratchByte (k + n) = (t.g v.toNat).extractLsb' (8 * n) 8) ∧
      (∀ t ∈ ts, ∀ n, n < 120 → n ∉ (Instr.sts e v b o).lastRegs (g.context (.sts e v b o) ts).m →
        (r.thread t.uid).g n = t.g n)) ∧
  (s.issues (.lds e v b o) g ts = true → s.passes (.lds e v b o) g ts (fun cx s t => checkScratch cx s t b.toNat o) = true →
    ∃ r, exec (.lds e v b o) s = .next r ∧
      { r with threads := s.threads, groups := s.groups, ras := s.ras, fabric := s.fabric } = s ∧
      { r.fabric with reads := s.fabric.reads } = s.fabric ∧
      (∀ t ∈ acting (.lds e v b o) ts, ∀ c u k,
        checkScratch (g.context (.lds e v b o) ts) (s.opened (.lds e v b o) g ts) t b.toNat o = .ok c →
        c.acc.place = .scratch u k → s.placePoisoned t.core (.scratch u k) 4 = false → t.live = true →
        ∃ p ∈ (r.thread t.uid).pend, p.cls = .ld ∧ p.kind = .ready ∧ p.fault = none ∧ p.dests = gDests v.toNat
          ((s.team u).scratchByte (k + 3) ++ (s.team u).scratchByte (k + 2) ++ (s.team u).scratchByte (k + 1) ++
            (s.team u).scratchByte k)) ∧
      (∀ t ∈ ts, ∀ n, n < 120 → n ∉ (Instr.lds e v b o).lastRegs (g.context (.lds e v b o) ts).m →
        (r.thread t.uid).g n = t.g n))

/-- A store of one thread to device memory of this device, within one line (R150, R151, R181, R368). Under a policy
that keeps the line in the L1, the thread's own core reads the stored bytes there, and every byte outside them, in any
core's L1 and at either die's L2, reads as before, but for the lines that the store makes the L1 evict or write back.
Written through, the bytes are at the L2 of the thread's die, where the die waits for the line or owns it with nothing
of its own held, and every other line reads as before; of the other bytes of the line stored to, and of a die that
owns it with held writes, nothing is stated here. No scratchpad changes. Which line a full set of the L1 evicts is a
free value (log 34). Where the spec leaves a point open, or says it only by inference, this is the model's choice (log
32, 68). -/
def Obligations.GlobalStoreReachesItsBytes : Prop := ∀ (s : State) (t : Thread) (cx : Cx) (c : Chk) (pa : Nat) (bs : List Byte)
    (pol : Nat), c.acc.place = .phys pa → (∃ x ∈ s.cores, x.num = t.core) → 0 < bs.length → pa % 128 + bs.length ≤ 128 →
  let p := if c.acc.isGlobal then pol else 0
  let r := storeEff (fun _ _ => bs) (fun _ => pol) cx t c s
  let gone := s.givesUp t.core (lineOf pa)
  r.teams = s.teams ∧ r.slices = s.slices ∧ r.groups = s.groups ∧ r.mem.hbm = s.mem.hbm ∧
  (p ≠ 3 →
    (∀ k, k < bs.length → r.l1Byte (r.core t.core) (pa + k) = bs.getD k 0) ∧
    (∀ n a, (n ≠ t.core ∨ a < pa ∨ pa + bs.length ≤ a) → lineOf a ∉ gone →
      r.l1Byte (r.core n) a = s.l1Byte (s.core n) a) ∧
    (∀ d a, lineOf a ∉ gone → r.mem.atDie d a = s.mem.atDie d a)) ∧
  (p = 3 →
    ((s.core t.core).die < s.mem.dies.length → s.mem.owns (s.core t.core).die (lineOf pa) = false →
      ∀ k, k < bs.length → r.mem.atDie (s.core t.core).die (pa + k) = bs.getD k 0) ∧
    (s.mem.owns (s.core t.core).die (lineOf pa) = true →
      (∀ h ∈ (s.mem.die (s.core t.core).die).held, lineOf h.addr ≠ lineOf pa) →
      ∀ k, k < bs.length → r.mem.atDie (s.core t.core).die (pa + k) = bs.getD k 0) ∧
    (∀ d a, lineOf a ≠ lineOf pa → r.mem.atDie d a = s.mem.atDie d a) ∧
    (∀ n a, lineOf a ≠ lineOf pa → r.l1Byte (r.core n) a = s.l1Byte (s.core n) a))
end

