-- ==== Sys2Proof/Laws/Cells.lean ====
section
/-! SUPPORT. The laws of byte maps: a read after a write, and the canonical form of device memory. -/

namespace Sys2Proof.Machine

/-! ### Reading after writing -/

@[simp] theorem Cells.get?_put_same (m : Cells) (a : Nat) (v : Byte) : (m.put a v).get? a = some v := by
  induction m with
  | nil => simp [Cells.put, Cells.get?]
  | cons c r ih =>
    simp only [Cells.put]
    split
    · simp [Cells.get?]
    · split
      · simp [Cells.get?]
      · rename_i h2
        simp only [Cells.get?]
        rw [if_neg (fun e => h2 e.symm), ih]

theorem Cells.get?_put_other (m : Cells) {a b : Nat} (v : Byte) (h : b ≠ a) :
    (m.put a v).get? b = m.get? b := by
  induction m with
  | nil => simp [Cells.put, Cells.get?, Ne.symm h]
  | cons c r ih =>
    simp only [Cells.put]
    split
    · simp [Cells.get?, Ne.symm h]
    · split
      · rename_i h2
        subst h2
        simp [Cells.get?, Ne.symm h]
      · simp [Cells.get?, ih]

theorem Cells.get?_filter (m : Cells) (p : Host.Cell → Bool) (b : Nat) (h : ∀ v, p (b, v) = true) :
    Cells.get? (m.filter p) b = m.get? b := by
  induction m with
  | nil => rfl
  | cons c r ih =>
    by_cases hc : c.1 = b
    · have : p c = true := by rw [← hc] at h; exact h c.2
      simp [List.filter, this, Cells.get?, hc]
    · cases hp : p c <;> simp [List.filter, hp, Cells.get?, hc, ih]

theorem Cells.get?_filter_none (m : Cells) (p : Host.Cell → Bool) (b : Nat) (h : ∀ v, p (b, v) = false) :
    Cells.get? (m.filter p) b = none := by
  induction m with
  | nil => rfl
  | cons c r ih =>
    by_cases hc : c.1 = b
    · have : p c = false := by rw [← hc] at h; exact h c.2
      simp [List.filter, this, ih]
    · cases hp : p c <;> simp [List.filter, hp, Cells.get?, hc, ih]

/-- A byte outside the range that is cut stays. -/
theorem Cells.get?_cut_other (m : Cells) (lo n : Nat) {b : Nat} (h : b < lo ∨ lo + n ≤ b) :
    (m.cut lo n).get? b = m.get? b :=
  Cells.get?_filter m _ b (by intro v; simp; omega)

/-- No byte of the range that is cut stays. -/
theorem Cells.get?_cut_same (m : Cells) (lo n : Nat) {b : Nat} (h : lo ≤ b ∧ b < lo + n) :
    (m.cut lo n).get? b = none :=
  Cells.get?_filter_none m _ b (by intro v; simp; omega)

/-- An address that a list of writes does not name keeps its byte. -/
theorem Cells.get?_putAll_other (m : Cells) (l : List (Nat × Byte)) {b : Nat} (h : ∀ c ∈ l, c.1 ≠ b) :
    (m.putAll l).get? b = m.get? b := by
  induction l generalizing m with
  | nil => rfl
  | cons c r ih =>
    simp only [Cells.putAll, List.foldl_cons] at *
    rw [ih _ fun c hc => h c (List.mem_cons_of_mem _ hc)]
    exact Cells.get?_put_other _ _ fun e => h c (List.mem_cons_self ..) e.symm

/-- Device memory reads what was last written. -/
@[simp] theorem Memory.get_put_same (m : Cells) (a : Nat) (v : Byte) : Memory.get (Memory.put m a v) a = v := by
  unfold Memory.get Memory.put
  split
  · rename_i h
    rw [Cells.get?_cut_same _ _ _ ⟨Nat.le_refl a, Nat.lt_succ_self a⟩, h]; rfl
  · simp

/-- A write leaves every other byte of device memory alone. -/
theorem Memory.get_put_other (m : Cells) {a b : Nat} (v : Byte) (h : b ≠ a) :
    Memory.get (Memory.put m a v) b = Memory.get m b := by
  unfold Memory.get Memory.put
  split
  · rw [Cells.get?_cut_other _ _ _ (by omega)]
  · rw [Cells.get?_put_other _ _ h]

/-! ### The canonical form -/

/-- Rising addresses, as a relation of each to all that follow. -/
theorem Cells.sorted_iff (m : Cells) : m.sorted = true ↔ m.Pairwise fun a b => a.1 < b.1 := by
  induction m with
  | nil => simp [Cells.sorted]
  | cons c r ih =>
    cases r with
    | nil => simp [Cells.sorted]
    | cons d r =>
      simp only [Cells.sorted, Bool.and_eq_true, decide_eq_true_eq, ih, List.pairwise_cons]
      constructor
      · rintro ⟨h, h1, h2⟩
        refine ⟨fun x hx => ?_, h1, h2⟩
        rcases List.mem_cons.mp hx with e | e
        · exact e ▸ h
        · exact Nat.lt_trans h (h1 x e)
      · rintro ⟨h, h1, h2⟩
        exact ⟨h d (List.mem_cons_self ..), h1, h2⟩

theorem Cells.mem_put {m : Cells} {a : Nat} {v : Byte} {x : Host.Cell} (h : x ∈ m.put a v) :
    x = (a, v) ∨ x ∈ m := by
  induction m with
  | nil => exact .inl (List.mem_singleton.mp h)
  | cons c r ih =>
    simp only [Cells.put] at h
    split at h
    · exact (List.mem_cons.mp h)
    · split at h
      · exact (List.mem_cons.mp h).imp id (List.mem_cons_of_mem _)
      · rcases List.mem_cons.mp h with e | e
        · exact .inr (e ▸ List.mem_cons_self ..)
        · exact (ih e).imp id (List.mem_cons_of_mem _)

theorem Cells.sorted_put {m : Cells} (a : Nat) (v : Byte) (h : m.sorted = true) : (m.put a v).sorted = true := by
  rw [Cells.sorted_iff] at *
  induction m with
  | nil => exact List.pairwise_singleton _ _
  | cons c r ih =>
    obtain ⟨h1, h2⟩ := List.pairwise_cons.mp h
    simp only [Cells.put]
    split
    · rename_i hlt
      refine List.pairwise_cons.mpr ⟨fun x hx => ?_, h⟩
      rcases List.mem_cons.mp hx with e | e
      · exact e ▸ hlt
      · exact Nat.lt_trans hlt (h1 x e)
    · split
      · rename_i he
        exact List.pairwise_cons.mpr ⟨fun x hx => he ▸ h1 x hx, h2⟩
      · refine List.pairwise_cons.mpr ⟨fun x hx => ?_, ih h2⟩
        rcases Cells.mem_put hx with e | e
        · subst e
          show c.1 < a
          omega
        · exact h1 x e

theorem Cells.sorted_filter {m : Cells} (p : Host.Cell → Bool) (h : m.sorted = true) :
    Cells.sorted (m.filter p) = true := by
  rw [Cells.sorted_iff] at *
  exact List.Pairwise.filter p h

/-- A write keeps the canonical form. -/
theorem Memory.wf_put {m : Cells} (a : Nat) (v : Byte) (h : Memory.wf m = true) :
    Memory.wf (Memory.put m a v) = true := by
  simp only [Memory.wf, Bool.and_eq_true, List.all_eq_true, bne_iff_ne, ne_eq] at *
  unfold Memory.put
  split
  · exact ⟨Cells.sorted_filter _ h.1, fun x hx => h.2 x (List.mem_filter.mp hx).1⟩
  · rename_i hv
    refine ⟨Cells.sorted_put a v h.1, fun x hx => ?_⟩
    rcases Cells.mem_put hx with e | e
    · exact e ▸ hv
    · exact h.2 x e

/-- A list of writes keeps the canonical form. -/
theorem Memory.wf_puts (l : List (Nat × Byte)) {m : Cells} (h : Memory.wf m = true) :
    Memory.wf (l.foldl (fun m (c : Nat × Byte) => Memory.put m c.1 c.2) m) = true := by
  induction l generalizing m with
  | nil => exact h
  | cons c r ih => exact ih (Memory.wf_put _ _ h)

/-- The memory after reset is canonical. -/
theorem reset_memory_wf : Memory.wf State.reset.mem.hbm = true := rfl

end Sys2Proof.Machine
end

