-- ==== Sys2Proof/Laws/Issue.lean ====
section
/-! SUPPORT. What the issue of an instruction word answers, once for each shape of effect. -/

namespace Sys2Proof.Machine

/-- An instruction word always answers a next state. -/
theorem word_is_next (i : Instr) (act : Act) (s : State) : ∃ t, word i act s = .next t := ⟨_, rfl⟩

theorem State.issuing_ne {s : State} {g : Group} {ts : List Thread} (h : s.issuing = some (g, ts)) : ts ≠ [] := by
  unfold State.issuing at h
  split at h
  · cases h
  · dsimp only at h
    split at h
    · cases h
    · split at h
      · cases h
      · rename_i us _ hus
        simp only [Option.some.injEq, Prod.mk.injEq] at h
        rw [← h.2]
        simpa [List.isEmpty_iff] using hus

/-- What `State.issues` says, part by part. -/
theorem State.issues_iff {s : State} {i : Instr} {g : Group} {ts : List Thread} :
    s.issues i g ts = true ↔
      s.issuing = some (g, ts) ∧ hintClasses ts = [ts] ∧ (∀ t ∈ ts, t.guard i = .on ∨ t.guard i = .off) ∧
        (acting i ts = [] ∨ s.illegal (g.context i ts) i (acting i ts) = none) ∧
        ∀ t ∈ acting i ts, t.poisonRead i (g.context i ts).m = none := by
  simp [State.issues, List.all_eq_true, and_assoc]

/-- Threads with equal hints have the group's context as it stands. -/
theorem Group.contexts_one {g : Group} {i : Instr} {ts : List Thread} (h : hintClasses ts = [ts]) :
    g.contexts i ts = g.context i ts := by
  unfold Group.contexts
  rw [h]

/-- Each of them has that context as its own. -/
@[simp] theorem Group.context_of (g : Group) (i : Instr) (ts : List Thread) (t : Thread) :
    (g.context i ts).of t = g.context i ts := rfl

/-- Where no thread reads a poisoned register, there is no Register Poison fault. -/
theorem poisonFaults_nil {i : Instr} {cx : Cx} {ts : List Thread} (h : ∀ t ∈ ts, t.poisonRead i (cx.of t).m = none) :
    poisonFaults i cx ts = [] := by
  unfold poisonFaults
  split
  · cases ts with
    | nil => rfl
    | cons t r => simp [h t (by simp)]
  · simpa [List.filterMap_eq_nil_iff] using h

/-- What stands before the effect, where the checks pass in every thread. -/
theorem State.prepare_issues {s : State} {i : Instr} {g : Group} {ts : List Thread} (h : s.issues i g ts = true) :
    s.prepare i g ts = ⟨g.context i ts, [], acting i ts, s.unread i g ts⟩ := by
  obtain ⟨-, h2, h3, h4, h5⟩ := State.issues_iff.mp h
  have hg : guarded i ts = (acting i ts, []) := by
    refine Prod.ext rfl ?_
    simp only [guarded, List.filterMap_eq_nil_iff]
    intro t ht
    rcases h3 t ht with e | e <;> rw [e]
  have hc : s.classFaults i g ts = [] := by
    unfold State.classFaults
    rw [hg]
    rcases h4 with e | e <;> simp [e]
  have hb := poisonFaults_nil (i := i) (cx := g.context i ts) h5
  simp [State.prepare, Group.contexts_one h2, h2, hg, hc, hb]

/-- The issue of an instruction whose effect on the acting threads is known. -/
theorem State.issue_issued {s r : State} {i : Instr} {act : Act} {ask : Ask} {g : Group} {ts : List Thread}
    {fs : List (Nat × FaultInfo)} (h : s.issues i g ts = true)
    (ha : act (g.context i ts) (acting i ts) (s.opened i g ts) = some (r, fs)) :
    s.issue i act ask = State.issued i g ts r fs := by
  have ha' := ha
  unfold State.opened at ha'
  have hne : (ts.all fun _ => false) = false := by
    have := State.issuing_ne (State.issues_iff.mp h).1
    cases ts with
    | nil => exact absurd rfl this
    | cons _ _ => rfl
  unfold State.issue
  rw [(State.issues_iff.mp h).1]
  simp only [State.prepare_issues h, List.any_nil, hne, ha', List.nil_append]
  rfl

/-- The same for an instruction word that reads no memory of other devices. -/
theorem word_issued {s r : State} {i : Instr} {act : Act} {g : Group} {ts : List Thread}
    {fs : List (Nat × FaultInfo)} (h : s.issues i g ts = true)
    (ha : act (g.context i ts) (acting i ts) (s.opened i g ts) = some (r, fs)) :
    word i act s = .next (State.issued i g ts r fs) := congrArg _ (State.issue_issued h ha)

/-- The same for one that may, once what it reads is there. -/
theorem wordFar_issued {s r : State} {i : Instr} {w : Far} {act : Act} {g : Group} {ts : List Thread}
    {fs : List (Nat × FaultInfo)} (h : s.issues i g ts = true) (hn : s.near i g ts w = true)
    (ha : act (g.context i ts) (acting i ts) (s.opened i g ts) = some (r, fs)) :
    wordFar i w act s = .next (State.issued i g ts r fs) := by
  refine congrArg _ (State.issue_issued h ?_)
  have hf : ((acting i ts).any fun t => !((s.opened i g ts).missing t.uid
      (w ((g.context i ts).of t) (s.opened i g ts) t)).isEmpty) = false := by
    simpa [State.near, List.any_eq_false] using hn
  unfold farHold
  rw [hf]
  exact ha

/-- Folding an effect that raises no fault. -/
theorem fold_ok {α : Type} (step : State → α → State) (l : List α) (s : State) (fs : List (Nat × FaultInfo)) :
    l.foldl (fun (r : State × List (Nat × FaultInfo)) t => (step r.1 t, r.2)) (s, fs) = (l.foldl step s, fs) := by
  induction l generalizing s with
  | nil => rfl
  | cons t l ih => exact ih _

/-- A register operation of each acting thread. -/
theorem word_alu {s : State} {i : Instr} {g : Group} {ts : List Thread} {w : Cx → Thread → Thread → Thread}
    (h : s.issues i g ts = true) : word i (alu w) s = s.lanes i g ts w :=
  word_issued h (congrArg some (fold_ok (fun s t =>
    s.setThread t.uid fun x => w (g.context i ts) t (x.lastRelease (g.context i ts).last)) _ _ _))

/-- An effect of each acting thread that raises no fault. -/
theorem word_each {s : State} {i : Instr} {g : Group} {ts : List Thread} {eff : Cx → Thread → State → State}
    (h : s.issues i g ts = true) :
    word i (eachLane fun cx t s => .ok (eff cx t s)) s = s.each i g ts eff :=
  word_issued h (congrArg some (fold_ok (fun s t => eff (g.context i ts) t (s.lastRelease (g.context i ts) t.uid)) _ _ _))

/-- An effect of the acting threads together. -/
theorem word_together {s : State} {i : Instr} {g : Group} {ts : List Thread}
    {eff : Cx → List Thread → State → State} (h : s.issues i g ts = true) :
    word i (whole eff) s = s.together i g ts eff := word_issued h rfl

/-- An instruction that no acting thread has reason to hold does what it does unheld. -/
theorem holding_unheld {s : State} {i : Instr} {g : Group} {ts : List Thread} {p : Thread → State → Bool} {a : Act}
    (h : s.unheld i g ts p = true) :
    holding p a (g.context i ts) (acting i ts) (s.opened i g ts) = a (g.context i ts) (acting i ts) (s.opened i g ts) := by
  have hn : ((acting i ts).any fun t => p t (s.opened i g ts)) = false := by
    simpa [State.unheld, List.all_eq_true, List.any_eq_false] using h
  unfold holding
  rw [hn]
  rfl

/-- An access whose checks pass in every acting thread. -/
theorem memAct_passes {α : Type} {s : State} {i : Instr} {g : Group} {ts : List Thread}
    {chk : Cx → State → Thread → Except FaultInfo α} {eff : Cx → Thread → α → State → State}
    (h : s.passes i g ts chk = true) :
    memAct chk eff (g.context i ts) (acting i ts) (s.opened i g ts) =
      some ((acting i ts).foldl (fun x t => match chk (g.context i ts) (s.opened i g ts) t with
        | .ok c => eff (g.context i ts) t c (x.lastRelease (g.context i ts) t.uid)
        | .error _ => x.lastRelease (g.context i ts) t.uid) (s.opened i g ts), []) := by
  simp only [State.passes, List.all_eq_true, Bool.and_eq_true, Bool.not_eq_true'] at h
  have hn : (acting i ts).any Thread.acquiring = false := by
    rw [List.any_eq_false]
    intro t ht
    rw [(h t ht).1]
    exact Bool.false_ne_true
  unfold memAct
  rw [hn]
  simp only [Bool.false_eq_true, if_false, Option.some.injEq]
  have key : ∀ (l : List Thread) (x : State) (fs : List (Nat × FaultInfo)), (∀ t ∈ l, t ∈ acting i ts) →
      (l.map fun t => (t, chk (g.context i ts) (s.opened i g ts) t)).foldl
        (fun (r : State × List (Nat × FaultInfo)) x => match x.2 with
          | .ok c => (eff (g.context i ts) x.1 c (r.1.lastRelease (g.context i ts) x.1.uid), r.2)
          | .error f => (r.1, r.2 ++ [(x.1.uid, f)])) (x, fs) =
      (l.foldl (fun x t => match chk (g.context i ts) (s.opened i g ts) t with
        | .ok c => eff (g.context i ts) t c (x.lastRelease (g.context i ts) t.uid)
        | .error _ => x.lastRelease (g.context i ts) t.uid) x, fs) := by
    intro l
    induction l with
    | nil => intros; rfl
    | cons t l ih =>
      intro x fs hl
      have ht := (h t (hl t (List.mem_cons_self ..))).2
      simp only [List.map_cons, List.foldl_cons]
      cases hc : chk (g.context i ts) (s.opened i g ts) t with
      | ok c => exact ih _ _ fun u hu => hl u (List.mem_cons_of_mem _ hu)
      | error f => rw [hc] at ht; exact absurd ht Bool.false_ne_true
  exact key _ _ _ fun _ ht => ht

/-- An access of each acting thread. -/
theorem word_access {α : Type} {s : State} {i : Instr} {g : Group} {ts : List Thread}
    {chk : Cx → State → Thread → Except FaultInfo α} {eff : Cx → Thread → α → State → State}
    (h : s.issues i g ts = true) (hp : s.passes i g ts chk = true) :
    word i (memAct chk eff) s = s.accesses i g ts chk eff := by
  rw [word_issued h (memAct_passes hp)]
  rfl

/-- An access of each acting thread, when none has reason to wait. -/
theorem word_access_when {α : Type} {s : State} {i : Instr} {g : Group} {ts : List Thread} {p : Thread → State → Bool}
    {chk : Cx → State → Thread → Except FaultInfo α} {eff : Cx → Thread → α → State → State}
    (h : s.issues i g ts = true) (hu : s.unheld i g ts p = true) (hp : s.passes i g ts chk = true) :
    word i (holding p (memAct chk eff)) s = s.accesses i g ts chk eff := by
  rw [word_issued h ((holding_unheld hu).trans (memAct_passes hp))]
  rfl

/-- An effect of each acting thread, when none has reason to wait. -/
theorem word_when {s : State} {i : Instr} {g : Group} {ts : List Thread} {p : Thread → State → Bool}
    {eff : Cx → Thread → State → State} (h : s.issues i g ts = true) (hu : s.unheld i g ts p = true) :
    word i (holding p (eachLane fun cx t s => .ok (eff cx t s))) s = s.each i g ts eff :=
  word_issued h ((holding_unheld hu).trans (congrArg some (fold_ok (fun s t =>
    eff (g.context i ts) t (s.lastRelease (g.context i ts) t.uid)) _ _ _)))

/-- A fault of each acting thread. -/
theorem word_raises {s : State} {i : Instr} {g : Group} {ts : List Thread} {f : Cx → Thread → FaultInfo}
    (h : s.issues i g ts = true) : word i (lanewise fun cx t => .error (f cx t)) s = s.raises i g ts f := by
  have key : ∀ (l : List Thread) (fs : List (Nat × FaultInfo)),
      l.foldl (fun (r : State × List (Nat × FaultInfo)) t =>
        (r.1, r.2 ++ [(t.uid, f (g.context i ts) t)])) (s.opened i g ts, fs) =
      (s.opened i g ts, fs ++ l.map fun t => (t.uid, f (g.context i ts) t)) := by
    intro l
    induction l with
    | nil => intro fs; simp
    | cons t l ih => intro fs; simp only [List.foldl_cons, ih, List.map_cons, List.append_assoc, List.singleton_append]
  refine word_issued h (congrArg some ?_)
  exact (key _ _).trans (by simp)

/-- An access of each acting thread that may read other devices' memory. -/
theorem wordFar_access {α : Type} {s : State} {i : Instr} {g : Group} {ts : List Thread} {w : Far}
    {p : Thread → State → Bool} {chk : Cx → State → Thread → Except FaultInfo α} {eff : Cx → Thread → α → State → State}
    (h : s.issues i g ts = true) (hn : s.near i g ts w = true) (hu : s.unheld i g ts p = true)
    (hp : s.passes i g ts chk = true) : wordFar i w (holding p (memAct chk eff)) s = s.accesses i g ts chk eff := by
  rw [wordFar_issued h hn ((holding_unheld hu).trans (memAct_passes hp))]
  rfl

/-- The same for one that never waits. -/
theorem wordFar_access_now {α : Type} {s : State} {i : Instr} {g : Group} {ts : List Thread} {w : Far}
    {chk : Cx → State → Thread → Except FaultInfo α} {eff : Cx → Thread → α → State → State}
    (h : s.issues i g ts = true) (hn : s.near i g ts w = true) (hp : s.passes i g ts chk = true) :
    wordFar i w (memAct chk eff) s = s.accesses i g ts chk eff := by
  rw [wordFar_issued h hn (memAct_passes hp)]
  rfl

/-- The operations of some threads in turn, where the unit has room for each. -/
theorem tileLanes_room {full : Cx → State → Bool} {f : TileStep} {cx : Cx} (hc : ∀ t, cx.of t = cx) :
    ∀ (l : List Thread) (r : State × List (Nat × FaultInfo)), tileRoom full f cx l r = true →
      tileLanes full f cx l r.1 r.2 = some (l.foldl (tileStepOn f cx) r)
  | [], _, _ => rfl
  | t :: l, r, h => by
    simp only [tileRoom, Bool.and_eq_true, Bool.not_eq_true'] at h
    rw [List.foldl_cons, ← tileLanes_room hc l _ h.2, tileLanes, h.1, hc]
    simp only [tileStepOn, Bool.false_eq_true, if_false]
    split <;> simp [*]

/-- A tile operation of each acting thread, where nothing stands in its way. -/
theorem tileAct_free {s : State} {i : Instr} {g : Group} {ts : List Thread} {named : List Nat}
    {full : Cx → State → Bool} {f : TileStep} (ht : s.tileFree i g ts named full f = true) :
    tileAct named full f (g.context i ts) (acting i ts) (s.opened i g ts) = some ((s.tileRun i g ts f).1, []) := by
  simp only [State.tileFree, Bool.and_eq_true, Bool.not_eq_true', List.isEmpty_iff] at ht
  unfold tileAct
  rw [ht.1.1]
  exact (tileLanes_room (fun _ => rfl) _ _ ht.1.2).trans (congrArg some (Prod.ext rfl ht.2))

theorem word_tiles {s : State} {i : Instr} {g : Group} {ts : List Thread} {named : List Nat}
    {full : Cx → State → Bool} {f : TileStep} (h : s.issues i g ts = true)
    (ht : s.tileFree i g ts named full f = true) :
    word i (tileAct named full f) s = .next (State.issued i g ts (s.tileRun i g ts f).1 []) :=
  word_issued h (tileAct_free ht)

/-- The same for an instruction that may read other devices' memory. -/
theorem wordTile_tiles {s : State} {i : Instr} {g : Group} {ts : List Thread} {named : List Nat} {w : Far}
    {full : Cx → State → Bool} {f : TileStep} (h : s.issues i g ts = true) (hn : s.near i g ts w = true)
    (ht : s.tileFree i g ts named full f = true) :
    wordTile i named w full f s = .next (State.issued i g ts (s.tileRun i g ts f).1 []) := by
  have hf : ((acting i ts).any fun t => !((s.opened i g ts).missing t.uid
      (if named.any ((s.opened i g ts).tileBusy (g.context i ts).team) then []
        else w (g.context i ts) (s.opened i g ts) t)).isEmpty) = false := by
    simp only [State.near, List.all_eq_true] at hn
    simp only [List.any_eq_false]
    intro t ht
    split
    · simp [State.missing]
    · simpa using hn t ht
  refine congrArg _ (State.issue_issued h ?_)
  unfold farHold
  refine Eq.trans (if_neg ?_) (tileAct_free ht)
  exact Bool.eq_false_iff.mp hf

/-- An effect of each acting thread that may fault, where none has reason to wait and none faults. -/
theorem word_tries {s : State} {i : Instr} {g : Group} {ts : List Thread} {p : Thread → State → Bool}
    {f : Cx → Thread → State → Except FaultInfo State} (h : s.issues i g ts = true)
    (hu : s.unheld i g ts p = true) (ht : (s.tries i g ts f).2 = []) :
    word i (holding p (eachLane f)) s = .next (State.issued i g ts (s.tries i g ts f).1 []) :=
  word_issued h ((holding_unheld hu).trans (congrArg some (Prod.ext rfl ht)))

/-- The same for an instruction that never waits. -/
theorem word_tries_now {s : State} {i : Instr} {g : Group} {ts : List Thread}
    {f : Cx → Thread → State → Except FaultInfo State} (h : s.issues i g ts = true)
    (ht : (s.tries i g ts f).2 = []) :
    word i (eachLane f) s = .next (State.issued i g ts (s.tries i g ts f).1 []) :=
  word_issued h (congrArg some (Prod.ext rfl ht))

/-! ### What opening the issue leaves as it was -/

@[simp] theorem State.opened_slices (s : State) (i : Instr) (g : Group) (ts : List Thread) :
    (s.opened i g ts).slices = s.slices := by
  unfold State.opened State.rasAdd; split <;> rfl

@[simp] theorem State.opened_teams (s : State) (i : Instr) (g : Group) (ts : List Thread) :
    (s.opened i g ts).teams = s.teams := by
  unfold State.opened State.rasAdd; split <;> rfl

@[simp] theorem State.opened_cores (s : State) (i : Instr) (g : Group) (ts : List Thread) :
    (s.opened i g ts).cores = s.cores := by
  unfold State.opened State.rasAdd; split <;> rfl

@[simp] theorem State.opened_groups (s : State) (i : Instr) (g : Group) (ts : List Thread) :
    (s.opened i g ts).groups = s.groups := by
  unfold State.opened State.rasAdd; split <;> rfl

@[simp] theorem State.opened_threads (s : State) (i : Instr) (g : Group) (ts : List Thread) :
    (s.opened i g ts).threads = s.threads := by
  unfold State.opened State.rasAdd; split <;> rfl

@[simp] theorem State.opened_ops (s : State) (i : Instr) (g : Group) (ts : List Thread) :
    (s.opened i g ts).ops = s.ops := by
  unfold State.opened State.rasAdd; split <;> rfl

@[simp] theorem State.opened_mem (s : State) (i : Instr) (g : Group) (ts : List Thread) :
    (s.opened i g ts).mem = s.mem := by
  unfold State.opened State.rasAdd; split <;> rfl

end Sys2Proof.Machine
end

