-- ==== Sys2Proof/Laws/Num.lean ====
section
/-! SUPPORT. Laws of numbers and of the values that cross-lane and tile instructions make: rounding, encodings, exact sums
and products, quotients and roots, dot products, packing, gathered values, elements of tiles (R121 to R143, R170,
R197 to R203). -/

namespace Sys2Proof.Machine

/-! ### Rounding and encoding (R121, R124, R125) -/

theorem cut_spec (m : Nat) (e q : Int) (s : Bool) (x : ℝ) (hs : s = true → e < q)
    (hx : if s then (m : ℝ) * 2 ^ e < x ∧ x < ((m : ℝ) + 1) * 2 ^ e else x = (m : ℝ) * 2 ^ e) :
    match (cut m e q s).2 with
    | .zero => x = (cut m e q s).1 * (2 : ℝ) ^ q
    | .low => (cut m e q s).1 * (2 : ℝ) ^ q < x ∧ 2 * (x - (cut m e q s).1 * (2 : ℝ) ^ q) < 2 ^ q
    | .half => 2 * (x - (cut m e q s).1 * (2 : ℝ) ^ q) = 2 ^ q
    | .high => 2 ^ q < 2 * (x - (cut m e q s).1 * (2 : ℝ) ^ q) ∧ x < (cut m e q s).1 * (2 : ℝ) ^ q + 2 ^ q := by
  unfold cut
  by_cases hq : q ≤ e
  · have hsf : s = false := by
      cases s
      · rfl
      · have := hs rfl; omega
    subst hsf
    simp only [Bool.false_eq_true, if_false] at hx
    simp only [hq, if_true, Bool.false_eq_true, if_false]
    rw [hx]
    obtain ⟨k, rfl⟩ : ∃ k : Nat, e = q + k := ⟨(e - q).toNat, by omega⟩
    rw [zpow_add₀ (by norm_num)]
    have : (q + (k : Int) - q).toNat = k := by omega
    rw [this]
    push_cast
    rw [zpow_natCast]
    ring
  · simp only [hq, if_false]
    obtain ⟨k, rfl⟩ : ∃ k : Nat, q = e + (k + 1 : Nat) := ⟨(q - e).toNat - 1, by omega⟩
    have : (e + ((k + 1 : Nat) : Int) - e).toNat = k + 1 := by omega
    rw [this]
    simp only [Nat.add_sub_cancel]
    have hpow : (2 : ℝ) ^ (e + ((k + 1 : Nat) : Int)) = 2 ^ e * (2 * 2 ^ k) := by
      rw [zpow_add₀ (by norm_num), zpow_natCast, pow_succ]; ring
    rw [hpow]
    have hp : (0 : ℝ) < 2 ^ e := by positivity
    generalize (2 : ℝ) ^ e = p at hp hx
    have hdm := Nat.div_add_mod m (2 ^ (k + 1))
    set a := m / 2 ^ (k + 1) with ha
    set r := m % 2 ^ (k + 1) with hr
    have hrlt : r < 2 ^ (k + 1) := Nat.mod_lt _ (by positivity)
    have hm : (m : ℝ) = 2 * 2 ^ k * a + r := by
      rw [← hdm]; push_cast; rw [pow_succ]; ring
    rw [hm] at hx
    rcases s with _ | _
    · simp only [Bool.false_eq_true, if_false] at hx
      simp only [Bool.not_false, Bool.and_true, decide_eq_true_eq]
      by_cases h0 : r = 0
      · simp only [h0, if_true]
        rw [hx, h0]; push_cast; ring
      · simp only [h0, if_false]
        by_cases h1 : r < 2 ^ k
        · simp only [h1, if_true]
          have h1' : (r : ℝ) < 2 ^ k := by exact_mod_cast h1
          have h0' : (0 : ℝ) < r := by exact_mod_cast Nat.pos_of_ne_zero h0
          constructor <;> rw [hx] <;> nlinarith
        · simp only [h1, if_false]
          by_cases h2 : r = 2 ^ k
          · simp only [h2, if_true]
            rw [hx, h2]; push_cast; ring
          · simp only [h2, if_false]
            have h2' : (2 : ℝ) ^ k < r := by
              have : 2 ^ k < r := by omega
              exact_mod_cast this
            have h3 : (r : ℝ) < 2 * 2 ^ k := by
              have : r < 2 * 2 ^ k := by rw [pow_succ] at hrlt; omega
              exact_mod_cast this
            constructor <;> rw [hx] <;> nlinarith
    · simp only [if_true] at hx
      simp only [Bool.not_true, Bool.and_false, Bool.false_eq_true, if_false]
      by_cases h1 : r < 2 ^ k
      · simp only [h1, if_true]
        have h1' : (r : ℝ) + 1 ≤ 2 ^ k := by exact_mod_cast h1
        have h0' : (0 : ℝ) ≤ r := by positivity
        constructor <;> nlinarith [hx.1, hx.2]
      · simp only [h1, if_false]
        have h2' : (2 : ℝ) ^ k ≤ r := by
          have : 2 ^ k ≤ r := by omega
          exact_mod_cast this
        have h3 : (r : ℝ) + 1 ≤ 2 * 2 ^ k := by
          have : r + 1 ≤ 2 * 2 ^ k := by rw [pow_succ] at hrlt; omega
          exact_mod_cast this
        constructor <;> nlinarith [hx.1, hx.2]

theorem rounds_tail (mode : Nat) (hm : mode < 4) (neg : Bool) (n : Nat) (t : Tail) (x u : ℝ) (hu : 0 < u)
    (h : match t with
      | .zero => x = n * u
      | .low => n * u < x ∧ 2 * (x - n * u) < u
      | .half => 2 * (x - n * u) = u
      | .high => u < 2 * (x - n * u) ∧ x < n * u + u) :
    Rounds mode neg x u (if roundsUp mode neg (n % 2 == 1) t then n + 1 else n) ∧
      (t ≠ .zero ↔ ((if roundsUp mode neg (n % 2 == 1) t then n + 1 else n : Nat) : ℝ) * u ≠ x) := by
  have lo : n * u ≤ x ∧ x < n * u + u := by cases t <;> simp only at h <;> constructor <;> linarith
  have A : |n * u - x| = x - n * u := by rw [abs_sub_comm]; exact abs_of_nonneg (by linarith)
  have B : |((n + 1 : Nat) : ℝ) * u - x| = n * u + u - x := by
    rw [abs_of_nonneg] <;> push_cast <;> nlinarith
  have C : ((n + 1 : Nat) : ℝ) * u = n * u + u := by push_cast; ring
  by_cases hz : t = .zero
  · subst hz
    simp only at h
    have : roundsUp mode neg (n % 2 == 1) .zero = false := rfl
    simp only [this, Bool.false_eq_true, if_false]
    refine ⟨⟨fun _ => ⟨by rw [A]; linarith, fun e => ?_⟩, fun _ => lo, fun _ => ⟨by linarith, by linarith⟩⟩,
      ⟨fun e => absurd rfl e, fun e => absurd h.symm e⟩⟩
    rw [A] at e; linarith
  · have ne : n * u ≠ x := by
      cases t <;> simp only at h <;> first | exact absurd rfl hz | (intro e; linarith [h.1]) | (intro e; linarith)
    have lt : n * u < x := lt_of_le_of_ne lo.1 ne
    have ne' : n * u + u ≠ x := by linarith [lo.2]
    cases hr : roundsUp mode neg (n % 2 == 1) t
    · simp only [Bool.false_eq_true, if_false]
      refine ⟨⟨fun m0 => ?_, fun _ => lo, fun m => ?_⟩, ⟨fun _ => ne, fun _ => hz⟩⟩
      · subst m0
        rw [A]
        cases t <;> simp [roundsUp] at hr <;> simp only at h
        · exact absurd rfl hz
        · exact ⟨by linarith, fun e => by linarith⟩
        · exact ⟨by linarith, fun _ => by omega⟩
      · rcases m with ⟨rfl, rfl⟩ | ⟨rfl, rfl⟩ <;> cases t <;> simp [roundsUp] at hr hz
    · simp only [if_true]
      rw [Rounds, C]
      rw [C] at B
      refine ⟨⟨fun m0 => ?_, fun m => ?_, fun m => ⟨by linarith, by linarith⟩⟩, ⟨fun _ => ne', fun _ => hz⟩⟩
      · subst m0
        rw [B]
        cases t <;> simp [roundsUp] at hr <;> simp only at h
        · exact ⟨by linarith, fun _ => by omega⟩
        · exact ⟨by linarith, fun e => by linarith⟩
      · rcases m with rfl | ⟨rfl, rfl⟩ | ⟨rfl, rfl⟩ <;> cases t <;> simp [roundsUp] at hr hz

theorem roundAt_spec (mode : Nat) (hm : mode < 4) (neg : Bool) (m : Nat) (e q : Int) (s : Bool) (x : ℝ)
    (hs : s = true → e < q)
    (hx : if s then (m : ℝ) * 2 ^ e < x ∧ x < ((m : ℝ) + 1) * 2 ^ e else x = (m : ℝ) * 2 ^ e) :
    Rounds mode neg x (2 ^ q) (roundAt mode neg m e q s).1 ∧
      ((roundAt mode neg m e q s).2 = true ↔ (roundAt mode neg m e q s).1 * (2 : ℝ) ^ q ≠ x) := by
  have h := rounds_tail mode hm neg (cut m e q s).1 (cut m e q s).2 x (2 ^ q) (by positivity) (cut_spec m e q s x hs hx)
  have : (roundAt mode neg m e q s).2 = true ↔ (cut m e q s).2 ≠ .zero := by simp [roundAt]
  rw [this]
  exact h

theorem dyLt_iff (a : Nat) (p : Int) (b : Nat) (q : Int) :
    dyLt a p b q = true ↔ (a : ℝ) * 2 ^ p < b * 2 ^ q := by
  unfold dyLt
  split
  · rename_i h
    obtain ⟨k, rfl⟩ : ∃ k : Nat, q = p + k := ⟨(q - p).toNat, by omega⟩
    have hk : (p + (k : Int) - p).toNat = k := by omega
    rw [hk, zpow_add₀ (by norm_num), zpow_natCast]
    have hp : (0 : ℝ) < 2 ^ p := by positivity
    rw [decide_eq_true_eq, show (b : ℝ) * (2 ^ p * 2 ^ k) = b * 2 ^ k * 2 ^ p by ring, mul_lt_mul_iff_left₀ hp]
    exact_mod_cast Iff.rfl
  · rename_i h
    obtain ⟨k, rfl⟩ : ∃ k : Nat, p = q + k := ⟨(p - q).toNat, by omega⟩
    have hk : (q + (k : Int) - q).toNat = k := by omega
    rw [hk, zpow_add₀ (by norm_num), zpow_natCast]
    have hp : (0 : ℝ) < 2 ^ q := by positivity
    rw [decide_eq_true_eq, show (a : ℝ) * (2 ^ q * 2 ^ k) = a * 2 ^ k * 2 ^ q by ring, mul_lt_mul_iff_left₀ hp]
    exact_mod_cast Iff.rfl

theorem quantum_spec (f : Fmt) (m : Nat) (e : Int) (s : Bool) (x : ℝ) (hs : s = true → e < f.quantum m e)
    (hx : if s then (m : ℝ) * 2 ^ e < x ∧ x < ((m : ℝ) + 1) * 2 ^ e else x = (m : ℝ) * 2 ^ e)
    (hnz : m ≠ 0 ∨ s = true) :
    f.qmin ≤ f.quantum m e ∧ (f.quantum m e = f.qmin ∨ (2 : ℝ) ^ (f.quantum m e + f.frac) ≤ x) ∧
      x < (2 : ℝ) ^ (f.quantum m e + f.frac + 1) := by
  have hp : (0 : ℝ) < 2 ^ e := by positivity
  have lo : (m : ℝ) * 2 ^ e ≤ x := by cases s <;> simp at hx <;> linarith
  have hi : x < ((m : ℝ) + 1) * 2 ^ e := by cases s <;> simp at hx <;> linarith
  have up : (m : ℝ) + 1 ≤ 2 ^ (m.log2 + 1) := by exact_mod_cast Nat.lt_log2_self
  refine ⟨le_max_right _ _, ?_, ?_⟩
  · by_cases hq : f.quantum m e = f.qmin
    · exact Or.inl hq
    · right
      have hqe : f.quantum m e = (m.log2 : Int) + e - f.frac := by
        unfold Fmt.quantum at hq ⊢; omega
      have hm : m ≠ 0 := by
        rintro rfl
        have hst : s = true := by simpa using hnz
        have := hs hst
        rw [hqe] at this
        simp at this
        omega
      have h2 : (2 : ℝ) ^ m.log2 ≤ m := by exact_mod_cast Nat.log2_self_le hm
      rw [hqe, show (m.log2 : Int) + e - f.frac + f.frac = e + m.log2 by ring, zpow_add₀ (by norm_num), zpow_natCast]
      nlinarith
  · have hq : (m.log2 : Int) + e - f.frac ≤ f.quantum m e := le_max_left _ _
    calc x < ((m : ℝ) + 1) * 2 ^ e := hi
      _ ≤ 2 ^ (m.log2 + 1) * 2 ^ e := by nlinarith
      _ = (2 : ℝ) ^ ((m.log2 : Int) + 1 + e) := by
          rw [zpow_add₀ (by norm_num), show (m.log2 : Int) + 1 = ((m.log2 + 1 : Nat) : Int) by push_cast; ring, zpow_natCast]
      _ ≤ _ := by apply zpow_le_zpow_right₀ (by norm_num); omega

theorem dec_fields (f : Fmt) (neg : Bool) (E mm : Nat) (hE : E < 2 ^ f.expo) (hm : mm < 2 ^ f.frac) :
    (f.signBits neg + (E * 2 ^ f.frac + mm)) / 2 ^ (f.width - 1) % 2 = (if neg then 1 else 0) ∧
    (f.signBits neg + (E * 2 ^ f.frac + mm)) / 2 ^ f.frac % 2 ^ f.expo = E ∧
    (f.signBits neg + (E * 2 ^ f.frac + mm)) % 2 ^ f.frac = mm ∧
    f.signBits neg + (E * 2 ^ f.frac + mm) < 2 ^ f.width := by
  cases f <;> cases neg <;> simp [Fmt.signBits, Fmt.width, Fmt.expo, Fmt.frac] at hE hm ⊢ <;> omega

theorem dec_enc (f : Fmt) (neg : Bool) (n : Nat) (q : Int) (h1 : n ≤ 2 ^ (f.frac + 1)) (h2 : f.qmin ≤ q)
    (h3 : q = f.qmin ∨ 2 ^ f.frac ≤ n) (h4 : dyLt f.maxM f.maxE n q = false) :
    (∃ m e, f.dec (f.enc neg n q) = .fin neg m e false ∧ (m : ℝ) * 2 ^ e = n * 2 ^ q) ∧
      f.enc neg n q < 2 ^ f.width := by
  have key : 2 ^ f.frac ≤ n → q ≤ f.maxE ∧ (q = f.maxE → n ≤ f.maxM) := by
    intro hn
    unfold dyLt at h4
    split at h4
    · rename_i hp
      simp at h4
      obtain ⟨k, rfl⟩ : ∃ k : Nat, q = f.maxE + k := ⟨(q - f.maxE).toNat, by omega⟩
      have hk : (f.maxE + (k : Int) - f.maxE).toNat = k := by omega
      rw [hk] at h4
      rcases k with _ | k
      · simpa using h4
      · exfalso
        have h5 : n * 2 ≤ n * 2 ^ (k + 1) := by
          apply Nat.mul_le_mul_left; rw [pow_succ]; have := Nat.one_le_two_pow (n := k); omega
        have : f.maxM < 2 ^ f.frac * 2 := by cases f <;> decide
        omega
    · constructor
      · omega
      · intro h; omega
  have big : ∀ (E mm : Nat) (v : Int), 0 < E → v = (E : Int) - f.bias - f.frac → mm < 2 ^ f.frac → v ≤ f.maxE →
      (v = f.maxE → 2 ^ f.frac + mm ≤ f.maxM) →
      f.dec (f.signBits neg + (E * 2 ^ f.frac + mm)) = .fin neg (2 ^ f.frac + mm) v false ∧
        f.signBits neg + (E * 2 ^ f.frac + mm) < 2 ^ f.width := by
    intro E mm v h0 hv hmm hle hmx
    have hE : E < 2 ^ f.expo ∧ (E = 2 ^ f.expo - 1 → f.hasInf = false ∧ (f = .e4m3 → mm ≠ 7)) := by
      subst hv
      cases f <;> simp [Fmt.maxE, Fmt.maxM, Fmt.bias, Fmt.frac, Fmt.expo, Fmt.hasInf] at hle hmx hmm ⊢ <;> omega
    obtain ⟨a, b, c, d⟩ := dec_fields f neg E mm hE.1 hmm
    refine ⟨?_, d⟩
    unfold Fmt.dec
    simp only [a, b, c]
    rw [if_neg, if_neg, if_neg (by omega), ← hv]
    · cases neg <;> simp
    · intro h
      simp only [Bool.and_eq_true, decide_eq_true_eq, beq_iff_eq] at h
      obtain ⟨⟨rfl, h5⟩, h6⟩ := h
      exact (hE.2 (by rw [h5]; rfl)).2 rfl h6
    · intro h
      simp only [Bool.and_eq_true, decide_eq_true_eq] at h
      rw [(hE.2 h.1).1] at h
      exact absurd h.2 (by decide)
  have qm : f.qmin = 1 - (f.bias : Int) - f.frac := rfl
  unfold Fmt.enc
  by_cases hlt : n < 2 ^ f.frac
  · have hq : q = f.qmin := by rcases h3 with h | h; · exact h
                               · omega
    simp only [hlt, if_true]
    have h0 : 0 < 2 ^ f.expo := by positivity
    obtain ⟨a, b, c, d⟩ := dec_fields f neg 0 n h0 hlt
    simp only [zero_mul, zero_add] at a b c d
    refine ⟨⟨n, f.qmin, ?_, by rw [hq]⟩, d⟩
    unfold Fmt.dec
    simp only [a, b, c]
    rw [if_neg, if_neg, if_pos trivial]
    · cases neg <;> simp
    · simp
    · cases f <;> simp [Fmt.expo]
  · simp only [hlt, if_false]
    have hge : 2 ^ f.frac ≤ n := by omega
    have hk := key hge
    by_cases htop : n = 2 ^ (f.frac + 1)
    · simp only [htop, if_true]
      have hle : q + 1 ≤ f.maxE := by
        rcases lt_or_eq_of_le hk.1 with h | h
        · omega
        · have := hk.2 h
          have : f.maxM < 2 ^ (f.frac + 1) := by cases f <;> decide
          omega
      have hb := big (q + 1 + f.frac + f.bias).toNat 0 (q + 1) (by omega) (by omega) (by positivity) hle
        (fun _ => by cases f <;> decide)
      simp only [Nat.add_zero] at hb
      refine ⟨⟨2 ^ f.frac, q + 1, hb.1, ?_⟩, hb.2⟩
      rw [zpow_add₀ (by norm_num)]; push_cast; rw [pow_succ]; ring
    · simp only [htop, if_false]
      have hb := big (q + f.frac + f.bias).toNat (n - 2 ^ f.frac) q (by omega) (by omega)
        (by rw [pow_succ] at h1 htop; omega) hk.1 (fun h => by have := hk.2 h; omega)
      have hn : 2 ^ f.frac + (n - 2 ^ f.frac) = n := by omega
      rw [hn] at hb
      exact ⟨⟨n, q, hb.1, rfl⟩, hb.2⟩

theorem rounds_bounds (mode : Nat) (hm : mode < 4) (neg : Bool) (x u : ℝ) (n p : Nat) (hu : 0 < u)
    (h : Rounds mode neg x u n) :
    (x < 2 ^ (p + 1) * u → n ≤ 2 ^ (p + 1)) ∧ (2 ^ p * u ≤ x → 2 ^ p ≤ n) := by
  have hb : n * u < x + u ∧ x < n * u + u ∨ n * u = x + u ∧ False ∨ (n * u < x + u ∧ x < n * u + u) := by
    obtain ⟨h0, h1, h2⟩ := h
    left
    have : mode = 0 ∨ mode = 1 ∨ mode = 2 ∨ mode = 3 := by omega
    rcases this with h | h | h | h
    · have := abs_le.mp (show |n * u - x| ≤ u / 2 by linarith [(h0 h).1])
      constructor <;> linarith
    · have := h1 (Or.inl h); constructor <;> linarith
    · cases neg
      · have := h1 (Or.inr (Or.inl ⟨h, rfl⟩)); constructor <;> linarith
      · have := h2 (Or.inl ⟨h, rfl⟩); constructor <;> linarith
    · cases neg
      · have := h2 (Or.inr ⟨h, rfl⟩); constructor <;> linarith
      · have := h1 (Or.inr (Or.inr ⟨h, rfl⟩)); constructor <;> linarith
  have hb : n * u < x + u ∧ x < n * u + u := by tauto
  constructor
  · intro hx
    have : (n : ℝ) * u < (2 ^ (p + 1) + 1) * u := by linarith
    have := lt_of_mul_lt_mul_right this hu.le
    have : n < 2 ^ (p + 1) + 1 := by exact_mod_cast this
    omega
  · intro hx
    have : (2 ^ p : ℝ) * u < ((n : ℝ) + 1) * u := by linarith
    have := lt_of_mul_lt_mul_right this hu.le
    have : 2 ^ p < n + 1 := by exact_mod_cast this
    omega

theorem roundFin_spec (f : Fmt) (mode : Nat) (hm : mode < 4) (sat ftz neg : Bool) (m : Nat) (e : Int) (s : Bool)
    (x : ℝ) (hs : s = true → e < f.quantum m e)
    (hx : if s then (m : ℝ) * 2 ^ e < x ∧ x < ((m : ℝ) + 1) * 2 ^ e else x = (m : ℝ) * 2 ^ e)
    (hnz : m ≠ 0 ∨ s = true) :
    f.RoundsTo mode sat ftz neg x (roundFin f mode sat ftz neg m e s) := by
  obtain ⟨q1, q2, q3⟩ := quantum_spec f m e s x hs hx hnz
  obtain ⟨r1, r2⟩ := roundAt_spec mode hm neg m e (f.quantum m e) s x hs hx
  have hu : (0 : ℝ) < 2 ^ f.quantum m e := by positivity
  obtain ⟨b1, b2⟩ := rounds_bounds mode hm neg x _ _ f.frac hu r1
  have hcond : ((m == 0) && !s) = false := by cases s <;> simp at hnz ⊢; exact hnz
  have hcond' : ¬ ((m = 0 : Bool) && !s) = true := by cases s <;> simp at hnz ⊢; exact hnz
  unfold roundFin
  rw [if_neg hcond']
  simp only
  generalize hq : f.quantum m e = q at *
  generalize hr : roundAt mode neg m e q s = r at *
  refine ⟨r.1, q, r.1 * 2 ^ q, rfl, q1, q2, q3, r1, ?_, ?_⟩
  · intro h
    have : dyLt f.maxM f.maxE r.1 q = true := by
      rw [dyLt_iff]; convert h using 1; simp [Fmt.largest]
    simp [this]
  · intro h
    have hd : dyLt f.maxM f.maxE r.1 q = false := by
      rw [Bool.eq_false_iff]; intro h'
      rw [dyLt_iff] at h'
      have : ((f.largest : ℚ) : ℝ) = f.maxM * 2 ^ f.maxE := by simp [Fmt.largest]
      rw [this] at h; linarith
    have hsm : dyLt r.1 q 1 (1 - (f.bias : Int)) = true ↔ (r.1 : ℝ) * 2 ^ q < f.smallest := by
      rw [dyLt_iff]; simp [Fmt.smallest]
    simp only [hd, Bool.false_eq_true, if_false]
    have hy0 : ∀ y : Nat, (0 : ℝ) < y * 2 ^ q ↔ y ≠ 0 := by
      intro y
      rw [mul_pos_iff_of_pos_right hu, Nat.cast_pos, Nat.pos_iff_ne_zero]
    have hle : r.1 ≤ 2 ^ (f.frac + 1) := by
      apply b1
      rw [show (2 : ℝ) ^ (f.frac + 1) * 2 ^ q = 2 ^ (q + f.frac + 1) by
        rw [show q + (f.frac : Int) + 1 = ((f.frac + 1 : Nat) : Int) + q by push_cast; ring, zpow_add₀ (by norm_num), zpow_natCast]]
      exact q3
    have hge : q = f.qmin ∨ 2 ^ f.frac ≤ r.1 := by
      rcases q2 with h | h
      · exact Or.inl h
      · refine Or.inr (b2 ?_)
        rw [show (2 : ℝ) ^ f.frac * 2 ^ q = 2 ^ (q + f.frac) by
          rw [show q + (f.frac : Int) = ((f.frac : Nat) : Int) + q by ring, zpow_add₀ (by norm_num), zpow_natCast]]
        exact h
    obtain ⟨⟨m', e', d1, d2⟩, _⟩ := dec_enc f neg r.1 q hle q1 hge hd
    constructor
    · intro h1 h2 h3 h4
      rw [if_pos]
      simp [h1, h2, hsm.mpr h4, (hy0 r.1).mp h3]
    · intro hc
      rw [if_neg]
      · refine ⟨by rw [d1]; rfl, ?_, ?_, ?_, ?_⟩
        · rw [d1]; cases neg <;> simp [Val.holds, d2]
        · intro h'
          have : r.2 = false := by
            rw [Bool.eq_false_iff]; intro h2; exact (r2.mp h2) h'
          simp [this]
        · intro h1 h2
          simp [r2.mpr h1, hsm.mpr h2]
        · intro h1 h2
          have : dyLt r.1 q 1 (1 - (f.bias : Int)) = false := by
            rw [Bool.eq_false_iff]; intro h'; exact absurd (hsm.mp h') (not_lt.mpr h2)
          simp [r2.mpr h1, this]
      · intro hcon
        simp only [Bool.and_eq_true, bne_iff_ne, ne_eq] at hcon
        obtain ⟨⟨⟨h1, h2⟩, h3⟩, h4⟩ := hcon
        rcases hc with h | h | h | h
        · simp [h1] at h
        · simp [h2] at h
        · exact h4 (by by_contra h5; have := (hy0 r.1).mpr h5; linarith)
        · exact absurd (hsm.mp h3) (not_lt.mpr h)

/-! ### Exact sums and products (R129) -/

theorem Val.holds_fin {neg : Bool} {m : Nat} {e : Int} {x : ℝ} :
    (Val.fin neg m e false).holds x ↔ x = (if neg then -1 else 1) * ((m : ℝ) * 2 ^ e) := by
  cases neg <;> simp [Val.holds]
  constructor <;> intro h <;> linarith

theorem roundTo_spec (f : Fmt) (mode : Nat) (hm : mode < 4) (sat ftz neg : Bool) (m : Nat) (e : Int) (s : Bool)
    (x : ℝ) (h : (Val.fin neg m e s).holds x) (hs : s = true → e < f.quantum m e) :
    (x ≠ 0 → f.RoundTo mode sat ftz x (roundTo f mode sat ftz (.fin neg m e s))) ∧
      (x = 0 → s = false ∧ m = 0 ∧ roundTo f mode sat ftz (.fin neg m e s) = (f.signBits neg, 0)) := by
  have hp : (0 : ℝ) < 2 ^ e := by positivity
  have hm0 : (0 : ℝ) ≤ m := by positivity
  have hmp : (0 : ℝ) ≤ m * 2 ^ e := by positivity
  have h' : let y : ℝ := if neg then -x else x
    if s then (m : ℝ) * 2 ^ e < y ∧ y < ((m : ℝ) + 1) * 2 ^ e else y = (m : ℝ) * 2 ^ e := h
  simp only at h'
  have hy : 0 ≤ if neg then -x else x := by
    cases s
    · simp only [Bool.false_eq_true, if_false] at h'; rw [h']; exact hmp
    · simp only [if_true] at h'; linarith [h'.1]
  constructor
  · intro hx
    have hnz : m ≠ 0 ∨ s = true := by
      cases s
      · left
        rintro rfl
        simp at h'
        cases neg <;> simp at h' <;> exact hx h'
      · right; rfl
    have key := fun hx => roundFin_spec f mode hm sat ftz neg m e s (if neg then -x else x) hs hx hnz
    have key := key h'
    cases neg
    · refine ⟨fun _ => key, fun h => ?_⟩
      simp at hy; linarith
    · refine ⟨fun h => ?_, fun _ => key⟩
      simp at hy; linarith
  · rintro rfl
    cases s
    · have : m = 0 := by
        simp at h'
        rcases h' with h | h
        · exact_mod_cast h
        · exact absurd h hp.ne'
      subst this
      exact ⟨rfl, rfl, by simp [roundTo, roundFin]⟩
    · simp at h'
      linarith [h'.1]

theorem dy_add (a b : Dy) :
    ((Dy.add a b).n : ℝ) * 2 ^ (Dy.add a b).e = a.n * 2 ^ a.e + b.n * 2 ^ b.e := by
  simp only [Dy.add]
  obtain ⟨j, hj⟩ : ∃ j : Nat, a.e = min a.e b.e + j := ⟨(a.e - min a.e b.e).toNat, by omega⟩
  obtain ⟨k, hk⟩ : ∃ k : Nat, b.e = min a.e b.e + k := ⟨(b.e - min a.e b.e).toNat, by omega⟩
  generalize min a.e b.e = c at hj hk
  rw [hj, hk]
  have h1 : (c + (j : Int) - c).toNat = j := by omega
  have h2 : (c + (k : Int) - c).toNat = k := by omega
  rw [h1, h2, zpow_add₀ (by norm_num), zpow_add₀ (by norm_num), zpow_natCast, zpow_natCast]
  push_cast
  ring

theorem dy_mul (a b : Dy) : ((Dy.mul a b).n : ℝ) * 2 ^ (Dy.mul a b).e = (a.n * 2 ^ a.e) * (b.n * 2 ^ b.e) := by
  simp only [Dy.mul]
  rw [zpow_add₀ (by norm_num)]
  push_cast
  ring

theorem fin_dy (neg : Bool) (m : Nat) (e : Int) (x : ℝ) (h : (Val.fin neg m e false).holds x) :
    ((Val.fin neg m e false).dy.n : ℝ) * 2 ^ (Val.fin neg m e false).dy.e = x := by
  rw [Val.holds_fin] at h
  rw [h]
  cases neg <;> simp [Val.dy]

theorem dy_val (a : Dy) : (a.val).holds (a.n * 2 ^ a.e) := by
  rw [Dy.val, Val.holds_fin, Nat.cast_natAbs, Int.cast_abs]
  by_cases h : a.n < 0
  · have : (a.n : ℝ) < 0 := by exact_mod_cast h
    simp [h, abs_of_neg this]
  · have : (0 : ℝ) ≤ a.n := by exact_mod_cast not_lt.mp h
    simp [h, abs_of_nonneg this]

/-- Whether a value is a finite one without a tail. -/
def Val.plain : Val → Bool
  | .fin _ _ _ s => !s
  | _ => false

theorem Val.plain_cases {v : Val} (h : v.plain = true) : ∃ n m e, v = .fin n m e false := by
  cases v <;> simp [Val.plain] at h
  subst h
  exact ⟨_, _, _, rfl⟩

theorem dec_shape (f : Fmt) (b : Nat) :
    (f.dec b).plain = true ∨ (f.dec b).isNan = true ∨ (f.dec b).isInf = true := by
  unfold Fmt.dec
  simp only
  split_ifs <;> simp [Val.plain, Val.isNan, Val.isInf]

theorem input_plain (f : Fmt) (ftz : Bool) (b : Nat) (x : ℝ) (h : (f.input ftz b).holds x) :
    (f.input ftz b).plain = true := by
  have hd : (f.input ftz b).plain = true ∨ (f.input ftz b).isNan = true ∨ (f.input ftz b).isInf = true := by
    unfold Fmt.input
    split_ifs
    · exact Or.inl rfl
    · exact dec_shape f b
  rcases hd with hd | hd | hd
  · exact hd
  · cases hv : f.input ftz b <;> rw [hv] at h hd <;> simp [Val.isNan] at hd; exact absurd h id
  · cases hv : f.input ftz b <;> rw [hv] at h hd <;> simp [Val.isInf] at hd; exact absurd h id

theorem add_spec (rd : Bool) (x y : Val) (hx : x.plain = true) (hy : y.plain = true) (a b : ℝ) (ha : x.holds a)
    (hb : y.holds b) : ∃ v, Val.add rd x y = some v ∧ v.plain = true ∧ v.holds (a + b) ∧
      (a + b = 0 → v = .zero (if a = 0 ∧ x.neg? = y.neg? then x.neg? else rd)) := by
  obtain ⟨n1, m1, e1, rfl⟩ := Val.plain_cases hx
  obtain ⟨n2, m2, e2, rfl⟩ := Val.plain_cases hy
  have A := fin_dy _ _ _ _ ha
  have B := fin_dy _ _ _ _ hb
  have S := dy_add (Val.fin n1 m1 e1 false).dy (Val.fin n2 m2 e2 false).dy
  rw [A, B] at S
  have p1 : (0 : ℝ) < 2 ^ e1 := by positivity
  have p2 : (0 : ℝ) < 2 ^ e2 := by positivity
  have z1 : m1 = 0 ↔ a = 0 := by
    rw [Val.holds_fin] at ha
    rw [ha]; cases n1 <;> simp [p1.ne']
  have z2 : m2 = 0 ↔ b = 0 := by
    rw [Val.holds_fin] at hb
    rw [hb]; cases n2 <;> simp [p2.ne']
  unfold Val.add
  simp only
  generalize hs : Dy.add (Val.fin n1 m1 e1 false).dy (Val.fin n2 m2 e2 false).dy = s at S
  by_cases h0 : s.n = 0
  · have hab : a + b = 0 := by rw [← S, h0]; simp
    simp only [h0, if_true]
    have zz : a = 0 → m1 = 0 ∧ m2 = 0 := fun h => ⟨z1.mpr h, z2.mpr (by linarith)⟩
    by_cases hz : a = 0
    · obtain ⟨rfl, rfl⟩ := zz hz
      by_cases hn : n1 = n2
      · subst hn
        refine ⟨.zero n1, by simp [Val.isZero, Val.neg?], rfl, ?_, ?_⟩
        · rw [hab, Val.zero, Val.holds_fin]; simp
        · intro _; simp [hz, Val.neg?]
      · refine ⟨.zero rd, by simp [Val.isZero, Val.neg?, hn], rfl, ?_, ?_⟩
        · rw [hab, Val.zero, Val.holds_fin]; simp
        · intro _; simp [Val.neg?, hn]
    · have : m1 ≠ 0 := fun h => hz (z1.mp h)
      refine ⟨.zero rd, by simp [Val.isZero, this], rfl, ?_, ?_⟩
      · rw [hab, Val.zero, Val.holds_fin]; simp
      · intro _; simp [hz]
  · simp only [h0, if_false]
    refine ⟨s.val, rfl, rfl, by rw [← S]; exact dy_val s, ?_⟩
    intro h
    rw [h] at S
    have p : (2 : ℝ) ^ s.e ≠ 0 := by positivity
    exfalso; apply h0
    have := (mul_eq_zero.mp S).resolve_right p
    exact_mod_cast this

theorem mul_spec (x y : Val) (hx : x.plain = true) (hy : y.plain = true) (a b : ℝ) (ha : x.holds a)
    (hb : y.holds b) : ∃ v, Val.mul x y = some v ∧ v.plain = true ∧ v.holds (a * b) ∧
      v.neg? = (x.neg? != y.neg?) := by
  obtain ⟨n1, m1, e1, rfl⟩ := Val.plain_cases hx
  obtain ⟨n2, m2, e2, rfl⟩ := Val.plain_cases hy
  refine ⟨_, rfl, rfl, ?_, rfl⟩
  rw [Val.holds_fin] at ha hb ⊢
  rw [ha, hb, Nat.cast_natAbs]
  cases n1 <;> cases n2 <;> simp [Val.dy, Dy.mul, Val.neg?] <;> rw [zpow_add₀ (by norm_num)] <;> ring

/-! ### Arithmetic and comparison (R129 to R131) -/

theorem plain_isNan {v : Val} (h : v.plain = true) : v.isNan = false := by
  obtain ⟨_, _, _, rfl⟩ := Val.plain_cases h; rfl

theorem plain_isSig {v : Val} (h : v.plain = true) : v.isSig = false := by
  obtain ⟨_, _, _, rfl⟩ := Val.plain_cases h; rfl

theorem plain_isInf {v : Val} (h : v.plain = true) : v.isInf = false := by
  obtain ⟨_, _, _, rfl⟩ := Val.plain_cases h; rfl

theorem roundTo_plain (f : Fmt) (mode : Nat) (hm : mode < 4) (sat ftz : Bool) (v : Val) (x : ℝ) (hv : v.plain = true)
    (h : v.holds x) :
    (x ≠ 0 → f.RoundTo mode sat ftz x (roundTo f mode sat ftz v)) ∧
      (x = 0 → roundTo f mode sat ftz v = (f.signBits v.neg?, 0)) := by
  obtain ⟨n, m, e, rfl⟩ := Val.plain_cases hv
  obtain ⟨h1, h2⟩ := roundTo_spec f mode hm sat ftz n m e false x h (by simp)
  exact ⟨h1, fun h => (h2 h).2.2⟩

theorem arith_sum (f : Fmt) (mode : Nat) (hm : mode < 4) (ftz : Bool) (ops : List Val) (ho : ops.any Val.isNan = false)
    (x y : Val) (hx : x.plain = true) (hy : y.plain = true) (a b : ℝ) (ha : x.holds a) (hb : y.holds b) :
    (a + b ≠ 0 → f.RoundTo mode false ftz (a + b) (arith f mode ftz ops (Val.add (mode == 2) x y))) ∧
    (a + b = 0 → arith f mode ftz ops (Val.add (mode == 2) x y) =
      (f.signBits (if a = 0 ∧ x.neg? = y.neg? then x.neg? else mode == 2), 0)) := by
  obtain ⟨v, h1, h2, h3, h4⟩ := add_spec (mode == 2) x y hx hy a b ha hb
  rw [h1]
  simp only [arith, ho, Bool.false_eq_true, if_false]
  obtain ⟨r1, r2⟩ := roundTo_plain f mode hm false ftz v _ h2 h3
  refine ⟨r1, fun h => ?_⟩
  rw [r2 h, h4 h]
  rfl

theorem neg_plain {v : Val} (h : v.plain = true) : v.neg.plain = true ∧ v.neg.neg? = !v.neg? ∧
    ∀ x, v.holds x → v.neg.holds (-x) := by
  obtain ⟨n, m, e, rfl⟩ := Val.plain_cases h
  refine ⟨rfl, rfl, fun x hx => ?_⟩
  show (Val.fin (!n) m e false).holds (-x)
  rw [Val.holds_fin] at hx ⊢
  rw [hx]; cases n <;> simp

theorem any_plain2 {x y : Val} (hx : x.plain = true) (hy : y.plain = true) : [x, y].any Val.isNan = false := by
  simp [plain_isNan hx, plain_isNan hy]

/-- FADD and FSUB of finite numbers (R129). -/
theorem fpAdd_spec (f : Fmt) (mode : Nat) (hm : mode < 4) (ftz : Bool) (a b : Nat) (X Y : ℝ)
    (hx : (f.input ftz a).holds X) (hy : (f.input ftz b).holds Y) :
    (X + Y ≠ 0 → f.RoundTo mode false ftz (X + Y) (fpAdd f mode ftz a b)) ∧
    (X + Y = 0 → fpAdd f mode ftz a b = (f.signBits (if X = 0 ∧ (f.input ftz a).neg? = (f.input ftz b).neg? then
      (f.input ftz a).neg? else mode == 2), 0)) ∧
    (X - Y ≠ 0 → f.RoundTo mode false ftz (X - Y) (fpSub f mode ftz a b)) ∧
    (X - Y = 0 → fpSub f mode ftz a b = (f.signBits (if X = 0 ∧ (f.input ftz a).neg? = !(f.input ftz b).neg? then
      (f.input ftz a).neg? else mode == 2), 0)) := by
  have px := input_plain f ftz a X hx
  have py := input_plain f ftz b Y hy
  obtain ⟨n1, n2, n3⟩ := neg_plain py
  have A := arith_sum f mode hm ftz _ (any_plain2 px py) _ _ px py X Y hx hy
  have B := arith_sum f mode hm ftz _ (any_plain2 px py) _ _ px n1 X (-Y) hx (n3 Y hy)
  rw [n2, ← sub_eq_add_neg] at B
  have C : ((f.input ftz a).isNan || (f.input ftz b).isNan) = false := by simp [plain_isNan px, plain_isNan py]
  unfold fpAdd fpSub
  simp only [C, Bool.false_eq_true, if_false]
  exact ⟨A.1, A.2, B.1, B.2⟩

/-- FMUL and FFMA of finite numbers (R129). -/
theorem fpMul_spec (f : Fmt) (mode : Nat) (hm : mode < 4) (ftz : Bool) (a b z : Nat) (X Y Z : ℝ)
    (hx : (f.input ftz a).holds X) (hy : (f.input ftz b).holds Y) (hz : (f.input ftz z).holds Z) :
    (X * Y ≠ 0 → f.RoundTo mode false ftz (X * Y) (fpMul f mode ftz a b)) ∧
    (X * Y = 0 → fpMul f mode ftz a b = (f.signBits ((f.input ftz a).neg? != (f.input ftz b).neg?), 0)) ∧
    (X * Y + Z ≠ 0 → f.RoundTo mode false ftz (X * Y + Z) (fpFma f mode ftz a b z)) ∧
    (X * Y + Z = 0 → fpFma f mode ftz a b z = (f.signBits (if X * Y = 0 ∧
      ((f.input ftz a).neg? != (f.input ftz b).neg?) = (f.input ftz z).neg? then
      (f.input ftz z).neg? else mode == 2), 0)) := by
  have px := input_plain f ftz a X hx
  have py := input_plain f ftz b Y hy
  have pz := input_plain f ftz z Z hz
  obtain ⟨p, h1, h2, h3, h4⟩ := mul_spec _ _ px py X Y hx hy
  have C : ((f.input ftz a).isNan || (f.input ftz b).isNan) = false := by simp [plain_isNan px, plain_isNan py]
  have R := roundTo_plain f mode hm false ftz p _ h2 h3
  rw [h4] at R
  have S := arith_sum f mode hm ftz [] rfl p _ h2 pz _ Z h3 hz
  rw [h4] at S
  unfold fpMul fpFma
  simp only [C, Bool.false_eq_true, if_false, h1, plain_isNan pz]
  refine ⟨?_, ?_, S.1, ?_⟩
  · simpa only [arith, any_plain2 px py, Bool.false_eq_true, if_false] using R.1
  · simpa only [arith, any_plain2 px py, Bool.false_eq_true, if_false] using R.2
  · intro h
    rw [S.2 h]
    split_ifs with hc
    · rw [hc.2]
    · rfl

/-- Comparison of finite numbers. -/
theorem lt_spec (x y : Val) (hx : x.plain = true) (hy : y.plain = true) (a b : ℝ) (ha : x.holds a)
    (hb : y.holds b) : x.lt y = true ↔ a < b := by
  obtain ⟨n1, m1, e1, rfl⟩ := Val.plain_cases hx
  obtain ⟨n2, m2, e2, rfl⟩ := Val.plain_cases hy
  have A := fin_dy _ _ _ _ ha
  have B := fin_dy _ _ _ _ hb
  have S := dy_add (Val.fin n2 m2 e2 false).dy ⟨-(Val.fin n1 m1 e1 false).dy.n, (Val.fin n1 m1 e1 false).dy.e⟩
  simp only at S
  rw [B] at S
  push_cast at S
  rw [neg_mul, A] at S
  unfold Val.lt
  simp only
  generalize hs : Dy.add (Val.fin n2 m2 e2 false).dy ⟨-(Val.fin n1 m1 e1 false).dy.n, (Val.fin n1 m1 e1 false).dy.e⟩ = s at S
  have p : (0 : ℝ) < 2 ^ s.e := by positivity
  rw [decide_eq_true_eq, gt_iff_lt]
  constructor
  · intro h
    have : (0 : ℝ) < s.n := by exact_mod_cast h
    have := mul_pos this p
    linarith
  · intro h
    have : 0 < (s.n : ℝ) * 2 ^ s.e := by linarith
    have := (mul_pos_iff_of_pos_right p).mp this
    exact_mod_cast this

/-- FCMP, FMIN and FMAX of finite numbers (R130, R131). -/
theorem fpCmp_spec (f : Fmt) (ftz : Bool) (a b : Nat) (X Y : ℝ)
    (hx : (f.input ftz a).holds X) (hy : (f.input ftz b).holds Y) :
    fpCmp f ftz 0 a b = (decide (X < Y), 0) ∧ fpCmp f ftz 1 a b = (decide (X ≤ Y), 0) ∧
    fpCmp f ftz 2 a b = (decide (X = Y), 0) ∧ fpCmp f ftz 3 a b = (false, 0) ∧
    (X < Y → fpPick false f ftz a b = (f.flushed ftz a, 0) ∧ fpPick true f ftz a b = (f.flushed ftz b, 0)) ∧
    (Y < X → fpPick false f ftz a b = (f.flushed ftz b, 0) ∧ fpPick true f ftz a b = (f.flushed ftz a, 0)) := by
  have px := input_plain f ftz a X hx
  have py := input_plain f ftz b Y hy
  have L := lt_spec _ _ px py X Y hx hy
  have M := lt_spec _ _ py px Y X hy hx
  have zx : (f.input ftz a).isZero = true ↔ X = 0 := by
    obtain ⟨n, m, e, h⟩ := Val.plain_cases px
    rw [h] at hx ⊢
    have p : (0 : ℝ) < 2 ^ e := by positivity
    rw [Val.holds_fin] at hx
    rw [hx]; cases n <;> simp [Val.isZero, p.ne']
  have zy : (f.input ftz b).isZero = true ↔ Y = 0 := by
    obtain ⟨n, m, e, h⟩ := Val.plain_cases py
    rw [h] at hy ⊢
    have p : (0 : ℝ) < 2 ^ e := by positivity
    rw [Val.holds_fin] at hy
    rw [hy]; cases n <;> simp [Val.isZero, p.ne']
  have l : (f.input ftz a).lt (f.input ftz b) = decide (X < Y) := by
    rw [Bool.eq_iff_iff, L]; simp
  have m : (f.input ftz b).lt (f.input ftz a) = decide (Y < X) := by
    rw [Bool.eq_iff_iff, M]; simp
  unfold fpCmp fpPick
  simp only [plain_isNan px, plain_isNan py, Val.eqv, Val.below, l, m, sigNV, List.any_cons, List.any_nil,
    plain_isSig px, plain_isSig py, Bool.or_self, Bool.false_eq_true, if_false, Bool.not_false, Bool.true_and]
  refine ⟨trivial, ?_, ?_, trivial, ?_, ?_⟩
  · simp [← not_le]
  · congr 1
    rw [Bool.eq_iff_iff]; simp
    constructor
    · rintro ⟨h1, h2⟩; exact le_antisymm h2 h1
    · rintro rfl; exact ⟨le_refl _, le_refl _⟩
  · intro h
    have h' : ¬ Y < X := not_lt.mpr h.le
    simp [h, h']
    intro h1 h2
    exact absurd ((zy.mp h1).trans (zx.mp h2).symm) h.ne'
  · intro h
    have h' : ¬ X < Y := not_lt.mpr h.le
    simp [h, h']
    intro h1 h2
    exact absurd ((zx.mp h1).trans (zy.mp h2).symm) h.ne'

/-! ### Encodings, conversions, reciprocals (R121, R132 to R134) -/

/-- The encodings of a format (R121). -/
theorem dec_spec (f : Fmt) (b : Nat) :
    let S := b / 2 ^ (f.width - 1) % 2
    let E := b / 2 ^ f.frac % 2 ^ f.expo
    let M := b % 2 ^ f.frac
    (E = 0 → (f.dec b).holds ((-1) ^ S * 2 ^ (1 - (f.bias : Int)) * (M / 2 ^ f.frac))) ∧
    (0 < E → (if f.hasInf then E < 2 ^ f.expo - 1 else f = .e4m3 → E = 15 → M ≠ 7) →
      (f.dec b).holds ((-1) ^ S * 2 ^ ((E : Int) - f.bias) * (1 + M / 2 ^ f.frac))) ∧
    (f.hasInf = true → E = 2 ^ f.expo - 1 → if M = 0 then f.dec b = .inf (S == 1) else (f.dec b).isNan = true) ∧
    (f = .e4m3 → E = 15 → M = 7 → (f.dec b).isNan = true) ∧
    ((f.dec b).isNan = false → (f.dec b).neg? = (S == 1)) := by
  simp only
  have hS : b / 2 ^ (f.width - 1) % 2 < 2 := Nat.mod_lt _ (by norm_num)
  unfold Fmt.dec
  simp only
  generalize b / 2 ^ (f.width - 1) % 2 = S at *
  have hE : b / 2 ^ f.frac % 2 ^ f.expo < 2 ^ f.expo := Nat.mod_lt _ (by positivity)
  generalize b / 2 ^ f.frac % 2 ^ f.expo = E at *
  generalize b % 2 ^ f.frac = M at *
  have h1 : 1 < 2 ^ f.expo := by cases f <;> decide
  have sg : ((-1 : ℝ)) ^ S = if (S == 1) = true then -1 else 1 := by
    interval_cases S <;> simp
  refine ⟨?_, ?_, ?_, ?_, ?_⟩
  · rintro rfl
    rw [if_neg, if_neg, if_pos rfl, Val.holds_fin, sg]
    · rw [show f.qmin = 1 - (f.bias : Int) + -(f.frac : Int) by unfold Fmt.qmin; ring, zpow_add₀ (by norm_num),
        zpow_neg, zpow_natCast]
      field_simp
    · simp
    · simp; omega
  · intro h0 hc
    rw [if_neg, if_neg, if_neg (by omega), Val.holds_fin, sg]
    · rw [show (E : Int) - f.bias - f.frac = E - f.bias + -(f.frac : Int) by ring, zpow_add₀ (by norm_num),
        zpow_neg, zpow_natCast]
      push_cast
      field_simp
    · intro h
      simp only [Bool.and_eq_true, decide_eq_true_eq, beq_iff_eq] at h
      obtain ⟨⟨rfl, h5⟩, h6⟩ := h
      exact hc rfl h5 h6
    · intro h
      simp only [Bool.and_eq_true, decide_eq_true_eq] at h
      rw [if_pos h.2] at hc
      omega
  · intro h2 h3
    split_ifs <;> simp_all [Val.isNan]
  · rintro rfl rfl rfl
    rfl
  · intro h
    split_ifs at h ⊢ <;> simp_all [Val.isNan, Val.neg?]

/-- FCVT (R132). -/
theorem fpCvt_spec (fr tt : Fmt) (mode : Nat) (hm : mode < 4) (sat ftz : Bool) (a : Nat) (X : ℝ)
    (hx : (fr.input ftz a).holds X) :
    (X ≠ 0 → tt.RoundTo mode sat ftz X (fpCvt fr tt mode sat ftz a)) ∧
    (X = 0 → fpCvt fr tt mode sat ftz a = (tt.signBits (fr.input ftz a).neg?, 0)) := by
  have px := input_plain fr ftz a X hx
  have R := roundTo_plain tt mode hm sat ftz _ X px hx
  unfold fpCvt
  simpa [sigNV, plain_isSig px] using R

/-- An integer as a float (R133). -/
theorem intVal_spec (f : Fmt) (mode : Nat) (hm : mode < 4) (sat ftz : Bool) (n : Int) :
    (n ≠ 0 → f.RoundTo mode sat ftz n (roundTo f mode sat ftz (intVal n))) ∧
    (n = 0 → roundTo f mode sat ftz (intVal n) = (0, 0)) := by
  have h := dy_val ⟨n, 0⟩
  have e : (⟨n, 0⟩ : Dy).val = intVal n := rfl
  rw [e] at h
  simp only [zpow_zero, mul_one] at h
  obtain ⟨r1, r2⟩ := roundTo_plain f mode hm sat ftz _ _ (by rfl) h
  refine ⟨fun h => r1 (by exact_mod_cast h), fun h => ?_⟩
  rw [r2 (by exact_mod_cast h), h]
  cases f <;> rfl

/-- A float as an integer (R133). -/
theorem fpToInt_spec (f : Fmt) (mode : Nat) (hm : mode < 4) (ftz : Bool) (lo hi : Int) (a : Nat) (X : ℝ)
    (hx : (f.input ftz a).holds X) :
    ∃ (k : Nat) (n : Int), Rounds mode (f.input ftz a).neg? |X| 1 k ∧
      n = (if (f.input ftz a).neg? then -(k : Int) else k) ∧
      (n < lo → fpToInt f mode ftz lo hi a = (lo, NV)) ∧ (lo ≤ n → hi < n → fpToInt f mode ftz lo hi a = (hi, NV)) ∧
      (lo ≤ n → n ≤ hi → (fpToInt f mode ftz lo hi a).1 = n ∧
        ((n : ℝ) = X → (fpToInt f mode ftz lo hi a).2 = 0) ∧ ((n : ℝ) ≠ X → (fpToInt f mode ftz lo hi a).2 = NX)) := by
  have px := input_plain f ftz a X hx
  obtain ⟨neg, m, e, hv⟩ := Val.plain_cases px
  have hneg : (f.input ftz a).neg? = neg := by rw [hv]; rfl
  rw [hneg]
  rw [hv] at hx
  have hm0 : (0 : ℝ) ≤ m * 2 ^ e := by positivity
  rw [Val.holds_fin] at hx
  have habs : |X| = m * 2 ^ e := by
    rw [hx]; cases neg <;> simp [abs_of_nonneg hm0]
  obtain ⟨r1, r2⟩ := roundAt_spec mode hm neg m e 0 false |X| (by simp) (by simpa using habs)
  rw [zpow_zero] at r1 r2
  refine ⟨(roundAt mode neg m e 0 false).1, _, r1, rfl, ?_⟩
  unfold fpToInt
  rw [hv]
  simp only
  generalize roundAt mode neg m e 0 false = r at r1 r2 ⊢
  generalize hn : (if neg = true then -(r.1 : Int) else (r.1 : Int)) = n
  have hx' : ((n : ℝ) = X ↔ (r.1 : ℝ) * 1 = |X|) := by
    rw [habs, hx, ← hn]
    cases neg <;> simp
  refine ⟨fun h => by simp [h], fun h1 h2 => by simp [not_lt.mpr h1, h2], fun h1 h2 => ?_⟩
  simp only [not_lt.mpr h1, not_lt.mpr h2, if_false, true_and]
  constructor
  · intro h
    have : r.2 = false := by
      rw [Bool.eq_false_iff]; intro h'; exact (r2.mp h') (hx'.mp h)
    simp [this]
  · intro h
    have : r.2 = true := r2.mpr fun h' => h (hx'.mpr h')
    simp [this]

theorem isqrtFrom_spec (n k r : Nat) (h1 : r * r ≤ n) (h2 : n < (r + 2 ^ k) * (r + 2 ^ k)) :
    isqrtFrom n k r * isqrtFrom n k r ≤ n ∧ n < (isqrtFrom n k r + 1) * (isqrtFrom n k r + 1) := by
  induction k generalizing r with
  | zero => exact ⟨h1, by simpa [isqrtFrom] using h2⟩
  | succ k ih =>
    unfold isqrtFrom
    split
    · rename_i h
      exact ih _ h (by rw [pow_succ] at h2; convert h2 using 2 <;> ring)
    · rename_i h
      exact ih _ h1 (by omega)

theorem isqrt_spec (n : Nat) : isqrt n * isqrt n ≤ n ∧ n < (isqrt n + 1) * (isqrt n + 1) := by
  unfold isqrt
  apply isqrtFrom_spec
  · simp
  · have h := @Nat.lt_log2_self n
    calc n < 2 ^ (n.log2 + 1) := h
      _ ≤ 2 ^ ((n.log2 / 2 + 1) + (n.log2 / 2 + 1)) := Nat.pow_le_pow_right (by norm_num) (by omega)
      _ = _ := by rw [pow_add]; ring

theorem fine_of (f : Fmt) (m : Nat) (e : Int) (h : f.frac < m.log2) : e < f.quantum m e := by
  have : (m.log2 : Int) + e - f.frac ≤ f.quantum m e := le_max_left _ _
  omega

theorem recip_spec (neg : Bool) (m : Nat) (e : Int) (hm : m ≠ 0) (x : ℝ) (hx : (Val.fin neg m e false).holds x) :
    ∃ r k s, recip neg m e = .fin neg r k s ∧ (Val.fin neg r k s).holds (1 / x) ∧ 79 ≤ r.log2 := by
  refine ⟨_, _, _, rfl, ?_, ?_⟩
  · rw [Val.holds_fin] at hx
    have h2 : (0 : ℝ) < 2 ^ e := by positivity
    have hm' : (0 : ℝ) < m := by exact_mod_cast Nat.pos_of_ne_zero hm
    generalize m.log2 + 80 = k
    have hk : (0 : ℝ) < 2 ^ k := by positivity
    have hdm : m * (2 ^ k / m) + 2 ^ k % m = 2 ^ k := Nat.div_add_mod _ _
    have hlt : 2 ^ k % m < m := Nat.mod_lt _ (Nat.pos_of_ne_zero hm)
    generalize 2 ^ k / m = d at hdm
    generalize 2 ^ k % m = r at hdm hlt
    have hdm' : (m : ℝ) * d + r = 2 ^ k := by exact_mod_cast hdm
    have hlt' : (r : ℝ) < m := by exact_mod_cast hlt
    have hz : (2 : ℝ) ^ (-(k : Int) - e) = 1 / (2 ^ k * 2 ^ e) := by
      rw [show -(k : Int) - e = -((k : Int) + e) by ring, zpow_neg, zpow_add₀ (by norm_num), zpow_natCast, one_div]
    have hinv : (if neg then -(1 / x) else 1 / x) = 1 / (m * 2 ^ e) := by
      rw [hx]; cases neg <;> simp
    have hq : (1 : ℝ) / (m * 2 ^ e) = (2 ^ k / m) * (1 / (2 ^ k * 2 ^ e)) := by field_simp
    have hP : (0 : ℝ) < 1 / (2 ^ k * 2 ^ e) := by positivity
    simp only [Val.holds]
    rw [hinv, hz, hq]
    generalize (1 : ℝ) / (2 ^ k * 2 ^ e) = P at hP
    by_cases hr : r = 0
    · subst hr
      simp
      left
      rw [div_eq_iff hm'.ne', ← hdm']; push_cast; ring
    · have hr' : (0 : ℝ) < r := by exact_mod_cast Nat.pos_of_ne_zero hr
      simp [hr]
      constructor
      · apply mul_lt_mul_of_pos_right _ hP
        rw [lt_div_iff₀ hm']; linarith
      · apply mul_lt_mul_of_pos_right _ hP
        rw [div_lt_iff₀ hm']; linarith
  · apply (Nat.le_log2 _).mpr
    · rw [Nat.le_div_iff_mul_le (Nat.pos_of_ne_zero hm)]
      have := (@Nat.lt_log2_self m).le
      calc 2 ^ 79 * m ≤ 2 ^ 79 * 2 ^ (m.log2 + 1) := Nat.mul_le_mul_left _ this
        _ = 2 ^ (m.log2 + 80) := by rw [← pow_add]; congr 1; omega
    · have := (@Nat.lt_log2_self m).le
      have h80 : m ≤ 2 ^ (m.log2 + 80) := this.trans (Nat.pow_le_pow_right (by norm_num) (by omega))
      exact (Nat.div_pos h80 (Nat.pos_of_ne_zero hm)).ne'

/-! ### Roots (R134) -/

/-- The mantissa with an even exponent. -/
theorem even_split (m : Nat) (e : Int) : ∃ (m1 : Nat) (h : Int), (if e % 2 = 0 then m else 2 * m) = m1 ∧
    (if e % 2 = 0 then e else e - 1) / 2 = h ∧ (m : ℝ) * 2 ^ e = m1 * (2 ^ h * 2 ^ h) ∧ (m ≠ 0 → m1 ≠ 0) := by
  by_cases he : e % 2 = 0
  · refine ⟨m, e / 2, by simp [he], by simp [he], ?_, id⟩
    rw [← zpow_add₀ (by norm_num)]; congr 2; omega
  · refine ⟨2 * m, (e - 1) / 2, by simp [he], by simp [he], ?_, by omega⟩
    rw [← zpow_add₀ (by norm_num), show e = ((e - 1) / 2 + (e - 1) / 2) + 1 by omega, zpow_add_one₀ (by norm_num)]
    rw [show ((e - 1) / 2 + (e - 1) / 2 + 1 - 1) = ((e - 1) / 2 + (e - 1) / 2) by ring]
    push_cast
    have : ((e - 1) / 2 + (e - 1) / 2) / 2 + ((e - 1) / 2 + (e - 1) / 2) / 2 = (e - 1) / 2 + (e - 1) / 2 := by omega
    rw [this]
    ring

theorem root_spec (m : Nat) (e : Int) (hm : m ≠ 0) (x : ℝ) (hx : x = m * 2 ^ e) :
    ∃ r k s, root m e = .fin false r k s ∧ (Val.fin false r k s).holds (Real.sqrt x) ∧ 79 ≤ r.log2 := by
  obtain ⟨m1, h, e1, e2, e3, e4⟩ := even_split m e
  have hm1 := e4 hm
  refine ⟨isqrt (m1 * 2 ^ 160), h - 80, isqrt (m1 * 2 ^ 160) * isqrt (m1 * 2 ^ 160) != m1 * 2 ^ 160, ?_, ?_, ?_⟩
  · unfold root
    simp only [e1, e2]
  · obtain ⟨b1, b2⟩ := isqrt_spec (m1 * 2 ^ 160)
    generalize isqrt (m1 * 2 ^ 160) = r at b1 b2
    have hp : (0 : ℝ) < 2 ^ h := by positivity
    have hz : (2 : ℝ) ^ (h - 80) = 2 ^ h / 2 ^ 80 := by
      rw [zpow_sub₀ (by norm_num)]; norm_num
    have b1' : (r : ℝ) * r ≤ m1 * 2 ^ 160 := by exact_mod_cast b1
    have b2' : (m1 : ℝ) * 2 ^ 160 < (r + 1) * (r + 1) := by exact_mod_cast b2
    have hxx : x = m1 * 2 ^ 160 * ((2 ^ h / 2 ^ 80) * (2 ^ h / 2 ^ 80)) := by
      rw [hx, e3]; field_simp
    have hP : (0 : ℝ) < 2 ^ h / 2 ^ 80 := by positivity
    have hr0 : (0 : ℝ) ≤ r := by positivity
    unfold Val.holds
    simp only [Bool.false_eq_true, if_false]
    rw [hz]
    generalize (2 : ℝ) ^ h / 2 ^ 80 = P at hP hxx
    by_cases hs : r * r = m1 * 2 ^ 160
    · have hs' : (r : ℝ) * r = m1 * 2 ^ 160 := by exact_mod_cast hs
      simp only [hs, bne_self_eq_false, Bool.false_eq_true, if_false]
      rw [hxx, ← hs', show (r : ℝ) * r * (P * P) = (r * P) * (r * P) by ring, Real.sqrt_mul_self (by positivity)]
    · have hs' : (r : ℝ) * r < m1 * 2 ^ 160 := lt_of_le_of_ne b1' (by exact_mod_cast hs)
      have : (r * r != m1 * 2 ^ 160) = true := by simpa using hs
      simp only [this, if_true]
      rw [hxx]
      constructor
      · apply Real.lt_sqrt_of_sq_lt
        have := mul_lt_mul_of_pos_right hs' (mul_pos hP hP)
        nlinarith
      · rw [Real.sqrt_lt' (by positivity)]
        have := mul_lt_mul_of_pos_right b2' (mul_pos hP hP)
        nlinarith
  · obtain ⟨b1, b2⟩ := isqrt_spec (m1 * 2 ^ 160)
    generalize isqrt (m1 * 2 ^ 160) = r at b1 b2
    have h80 : 2 ^ 80 ≤ r := by
      by_contra hc
      have : r + 1 ≤ 2 ^ 80 := by omega
      have := Nat.mul_le_mul this this
      have : 1 * 2 ^ 160 ≤ m1 * 2 ^ 160 := Nat.mul_le_mul_right _ (Nat.pos_of_ne_zero hm1)
      norm_num at *
      omega
    apply (Nat.le_log2 (by omega)).mpr
    norm_num at h80 ⊢; omega

theorem rroot_spec (m : Nat) (e : Int) (hm : m ≠ 0) (x : ℝ) (hx : x = m * 2 ^ e) :
    ∃ r k s, rroot m e = .fin false r k s ∧ (Val.fin false r k s).holds (1 / Real.sqrt x) ∧ 60 ≤ r.log2 := by
  obtain ⟨m1, h, e1, e2, e3, e4⟩ := even_split m e
  have hm1 := e4 hm
  have hlog := (@Nat.lt_log2_self m1).le
  generalize hj : m1.log2 + 80 = j at *
  have hjj : 2 * j / 2 = j := by omega
  refine ⟨isqrt (2 ^ (2 * j) / m1), -(j : Int) - h,
    isqrt (2 ^ (2 * j) / m1) * isqrt (2 ^ (2 * j) / m1) * m1 != 2 ^ (2 * j), ?_, ?_, ?_⟩
  · unfold rroot
    simp only [e1, e2, hj, hjj]
  · obtain ⟨b1, b2⟩ := isqrt_spec (2 ^ (2 * j) / m1)
    generalize isqrt (2 ^ (2 * j) / m1) = r at b1 b2
    have hp : (0 : ℝ) < 2 ^ h := by positivity
    have hm' : (0 : ℝ) < m1 := by exact_mod_cast Nat.pos_of_ne_zero hm1
    have b1n : r * r * m1 ≤ 2 ^ (2 * j) := by
      rw [← Nat.le_div_iff_mul_le (Nat.pos_of_ne_zero hm1)]; exact b1
    have b2n : 2 ^ (2 * j) < (r + 1) * (r + 1) * m1 := by
      rw [← Nat.div_lt_iff_lt_mul (Nat.pos_of_ne_zero hm1)]; exact b2
    have hz : (2 : ℝ) ^ (-(j : Int) - h) = 1 / (2 ^ j * 2 ^ h) := by
      rw [show -(j : Int) - h = -((j : Int) + h) by ring, zpow_neg, zpow_add₀ (by norm_num), zpow_natCast, one_div]
    have b1' : (r : ℝ) * r * m1 ≤ 2 ^ j * 2 ^ j := by rw [← pow_add, ← two_mul]; exact_mod_cast b1n
    have b2' : (2 : ℝ) ^ j * 2 ^ j < (r + 1) * (r + 1) * m1 := by rw [← pow_add, ← two_mul]; exact_mod_cast b2n
    have hJ : (0 : ℝ) < 2 ^ j := by positivity
    have hxp : x = m1 * (2 ^ h * 2 ^ h) := by rw [hx, e3]
    have hsq : 1 / Real.sqrt x = Real.sqrt (2 ^ j * 2 ^ j / m1) * (1 / (2 ^ j * 2 ^ h)) := by
      rw [Real.sqrt_div (by positivity), Real.sqrt_mul_self hJ.le, hxp, Real.sqrt_mul hm'.le, Real.sqrt_mul_self hp.le]
      have : (0 : ℝ) < Real.sqrt m1 := Real.sqrt_pos.mpr hm'
      field_simp
    unfold Val.holds
    simp only [Bool.false_eq_true, if_false]
    rw [hz, hsq]
    have hP : (0 : ℝ) < 1 / (2 ^ j * 2 ^ h) := by positivity
    generalize (1 : ℝ) / (2 ^ j * 2 ^ h) = P at hP
    have hr0 : (0 : ℝ) ≤ r := by positivity
    by_cases hs : r * r * m1 = 2 ^ (2 * j)
    · have hs' : (r : ℝ) * r * m1 = 2 ^ j * 2 ^ j := by rw [← pow_add, ← two_mul]; exact_mod_cast hs
      simp only [hs, bne_self_eq_false, Bool.false_eq_true, if_false]
      rw [← hs', mul_div_assoc, div_self hm'.ne', mul_one, Real.sqrt_mul_self hr0]
    · have hs' : (r : ℝ) * r * m1 < 2 ^ j * 2 ^ j :=
        lt_of_le_of_ne b1' (by rw [← pow_add, ← two_mul]; exact_mod_cast hs)
      have : (r * r * m1 != 2 ^ (2 * j)) = true := by simpa using hs
      simp only [this, if_true]
      constructor
      · apply mul_lt_mul_of_pos_right _ hP
        apply Real.lt_sqrt_of_sq_lt
        rw [lt_div_iff₀ hm']; nlinarith
      · apply mul_lt_mul_of_pos_right _ hP
        rw [Real.sqrt_lt' (by positivity), div_lt_iff₀ hm']; nlinarith
  · obtain ⟨b1, b2⟩ := isqrt_spec (2 ^ (2 * j) / m1)
    generalize isqrt (2 ^ (2 * j) / m1) = r at b1 b2
    have b2n : 2 ^ (2 * j) < (r + 1) * (r + 1) * m1 := by
      rw [← Nat.div_lt_iff_lt_mul (Nat.pos_of_ne_zero hm1)]; exact b2
    have h60 : 2 ^ 60 ≤ r := by
      by_contra hc
      have h1 : r + 1 ≤ 2 ^ 60 := by omega
      have h2 := Nat.mul_le_mul h1 h1
      have h3 := Nat.mul_le_mul h2 hlog
      have h4 : (2 : Nat) ^ 60 * 2 ^ 60 * 2 ^ (m1.log2 + 1) = 2 ^ (m1.log2 + 121) := by
        rw [← pow_add, ← pow_add]; congr 1; omega
      rw [h4] at h3
      have h5 : (2 : Nat) ^ (m1.log2 + 121) ≤ 2 ^ (2 * j) := Nat.pow_le_pow_right (by norm_num) (by omega)
      omega
    apply (Nat.le_log2 (by omega)).mpr h60

/-- RCP, SQRT and RSQ of finite numbers (R134). -/
theorem fpSpecial_spec (f : Fmt) (mode : Nat) (hm : mode < 4) (ftz : Bool) (a : Nat) (X : ℝ)
    (hx : (f.input ftz a).holds X) :
    (X ≠ 0 → f.RoundTo mode false ftz (1 / X) (fpSpecial .rcp f mode ftz a)) ∧
    (0 < X → f.RoundTo mode false ftz (Real.sqrt X) (fpSpecial .sqrt f mode ftz a) ∧
      f.RoundTo mode false ftz (1 / Real.sqrt X) (fpSpecial .rsq f mode ftz a)) := by
  have px := input_plain f ftz a X hx
  have hf : f.frac < 60 := by cases f <;> decide
  have z0 : ∀ w : Word, w ||| 0 = w := fun w => by simp
  unfold fpSpecial
  obtain ⟨n, m, e, hv⟩ := Val.plain_cases px
  rw [hv] at hx ⊢
  have hx' := Val.holds_fin.mp hx
  have hp : (0 : ℝ) < 2 ^ e := by positivity
  have hm0 : X ≠ 0 → m ≠ 0 := by
    rintro h rfl; rw [hx'] at h; simp at h
  constructor
  · intro h
    obtain ⟨r, k, s, h1, h2, h3⟩ := recip_spec n m e (hm0 h) X hx
    simp only [SFn.val, hm0 h, if_false, h1, z0, Prod.mk.eta]
    exact (roundTo_spec f mode hm false ftz n r k s _ h2 (fun _ => fine_of f r k (by omega))).1 (by positivity)
  · intro h
    have hne := hm0 h.ne'
    have hn : n = false := by
      cases n
      · rfl
      · rw [hx'] at h
        have : (0 : ℝ) ≤ m * 2 ^ e := by positivity
        simp at h; linarith
    subst hn
    have hxx : X = m * 2 ^ e := by rw [hx']; simp
    have hs := Real.sqrt_pos.mpr h
    obtain ⟨r, k, s, h1, h2, h3⟩ := root_spec m e hne X hxx
    obtain ⟨r', k', s', h1', h2', h3'⟩ := rroot_spec m e hne X hxx
    simp only [SFn.val, hne, if_false, h1, h1', z0, Prod.mk.eta, Bool.false_eq_true]
    exact ⟨(roundTo_spec f mode hm false ftz false r k s _ h2 (fun _ => fine_of f r k (by omega))).1 (by positivity),
      (roundTo_spec f mode hm false ftz false r' k' s' _ h2' (fun _ => fine_of f r' k' (by omega))).1 (by positivity)⟩

/-! ### Dot products, packing, scaling (R135 to R138) -/

theorem sumDy_from (l : List Val) (xs : List ℝ) (h : List.Forall₂ (fun v x => v.plain = true ∧ v.holds x) l xs)
    (d : Dy) : ((l.foldl (fun a v => Dy.add a v.dy) d).n : ℝ) * 2 ^ (l.foldl (fun a v => Dy.add a v.dy) d).e =
      d.n * 2 ^ d.e + xs.sum := by
  induction h generalizing d with
  | nil => simp
  | cons h _ ih =>
    obtain ⟨hp, hh⟩ := h
    obtain ⟨n, m, e, rfl⟩ := Val.plain_cases hp
    simp only [List.foldl_cons, List.sum_cons]
    rw [ih, dy_add, fin_dy _ _ _ _ hh]
    ring

/-- A sum of finite numbers is exact (R135, R142). -/
theorem sumDy_spec (l : List Val) (xs : List ℝ) (h : List.Forall₂ (fun v x => v.plain = true ∧ v.holds x) l xs) :
    ((sumDy l).n : ℝ) * 2 ^ (sumDy l).e = xs.sum := by
  have := sumDy_from l xs h ⟨0, 0⟩
  simpa [sumDy] using this

/-- A dot product of finite elements (R135). -/
theorem dotFloat_spec (f : Fmt) (n mode : Nat) (hm : mode < 4) (ftz : Bool) (z a b : Nat) (X Y : Nat → ℝ) (Z : ℝ)
    (hx : ∀ j < n, (f.dec (elemAt f.width a j)).holds (X j)) (hy : ∀ j < n, (f.dec (elemAt f.width b j)).holds (Y j))
    (hz : (Fmt.fp32.input ftz z).holds Z) :
    Z + ((List.range n).map fun j => X j * Y j).sum ≠ 0 →
      Fmt.fp32.RoundTo mode false ftz (Z + ((List.range n).map fun j => X j * Y j).sum) (dotFloat f n mode ftz z a b) := by
  intro hne
  have inp : ∀ c, f.input false c = f.dec c := fun c => by simp [Fmt.input]
  have px : ∀ j < n, (f.dec (elemAt f.width a j)).plain = true := fun j hj => by
    have := hx j hj; rw [← inp] at this ⊢; exact input_plain _ _ _ _ this
  have py : ∀ j < n, (f.dec (elemAt f.width b j)).plain = true := fun j hj => by
    have := hy j hj; rw [← inp] at this ⊢; exact input_plain _ _ _ _ this
  have pz := input_plain _ _ _ _ hz
  unfold dotFloat
  simp only
  rw [List.zip_map', List.map_map]
  have hps : ((List.range n).map ((fun p : Val × Val => if (p.1.isNan || p.2.isNan) = true then some (Val.nan false)
      else Val.mul p.1 p.2) ∘ fun j => (f.dec (elemAt f.width a j), f.dec (elemAt f.width b j)))) =
      (List.range n).map fun j => Val.mul (f.dec (elemAt f.width a j)) (f.dec (elemAt f.width b j)) := by
    apply List.map_congr_left
    intro j hj
    have hj' := List.mem_range.mp hj
    simp [plain_isNan (px j hj'), plain_isNan (py j hj')]
  rw [hps]
  generalize hP : (fun j => Val.mul (f.dec (elemAt f.width a j)) (f.dec (elemAt f.width b j))) = P
  have prod : ∀ j < n, ∃ v, P j = some v ∧ v.plain = true ∧ v.holds (X j * Y j) := by
    intro j hj
    obtain ⟨v, h1, h2, h3, _⟩ := mul_spec _ _ (px j hj) (py j hj) _ _ (hx j hj) (hy j hj)
    exact ⟨v, by rw [← hP]; exact h1, h2, h3⟩
  rw [List.map_map]
  have F2 : List.Forall₂ (fun v x => v.plain = true ∧ v.holds x)
      ((List.range n).map ((fun o : Option Val => o.getD (Val.nan false)) ∘ P) ++ [Fmt.fp32.input ftz z])
      ((List.range n).map (fun j => X j * Y j) ++ [Z]) := by
    apply List.rel_append
    · rw [List.forall₂_map_left_iff, List.forall₂_map_right_iff, List.forall₂_same]
      intro j hj
      obtain ⟨v, h1, h2, h3⟩ := prod j (List.mem_range.mp hj)
      simp only [Function.comp, h1, Option.getD_some]
      exact ⟨h2, h3⟩
    · exact List.Forall₂.cons ⟨pz, hz⟩ List.Forall₂.nil
  have hsum := sumDy_spec _ _ F2
  have hpl : ∀ v ∈ ((List.range n).map ((fun o : Option Val => o.getD (Val.nan false)) ∘ P) ++ [Fmt.fp32.input ftz z]),
      v.plain = true := by
    intro v hv
    rcases List.mem_append.mp hv with hv | hv
    · obtain ⟨j, hj, rfl⟩ := List.mem_map.mp hv
      obtain ⟨v, h1, h2, _⟩ := prod j (List.mem_range.mp hj)
      simp only [Function.comp, h1, Option.getD_some]; exact h2
    · rw [List.mem_singleton.mp hv]; exact pz
  generalize hV : ((List.range n).map ((fun o : Option Val => o.getD (Val.nan false)) ∘ P) ++ [Fmt.fp32.input ftz z]) = V at *
  have ninf : ∀ b, anyInf b V = false := by
    intro b
    unfold anyInf
    rw [List.any_eq_false]
    intro v hv
    obtain ⟨_, _, _, rfl⟩ := Val.plain_cases (hpl v hv)
    simp
  have nnone : ((List.range n).map P).any Option.isNone = false := by
    rw [List.any_eq_false]
    intro o ho
    obtain ⟨j, hj, rfl⟩ := List.mem_map.mp ho
    obtain ⟨v, h1, _⟩ := prod j (List.mem_range.mp hj)
    simp [h1]
  have nnan : ((List.range n).map (fun j => f.dec (elemAt f.width a j)) ++
      (List.range n).map (fun j => f.dec (elemAt f.width b j)) ++ [Fmt.fp32.input ftz z]).any Val.isNan = false := by
    rw [List.any_eq_false]
    intro v hv
    have : v.plain = true := by
      rcases List.mem_append.mp hv with hv | hv
      · rcases List.mem_append.mp hv with hv | hv
        · obtain ⟨j, hj, rfl⟩ := List.mem_map.mp hv; exact px j (List.mem_range.mp hj)
        · obtain ⟨j, hj, rfl⟩ := List.mem_map.mp hv; exact py j (List.mem_range.mp hj)
      · rw [List.mem_singleton.mp hv]; exact pz
    simp [plain_isNan this]
  simp only [nnan, nnone, ninf, Bool.and_self, Bool.or_self, Bool.false_eq_true, if_false]
  rw [List.sum_append, List.sum_singleton, add_comm] at hsum
  have hn : (sumDy V).n ≠ 0 := by
    intro h; rw [h] at hsum; simp at hsum; exact hne hsum.symm
  simp only [hn, if_false]
  have hv := dy_val (sumDy V)
  rw [hsum] at hv
  exact (roundTo_plain .fp32 mode hm false ftz _ _ rfl hv).1 hne

theorem elem_toInt (w : Nat) (x : Word) (j : Nat) :
    signedElem w (elemAt w x.toNat j) = (x.extractLsb' (w * j) w).toInt := by
  unfold signedElem elemAt
  rw [BitVec.toInt_eq_msb_cond, BitVec.msb_eq_decide, BitVec.extractLsb'_toNat, Nat.shiftRight_eq_div_pow]
  simp only [decide_eq_true_eq]
  push_cast
  rfl

/-- Integer dot products (R135). -/
theorem dotInt_spec (w n : Nat) (sat : Bool) (z a b : Word) :
    dotInt w n sat z a.toNat b.toNat =
      (let v := z.toInt + ((List.range n).map fun j =>
        (a.extractLsb' (w * j) w).toInt * (b.extractLsb' (w * j) w).toInt).sum
       if sat then satS v else (BitVec.ofInt 32 v, 0)) := by
  unfold dotInt
  simp only [elem_toInt]

theorem scale_spec (v : Val) (hv : v.plain = true) (k : Int) (x : ℝ) (h : v.holds x) :
    (v.scale k).plain = true ∧ (v.scale k).holds (x * 2 ^ k) ∧ (v.scale k).neg? = v.neg? := by
  obtain ⟨n, m, e, rfl⟩ := Val.plain_cases hv
  refine ⟨rfl, ?_, rfl⟩
  show (Val.fin n m (e + k) false).holds _
  rw [Val.holds_fin] at h ⊢
  rw [h, zpow_add₀ (by norm_num)]; ring

/-- One element of PACK, UNPK and SCL (R136 to R138). -/
theorem packElem_spec (f : Fmt) (mode : Nat) (hm : mode < 4) (sat ftz : Bool) (ev : Nat) (he : ev ≠ 0xFF) (x : Nat)
    (X : ℝ) (hx : (Fmt.fp32.input ftz x).holds X) :
    (X ≠ 0 → f.RoundTo mode sat ftz (X * 2 ^ (127 - (ev : Int))) (packElem f mode sat ftz ev x)) ∧
    (X = 0 → packElem f mode sat ftz ev x = (f.signBits (Fmt.fp32.input ftz x).neg?, 0)) := by
  have px := input_plain _ _ _ _ hx
  obtain ⟨s1, s2, s3⟩ := scale_spec _ px (127 - (ev : Int)) X hx
  obtain ⟨r1, r2⟩ := roundTo_plain f mode hm sat ftz _ _ s1 s2
  have hp : (0 : ℝ) < 2 ^ (127 - (ev : Int)) := by positivity
  unfold packElem
  simp only [he, if_false, sigNV, List.any_cons, List.any_nil, plain_isSig px, Bool.or_self, Bool.false_eq_true]
  have z0 : ∀ w : Word, w ||| 0 = w := fun w => by simp
  simp only [z0, Prod.mk.eta]
  exact ⟨fun h => r1 (mul_ne_zero h hp.ne'), fun h => by rw [r2 (by rw [h]; simp), s3]⟩

theorem unpkElem_spec (f : Fmt) (mode : Nat) (hm : mode < 4) (ftz : Bool) (ev : Nat) (he : ev ≠ 0xFF) (x : Nat)
    (X : ℝ) (hx : (f.input ftz x).holds X) :
    (X ≠ 0 → Fmt.fp32.RoundTo mode false ftz (X * 2 ^ ((ev : Int) - 127)) (unpkElem f mode ftz ev x)) ∧
    (X = 0 → unpkElem f mode ftz ev x = (Fmt.fp32.signBits (f.input ftz x).neg?, 0)) := by
  have px := input_plain _ _ _ _ hx
  obtain ⟨s1, s2, s3⟩ := scale_spec _ px ((ev : Int) - 127) X hx
  obtain ⟨r1, r2⟩ := roundTo_plain .fp32 mode hm false ftz _ _ s1 s2
  have hp : (0 : ℝ) < 2 ^ ((ev : Int) - 127) := by positivity
  unfold unpkElem
  simp only [plain_isNan px, he, decide_false, Bool.or_self, Bool.false_eq_true, if_false]
  exact ⟨fun h => r1 (mul_ne_zero h hp.ne'), fun h => by rw [r2 (by rw [h]; simp), s3]⟩

theorem sclElem_spec (f : Fmt) (mode : Nat) (hm : mode < 4) (ftz : Bool) (c : Word) (he : scaleE c ≠ 0xFF) (x : Nat)
    (X : ℝ) (hx : (f.input ftz x).holds X) :
    (X ≠ 0 → f.RoundTo mode false ftz (X * 2 ^ ((scaleE c : Int) - 127)) (sclElem mode ftz c f x)) ∧
    (X = 0 → sclElem mode ftz c f x = (f.signBits (f.input ftz x).neg?, 0)) := by
  have px := input_plain _ _ _ _ hx
  obtain ⟨s1, s2, s3⟩ := scale_spec _ px ((scaleE c : Int) - 127) X hx
  obtain ⟨r1, r2⟩ := roundTo_plain f mode hm false ftz _ _ s1 s2
  have hp : (0 : ℝ) < 2 ^ ((scaleE c : Int) - 127) := by positivity
  unfold sclElem
  have z0 : ∀ w : Word, w ||| 0 = w := fun w => by simp
  simp only [he, if_false, sigNV, List.any_cons, List.any_nil, plain_isSig px, Bool.or_self, Bool.false_eq_true, z0,
    Prod.mk.eta]
  exact ⟨fun h => r1 (mul_ne_zero h hp.ne'), fun h => by rw [r2 (by rw [h]; simp), s3]⟩

/-- An encoding fits its format. -/
theorem roundTo_width (f : Fmt) (mode : Nat) (hm : mode < 4) (sat ftz : Bool) (v : Val) (hv : v.plain = true ∨ v.isNan = true ∨ v.isInf = true) :
    (roundTo f mode sat ftz v).1 < 2 ^ f.width := by
  have c1 : f.nanBits < 2 ^ f.width := by cases f <;> decide
  have c2 : ∀ n, f.signBits n + f.infBits < 2 ^ f.width := by cases f <;> decide
  have c3 : ∀ n, f.signBits n + f.maxBits < 2 ^ f.width := by cases f <;> decide
  have c4 : ∀ n, f.signBits n < 2 ^ f.width := by cases f <;> decide
  cases v with
  | nan s => exact c1
  | inf n =>
    simp only [roundTo]
    split_ifs
    · exact c2 n
    · exact c3 n
    · exact c1
  | fin neg m e s =>
    have hs : s = false := by simpa [Val.plain, Val.isNan, Val.isInf] using hv
    subst hs
    unfold roundTo roundFin
    simp only
    have key : m ≠ 0 → dyLt f.maxM f.maxE (roundAt mode neg m e (f.quantum m e) false).1 (f.quantum m e) = false →
        f.enc neg (roundAt mode neg m e (f.quantum m e) false).1 (f.quantum m e) < 2 ^ f.width := by
      intro h0 hd
      have hx : if false = true then (m : ℝ) * 2 ^ e < m * 2 ^ e ∧ (m : ℝ) * 2 ^ e < ((m : ℝ) + 1) * 2 ^ e
          else (m : ℝ) * 2 ^ e = (m : ℝ) * 2 ^ e := by simp
      obtain ⟨q1, q2, q3⟩ := quantum_spec f m e false _ (by simp) hx (Or.inl h0)
      obtain ⟨r1, _⟩ := roundAt_spec mode hm neg m e (f.quantum m e) false _ (by simp) hx
      have hu : (0 : ℝ) < 2 ^ f.quantum m e := by positivity
      obtain ⟨b1, b2⟩ := rounds_bounds mode hm neg _ _ _ f.frac hu r1
      generalize f.quantum m e = q at *
      refine (dec_enc f neg _ q (b1 ?_) q1 ?_ hd).2
      · rw [show (2 : ℝ) ^ (f.frac + 1) * 2 ^ q = 2 ^ (q + f.frac + 1) by
          rw [show q + (f.frac : Int) + 1 = ((f.frac + 1 : Nat) : Int) + q by push_cast; ring, zpow_add₀ (by norm_num), zpow_natCast]]
        exact q3
      · rcases q2 with h | h
        · exact Or.inl h
        · refine Or.inr (b2 ?_)
          rw [show (2 : ℝ) ^ f.frac * 2 ^ q = 2 ^ (q + f.frac) by
            rw [show q + (f.frac : Int) = ((f.frac : Nat) : Int) + q by ring, zpow_add₀ (by norm_num), zpow_natCast]]
          exact h
    split_ifs with h1 h2 h3
    · exact c4 neg
    · unfold overflowValue
      simp only
      split_ifs
      · exact c3 neg
      · exact c1
      · exact c2 neg
    · exact c4 neg
    all_goals exact key (by simpa using h1) (by simpa using h2)

theorem packElem_width (f : Fmt) (mode : Nat) (hm : mode < 4) (sat ftz : Bool) (ev x : Nat) :
    (packElem f mode sat ftz ev x).1 < 2 ^ f.width := by
  unfold packElem
  split_ifs
  · cases f <;> decide
  · apply roundTo_width f mode hm
    have : (Fmt.fp32.input ftz x).plain = true ∨ (Fmt.fp32.input ftz x).isNan = true ∨ (Fmt.fp32.input ftz x).isInf = true := by
      unfold Fmt.input
      split_ifs
      · exact Or.inl rfl
      · exact dec_shape _ _
    cases hv : Fmt.fp32.input ftz x <;> rw [hv] at this <;> simp [Val.scale, Val.plain, Val.isNan, Val.isInf] at this ⊢
    exact this

/-- Where PACK puts its elements (R136). -/
theorem packRes_spec (f : BitVec 2) (mode : Nat) (hm : mode < 4) (sat ftz : Bool) (old c : Word) (x : DWord) :
    let w := (packFmt f).width
    let k := packShift f c
    let e0 := packElem (packFmt f) mode sat ftz (scaleE c) (loWord x).toNat
    let e1 := packElem (packFmt f) mode sat ftz (scaleE c) (hiWord x).toNat
    let r := packRes f mode sat ftz old.toNat c x.toNat
    r.2 = e0.2 ||| e1.2 ∧ ((BitVec.ofNat 32 r.1).extractLsb' k w).toNat = e0.1 ∧
      ((BitVec.ofNat 32 r.1).extractLsb' (k + w) w).toNat = e1.1 ∧
      (∀ i, i < k ∨ k + 2 * w ≤ i → (BitVec.ofNat 32 r.1).getLsbD i = old.getLsbD i) := by
  simp only
  have l : x.toNat % 2 ^ 32 = (loWord x).toNat := by simp [loWord]
  have h : x.toNat / 2 ^ 32 = (hiWord x).toNat := by
    simp [hiWord, Nat.shiftRight_eq_div_pow]; omega
  unfold packRes
  simp only [l, h]
  have w0 := packElem_width (packFmt f) mode hm sat ftz (scaleE c) (loWord x).toNat
  have w1 := packElem_width (packFmt f) mode hm sat ftz (scaleE c) (hiWord x).toNat
  generalize packElem (packFmt f) mode sat ftz (scaleE c) (loWord x).toNat = a at *
  generalize packElem (packFmt f) mode sat ftz (scaleE c) (hiWord x).toNat = b at *
  have ho := old.isLt
  have hk : packShift f c + 2 * (packFmt f).width ≤ 32 := by
    unfold packShift packFmt
    simp only
    have hs := (c.extractLsb' 8 3).isLt
    generalize (c.extractLsb' 8 3).toNat = sl at hs
    have hf : f = 0 ∨ f = 1 ∨ f = 2 ∨ f = 3 := (by decide : ∀ f : BitVec 2, f = 0 ∨ f = 1 ∨ f = 2 ∨ f = 3) f
    clear w0 w1 l h
    rcases hf with rfl | rfl | rfl | rfl <;> simp [Fmt.width, Fmt.expo, Fmt.frac] <;> omega
  generalize packShift f c = k at *
  generalize (packFmt f).width = w at *
  have e0 : old.toNat % 2 ^ k + (a.1 + b.1 * 2 ^ w) * 2 ^ k + old.toNat / 2 ^ (k + 2 * w) * 2 ^ (k + 2 * w) =
      2 ^ k * (2 ^ (2 * w) * (old.toNat / 2 ^ (k + 2 * w)) + (2 ^ w * b.1 + a.1)) + old.toNat % 2 ^ k := by
    rw [pow_add]; ring
  have hlow : 2 ^ w * b.1 + a.1 < 2 ^ (2 * w) := by
    rw [two_mul, pow_add]; nlinarith
  have hmod : old.toNat % 2 ^ k < 2 ^ k := Nat.mod_lt _ (by positivity)
  rw [e0]
  have bit : ∀ i, (2 ^ k * (2 ^ (2 * w) * (old.toNat / 2 ^ (k + 2 * w)) + (2 ^ w * b.1 + a.1)) +
      old.toNat % 2 ^ k).testBit i = if i < k then old.toNat.testBit i else if i - k < 2 * w then
        (if i - k < w then a.1.testBit (i - k) else b.1.testBit (i - k - w)) else old.toNat.testBit i := by
    intro i
    rw [Nat.testBit_two_pow_mul_add _ hmod, Nat.testBit_two_pow_mul_add _ hlow, Nat.testBit_two_pow_mul_add _ w0,
      Nat.testBit_mod_two_pow]
    split_ifs with h1 h2 h3
    · simp [h1]
    · rfl
    · rfl
    · rw [Nat.testBit_div_two_pow]; congr 1; omega
  refine ⟨trivial, ?_, ?_, ?_⟩
  · apply Nat.eq_of_testBit_eq
    intro i
    rw [BitVec.testBit_toNat, BitVec.getLsbD_extractLsb', BitVec.getLsbD_ofNat, bit]
    by_cases hi : i < w
    · have h1 : ¬ k + i < k := by omega
      have h2 : k + i - k < 2 * w := by omega
      have h3 : k + i - k < w := by omega
      have h4 : k + i < 32 := by omega
      simp only [hi, h1, h2, h3, h4, decide_true, Bool.true_and, if_true, if_false]
      congr 1; omega
    · simp only [hi, decide_false, Bool.false_and]
      exact (Nat.testBit_lt_two_pow (w0.trans_le (Nat.pow_le_pow_right (by norm_num) (by omega)))).symm
  · apply Nat.eq_of_testBit_eq
    intro i
    rw [BitVec.testBit_toNat, BitVec.getLsbD_extractLsb', BitVec.getLsbD_ofNat, bit]
    by_cases hi : i < w
    · have h1 : ¬ k + w + i < k := by omega
      have h2 : k + w + i - k < 2 * w := by omega
      have h3 : ¬ k + w + i - k < w := by omega
      have h4 : k + w + i < 32 := by omega
      simp only [hi, h1, h2, h3, h4, decide_true, Bool.true_and, if_true, if_false]
      congr 1; omega
    · simp only [hi, decide_false, Bool.false_and]
      exact (Nat.testBit_lt_two_pow (w1.trans_le (Nat.pow_le_pow_right (by norm_num) (by omega)))).symm
  · intro i hi
    rw [BitVec.getLsbD_ofNat, bit, BitVec.testBit_toNat]
    by_cases h32 : i < 32
    · rcases hi with h | h
      · simp [h, h32]
      · have h1 : ¬ i < k := by omega
        have h2 : ¬ i - k < 2 * w := by omega
        simp [h1, h2, h32]
    · rw [BitVec.getLsbD_of_ge _ _ (by omega)]; simp [h32]

/-! ### Gathering -/

theorem mask_from (cs : List Lane) (m : DWord) (k : Nat) (hk : k < 64) :
    (cs.foldl (fun m c => m ||| BitVec.ofNat 64 (2 ^ c.pos)) m).getLsbD k = true ↔
      m.getLsbD k = true ∨ ∃ c ∈ cs, c.pos = k := by
  induction cs generalizing m with
  | nil => simp
  | cons c cs ih =>
    rw [List.foldl_cons, ih]
    simp only [BitVec.getLsbD_or, Bool.or_eq_true, BitVec.getLsbD_ofNat, Bool.and_eq_true, decide_eq_true_eq,
      Nat.testBit_two_pow, List.mem_cons, exists_eq_or_imp]
    tauto

/-- A mask of positions has a bit for each (R170, R198, R203). -/
theorem laneMask_bit (cs : List Lane) (p : Lane → Bool) (k : Nat) (hk : k < 64) :
    (laneMask cs p).getLsbD k = true ↔ ∃ c ∈ cs, c.pos = k ∧ p c = true := by
  unfold laneMask
  have z : ((0 : DWord)).getLsbD k = false := by simp
  rw [mask_from _ _ _ hk, z]
  simp only [Bool.false_eq_true, false_or, List.mem_filter]
  constructor
  · rintro ⟨c, ⟨h1, h2⟩, h3⟩; exact ⟨c, h1, h3, h2⟩
  · rintro ⟨c, h1, h3, h2⟩; exact ⟨c, ⟨h1, h2⟩, h3⟩

theorem laneAt_some (cs : List Lane) (hn : (cs.map (·.pos)).Nodup) (c : Lane) (hc : c ∈ cs) : laneAt cs c.pos = some c := by
  induction cs with
  | nil => simp at hc
  | cons x cs ih =>
    rw [List.map_cons, List.nodup_cons] at hn
    unfold laneAt at ih ⊢
    rw [List.find?_cons]
    rcases List.mem_cons.mp hc with h | h
    · subst h; simp
    · have : x.pos ≠ c.pos := fun e => hn.1 (e ▸ List.mem_map_of_mem h)
      have h2 : (x.pos == c.pos) = false := by simpa using this
      rw [h2]
      exact ih hn.2 h

theorem laneAt_none (cs : List Lane) (q : Nat) (h : ∀ c ∈ cs, c.pos ≠ q) : laneAt cs q = none := by
  unfold laneAt
  rw [List.find?_eq_none]
  intro c hc; simpa using h c hc

/-- SHFL's value (R197). -/
theorem shflRes_spec (f w : Nat) (cs : List Lane) (own : Lane) (hn : (cs.map (·.pos)).Nodup) :
    (∀ c ∈ cs, (c.pos : Int) = shflFrom f w own.pos own.b.toNat → shflRes f w cs own = loWord c.a) ∧
    ((∀ c ∈ cs, (c.pos : Int) ≠ shflFrom f w own.pos own.b.toNat) → shflRes f w cs own = loWord own.a) := by
  unfold shflRes
  simp only
  generalize shflFrom f w own.pos own.b.toNat = q
  constructor
  · intro c hc h
    have h1 : ¬ q < 0 := by omega
    have h2 : q.toNat = c.pos := by omega
    rw [if_neg h1, h2, laneAt_some cs hn c hc]
  · intro h
    split_ifs with h1
    · rfl
    · rw [laneAt_none]
      intro c hc e
      exact h c hc (by omega)

theorem optOp_assoc (o : Word → Word → Word) (ha : ∀ x y z, o (o x y) z = o x (o y z)) (x y z : Option Word) :
    optOp o (optOp o x y) z = optOp o x (optOp o y z) := by
  cases x <;> cases y <;> cases z <;> simp [optOp, ha]

theorem optOp_comm (o : Word → Word → Word) (hc : ∀ x y, o x y = o y x) (x y : Option Word) :
    optOp o x y = optOp o y x := by
  cases x <;> cases y <;> simp [optOp, hc]

theorem pairUp_total (o : Word → Word → Word) (ha : ∀ x y z, o (o x y) z = o x (o y z)) :
    ∀ (l : List (Option Word)), (pairUp o l).foldr (optOp o) none = l.foldr (optOp o) none
  | [] => rfl
  | [_] => rfl
  | x :: y :: r => by
    simp only [pairUp, List.foldr_cons]
    rw [pairUp_total o ha r, optOp_assoc o ha]

theorem pairUp_length (o : Word → Word → Word) :
    ∀ (n : Nat) (l : List (Option Word)), l.length = 2 * n → (pairUp o l).length = n
  | 0, [], _ => rfl
  | n + 1, x :: y :: r, h => by
    simp only [pairUp, List.length_cons]
    rw [pairUp_length o n r (by simp at h; omega)]
  | 0, _ :: _, h => by simp at h
  | n + 1, [], h => by simp at h
  | n + 1, [_], h => by simp at h; omega

theorem redSteps_total (o : Word → Word → Word) (ha : ∀ x y z, o (o x y) z = o x (o y z)) (n : Nat)
    (l : List (Option Word)) (h : l.length = 2 ^ n) : (redSteps o n l).headD none = l.foldr (optOp o) none := by
  induction n generalizing l with
  | zero =>
    obtain ⟨x, rfl⟩ := List.length_eq_one_iff.mp h
    cases x <;> rfl
  | succ n ih =>
    rw [redSteps, ih _ (pairUp_length o (2 ^ n) l (by rw [h, pow_succ]; ring)), pairUp_total o ha]

theorem foldr_some (o : Word → Word → Word) (ha : ∀ x y z, o (o x y) z = o x (o y z))
    (x : Word) (l : List Word) : (some x :: l.map some).foldr (optOp o) none = some (l.foldl o x) := by
  induction l generalizing x with
  | nil => rfl
  | cons y l ih =>
    have := ih (o x y)
    simp only [List.foldr_cons, List.map_cons, List.foldl_cons] at this ⊢
    rw [← this, ← optOp_assoc o ha]
    rfl

theorem foldr_filterMap (o : Word → Word → Word) (l : List (Option Word)) :
    l.foldr (optOp o) none = ((l.filterMap id).map some).foldr (optOp o) none := by
  induction l with
  | nil => rfl
  | cons x l ih =>
    cases x with
    | none => simp only [List.foldr_cons, ih, List.filterMap_cons, id]; cases h : List.foldr (optOp o) none (List.map some (List.filterMap id l)) <;> rfl
    | some x => simp only [List.foldr_cons, ih, List.filterMap_cons, id, List.map_cons]

/-- RED under an operation whose order does not matter (R200). -/
theorem redRes_spec (op f n : Nat) (cs : List Lane) (c : Lane) (hn : ((c :: cs).map (·.pos)).Nodup)
    (hw : ∀ x ∈ c :: cs, x.pos < 2 ^ n) (ha : ∀ x y z, redOp op f (redOp op f x y) z = redOp op f x (redOp op f y z))
    (hc : ∀ x y, redOp op f x y = redOp op f y x) :
    redRes op f (2 ^ n) (c :: cs) = some ((cs.map fun x => loWord x.a).foldl (redOp op f) (loWord c.a)) := by
  unfold redRes
  rw [Nat.log2_two_pow, redSteps_total _ ha n _ (by simp [laneVals]), foldr_filterMap]
  have perm : ((laneVals (2 ^ n) (c :: cs)).filterMap id).Perm ((c :: cs).map fun x => loWord x.a) := by
    have e : (laneVals (2 ^ n) (c :: cs)).filterMap id =
        ((List.range (2 ^ n)).filterMap fun q => laneAt (c :: cs) q).map fun x => loWord x.a := by
      unfold laneVals
      rw [List.filterMap_map, List.map_filterMap]
      rfl
    rw [e]
    apply List.Perm.map
    rw [List.perm_ext_iff_of_nodup]
    · intro x
      rw [List.mem_filterMap]
      constructor
      · rintro ⟨q, _, hq⟩
        exact List.mem_of_find?_eq_some hq
      · intro hx
        exact ⟨x.pos, List.mem_range.mpr (hw x hx), laneAt_some _ hn x hx⟩
    · apply List.Nodup.filterMap _ List.nodup_range
      intro a a' b h1 h2
      have e1 := List.find?_some h1
      have e2 := List.find?_some h2
      simp at e1 e2; omega
    · exact List.Nodup.of_map _ hn
  have lc : LeftCommutative (optOp (redOp op f)) := ⟨fun x y z => by
    rw [← optOp_assoc _ ha, optOp_comm _ hc x y, optOp_assoc _ ha]⟩
  rw [(perm.map some).foldr_eq]
  have := foldr_some (redOp op f) ha (loWord c.a) (cs.map fun x => loWord x.a)
  simpa using this

/-! ### Tiles -/

theorem elemOf_map {α β : Type} [Inhabited α] [Inhabited β] (x : List (List α)) (g : α → β) (i j : Nat)
    (hi : i < x.length) (hj : j < (x.getD i []).length) :
    elemOf (x.map fun r => r.map g) i j = g (elemOf x i j) := by
  have h1 : x.getD i [] = x[i] := by simp [List.getD, hi]
  rw [h1] at hj
  unfold elemOf
  simp [List.getD, hi, hj]

theorem elemOf_matOf {α : Type} [Inhabited α] (m n : Nat) (f : Nat → Nat → α) (i j : Nat) (hi : i < m) (hj : j < n) :
    elemOf (matOf m n f) i j = f i j := by
  unfold elemOf matOf
  simp [List.getD, hi, hj]

theorem elemOf_matT {α : Type} [Inhabited α] (n : Nat) (x : List (List α)) (i j : Nat) (hi : i < x.length) (hj : j < n) :
    elemOf (matT n x) j i = elemOf x i j := by
  unfold elemOf matT
  simp [List.getD, hi, hj]

theorem elemOf_arrayMat (ps : Fmt) (x yt : VMat) (c : Nat → Nat → Val) (neg : Bool) (i j : Nat) (hi : i < x.length)
    (hj : j < yt.length) :
    elemOf (arrayMat ps x yt c neg) i j = arrayAdd ps (c i j) neg (arrayDot ps (x.getD i []) (yt.getD j [])) := by
  unfold elemOf arrayMat
  simp [List.getD, hi, hj]

theorem elemOf_intMat (x yt : VMat) (c : Nat → Nat → Val) (neg : Bool) (i j : Nat) (hi : i < x.length)
    (hj : j < yt.length) :
    elemOf (intMat x yt c neg) i j =
      (let q := (((x.getD i []).zip (yt.getD j [])).map fun p => valInt p.1 * valInt p.2).sum
       ((valInt (c i j) + (if neg then -q else q)) % 2 ^ 32).toNat) := by
  unfold elemOf intMat
  simp [List.getD, hi, hj]

/-- A partial sum grows in ascending k (R140). -/
theorem arrayDot_snoc (ps : Fmt) (xs ys : List Val) (h : xs.length = ys.length) (x y : Val) :
    arrayDot ps (xs ++ [x]) (ys ++ [y]) = arrayAcc ps (arrayDot ps xs ys) (arrayMul x y) := by
  unfold arrayDot
  rw [List.zip_append h, List.foldl_append]
  rfl

/-- One step of a partial sum (R140). -/
theorem arrayAcc_spec (ps : Fmt) (acc : Nat) (p : Val) (hp : p.plain = true) (X P : ℝ) (hx : (ps.dec acc).holds X)
    (h : p.holds P) :
    (X + P ≠ 0 → ∃ r, ps.RoundTo 0 false false (X + P) r ∧ arrayAcc ps acc (some p) = arrayFlush ps r.1) ∧
    (X + P = 0 → arrayAcc ps acc (some p) =
      ps.signBits (if X = 0 ∧ (ps.dec acc).neg? = p.neg? then p.neg? else false)) := by
  have inp : ps.input false acc = ps.dec acc := by simp [Fmt.input]
  have px : (ps.dec acc).plain = true := by
    rw [← inp] at hx ⊢; exact input_plain _ _ _ _ hx
  obtain ⟨v, h1, h2, h3, h4⟩ := add_spec false _ p px hp X P hx h
  obtain ⟨r1, r2⟩ := roundTo_plain ps 0 (by norm_num) false false v _ h2 h3
  unfold arrayAcc
  simp only [plain_isNan px, plain_isNan hp, Bool.or_self, Bool.false_eq_true, if_false, h1]
  refine ⟨fun hne => ⟨_, r1 hne, rfl⟩, fun hz => ?_⟩
  rw [r2 hz, h4 hz]
  have : ∀ b, arrayFlush ps (ps.signBits b) = ps.signBits b := by cases ps <;> decide
  rw [this]
  have zn : ∀ b, (Val.zero b).neg? = b := fun _ => rfl
  rw [zn]
  split_ifs with hc
  · rw [hc.2]
  · rfl

/-- A product of finite elements is exact in the array (R140). -/
theorem arrayMul_spec (x y : Val) (hx : x.plain = true) (hy : y.plain = true) (a b : ℝ) (ha : x.holds a)
    (hb : y.holds b) : ∃ v, arrayMul x y = some v ∧ v.plain = true ∧ v.holds (a * b) := by
  obtain ⟨v, h1, h2, h3, _⟩ := mul_spec x y hx hy a b ha hb
  exact ⟨v, by simp [arrayMul, plain_isNan hx, plain_isNan hy, h1], h2, h3⟩

end Sys2Proof.Machine
end

