-- ==== Sys2Proof/Laws/PerInstr.lean ====
section
/-! SUPPORT. The encoding of every instruction word, one lemma for each constructor: what the encoder writes, the
decoder reads back, under the version that has the instruction (R43, R61 to R64). -/

namespace Sys2Proof.Laws.Encoding

/-- The decoder reads a well-formed instruction's word as that instruction. -/
def Statement (i : Instr) : Prop := i.wellFormed = true → ∀ w, encode i = some w → decode i.version w = .ok i

/-! ### The parts of a word -/

theorem pack_bit (e : Bool) (op : BitVec 8) (pl : BitVec 23) (k : Nat) : (pack e op pl).getLsbD k =
    if k < 23 then pl.getLsbD k else if k < 31 then op.getLsbD (k - 23) else (BitVec.ofBool e).getLsbD (k - 31) := by
  unfold pack
  erw [BitVec.getLsbD_append]
  split
  · rfl
  · erw [BitVec.getLsbD_append]
    split
    · rw [if_pos (by omega)]
    · rw [if_neg (by omega)]
      congr 1

theorem sBit_pack (e : Bool) (op : BitVec 8) (pl : BitVec 23) : sBit (pack e op pl) = e := by
  rw [sBit, pack_bit]
  simp

theorem opcode_pack (e : Bool) (op : BitVec 8) (pl : BitVec 23) : opcodeOf (pack e op pl) = op.toNat := by
  have h : (pack e op pl).extractLsb' 23 8 = op := by
    ext i hi
    simp only [BitVec.getElem_extractLsb', pack_bit]
    rw [if_neg (by omega), if_pos (by omega), ← BitVec.getLsbD_eq_getElem]
    congr 1
    omega
  simp [opcodeOf, h]

theorem ext_pack (e : Bool) (op : BitVec 8) (pl : BitVec 23) (a n : Nat) (h : a + n ≤ 23) :
    (pack e op pl).extractLsb' a n = pl.extractLsb' a n := by
  ext i hi
  simp only [BitVec.getElem_extractLsb', pack_bit]
  rw [if_pos (by omega)]

theorem and_pack (e : Bool) (op : BitVec 8) (pl : BitVec 23) (m : Word) (h : m.extractLsb' 23 9 = 0)
    (h2 : pl &&& m.extractLsb' 0 23 = 0) : pack e op pl &&& m = 0 := by
  ext i hi
  by_cases h3 : i < 23
  · have := congrArg (fun x => x.getLsbD i) h2
    simp only [BitVec.getLsbD_and, BitVec.getLsbD_extractLsb', h3, decide_true, Bool.true_and, Nat.zero_add] at this
    rw [BitVec.getElem_and, ← BitVec.getLsbD_eq_getElem, ← BitVec.getLsbD_eq_getElem, pack_bit, if_pos h3]
    simpa using this
  · have := congrArg (fun x => x.getLsbD (i - 23)) h
    have e1 : i - 23 < 9 := by omega
    have e2 : 23 + (i - 23) = i := by omega
    simp [e1, e2] at this
    rw [BitVec.getElem_and, ← BitVec.getLsbD_eq_getElem, ← BitVec.getLsbD_eq_getElem, this]
    simp

theorem app_nat {n m : Nat} (x : BitVec n) (y : BitVec m) : (x ++ y).toNat = x.toNat * 2 ^ m + y.toNat := by
  rw [BitVec.toNat_append, Nat.shiftLeft_eq, Nat.mul_comm, Nat.two_pow_add_eq_or_of_lt y.isLt]

/-- The bits of a field. -/
def field (a n : Nat) : BitVec 23 := BitVec.ofNat 23 ((2 ^ n - 1) * 2 ^ a)

theorem field_bit (a n k : Nat) (h : k < 23) : (field a n).getLsbD k = (decide (a ≤ k) && decide (k < a + n)) := by
  unfold field
  rw [BitVec.getLsbD_ofNat, Nat.testBit_mul_two_pow, Nat.testBit_two_pow_sub_one]
  by_cases h1 : a ≤ k
  · have : (k - a < n) ↔ (k < a + n) := by omega
    simp [h, h1, this]
  · simp [h1]

theorem and_field (pl : BitVec 23) (a n : Nat) (h : pl.extractLsb' a n = 0) : pl &&& field a n = 0 := by
  ext i hi
  rw [BitVec.getElem_and, ← BitVec.getLsbD_eq_getElem, ← BitVec.getLsbD_eq_getElem, field_bit _ _ _ hi]
  by_cases h1 : a ≤ i ∧ i < a + n
  · have := congrArg (fun x => x.getLsbD (i - a)) h
    have e1 : i - a < n := by omega
    have e2 : a + (i - a) = i := by omega
    simp only [BitVec.getLsbD_extractLsb', e1, e2, decide_true, Bool.true_and] at this
    rw [this]
    simp
  · have : (decide (a ≤ i) && decide (i < a + n)) = false := by
      simp only [Bool.and_eq_false_iff, decide_eq_false_iff_not]
      omega
    simp [this]

theorem and_zero (pl : BitVec 23) : pl &&& BitVec.extractLsb' 0 23 (0x0 : Word) = 0 := by simp

theorem and_mask (pl : BitVec 23) (a n : Nat) {m : BitVec 23} (h : pl.extractLsb' a n = 0) (e : m = field a n) :
    pl &&& m = 0 := e ▸ and_field pl a n h

theorem and_masks (pl : BitVec 23) (a n b k : Nat) {m : BitVec 23} (h : pl.extractLsb' a n = 0)
    (h2 : pl.extractLsb' b k = 0) (e : m = field a n ||| field b k) : pl &&& m = 0 := by
  rw [e, BitVec.and_or_distrib_left, and_field pl a n h, and_field pl b k h2]
  simp

theorem decode_of {v : Nat} {w : Word} {i : Instr} (hw : i.wellFormed = true) (ha : assigned v (opcodeOf w) = true)
    (hp : parse v w = .ok i) : decode v w = .ok i := by
  simp only [Instr.wellFormed, Bool.and_eq_true] at hw
  simp [decode, ha, hp, hw.1.1, hw.1.2, hw.2]

theorem chk_ok {m : Word} {nf : Bool} {e : Bool} {op : BitVec 8} {pl : BitVec 23} {i : Instr}
    (h : m.extractLsb' 23 9 = 0) (h2 : pl &&& m.extractLsb' 0 23 = 0) (h3 : nf = true → pl.extractLsb' 0 2 = 0) :
    chk m nf (pack e op pl) i = .ok i := by
  rw [chk, and_pack _ _ _ _ h h2, ext_pack _ _ _ _ _ (by decide)]
  cases nf <;> simp_all

set_option maxRecDepth 20000

/-! ### The fields of a payload -/

theorem layout_1 (a : BitVec 23) : ∀ pl : BitVec 23, pl = a → pl.extractLsb' 0 23 = a := by
  intro pl h
  rw [h]
  simp

theorem layout_2 (a : BitVec 6) (b : BitVec 1) (c : BitVec 2) : ∀ pl : BitVec 23, pl = a ++ b ++ c ++ 0#14 →
    pl.extractLsb' 17 6 = a ∧ pl.extractLsb' 16 1 = b ∧ pl.extractLsb' 14 2 = c ∧ pl.extractLsb' 0 14 = 0#14 := by
  intro pl h
  have h : pl.toNat = (((a.toNat) * 2 ^ 1 + b.toNat) * 2 ^ 2 + c.toNat) * 2 ^ 14 + 0 := by
    rw [h]; erw [app_nat, app_nat, app_nat]; rfl
  refine ⟨?_, ?_, ?_, ?_⟩ <;>
    apply BitVec.eq_of_toNat_eq <;>
    simp only [BitVec.extractLsb'_toNat, Nat.shiftRight_eq_div_pow, h, BitVec.toNat_ofNat] <;> omega

theorem layout_3 (a : BitVec 1) (b : BitVec 13) (c : BitVec 1) (d : BitVec 1) : ∀ pl : BitVec 23, pl = 0#7 ++ a ++ b ++ c ++ d →
    pl.extractLsb' 15 1 = a ∧ pl.extractLsb' 2 13 = b ∧ pl.extractLsb' 1 1 = c ∧ pl.extractLsb' 0 1 = d ∧ pl.extractLsb' 16 7 = 0#7 := by
  intro pl h
  have h : pl.toNat = ((((0) * 2 ^ 1 + a.toNat) * 2 ^ 13 + b.toNat) * 2 ^ 1 + c.toNat) * 2 ^ 1 + d.toNat := by
    rw [h]; erw [app_nat, app_nat, app_nat, app_nat]; rfl
  refine ⟨?_, ?_, ?_, ?_, ?_⟩ <;>
    apply BitVec.eq_of_toNat_eq <;>
    simp only [BitVec.extractLsb'_toNat, Nat.shiftRight_eq_div_pow, h, BitVec.toNat_ofNat] <;> omega

theorem layout_4 : ∀ pl : BitVec 23, pl = 0#23 →
    pl.extractLsb' 0 23 = 0#23 := by
  intro pl h
  subst h
  decide

theorem layout_5 (a : BitVec 4) (b : BitVec 4) (c : BitVec 4) (d : BitVec 4) (e : BitVec 4) : ∀ pl : BitVec 23, pl = 0#3 ++ a ++ b ++ c ++ d ++ e →
    pl.extractLsb' 16 4 = a ∧ pl.extractLsb' 12 4 = b ∧ pl.extractLsb' 8 4 = c ∧ pl.extractLsb' 4 4 = d ∧ pl.extractLsb' 0 4 = e ∧ pl.extractLsb' 20 3 = 0#3 := by
  intro pl h
  have h : pl.toNat = (((((0) * 2 ^ 4 + a.toNat) * 2 ^ 4 + b.toNat) * 2 ^ 4 + c.toNat) * 2 ^ 4 + d.toNat) * 2 ^ 4 + e.toNat := by
    rw [h]; erw [app_nat, app_nat, app_nat, app_nat, app_nat]; rfl
  refine ⟨?_, ?_, ?_, ?_, ?_, ?_⟩ <;>
    apply BitVec.eq_of_toNat_eq <;>
    simp only [BitVec.extractLsb'_toNat, Nat.shiftRight_eq_div_pow, h, BitVec.toNat_ofNat] <;> omega

theorem layout_6 : ∀ pl : BitVec 23, pl = 1048576#23 →
    pl.extractLsb' 0 20 = 0#20 ∧ pl.extractLsb' 20 3 = 1#3 := by
  intro pl h
  subst h
  decide

theorem layout_7 : ∀ pl : BitVec 23, pl = 2097152#23 →
    pl.extractLsb' 0 20 = 0#20 ∧ pl.extractLsb' 20 3 = 2#3 := by
  intro pl h
  subst h
  decide

theorem layout_8 (a : BitVec 7) (b : BitVec 16) : ∀ pl : BitVec 23, pl = a ++ b →
    pl.extractLsb' 16 7 = a ∧ pl.extractLsb' 0 16 = b := by
  intro pl h
  have h : pl.toNat = (a.toNat) * 2 ^ 16 + b.toNat := by
    rw [h]; erw [app_nat]
  refine ⟨?_, ?_⟩ <;>
    apply BitVec.eq_of_toNat_eq <;>
    simp only [BitVec.extractLsb'_toNat, Nat.shiftRight_eq_div_pow, h] <;> omega

theorem layout_9 (a : BitVec 7) (b : BitVec 7) (c : BitVec 7) : ∀ pl : BitVec 23, pl = a ++ b ++ c ++ 0#2 →
    pl.extractLsb' 16 7 = a ∧ pl.extractLsb' 9 7 = b ∧ pl.extractLsb' 2 7 = c ∧ pl.extractLsb' 0 2 = 0#2 := by
  intro pl h
  have h : pl.toNat = (((a.toNat) * 2 ^ 7 + b.toNat) * 2 ^ 7 + c.toNat) * 2 ^ 2 + 0 := by
    rw [h]; erw [app_nat, app_nat, app_nat]; rfl
  refine ⟨?_, ?_, ?_, ?_⟩ <;>
    apply BitVec.eq_of_toNat_eq <;>
    simp only [BitVec.extractLsb'_toNat, Nat.shiftRight_eq_div_pow, h, BitVec.toNat_ofNat] <;> omega

theorem layout_10 (a : BitVec 7) (b : BitVec 7) (c : BitVec 7) (d : BitVec 2) : ∀ pl : BitVec 23, pl = a ++ b ++ c ++ d →
    pl.extractLsb' 16 7 = a ∧ pl.extractLsb' 9 7 = b ∧ pl.extractLsb' 2 7 = c ∧ pl.extractLsb' 0 2 = d := by
  intro pl h
  have h : pl.toNat = (((a.toNat) * 2 ^ 7 + b.toNat) * 2 ^ 7 + c.toNat) * 2 ^ 2 + d.toNat := by
    rw [h]; erw [app_nat, app_nat, app_nat]
  refine ⟨?_, ?_, ?_, ?_⟩ <;>
    apply BitVec.eq_of_toNat_eq <;>
    simp only [BitVec.extractLsb'_toNat, Nat.shiftRight_eq_div_pow, h] <;> omega

theorem layout_11 (a : BitVec 7) (b : BitVec 7) : ∀ pl : BitVec 23, pl = a ++ b ++ 0#9 →
    pl.extractLsb' 16 7 = a ∧ pl.extractLsb' 9 7 = b ∧ pl.extractLsb' 0 2 = 0#2 ∧ pl.extractLsb' 2 7 = 0#7 := by
  intro pl h
  have h : pl.toNat = ((a.toNat) * 2 ^ 7 + b.toNat) * 2 ^ 9 + 0 := by
    rw [h]; erw [app_nat, app_nat]; rfl
  refine ⟨?_, ?_, ?_, ?_⟩ <;>
    apply BitVec.eq_of_toNat_eq <;>
    simp only [BitVec.extractLsb'_toNat, Nat.shiftRight_eq_div_pow, h, BitVec.toNat_ofNat] <;> omega

theorem layout_12 (a : BitVec 7) (b : BitVec 6) (c : BitVec 7) : ∀ pl : BitVec 23, pl = a ++ b ++ c ++ 0#3 →
    pl.extractLsb' 16 7 = a ∧ pl.extractLsb' 10 6 = b ∧ pl.extractLsb' 3 7 = c ∧ pl.extractLsb' 0 3 = 0#3 := by
  intro pl h
  have h : pl.toNat = (((a.toNat) * 2 ^ 6 + b.toNat) * 2 ^ 7 + c.toNat) * 2 ^ 3 + 0 := by
    rw [h]; erw [app_nat, app_nat, app_nat]; rfl
  refine ⟨?_, ?_, ?_, ?_⟩ <;>
    apply BitVec.eq_of_toNat_eq <;>
    simp only [BitVec.extractLsb'_toNat, Nat.shiftRight_eq_div_pow, h, BitVec.toNat_ofNat] <;> omega

theorem layout_13 (a : BitVec 7) (b : BitVec 7) (c : BitVec 9) : ∀ pl : BitVec 23, pl = a ++ b ++ c →
    pl.extractLsb' 16 7 = a ∧ pl.extractLsb' 9 7 = b ∧ pl.extractLsb' 0 9 = c := by
  intro pl h
  have h : pl.toNat = ((a.toNat) * 2 ^ 7 + b.toNat) * 2 ^ 9 + c.toNat := by
    rw [h]; erw [app_nat, app_nat]
  refine ⟨?_, ?_, ?_⟩ <;>
    apply BitVec.eq_of_toNat_eq <;>
    simp only [BitVec.extractLsb'_toNat, Nat.shiftRight_eq_div_pow, h] <;> omega

theorem layout_14 (a : BitVec 7) (b : BitVec 7) (c : BitVec 2) (d : BitVec 5) : ∀ pl : BitVec 23, pl = a ++ b ++ 0#2 ++ c ++ d →
    pl.extractLsb' 16 7 = a ∧ pl.extractLsb' 9 7 = b ∧ pl.extractLsb' 5 2 = c ∧ pl.extractLsb' 0 5 = d ∧ pl.extractLsb' 7 2 = 0#2 := by
  intro pl h
  have h : pl.toNat = ((((a.toNat) * 2 ^ 7 + b.toNat) * 2 ^ 2 + 0) * 2 ^ 2 + c.toNat) * 2 ^ 5 + d.toNat := by
    rw [h]; erw [app_nat, app_nat, app_nat, app_nat]; rfl
  refine ⟨?_, ?_, ?_, ?_, ?_⟩ <;>
    apply BitVec.eq_of_toNat_eq <;>
    simp only [BitVec.extractLsb'_toNat, Nat.shiftRight_eq_div_pow, h, BitVec.toNat_ofNat] <;> omega

theorem layout_15 (a : BitVec 6) (b : BitVec 7) (c : BitVec 3) (d : BitVec 7) : ∀ pl : BitVec 23, pl = a ++ b ++ c ++ d →
    pl.extractLsb' 17 6 = a ∧ pl.extractLsb' 10 7 = b ∧ pl.extractLsb' 7 3 = c ∧ pl.extractLsb' 0 7 = d := by
  intro pl h
  have h : pl.toNat = (((a.toNat) * 2 ^ 7 + b.toNat) * 2 ^ 3 + c.toNat) * 2 ^ 7 + d.toNat := by
    rw [h]; erw [app_nat, app_nat, app_nat]
  refine ⟨?_, ?_, ?_, ?_⟩ <;>
    apply BitVec.eq_of_toNat_eq <;>
    simp only [BitVec.extractLsb'_toNat, Nat.shiftRight_eq_div_pow, h] <;> omega

theorem layout_16 (a : BitVec 6) (b : BitVec 7) (c : BitVec 7) (d : BitVec 3) : ∀ pl : BitVec 23, pl = a ++ b ++ c ++ d →
    pl.extractLsb' 17 6 = a ∧ pl.extractLsb' 10 7 = b ∧ pl.extractLsb' 3 7 = c ∧ pl.extractLsb' 0 3 = d := by
  intro pl h
  have h : pl.toNat = (((a.toNat) * 2 ^ 7 + b.toNat) * 2 ^ 7 + c.toNat) * 2 ^ 3 + d.toNat := by
    rw [h]; erw [app_nat, app_nat, app_nat]
  refine ⟨?_, ?_, ?_, ?_⟩ <;>
    apply BitVec.eq_of_toNat_eq <;>
    simp only [BitVec.extractLsb'_toNat, Nat.shiftRight_eq_div_pow, h] <;> omega

theorem layout_17 (a : BitVec 7) (b : BitVec 2) : ∀ pl : BitVec 23, pl = a ++ 0#14 ++ b →
    pl.extractLsb' 16 7 = a ∧ pl.extractLsb' 0 2 = b ∧ pl.extractLsb' 2 14 = 0#14 := by
  intro pl h
  have h : pl.toNat = ((a.toNat) * 2 ^ 14 + 0) * 2 ^ 2 + b.toNat := by
    rw [h]; erw [app_nat, app_nat]; rfl
  refine ⟨?_, ?_, ?_⟩ <;>
    apply BitVec.eq_of_toNat_eq <;>
    simp only [BitVec.extractLsb'_toNat, Nat.shiftRight_eq_div_pow, h, BitVec.toNat_ofNat] <;> omega

theorem layout_18 (a : BitVec 7) (b : BitVec 7) (c : BitVec 2) : ∀ pl : BitVec 23, pl = 0#7 ++ a ++ b ++ c →
    pl.extractLsb' 9 7 = a ∧ pl.extractLsb' 2 7 = b ∧ pl.extractLsb' 0 2 = c ∧ pl.extractLsb' 16 7 = 0#7 := by
  intro pl h
  have h : pl.toNat = (((0) * 2 ^ 7 + a.toNat) * 2 ^ 7 + b.toNat) * 2 ^ 2 + c.toNat := by
    rw [h]; erw [app_nat, app_nat, app_nat]; rfl
  refine ⟨?_, ?_, ?_, ?_⟩ <;>
    apply BitVec.eq_of_toNat_eq <;>
    simp only [BitVec.extractLsb'_toNat, Nat.shiftRight_eq_div_pow, h, BitVec.toNat_ofNat] <;> omega

theorem layout_19 (a : BitVec 6) (b : BitVec 7) (c : BitVec 7) (d : BitVec 1) (e : BitVec 2) : ∀ pl : BitVec 23, pl = a ++ b ++ c ++ d ++ e →
    pl.extractLsb' 17 6 = a ∧ pl.extractLsb' 10 7 = b ∧ pl.extractLsb' 3 7 = c ∧ pl.extractLsb' 2 1 = d ∧ pl.extractLsb' 0 2 = e := by
  intro pl h
  have h : pl.toNat = ((((a.toNat) * 2 ^ 7 + b.toNat) * 2 ^ 7 + c.toNat) * 2 ^ 1 + d.toNat) * 2 ^ 2 + e.toNat := by
    rw [h]; erw [app_nat, app_nat, app_nat, app_nat]
  refine ⟨?_, ?_, ?_, ?_, ?_⟩ <;>
    apply BitVec.eq_of_toNat_eq <;>
    simp only [BitVec.extractLsb'_toNat, Nat.shiftRight_eq_div_pow, h] <;> omega

theorem layout_20 (a : BitVec 7) (b : BitVec 7) (c : BitVec 3) (d : BitVec 3) : ∀ pl : BitVec 23, pl = a ++ b ++ c ++ d ++ 0#3 →
    pl.extractLsb' 16 7 = a ∧ pl.extractLsb' 9 7 = b ∧ pl.extractLsb' 6 3 = c ∧ pl.extractLsb' 3 3 = d ∧ pl.extractLsb' 0 2 = 0#2 ∧ pl.extractLsb' 2 1 = 0#1 := by
  intro pl h
  have h : pl.toNat = ((((a.toNat) * 2 ^ 7 + b.toNat) * 2 ^ 3 + c.toNat) * 2 ^ 3 + d.toNat) * 2 ^ 3 + 0 := by
    rw [h]; erw [app_nat, app_nat, app_nat, app_nat]; rfl
  refine ⟨?_, ?_, ?_, ?_, ?_, ?_⟩ <;>
    apply BitVec.eq_of_toNat_eq <;>
    simp only [BitVec.extractLsb'_toNat, Nat.shiftRight_eq_div_pow, h, BitVec.toNat_ofNat] <;> omega

theorem layout_21 (a : BitVec 7) (b : BitVec 7) (c : BitVec 3) (d : BitVec 2) (e : BitVec 2) : ∀ pl : BitVec 23, pl = a ++ b ++ c ++ d ++ 0#2 ++ e →
    pl.extractLsb' 16 7 = a ∧ pl.extractLsb' 9 7 = b ∧ pl.extractLsb' 6 3 = c ∧ pl.extractLsb' 4 2 = d ∧ pl.extractLsb' 0 2 = e ∧ pl.extractLsb' 2 2 = 0#2 := by
  intro pl h
  have h : pl.toNat = (((((a.toNat) * 2 ^ 7 + b.toNat) * 2 ^ 3 + c.toNat) * 2 ^ 2 + d.toNat) * 2 ^ 2 + 0) * 2 ^ 2 + e.toNat := by
    rw [h]; erw [app_nat, app_nat, app_nat, app_nat, app_nat]; rfl
  refine ⟨?_, ?_, ?_, ?_, ?_, ?_⟩ <;>
    apply BitVec.eq_of_toNat_eq <;>
    simp only [BitVec.extractLsb'_toNat, Nat.shiftRight_eq_div_pow, h, BitVec.toNat_ofNat] <;> omega

theorem layout_22 (a : BitVec 7) (b : BitVec 7) (c : BitVec 2) : ∀ pl : BitVec 23, pl = a ++ b ++ 0#7 ++ c →
    pl.extractLsb' 16 7 = a ∧ pl.extractLsb' 9 7 = b ∧ pl.extractLsb' 0 2 = c ∧ pl.extractLsb' 2 7 = 0#7 := by
  intro pl h
  have h : pl.toNat = (((a.toNat) * 2 ^ 7 + b.toNat) * 2 ^ 7 + 0) * 2 ^ 2 + c.toNat := by
    rw [h]; erw [app_nat, app_nat, app_nat]; rfl
  refine ⟨?_, ?_, ?_, ?_⟩ <;>
    apply BitVec.eq_of_toNat_eq <;>
    simp only [BitVec.extractLsb'_toNat, Nat.shiftRight_eq_div_pow, h, BitVec.toNat_ofNat] <;> omega

theorem layout_23 (a : BitVec 6) (b : BitVec 1) (c : BitVec 16) : ∀ pl : BitVec 23, pl = a ++ b ++ c →
    pl.extractLsb' 17 6 = a ∧ pl.extractLsb' 16 1 = b ∧ pl.extractLsb' 0 16 = c := by
  intro pl h
  have h : pl.toNat = ((a.toNat) * 2 ^ 1 + b.toNat) * 2 ^ 16 + c.toNat := by
    rw [h]; erw [app_nat, app_nat]
  refine ⟨?_, ?_, ?_⟩ <;>
    apply BitVec.eq_of_toNat_eq <;>
    simp only [BitVec.extractLsb'_toNat, Nat.shiftRight_eq_div_pow, h] <;> omega

theorem layout_24 (a : BitVec 7) : ∀ pl : BitVec 23, pl = 0#7 ++ a ++ 0#9 →
    pl.extractLsb' 9 7 = a ∧ pl.extractLsb' 0 2 = 0#2 ∧ pl.extractLsb' 2 7 = 0#7 ∧ pl.extractLsb' 16 7 = 0#7 := by
  intro pl h
  have h : pl.toNat = ((0) * 2 ^ 7 + a.toNat) * 2 ^ 9 + 0 := by
    rw [h]; erw [app_nat, app_nat]; rfl
  refine ⟨?_, ?_, ?_, ?_⟩ <;>
    apply BitVec.eq_of_toNat_eq <;>
    simp only [BitVec.extractLsb'_toNat, Nat.shiftRight_eq_div_pow, h, BitVec.toNat_ofNat] <;> omega

theorem layout_25 : ∀ pl : BitVec 23, pl = 0#23 →
    pl.extractLsb' 0 2 = 0#2 ∧ pl.extractLsb' 2 21 = 0#21 := by
  intro pl h
  subst h
  decide

theorem layout_26 (a : BitVec 9) : ∀ pl : BitVec 23, pl = 0#14 ++ a →
    pl.extractLsb' 0 9 = a ∧ pl.extractLsb' 9 14 = 0#14 := by
  intro pl h
  have h : pl.toNat = (0) * 2 ^ 9 + a.toNat := by
    rw [h]; erw [app_nat]; rfl
  refine ⟨?_, ?_⟩ <;>
    apply BitVec.eq_of_toNat_eq <;>
    simp only [BitVec.extractLsb'_toNat, Nat.shiftRight_eq_div_pow, h, BitVec.toNat_ofNat] <;> omega

theorem layout_27 (a : BitVec 4) (b : BitVec 6) : ∀ pl : BitVec 23, pl = 0#3 ++ a ++ 0#8 ++ b ++ 0#2 →
    pl.extractLsb' 16 4 = a ∧ pl.extractLsb' 2 6 = b ∧ pl.extractLsb' 0 2 = 0#2 ∧ pl.extractLsb' 8 8 = 0#8 ∧ pl.extractLsb' 20 3 = 0#3 := by
  intro pl h
  have h : pl.toNat = ((((0) * 2 ^ 4 + a.toNat) * 2 ^ 8 + 0) * 2 ^ 6 + b.toNat) * 2 ^ 2 + 0 := by
    rw [h]; erw [app_nat, app_nat, app_nat, app_nat]; rfl
  refine ⟨?_, ?_, ?_, ?_, ?_⟩ <;>
    apply BitVec.eq_of_toNat_eq <;>
    simp only [BitVec.extractLsb'_toNat, Nat.shiftRight_eq_div_pow, h, BitVec.toNat_ofNat] <;> omega

theorem layout_28 : ∀ pl : BitVec 23, pl = 0#23 →
    pl.extractLsb' 2 21 = 0#21 ∧ pl.extractLsb' 0 2 = 0#2 := by
  intro pl h
  subst h
  decide

theorem layout_29 : ∀ pl : BitVec 23, pl = 1#23 →
    pl.extractLsb' 2 21 = 0#21 ∧ pl.extractLsb' 0 2 = 1#2 := by
  intro pl h
  subst h
  decide

theorem layout_30 (a : BitVec 4) : ∀ pl : BitVec 23, pl = 0#17 ++ a ++ 0#2 →
    pl.extractLsb' 2 4 = a ∧ pl.extractLsb' 6 17 = 0#17 ∧ pl.extractLsb' 0 2 = 0#2 := by
  intro pl h
  have h : pl.toNat = ((0) * 2 ^ 4 + a.toNat) * 2 ^ 2 + 0 := by
    rw [h]; erw [app_nat, app_nat]; rfl
  refine ⟨?_, ?_, ?_⟩ <;>
    apply BitVec.eq_of_toNat_eq <;>
    simp only [BitVec.extractLsb'_toNat, Nat.shiftRight_eq_div_pow, h, BitVec.toNat_ofNat] <;> omega

theorem layout_31 (a : BitVec 4) : ∀ pl : BitVec 23, pl = 0#17 ++ a ++ 1#2 →
    pl.extractLsb' 2 4 = a ∧ pl.extractLsb' 6 17 = 0#17 ∧ pl.extractLsb' 0 2 = 1#2 := by
  intro pl h
  have h : pl.toNat = ((0) * 2 ^ 4 + a.toNat) * 2 ^ 2 + 1 := by
    rw [h]; erw [app_nat, app_nat]; rfl
  refine ⟨?_, ?_, ?_⟩ <;>
    apply BitVec.eq_of_toNat_eq <;>
    simp only [BitVec.extractLsb'_toNat, Nat.shiftRight_eq_div_pow, h, BitVec.toNat_ofNat] <;> omega

theorem layout_32 (a : BitVec 4) : ∀ pl : BitVec 23, pl = 0#17 ++ a ++ 2#2 →
    pl.extractLsb' 2 4 = a ∧ pl.extractLsb' 6 17 = 0#17 ∧ pl.extractLsb' 0 2 = 2#2 := by
  intro pl h
  have h : pl.toNat = ((0) * 2 ^ 4 + a.toNat) * 2 ^ 2 + 2 := by
    rw [h]; erw [app_nat, app_nat]; rfl
  refine ⟨?_, ?_, ?_⟩ <;>
    apply BitVec.eq_of_toNat_eq <;>
    simp only [BitVec.extractLsb'_toNat, Nat.shiftRight_eq_div_pow, h, BitVec.toNat_ofNat] <;> omega

theorem layout_33 (a : BitVec 7) (b : BitVec 7) (c : BitVec 4) : ∀ pl : BitVec 23, pl = a ++ b ++ 0#5 ++ c →
    pl.extractLsb' 16 7 = a ∧ pl.extractLsb' 9 7 = b ∧ pl.extractLsb' 0 4 = c ∧ pl.extractLsb' 4 5 = 0#5 := by
  intro pl h
  have h : pl.toNat = (((a.toNat) * 2 ^ 7 + b.toNat) * 2 ^ 5 + 0) * 2 ^ 4 + c.toNat := by
    rw [h]; erw [app_nat, app_nat, app_nat]; rfl
  refine ⟨?_, ?_, ?_, ?_⟩ <;>
    apply BitVec.eq_of_toNat_eq <;>
    simp only [BitVec.extractLsb'_toNat, Nat.shiftRight_eq_div_pow, h, BitVec.toNat_ofNat] <;> omega

theorem layout_34 (a : BitVec 7) (b : BitVec 7) (c : BitVec 3) (d : BitVec 3) (e : BitVec 2) : ∀ pl : BitVec 23, pl = a ++ b ++ c ++ 0#1 ++ d ++ e →
    pl.extractLsb' 16 7 = a ∧ pl.extractLsb' 9 7 = b ∧ pl.extractLsb' 6 3 = c ∧ pl.extractLsb' 2 3 = d ∧ pl.extractLsb' 0 2 = e ∧ pl.extractLsb' 5 1 = 0#1 := by
  intro pl h
  have h : pl.toNat = (((((a.toNat) * 2 ^ 7 + b.toNat) * 2 ^ 3 + c.toNat) * 2 ^ 1 + 0) * 2 ^ 3 + d.toNat) * 2 ^ 2 + e.toNat := by
    rw [h]; erw [app_nat, app_nat, app_nat, app_nat, app_nat]; rfl
  refine ⟨?_, ?_, ?_, ?_, ?_, ?_⟩ <;>
    apply BitVec.eq_of_toNat_eq <;>
    simp only [BitVec.extractLsb'_toNat, Nat.shiftRight_eq_div_pow, h, BitVec.toNat_ofNat] <;> omega

theorem layout_35 (a : BitVec 7) (b : BitVec 7) (c : BitVec 3) (d : BitVec 1) (e : BitVec 3) (f : BitVec 2) : ∀ pl : BitVec 23, pl = a ++ b ++ c ++ d ++ e ++ f →
    pl.extractLsb' 16 7 = a ∧ pl.extractLsb' 9 7 = b ∧ pl.extractLsb' 6 3 = c ∧ pl.extractLsb' 5 1 = d ∧ pl.extractLsb' 2 3 = e ∧ pl.extractLsb' 0 2 = f := by
  intro pl h
  have h : pl.toNat = (((((a.toNat) * 2 ^ 7 + b.toNat) * 2 ^ 3 + c.toNat) * 2 ^ 1 + d.toNat) * 2 ^ 3 + e.toNat) * 2 ^ 2 + f.toNat := by
    rw [h]; erw [app_nat, app_nat, app_nat, app_nat, app_nat]
  refine ⟨?_, ?_, ?_, ?_, ?_, ?_⟩ <;>
    apply BitVec.eq_of_toNat_eq <;>
    simp only [BitVec.extractLsb'_toNat, Nat.shiftRight_eq_div_pow, h] <;> omega

theorem layout_36 (a : BitVec 7) : ∀ pl : BitVec 23, pl = a ++ 0#16 →
    pl.extractLsb' 16 7 = a ∧ pl.extractLsb' 0 2 = 0#2 ∧ pl.extractLsb' 2 14 = 0#14 := by
  intro pl h
  have h : pl.toNat = (a.toNat) * 2 ^ 16 + 0 := by
    rw [h]; erw [app_nat]; rfl
  refine ⟨?_, ?_, ?_⟩ <;>
    apply BitVec.eq_of_toNat_eq <;>
    simp only [BitVec.extractLsb'_toNat, Nat.shiftRight_eq_div_pow, h, BitVec.toNat_ofNat] <;> omega

theorem layout_37 (a : BitVec 7) (b : BitVec 7) (c : BitVec 7) : ∀ pl : BitVec 23, pl = a ++ b ++ c ++ 2#2 →
    pl.extractLsb' 16 7 = a ∧ pl.extractLsb' 9 7 = b ∧ pl.extractLsb' 2 7 = c ∧ pl.extractLsb' 0 2 = 2#2 := by
  intro pl h
  have h : pl.toNat = (((a.toNat) * 2 ^ 7 + b.toNat) * 2 ^ 7 + c.toNat) * 2 ^ 2 + 2 := by
    rw [h]; erw [app_nat, app_nat, app_nat]; rfl
  refine ⟨?_, ?_, ?_, ?_⟩ <;>
    apply BitVec.eq_of_toNat_eq <;>
    simp only [BitVec.extractLsb'_toNat, Nat.shiftRight_eq_div_pow, h, BitVec.toNat_ofNat] <;> omega

theorem layout_38 (a : BitVec 7) (b : BitVec 7) (c : BitVec 4) (d : BitVec 2) : ∀ pl : BitVec 23, pl = a ++ b ++ 0#3 ++ c ++ d →
    pl.extractLsb' 16 7 = a ∧ pl.extractLsb' 9 7 = b ∧ pl.extractLsb' 2 4 = c ∧ pl.extractLsb' 0 2 = d ∧ pl.extractLsb' 6 3 = 0#3 := by
  intro pl h
  have h : pl.toNat = ((((a.toNat) * 2 ^ 7 + b.toNat) * 2 ^ 3 + 0) * 2 ^ 4 + c.toNat) * 2 ^ 2 + d.toNat := by
    rw [h]; erw [app_nat, app_nat, app_nat, app_nat]; rfl
  refine ⟨?_, ?_, ?_, ?_, ?_⟩ <;>
    apply BitVec.eq_of_toNat_eq <;>
    simp only [BitVec.extractLsb'_toNat, Nat.shiftRight_eq_div_pow, h, BitVec.toNat_ofNat] <;> omega

theorem layout_39 (a : BitVec 7) (b : BitVec 7) : ∀ pl : BitVec 23, pl = 0#7 ++ a ++ b ++ 0#2 →
    pl.extractLsb' 9 7 = a ∧ pl.extractLsb' 2 7 = b ∧ pl.extractLsb' 16 7 = 0#7 ∧ pl.extractLsb' 0 2 = 0#2 := by
  intro pl h
  have h : pl.toNat = (((0) * 2 ^ 7 + a.toNat) * 2 ^ 7 + b.toNat) * 2 ^ 2 + 0 := by
    rw [h]; erw [app_nat, app_nat, app_nat]; rfl
  refine ⟨?_, ?_, ?_, ?_⟩ <;>
    apply BitVec.eq_of_toNat_eq <;>
    simp only [BitVec.extractLsb'_toNat, Nat.shiftRight_eq_div_pow, h, BitVec.toNat_ofNat] <;> omega

theorem layout_40 (a : BitVec 7) : ∀ pl : BitVec 23, pl = 0#7 ++ a ++ 1#9 →
    pl.extractLsb' 9 7 = a ∧ pl.extractLsb' 2 7 = 0#7 ∧ pl.extractLsb' 16 7 = 0#7 ∧ pl.extractLsb' 0 2 = 1#2 := by
  intro pl h
  have h : pl.toNat = ((0) * 2 ^ 7 + a.toNat) * 2 ^ 9 + 1 := by
    rw [h]; erw [app_nat, app_nat]; rfl
  refine ⟨?_, ?_, ?_, ?_⟩ <;>
    apply BitVec.eq_of_toNat_eq <;>
    simp only [BitVec.extractLsb'_toNat, Nat.shiftRight_eq_div_pow, h, BitVec.toNat_ofNat] <;> omega

theorem layout_41 (a : BitVec 7) (b : BitVec 7) : ∀ pl : BitVec 23, pl = a ++ b ++ 0#9 →
    pl.extractLsb' 16 7 = a ∧ pl.extractLsb' 9 7 = b ∧ pl.extractLsb' 2 7 = 0#7 ∧ pl.extractLsb' 0 2 = 0#2 := by
  intro pl h
  have h : pl.toNat = ((a.toNat) * 2 ^ 7 + b.toNat) * 2 ^ 9 + 0 := by
    rw [h]; erw [app_nat, app_nat]; rfl
  refine ⟨?_, ?_, ?_, ?_⟩ <;>
    apply BitVec.eq_of_toNat_eq <;>
    simp only [BitVec.extractLsb'_toNat, Nat.shiftRight_eq_div_pow, h, BitVec.toNat_ofNat] <;> omega

theorem layout_42 (a : BitVec 7) (b : BitVec 7) (c : BitVec 7) : ∀ pl : BitVec 23, pl = a ++ b ++ c ++ 1#2 →
    pl.extractLsb' 16 7 = a ∧ pl.extractLsb' 9 7 = b ∧ pl.extractLsb' 2 7 = c ∧ pl.extractLsb' 0 2 = 1#2 := by
  intro pl h
  have h : pl.toNat = (((a.toNat) * 2 ^ 7 + b.toNat) * 2 ^ 7 + c.toNat) * 2 ^ 2 + 1 := by
    rw [h]; erw [app_nat, app_nat, app_nat]; rfl
  refine ⟨?_, ?_, ?_, ?_⟩ <;>
    apply BitVec.eq_of_toNat_eq <;>
    simp only [BitVec.extractLsb'_toNat, Nat.shiftRight_eq_div_pow, h, BitVec.toNat_ofNat] <;> omega

theorem layout_43 (a : BitVec 7) (b : BitVec 7) (c : BitVec 7) : ∀ pl : BitVec 23, pl = a ++ b ++ c ++ 0#2 →
    pl.extractLsb' 16 7 = a ∧ pl.extractLsb' 9 7 = b ∧ pl.extractLsb' 2 7 = c ∧ pl.extractLsb' 0 2 = 0#2 := by
  intro pl h
  have h : pl.toNat = (((a.toNat) * 2 ^ 7 + b.toNat) * 2 ^ 7 + c.toNat) * 2 ^ 2 + 0 := by
    rw [h]; erw [app_nat, app_nat, app_nat]; rfl
  refine ⟨?_, ?_, ?_, ?_⟩ <;>
    apply BitVec.eq_of_toNat_eq <;>
    simp only [BitVec.extractLsb'_toNat, Nat.shiftRight_eq_div_pow, h, BitVec.toNat_ofNat] <;> omega

theorem layout_44 (a : BitVec 7) (b : BitVec 7) : ∀ pl : BitVec 23, pl = a ++ b ++ 1#9 →
    pl.extractLsb' 16 7 = a ∧ pl.extractLsb' 9 7 = b ∧ pl.extractLsb' 2 7 = 0#7 ∧ pl.extractLsb' 0 2 = 1#2 := by
  intro pl h
  have h : pl.toNat = ((a.toNat) * 2 ^ 7 + b.toNat) * 2 ^ 9 + 1 := by
    rw [h]; erw [app_nat, app_nat]; rfl
  refine ⟨?_, ?_, ?_, ?_⟩ <;>
    apply BitVec.eq_of_toNat_eq <;>
    simp only [BitVec.extractLsb'_toNat, Nat.shiftRight_eq_div_pow, h, BitVec.toNat_ofNat] <;> omega

theorem layout_45 (a : BitVec 7) : ∀ pl : BitVec 23, pl = 0#14 ++ a ++ 1#2 →
    pl.extractLsb' 2 7 = a ∧ pl.extractLsb' 9 14 = 0#14 ∧ pl.extractLsb' 0 2 = 1#2 := by
  intro pl h
  have h : pl.toNat = ((0) * 2 ^ 7 + a.toNat) * 2 ^ 2 + 1 := by
    rw [h]; erw [app_nat, app_nat]; rfl
  refine ⟨?_, ?_, ?_⟩ <;>
    apply BitVec.eq_of_toNat_eq <;>
    simp only [BitVec.extractLsb'_toNat, Nat.shiftRight_eq_div_pow, h, BitVec.toNat_ofNat] <;> omega

theorem layout_46 : ∀ pl : BitVec 23, pl = 2#23 →
    pl.extractLsb' 2 21 = 0#21 ∧ pl.extractLsb' 0 2 = 2#2 := by
  intro pl h
  subst h
  decide

/-! ### Every constructor -/

theorem himm (e : Bool) (pl : BitVec 23) : Statement (.himm e pl) := by
  intro hw w he
  cases he
  apply decode_of hw (by show assigned 3 _ = true; rw [opcode_pack]; decide)
  have h0 := layout_1 pl _ rfl
  have hp : ∀ (v : Nat) (w : Word), opcodeOf w = 0x01 →
      parse v w = chk 0x0 false w (.himm (sBit w) (w.extractLsb' 0 23)) := by
    intro v w h
    unfold parse
    rw [h]
    rfl
  refine (hp _ _ (opcode_pack ..)).trans ?_
  refine (chk_ok (by decide) (and_zero _) (fun h => by cases h)).trans ?_
  rw [sBit_pack, ext_pack _ _ _ _ _ (by decide), h0]

theorem hmod (e : Bool) (pl : BitVec 23) : Statement (.hmod e pl) := by
  intro hw w he
  cases he
  apply decode_of hw (by show assigned 3 _ = true; rw [opcode_pack]; decide)
  have h0 := layout_1 pl _ rfl
  have hp : ∀ (v : Nat) (w : Word), opcodeOf w = 0x02 →
      parse v w = chk 0x0 false w (.hmod (sBit w) (w.extractLsb' 0 23)) := by
    intro v w h
    unfold parse
    rw [h]
    rfl
  refine (hp _ _ (opcode_pack ..)).trans ?_
  refine (chk_ok (by decide) (and_zero _) (fun h => by cases h)).trans ?_
  rw [sBit_pack, ext_pack _ _ _ _ _ (by decide), h0]

theorem hgrd (e : Bool) (p : BitVec 6) (n : BitVec 1) (c : BitVec 2) : Statement (.hgrd e p n c) := by
  intro hw w he
  cases he
  apply decode_of hw (by show assigned 3 _ = true; rw [opcode_pack]; decide)
  obtain ⟨h0, h1, h2, m0⟩ := layout_2 p n c _ rfl
  have hp : ∀ (v : Nat) (w : Word), opcodeOf w = 0x03 →
      parse v w = chk 0x3FFF false w (.hgrd (sBit w) (w.extractLsb' 17 6) (w.extractLsb' 16 1) (w.extractLsb' 14 2)) := by
    intro v w h
    unfold parse
    rw [h]
    rfl
  refine (hp _ _ (opcode_pack ..)).trans ?_
  refine (chk_ok (by decide) (and_mask _ 0 14 m0 (by decide)) (fun h => by cases h)).trans ?_
  rw [sBit_pack, ext_pack _ _ _ _ _ (by decide), ext_pack _ _ _ _ _ (by decide), ext_pack _ _ _ _ _ (by decide), h0, h1, h2]

theorem trl (m : BitVec 23) : Statement (.trl m) := by
  intro hw w he
  cases he
  apply decode_of hw (by show assigned 3 _ = true; rw [opcode_pack]; decide)
  have hp : ∀ (v : Nat) (w : Word), opcodeOf w = 0x04 →
      parse v w = if sBit w then .ok (.trl (w.extractLsb' 0 23)) else .error .trailer := by
    intro v w h
    unfold parse
    rw [h]
    rfl
  refine (hp _ _ (opcode_pack ..)).trans ?_
  rw [sBit_pack, if_pos rfl, ext_pack _ _ _ _ _ (by decide)]
  congr 2
  simp

theorem hsch (e : Bool) (cl : BitVec 1) (df : BitVec 13) (dm : BitVec 1) (yl : BitVec 1) : Statement (.hsch e cl df dm yl) := by
  intro hw w he
  cases he
  apply decode_of hw (by show assigned 3 _ = true; rw [opcode_pack]; decide)
  obtain ⟨h0, h1, h2, h3, m0⟩ := layout_3 cl df dm yl _ rfl
  have hp : ∀ (v : Nat) (w : Word), opcodeOf w = 0x05 →
      parse v w = chk 0x7F0000 false w (.hsch (sBit w) (w.extractLsb' 15 1) (w.extractLsb' 2 13) (w.extractLsb' 1 1) (w.extractLsb' 0 1)) := by
    intro v w h
    unfold parse
    rw [h]
    rfl
  refine (hp _ _ (opcode_pack ..)).trans ?_
  refine (chk_ok (by decide) (and_mask _ 16 7 m0 (by decide)) (fun h => by cases h)).trans ?_
  rw [sBit_pack, ext_pack _ _ _ _ _ (by decide), ext_pack _ _ _ _ _ (by decide), ext_pack _ _ _ _ _ (by decide), ext_pack _ _ _ _ _ (by decide), h0, h1, h2, h3]

theorem nop (e : Bool) : Statement (.nop e) := by
  intro hw w he
  cases he
  apply decode_of hw (by show assigned 3 _ = true; rw [opcode_pack]; decide)
  have m0 := layout_4 _ rfl
  have hp : ∀ (v : Nat) (w : Word), opcodeOf w = 0x06 →
      parse v w = chk 0x7FFFFF false w (.nop (sBit w)) := by
    intro v w h
    unfold parse
    rw [h]
    rfl
  refine (hp _ _ (opcode_pack ..)).trans ?_
  refine (chk_ok (by decide) (and_mask _ 0 23 m0 (by decide)) (fun h => by cases h)).trans ?_
  rw [sBit_pack]

theorem phaseAnnounce (e : Bool) (o : BitVec 4) (c : BitVec 4) (lx : BitVec 4) (m : BitVec 4) (b : BitVec 4) : Statement (.phaseAnnounce e o c lx m b) := by
  intro hw w he
  cases he
  apply decode_of hw (by show assigned 3 _ = true; rw [opcode_pack]; decide)
  obtain ⟨h0, h1, h2, h3, h4, hs⟩ := layout_5 o c lx m b _ rfl
  have hp : ∀ (v : Nat) (w : Word), opcodeOf w = 0x07 → w.extractLsb' 20 3 = 0#3 →
      parse v w = chk 0x0 false w (.phaseAnnounce (sBit w) (w.extractLsb' 16 4) (w.extractLsb' 12 4) (w.extractLsb' 8 4) (w.extractLsb' 4 4) (w.extractLsb' 0 4)) := by
    intro v w h hs
    unfold parse
    rw [h]
    rw [hs]
    rfl
  refine (hp _ _ (opcode_pack ..) ((ext_pack _ _ _ _ _ (by decide)).trans hs)).trans ?_
  refine (chk_ok (by decide) (and_zero _) (fun h => by cases h)).trans ?_
  rw [sBit_pack, ext_pack _ _ _ _ _ (by decide), ext_pack _ _ _ _ _ (by decide), ext_pack _ _ _ _ _ (by decide), ext_pack _ _ _ _ _ (by decide), ext_pack _ _ _ _ _ (by decide), h0, h1, h2, h3, h4]

theorem phaseEnd (e : Bool) : Statement (.phaseEnd e) := by
  intro hw w he
  cases he
  apply decode_of hw (by show assigned 3 _ = true; rw [opcode_pack]; decide)
  obtain ⟨m0, hs⟩ := layout_6 _ rfl
  have hp : ∀ (v : Nat) (w : Word), opcodeOf w = 0x07 → w.extractLsb' 20 3 = 1#3 →
      parse v w = chk 0xFFFFF false w (.phaseEnd (sBit w)) := by
    intro v w h hs
    unfold parse
    rw [h]
    rw [hs]
    rfl
  refine (hp _ _ (opcode_pack ..) ((ext_pack _ _ _ _ _ (by decide)).trans hs)).trans ?_
  refine (chk_ok (by decide) (and_mask _ 0 20 m0 (by decide)) (fun h => by cases h)).trans ?_
  rw [sBit_pack]

theorem phaseQuery (e : Bool) : Statement (.phaseQuery e) := by
  intro hw w he
  cases he
  apply decode_of hw (by show assigned 3 _ = true; rw [opcode_pack]; decide)
  obtain ⟨m0, hs⟩ := layout_7 _ rfl
  have hp : ∀ (v : Nat) (w : Word), opcodeOf w = 0x07 → w.extractLsb' 20 3 = 2#3 →
      parse v w = chk 0xFFFFF false w (.phaseQuery (sBit w)) := by
    intro v w h hs
    unfold parse
    rw [h]
    rw [hs]
    rfl
  refine (hp _ _ (opcode_pack ..) ((ext_pack _ _ _ _ _ (by decide)).trans hs)).trans ?_
  refine (chk_ok (by decide) (and_mask _ 0 20 m0 (by decide)) (fun h => by cases h)).trans ?_
  rw [sBit_pack]

theorem brk (e : Bool) (c : BitVec 23) : Statement (.brk e c) := by
  intro hw w he
  cases he
  apply decode_of hw (by show assigned 3 _ = true; rw [opcode_pack]; decide)
  have h0 := layout_1 c _ rfl
  have hp : ∀ (v : Nat) (w : Word), opcodeOf w = 0x08 →
      parse v w = chk 0x0 false w (.brk (sBit w) (w.extractLsb' 0 23)) := by
    intro v w h
    unfold parse
    rw [h]
    rfl
  refine (hp _ _ (opcode_pack ..)).trans ?_
  refine (chk_ok (by decide) (and_zero _) (fun h => by cases h)).trans ?_
  rw [sBit_pack, ext_pack _ _ _ _ _ (by decide), h0]

theorem trace (e : Bool) (d : BitVec 7) (c : BitVec 16) : Statement (.trace e d c) := by
  intro hw w he
  cases he
  apply decode_of hw (by show assigned 3 _ = true; rw [opcode_pack]; decide)
  obtain ⟨h0, h1⟩ := layout_8 d c _ rfl
  have hp : ∀ (v : Nat) (w : Word), opcodeOf w = 0x09 →
      parse v w = chk 0x0 false w (.trace (sBit w) (w.extractLsb' 16 7) (w.extractLsb' 0 16)) := by
    intro v w h
    unfold parse
    rw [h]
    rfl
  refine (hp _ _ (opcode_pack ..)).trans ?_
  refine (chk_ok (by decide) (and_zero _) (fun h => by cases h)).trans ?_
  rw [sBit_pack, ext_pack _ _ _ _ _ (by decide), ext_pack _ _ _ _ _ (by decide), h0, h1]

theorem add (e : Bool) (d : BitVec 7) (a : BitVec 7) (b : BitVec 7) : Statement (.add e d a b) := by
  intro hw w he
  cases he
  apply decode_of hw (by show assigned 3 _ = true; rw [opcode_pack]; decide)
  obtain ⟨h0, h1, h2, hf⟩ := layout_9 d a b _ rfl
  have hp : ∀ (v : Nat) (w : Word), opcodeOf w = 0x10 →
      parse v w = chk 0x0 true w (.add (sBit w) (w.extractLsb' 16 7) (w.extractLsb' 9 7) (w.extractLsb' 2 7)) := by
    intro v w h
    unfold parse
    rw [h]
    rfl
  refine (hp _ _ (opcode_pack ..)).trans ?_
  refine (chk_ok (by decide) (and_zero _) fun _ => hf).trans ?_
  rw [sBit_pack, ext_pack _ _ _ _ _ (by decide), ext_pack _ _ _ _ _ (by decide), ext_pack _ _ _ _ _ (by decide), h0, h1, h2]

theorem sub (e : Bool) (d : BitVec 7) (a : BitVec 7) (b : BitVec 7) : Statement (.sub e d a b) := by
  intro hw w he
  cases he
  apply decode_of hw (by show assigned 3 _ = true; rw [opcode_pack]; decide)
  obtain ⟨h0, h1, h2, hf⟩ := layout_9 d a b _ rfl
  have hp : ∀ (v : Nat) (w : Word), opcodeOf w = 0x11 →
      parse v w = chk 0x0 true w (.sub (sBit w) (w.extractLsb' 16 7) (w.extractLsb' 9 7) (w.extractLsb' 2 7)) := by
    intro v w h
    unfold parse
    rw [h]
    rfl
  refine (hp _ _ (opcode_pack ..)).trans ?_
  refine (chk_ok (by decide) (and_zero _) fun _ => hf).trans ?_
  rw [sBit_pack, ext_pack _ _ _ _ _ (by decide), ext_pack _ _ _ _ _ (by decide), ext_pack _ _ _ _ _ (by decide), h0, h1, h2]

theorem mul (e : Bool) (d : BitVec 7) (a : BitVec 7) (b : BitVec 7) : Statement (.mul e d a b) := by
  intro hw w he
  cases he
  apply decode_of hw (by show assigned 3 _ = true; rw [opcode_pack]; decide)
  obtain ⟨h0, h1, h2, hf⟩ := layout_9 d a b _ rfl
  have hp : ∀ (v : Nat) (w : Word), opcodeOf w = 0x12 →
      parse v w = chk 0x0 true w (.mul (sBit w) (w.extractLsb' 16 7) (w.extractLsb' 9 7) (w.extractLsb' 2 7)) := by
    intro v w h
    unfold parse
    rw [h]
    rfl
  refine (hp _ _ (opcode_pack ..)).trans ?_
  refine (chk_ok (by decide) (and_zero _) fun _ => hf).trans ?_
  rw [sBit_pack, ext_pack _ _ _ _ _ (by decide), ext_pack _ _ _ _ _ (by decide), ext_pack _ _ _ _ _ (by decide), h0, h1, h2]

theorem mulh (e : Bool) (d : BitVec 7) (a : BitVec 7) (b : BitVec 7) (f : BitVec 2) : Statement (.mulh e d a b f) := by
  intro hw w he
  cases he
  apply decode_of hw (by show assigned 3 _ = true; rw [opcode_pack]; decide)
  obtain ⟨h0, h1, h2, h3⟩ := layout_10 d a b f _ rfl
  have hp : ∀ (v : Nat) (w : Word), opcodeOf w = 0x13 →
      parse v w = chk 0x0 false w (.mulh (sBit w) (w.extractLsb' 16 7) (w.extractLsb' 9 7) (w.extractLsb' 2 7) (w.extractLsb' 0 2)) := by
    intro v w h
    unfold parse
    rw [h]
    rfl
  refine (hp _ _ (opcode_pack ..)).trans ?_
  refine (chk_ok (by decide) (and_zero _) (fun h => by cases h)).trans ?_
  rw [sBit_pack, ext_pack _ _ _ _ _ (by decide), ext_pack _ _ _ _ _ (by decide), ext_pack _ _ _ _ _ (by decide), ext_pack _ _ _ _ _ (by decide), h0, h1, h2, h3]

theorem mad (e : Bool) (d : BitVec 7) (a : BitVec 7) (b : BitVec 7) : Statement (.mad e d a b) := by
  intro hw w he
  cases he
  apply decode_of hw (by show assigned 3 _ = true; rw [opcode_pack]; decide)
  obtain ⟨h0, h1, h2, hf⟩ := layout_9 d a b _ rfl
  have hp : ∀ (v : Nat) (w : Word), opcodeOf w = 0x14 →
      parse v w = chk 0x0 true w (.mad (sBit w) (w.extractLsb' 16 7) (w.extractLsb' 9 7) (w.extractLsb' 2 7)) := by
    intro v w h
    unfold parse
    rw [h]
    rfl
  refine (hp _ _ (opcode_pack ..)).trans ?_
  refine (chk_ok (by decide) (and_zero _) fun _ => hf).trans ?_
  rw [sBit_pack, ext_pack _ _ _ _ _ (by decide), ext_pack _ _ _ _ _ (by decide), ext_pack _ _ _ _ _ (by decide), h0, h1, h2]

theorem and (e : Bool) (d : BitVec 7) (a : BitVec 7) (b : BitVec 7) : Statement (.and e d a b) := by
  intro hw w he
  cases he
  apply decode_of hw (by show assigned 3 _ = true; rw [opcode_pack]; decide)
  obtain ⟨h0, h1, h2, hf⟩ := layout_9 d a b _ rfl
  have hp : ∀ (v : Nat) (w : Word), opcodeOf w = 0x15 →
      parse v w = chk 0x0 true w (.and (sBit w) (w.extractLsb' 16 7) (w.extractLsb' 9 7) (w.extractLsb' 2 7)) := by
    intro v w h
    unfold parse
    rw [h]
    rfl
  refine (hp _ _ (opcode_pack ..)).trans ?_
  refine (chk_ok (by decide) (and_zero _) fun _ => hf).trans ?_
  rw [sBit_pack, ext_pack _ _ _ _ _ (by decide), ext_pack _ _ _ _ _ (by decide), ext_pack _ _ _ _ _ (by decide), h0, h1, h2]

theorem or (e : Bool) (d : BitVec 7) (a : BitVec 7) (b : BitVec 7) : Statement (.or e d a b) := by
  intro hw w he
  cases he
  apply decode_of hw (by show assigned 3 _ = true; rw [opcode_pack]; decide)
  obtain ⟨h0, h1, h2, hf⟩ := layout_9 d a b _ rfl
  have hp : ∀ (v : Nat) (w : Word), opcodeOf w = 0x16 →
      parse v w = chk 0x0 true w (.or (sBit w) (w.extractLsb' 16 7) (w.extractLsb' 9 7) (w.extractLsb' 2 7)) := by
    intro v w h
    unfold parse
    rw [h]
    rfl
  refine (hp _ _ (opcode_pack ..)).trans ?_
  refine (chk_ok (by decide) (and_zero _) fun _ => hf).trans ?_
  rw [sBit_pack, ext_pack _ _ _ _ _ (by decide), ext_pack _ _ _ _ _ (by decide), ext_pack _ _ _ _ _ (by decide), h0, h1, h2]

theorem xor (e : Bool) (d : BitVec 7) (a : BitVec 7) (b : BitVec 7) : Statement (.xor e d a b) := by
  intro hw w he
  cases he
  apply decode_of hw (by show assigned 3 _ = true; rw [opcode_pack]; decide)
  obtain ⟨h0, h1, h2, hf⟩ := layout_9 d a b _ rfl
  have hp : ∀ (v : Nat) (w : Word), opcodeOf w = 0x17 →
      parse v w = chk 0x0 true w (.xor (sBit w) (w.extractLsb' 16 7) (w.extractLsb' 9 7) (w.extractLsb' 2 7)) := by
    intro v w h
    unfold parse
    rw [h]
    rfl
  refine (hp _ _ (opcode_pack ..)).trans ?_
  refine (chk_ok (by decide) (and_zero _) fun _ => hf).trans ?_
  rw [sBit_pack, ext_pack _ _ _ _ _ (by decide), ext_pack _ _ _ _ _ (by decide), ext_pack _ _ _ _ _ (by decide), h0, h1, h2]

theorem andn (e : Bool) (d : BitVec 7) (a : BitVec 7) (b : BitVec 7) : Statement (.andn e d a b) := by
  intro hw w he
  cases he
  apply decode_of hw (by show assigned 3 _ = true; rw [opcode_pack]; decide)
  obtain ⟨h0, h1, h2, hf⟩ := layout_9 d a b _ rfl
  have hp : ∀ (v : Nat) (w : Word), opcodeOf w = 0x18 →
      parse v w = chk 0x0 true w (.andn (sBit w) (w.extractLsb' 16 7) (w.extractLsb' 9 7) (w.extractLsb' 2 7)) := by
    intro v w h
    unfold parse
    rw [h]
    rfl
  refine (hp _ _ (opcode_pack ..)).trans ?_
  refine (chk_ok (by decide) (and_zero _) fun _ => hf).trans ?_
  rw [sBit_pack, ext_pack _ _ _ _ _ (by decide), ext_pack _ _ _ _ _ (by decide), ext_pack _ _ _ _ _ (by decide), h0, h1, h2]

theorem shl (e : Bool) (d : BitVec 7) (a : BitVec 7) (b : BitVec 7) : Statement (.shl e d a b) := by
  intro hw w he
  cases he
  apply decode_of hw (by show assigned 3 _ = true; rw [opcode_pack]; decide)
  obtain ⟨h0, h1, h2, hf⟩ := layout_9 d a b _ rfl
  have hp : ∀ (v : Nat) (w : Word), opcodeOf w = 0x19 →
      parse v w = chk 0x0 true w (.shl (sBit w) (w.extractLsb' 16 7) (w.extractLsb' 9 7) (w.extractLsb' 2 7)) := by
    intro v w h
    unfold parse
    rw [h]
    rfl
  refine (hp _ _ (opcode_pack ..)).trans ?_
  refine (chk_ok (by decide) (and_zero _) fun _ => hf).trans ?_
  rw [sBit_pack, ext_pack _ _ _ _ _ (by decide), ext_pack _ _ _ _ _ (by decide), ext_pack _ _ _ _ _ (by decide), h0, h1, h2]

theorem shr (e : Bool) (d : BitVec 7) (a : BitVec 7) (b : BitVec 7) : Statement (.shr e d a b) := by
  intro hw w he
  cases he
  apply decode_of hw (by show assigned 3 _ = true; rw [opcode_pack]; decide)
  obtain ⟨h0, h1, h2, hf⟩ := layout_9 d a b _ rfl
  have hp : ∀ (v : Nat) (w : Word), opcodeOf w = 0x1A →
      parse v w = chk 0x0 true w (.shr (sBit w) (w.extractLsb' 16 7) (w.extractLsb' 9 7) (w.extractLsb' 2 7)) := by
    intro v w h
    unfold parse
    rw [h]
    rfl
  refine (hp _ _ (opcode_pack ..)).trans ?_
  refine (chk_ok (by decide) (and_zero _) fun _ => hf).trans ?_
  rw [sBit_pack, ext_pack _ _ _ _ _ (by decide), ext_pack _ _ _ _ _ (by decide), ext_pack _ _ _ _ _ (by decide), h0, h1, h2]

theorem sra (e : Bool) (d : BitVec 7) (a : BitVec 7) (b : BitVec 7) : Statement (.sra e d a b) := by
  intro hw w he
  cases he
  apply decode_of hw (by show assigned 3 _ = true; rw [opcode_pack]; decide)
  obtain ⟨h0, h1, h2, hf⟩ := layout_9 d a b _ rfl
  have hp : ∀ (v : Nat) (w : Word), opcodeOf w = 0x1B →
      parse v w = chk 0x0 true w (.sra (sBit w) (w.extractLsb' 16 7) (w.extractLsb' 9 7) (w.extractLsb' 2 7)) := by
    intro v w h
    unfold parse
    rw [h]
    rfl
  refine (hp _ _ (opcode_pack ..)).trans ?_
  refine (chk_ok (by decide) (and_zero _) fun _ => hf).trans ?_
  rw [sBit_pack, ext_pack _ _ _ _ _ (by decide), ext_pack _ _ _ _ _ (by decide), ext_pack _ _ _ _ _ (by decide), h0, h1, h2]

theorem min (e : Bool) (d : BitVec 7) (a : BitVec 7) (b : BitVec 7) (f : BitVec 2) : Statement (.min e d a b f) := by
  intro hw w he
  cases he
  apply decode_of hw (by show assigned 3 _ = true; rw [opcode_pack]; decide)
  obtain ⟨h0, h1, h2, h3⟩ := layout_10 d a b f _ rfl
  have hp : ∀ (v : Nat) (w : Word), opcodeOf w = 0x1C →
      parse v w = chk 0x0 false w (.min (sBit w) (w.extractLsb' 16 7) (w.extractLsb' 9 7) (w.extractLsb' 2 7) (w.extractLsb' 0 2)) := by
    intro v w h
    unfold parse
    rw [h]
    rfl
  refine (hp _ _ (opcode_pack ..)).trans ?_
  refine (chk_ok (by decide) (and_zero _) (fun h => by cases h)).trans ?_
  rw [sBit_pack, ext_pack _ _ _ _ _ (by decide), ext_pack _ _ _ _ _ (by decide), ext_pack _ _ _ _ _ (by decide), ext_pack _ _ _ _ _ (by decide), h0, h1, h2, h3]

theorem max (e : Bool) (d : BitVec 7) (a : BitVec 7) (b : BitVec 7) (f : BitVec 2) : Statement (.max e d a b f) := by
  intro hw w he
  cases he
  apply decode_of hw (by show assigned 3 _ = true; rw [opcode_pack]; decide)
  obtain ⟨h0, h1, h2, h3⟩ := layout_10 d a b f _ rfl
  have hp : ∀ (v : Nat) (w : Word), opcodeOf w = 0x1D →
      parse v w = chk 0x0 false w (.max (sBit w) (w.extractLsb' 16 7) (w.extractLsb' 9 7) (w.extractLsb' 2 7) (w.extractLsb' 0 2)) := by
    intro v w h
    unfold parse
    rw [h]
    rfl
  refine (hp _ _ (opcode_pack ..)).trans ?_
  refine (chk_ok (by decide) (and_zero _) (fun h => by cases h)).trans ?_
  rw [sBit_pack, ext_pack _ _ _ _ _ (by decide), ext_pack _ _ _ _ _ (by decide), ext_pack _ _ _ _ _ (by decide), ext_pack _ _ _ _ _ (by decide), h0, h1, h2, h3]

theorem abs (e : Bool) (d : BitVec 7) (a : BitVec 7) : Statement (.abs e d a) := by
  intro hw w he
  cases he
  apply decode_of hw (by show assigned 3 _ = true; rw [opcode_pack]; decide)
  obtain ⟨h0, h1, hf, m0⟩ := layout_11 d a _ rfl
  have hp : ∀ (v : Nat) (w : Word), opcodeOf w = 0x1E →
      parse v w = chk 0x1FC true w (.abs (sBit w) (w.extractLsb' 16 7) (w.extractLsb' 9 7)) := by
    intro v w h
    unfold parse
    rw [h]
    rfl
  refine (hp _ _ (opcode_pack ..)).trans ?_
  refine (chk_ok (by decide) (and_mask _ 2 7 m0 (by decide)) fun _ => hf).trans ?_
  rw [sBit_pack, ext_pack _ _ _ _ _ (by decide), ext_pack _ _ _ _ _ (by decide), h0, h1]

theorem clz (e : Bool) (d : BitVec 7) (a : BitVec 7) : Statement (.clz e d a) := by
  intro hw w he
  cases he
  apply decode_of hw (by show assigned 3 _ = true; rw [opcode_pack]; decide)
  obtain ⟨h0, h1, hf, m0⟩ := layout_11 d a _ rfl
  have hp : ∀ (v : Nat) (w : Word), opcodeOf w = 0x1F →
      parse v w = chk 0x1FC true w (.clz (sBit w) (w.extractLsb' 16 7) (w.extractLsb' 9 7)) := by
    intro v w h
    unfold parse
    rw [h]
    rfl
  refine (hp _ _ (opcode_pack ..)).trans ?_
  refine (chk_ok (by decide) (and_mask _ 2 7 m0 (by decide)) fun _ => hf).trans ?_
  rw [sBit_pack, ext_pack _ _ _ _ _ (by decide), ext_pack _ _ _ _ _ (by decide), h0, h1]

theorem popc (e : Bool) (d : BitVec 7) (a : BitVec 7) : Statement (.popc e d a) := by
  intro hw w he
  cases he
  apply decode_of hw (by show assigned 3 _ = true; rw [opcode_pack]; decide)
  obtain ⟨h0, h1, hf, m0⟩ := layout_11 d a _ rfl
  have hp : ∀ (v : Nat) (w : Word), opcodeOf w = 0x20 →
      parse v w = chk 0x1FC true w (.popc (sBit w) (w.extractLsb' 16 7) (w.extractLsb' 9 7)) := by
    intro v w h
    unfold parse
    rw [h]
    rfl
  refine (hp _ _ (opcode_pack ..)).trans ?_
  refine (chk_ok (by decide) (and_mask _ 2 7 m0 (by decide)) fun _ => hf).trans ?_
  rw [sBit_pack, ext_pack _ _ _ _ _ (by decide), ext_pack _ _ _ _ _ (by decide), h0, h1]

theorem brev (e : Bool) (d : BitVec 7) (a : BitVec 7) : Statement (.brev e d a) := by
  intro hw w he
  cases he
  apply decode_of hw (by show assigned 3 _ = true; rw [opcode_pack]; decide)
  obtain ⟨h0, h1, hf, m0⟩ := layout_11 d a _ rfl
  have hp : ∀ (v : Nat) (w : Word), opcodeOf w = 0x21 →
      parse v w = chk 0x1FC true w (.brev (sBit w) (w.extractLsb' 16 7) (w.extractLsb' 9 7)) := by
    intro v w h
    unfold parse
    rw [h]
    rfl
  refine (hp _ _ (opcode_pack ..)).trans ?_
  refine (chk_ok (by decide) (and_mask _ 2 7 m0 (by decide)) fun _ => hf).trans ?_
  rw [sBit_pack, ext_pack _ _ _ _ _ (by decide), ext_pack _ _ _ _ _ (by decide), h0, h1]

theorem bfx (e : Bool) (d : BitVec 7) (a : BitVec 7) (b : BitVec 7) : Statement (.bfx e d a b) := by
  intro hw w he
  cases he
  apply decode_of hw (by show assigned 3 _ = true; rw [opcode_pack]; decide)
  obtain ⟨h0, h1, h2, hf⟩ := layout_9 d a b _ rfl
  have hp : ∀ (v : Nat) (w : Word), opcodeOf w = 0x22 →
      parse v w = chk 0x0 true w (.bfx (sBit w) (w.extractLsb' 16 7) (w.extractLsb' 9 7) (w.extractLsb' 2 7)) := by
    intro v w h
    unfold parse
    rw [h]
    rfl
  refine (hp _ _ (opcode_pack ..)).trans ?_
  refine (chk_ok (by decide) (and_zero _) fun _ => hf).trans ?_
  rw [sBit_pack, ext_pack _ _ _ _ _ (by decide), ext_pack _ _ _ _ _ (by decide), ext_pack _ _ _ _ _ (by decide), h0, h1, h2]

theorem bfi (e : Bool) (d : BitVec 7) (a : BitVec 7) (b : BitVec 7) : Statement (.bfi e d a b) := by
  intro hw w he
  cases he
  apply decode_of hw (by show assigned 3 _ = true; rw [opcode_pack]; decide)
  obtain ⟨h0, h1, h2, hf⟩ := layout_9 d a b _ rfl
  have hp : ∀ (v : Nat) (w : Word), opcodeOf w = 0x23 →
      parse v w = chk 0x0 true w (.bfi (sBit w) (w.extractLsb' 16 7) (w.extractLsb' 9 7) (w.extractLsb' 2 7)) := by
    intro v w h
    unfold parse
    rw [h]
    rfl
  refine (hp _ _ (opcode_pack ..)).trans ?_
  refine (chk_ok (by decide) (and_zero _) fun _ => hf).trans ?_
  rw [sBit_pack, ext_pack _ _ _ _ _ (by decide), ext_pack _ _ _ _ _ (by decide), ext_pack _ _ _ _ _ (by decide), h0, h1, h2]

theorem cmov (e : Bool) (d : BitVec 7) (p : BitVec 6) (a : BitVec 7) : Statement (.cmov e d p a) := by
  intro hw w he
  cases he
  apply decode_of hw (by show assigned 3 _ = true; rw [opcode_pack]; decide)
  obtain ⟨h0, h1, h2, m0⟩ := layout_12 d p a _ rfl
  have hp : ∀ (v : Nat) (w : Word), opcodeOf w = 0x24 →
      parse v w = chk 0x7 false w (.cmov (sBit w) (w.extractLsb' 16 7) (w.extractLsb' 10 6) (w.extractLsb' 3 7)) := by
    intro v w h
    unfold parse
    rw [h]
    rfl
  refine (hp _ _ (opcode_pack ..)).trans ?_
  refine (chk_ok (by decide) (and_mask _ 0 3 m0 (by decide)) (fun h => by cases h)).trans ?_
  rw [sBit_pack, ext_pack _ _ _ _ _ (by decide), ext_pack _ _ _ _ _ (by decide), ext_pack _ _ _ _ _ (by decide), h0, h1, h2]

theorem div (e : Bool) (d : BitVec 7) (a : BitVec 7) (b : BitVec 7) (f : BitVec 2) : Statement (.div e d a b f) := by
  intro hw w he
  cases he
  apply decode_of hw (by show assigned 3 _ = true; rw [opcode_pack]; decide)
  obtain ⟨h0, h1, h2, h3⟩ := layout_10 d a b f _ rfl
  have hp : ∀ (v : Nat) (w : Word), opcodeOf w = 0x25 →
      parse v w = chk 0x0 false w (.div (sBit w) (w.extractLsb' 16 7) (w.extractLsb' 9 7) (w.extractLsb' 2 7) (w.extractLsb' 0 2)) := by
    intro v w h
    unfold parse
    rw [h]
    rfl
  refine (hp _ _ (opcode_pack ..)).trans ?_
  refine (chk_ok (by decide) (and_zero _) (fun h => by cases h)).trans ?_
  rw [sBit_pack, ext_pack _ _ _ _ _ (by decide), ext_pack _ _ _ _ _ (by decide), ext_pack _ _ _ _ _ (by decide), ext_pack _ _ _ _ _ (by decide), h0, h1, h2, h3]

theorem rem (e : Bool) (d : BitVec 7) (a : BitVec 7) (b : BitVec 7) (f : BitVec 2) : Statement (.rem e d a b f) := by
  intro hw w he
  cases he
  apply decode_of hw (by show assigned 3 _ = true; rw [opcode_pack]; decide)
  obtain ⟨h0, h1, h2, h3⟩ := layout_10 d a b f _ rfl
  have hp : ∀ (v : Nat) (w : Word), opcodeOf w = 0x26 →
      parse v w = chk 0x0 false w (.rem (sBit w) (w.extractLsb' 16 7) (w.extractLsb' 9 7) (w.extractLsb' 2 7) (w.extractLsb' 0 2)) := by
    intro v w h
    unfold parse
    rw [h]
    rfl
  refine (hp _ _ (opcode_pack ..)).trans ?_
  refine (chk_ok (by decide) (and_zero _) (fun h => by cases h)).trans ?_
  rw [sBit_pack, ext_pack _ _ _ _ _ (by decide), ext_pack _ _ _ _ _ (by decide), ext_pack _ _ _ _ _ (by decide), ext_pack _ _ _ _ _ (by decide), h0, h1, h2, h3]

theorem adds (e : Bool) (d : BitVec 7) (a : BitVec 7) (b : BitVec 7) (f : BitVec 2) : Statement (.adds e d a b f) := by
  intro hw w he
  cases he
  apply decode_of hw (by show assigned 3 _ = true; rw [opcode_pack]; decide)
  obtain ⟨h0, h1, h2, h3⟩ := layout_10 d a b f _ rfl
  have hp : ∀ (v : Nat) (w : Word), opcodeOf w = 0x27 →
      parse v w = chk 0x0 false w (.adds (sBit w) (w.extractLsb' 16 7) (w.extractLsb' 9 7) (w.extractLsb' 2 7) (w.extractLsb' 0 2)) := by
    intro v w h
    unfold parse
    rw [h]
    rfl
  refine (hp _ _ (opcode_pack ..)).trans ?_
  refine (chk_ok (by decide) (and_zero _) (fun h => by cases h)).trans ?_
  rw [sBit_pack, ext_pack _ _ _ _ _ (by decide), ext_pack _ _ _ _ _ (by decide), ext_pack _ _ _ _ _ (by decide), ext_pack _ _ _ _ _ (by decide), h0, h1, h2, h3]

theorem subs (e : Bool) (d : BitVec 7) (a : BitVec 7) (b : BitVec 7) (f : BitVec 2) : Statement (.subs e d a b f) := by
  intro hw w he
  cases he
  apply decode_of hw (by show assigned 3 _ = true; rw [opcode_pack]; decide)
  obtain ⟨h0, h1, h2, h3⟩ := layout_10 d a b f _ rfl
  have hp : ∀ (v : Nat) (w : Word), opcodeOf w = 0x28 →
      parse v w = chk 0x0 false w (.subs (sBit w) (w.extractLsb' 16 7) (w.extractLsb' 9 7) (w.extractLsb' 2 7) (w.extractLsb' 0 2)) := by
    intro v w h
    unfold parse
    rw [h]
    rfl
  refine (hp _ _ (opcode_pack ..)).trans ?_
  refine (chk_ok (by decide) (and_zero _) (fun h => by cases h)).trans ?_
  rw [sBit_pack, ext_pack _ _ _ _ _ (by decide), ext_pack _ _ _ _ _ (by decide), ext_pack _ _ _ _ _ (by decide), ext_pack _ _ _ _ _ (by decide), h0, h1, h2, h3]

theorem movi (e : Bool) (d : BitVec 7) (i : BitVec 16) : Statement (.movi e d i) := by
  intro hw w he
  cases he
  apply decode_of hw (by show assigned 3 _ = true; rw [opcode_pack]; decide)
  obtain ⟨h0, h1⟩ := layout_8 d i _ rfl
  have hp : ∀ (v : Nat) (w : Word), opcodeOf w = 0x30 →
      parse v w = chk 0x0 false w (.movi (sBit w) (w.extractLsb' 16 7) (w.extractLsb' 0 16)) := by
    intro v w h
    unfold parse
    rw [h]
    rfl
  refine (hp _ _ (opcode_pack ..)).trans ?_
  refine (chk_ok (by decide) (and_zero _) (fun h => by cases h)).trans ?_
  rw [sBit_pack, ext_pack _ _ _ _ _ (by decide), ext_pack _ _ _ _ _ (by decide), h0, h1]

theorem addi (e : Bool) (d : BitVec 7) (a : BitVec 7) (i : BitVec 9) : Statement (.addi e d a i) := by
  intro hw w he
  cases he
  apply decode_of hw (by show assigned 3 _ = true; rw [opcode_pack]; decide)
  obtain ⟨h0, h1, h2⟩ := layout_13 d a i _ rfl
  have hp : ∀ (v : Nat) (w : Word), opcodeOf w = 0x31 →
      parse v w = chk 0x0 false w (.addi (sBit w) (w.extractLsb' 16 7) (w.extractLsb' 9 7) (w.extractLsb' 0 9)) := by
    intro v w h
    unfold parse
    rw [h]
    rfl
  refine (hp _ _ (opcode_pack ..)).trans ?_
  refine (chk_ok (by decide) (and_zero _) (fun h => by cases h)).trans ?_
  rw [sBit_pack, ext_pack _ _ _ _ _ (by decide), ext_pack _ _ _ _ _ (by decide), ext_pack _ _ _ _ _ (by decide), h0, h1, h2]

theorem andi (e : Bool) (d : BitVec 7) (a : BitVec 7) (i : BitVec 9) : Statement (.andi e d a i) := by
  intro hw w he
  cases he
  apply decode_of hw (by show assigned 3 _ = true; rw [opcode_pack]; decide)
  obtain ⟨h0, h1, h2⟩ := layout_13 d a i _ rfl
  have hp : ∀ (v : Nat) (w : Word), opcodeOf w = 0x32 →
      parse v w = chk 0x0 false w (.andi (sBit w) (w.extractLsb' 16 7) (w.extractLsb' 9 7) (w.extractLsb' 0 9)) := by
    intro v w h
    unfold parse
    rw [h]
    rfl
  refine (hp _ _ (opcode_pack ..)).trans ?_
  refine (chk_ok (by decide) (and_zero _) (fun h => by cases h)).trans ?_
  rw [sBit_pack, ext_pack _ _ _ _ _ (by decide), ext_pack _ _ _ _ _ (by decide), ext_pack _ _ _ _ _ (by decide), h0, h1, h2]

theorem ori (e : Bool) (d : BitVec 7) (a : BitVec 7) (i : BitVec 9) : Statement (.ori e d a i) := by
  intro hw w he
  cases he
  apply decode_of hw (by show assigned 3 _ = true; rw [opcode_pack]; decide)
  obtain ⟨h0, h1, h2⟩ := layout_13 d a i _ rfl
  have hp : ∀ (v : Nat) (w : Word), opcodeOf w = 0x33 →
      parse v w = chk 0x0 false w (.ori (sBit w) (w.extractLsb' 16 7) (w.extractLsb' 9 7) (w.extractLsb' 0 9)) := by
    intro v w h
    unfold parse
    rw [h]
    rfl
  refine (hp _ _ (opcode_pack ..)).trans ?_
  refine (chk_ok (by decide) (and_zero _) (fun h => by cases h)).trans ?_
  rw [sBit_pack, ext_pack _ _ _ _ _ (by decide), ext_pack _ _ _ _ _ (by decide), ext_pack _ _ _ _ _ (by decide), h0, h1, h2]

theorem xori (e : Bool) (d : BitVec 7) (a : BitVec 7) (i : BitVec 9) : Statement (.xori e d a i) := by
  intro hw w he
  cases he
  apply decode_of hw (by show assigned 3 _ = true; rw [opcode_pack]; decide)
  obtain ⟨h0, h1, h2⟩ := layout_13 d a i _ rfl
  have hp : ∀ (v : Nat) (w : Word), opcodeOf w = 0x34 →
      parse v w = chk 0x0 false w (.xori (sBit w) (w.extractLsb' 16 7) (w.extractLsb' 9 7) (w.extractLsb' 0 9)) := by
    intro v w h
    unfold parse
    rw [h]
    rfl
  refine (hp _ _ (opcode_pack ..)).trans ?_
  refine (chk_ok (by decide) (and_zero _) (fun h => by cases h)).trans ?_
  rw [sBit_pack, ext_pack _ _ _ _ _ (by decide), ext_pack _ _ _ _ _ (by decide), ext_pack _ _ _ _ _ (by decide), h0, h1, h2]

theorem shi (e : Bool) (d : BitVec 7) (a : BitVec 7) (k : BitVec 2) (n : BitVec 5) : Statement (.shi e d a k n) := by
  intro hw w he
  cases he
  apply decode_of hw (by show assigned 3 _ = true; rw [opcode_pack]; decide)
  obtain ⟨h0, h1, h2, h3, m0⟩ := layout_14 d a k n _ rfl
  have hp : ∀ (v : Nat) (w : Word), opcodeOf w = 0x35 →
      parse v w = chk 0x180 false w (.shi (sBit w) (w.extractLsb' 16 7) (w.extractLsb' 9 7) (w.extractLsb' 5 2) (w.extractLsb' 0 5)) := by
    intro v w h
    unfold parse
    rw [h]
    rfl
  refine (hp _ _ (opcode_pack ..)).trans ?_
  refine (chk_ok (by decide) (and_mask _ 7 2 m0 (by decide)) (fun h => by cases h)).trans ?_
  rw [sBit_pack, ext_pack _ _ _ _ _ (by decide), ext_pack _ _ _ _ _ (by decide), ext_pack _ _ _ _ _ (by decide), ext_pack _ _ _ _ _ (by decide), h0, h1, h2, h3]

theorem cmpi (e : Bool) (p : BitVec 6) (a : BitVec 7) (c : BitVec 3) (i : BitVec 7) : Statement (.cmpi e p a c i) := by
  intro hw w he
  cases he
  apply decode_of hw (by show assigned 3 _ = true; rw [opcode_pack]; decide)
  obtain ⟨h0, h1, h2, h3⟩ := layout_15 p a c i _ rfl
  have hp : ∀ (v : Nat) (w : Word), opcodeOf w = 0x36 →
      parse v w = chk 0x0 false w (.cmpi (sBit w) (w.extractLsb' 17 6) (w.extractLsb' 10 7) (w.extractLsb' 7 3) (w.extractLsb' 0 7)) := by
    intro v w h
    unfold parse
    rw [h]
    rfl
  refine (hp _ _ (opcode_pack ..)).trans ?_
  refine (chk_ok (by decide) (and_zero _) (fun h => by cases h)).trans ?_
  rw [sBit_pack, ext_pack _ _ _ _ _ (by decide), ext_pack _ _ _ _ _ (by decide), ext_pack _ _ _ _ _ (by decide), ext_pack _ _ _ _ _ (by decide), h0, h1, h2, h3]

theorem cmpiV1 (e : Bool) (p : BitVec 6) (a : BitVec 7) (c : BitVec 3) (i : BitVec 7) :
    Statement (.cmpiV1 e p a c i) := by
  intro hw w he
  cases he
  apply decode_of hw (by show assigned 1 _ = true; rw [opcode_pack]; decide)
  obtain ⟨h0, h1, h2, h3⟩ := layout_15 p a c i _ rfl
  have hp : ∀ w : Word, opcodeOf w = 0x3A → parse 1 w = .ok (.cmpiV1 (sBit w) (w.extractLsb' 17 6)
      (w.extractLsb' 10 7) (w.extractLsb' 7 3) (w.extractLsb' 0 7)) := by
    intro w h
    unfold parse
    rw [h]
    rfl
  refine (hp _ (opcode_pack ..)).trans ?_
  rw [sBit_pack, ext_pack _ _ _ _ _ (by decide), ext_pack _ _ _ _ _ (by decide), ext_pack _ _ _ _ _ (by decide),
    ext_pack _ _ _ _ _ (by decide), h0, h1, h2, h3]

theorem mov (e : Bool) (d : BitVec 7) (a : BitVec 7) : Statement (.mov e d a) := by
  intro hw w he
  cases he
  apply decode_of hw (by show assigned 3 _ = true; rw [opcode_pack]; decide)
  obtain ⟨h0, h1, hf, m0⟩ := layout_11 d a _ rfl
  have hp : ∀ (v : Nat) (w : Word), opcodeOf w = 0x37 →
      parse v w = chk 0x1FC true w (.mov (sBit w) (w.extractLsb' 16 7) (w.extractLsb' 9 7)) := by
    intro v w h
    unfold parse
    rw [h]
    rfl
  refine (hp _ _ (opcode_pack ..)).trans ?_
  refine (chk_ok (by decide) (and_mask _ 2 7 m0 (by decide)) fun _ => hf).trans ?_
  rw [sBit_pack, ext_pack _ _ _ _ _ (by decide), ext_pack _ _ _ _ _ (by decide), h0, h1]

theorem s2g (e : Bool) (d : BitVec 7) (c : BitVec 16) : Statement (.s2g e d c) := by
  intro hw w he
  cases he
  apply decode_of hw (by show assigned 3 _ = true; rw [opcode_pack]; decide)
  obtain ⟨h0, h1⟩ := layout_8 d c _ rfl
  have hp : ∀ (v : Nat) (w : Word), opcodeOf w = 0x38 →
      parse v w = chk 0x0 false w (.s2g (sBit w) (w.extractLsb' 16 7) (w.extractLsb' 0 16)) := by
    intro v w h
    unfold parse
    rw [h]
    rfl
  refine (hp _ _ (opcode_pack ..)).trans ?_
  refine (chk_ok (by decide) (and_zero _) (fun h => by cases h)).trans ?_
  rw [sBit_pack, ext_pack _ _ _ _ _ (by decide), ext_pack _ _ _ _ _ (by decide), h0, h1]

theorem g2s (e : Bool) (d : BitVec 7) (c : BitVec 16) : Statement (.g2s e d c) := by
  intro hw w he
  cases he
  apply decode_of hw (by show assigned 3 _ = true; rw [opcode_pack]; decide)
  obtain ⟨h0, h1⟩ := layout_8 d c _ rfl
  have hp : ∀ (v : Nat) (w : Word), opcodeOf w = 0x39 →
      parse v w = chk 0x0 false w (.g2s (sBit w) (w.extractLsb' 16 7) (w.extractLsb' 0 16)) := by
    intro v w h
    unfold parse
    rw [h]
    rfl
  refine (hp _ _ (opcode_pack ..)).trans ?_
  refine (chk_ok (by decide) (and_zero _) (fun h => by cases h)).trans ?_
  rw [sBit_pack, ext_pack _ _ _ _ _ (by decide), ext_pack _ _ _ _ _ (by decide), h0, h1]

theorem ldpc (e : Bool) (d : BitVec 7) (i : BitVec 16) : Statement (.ldpc e d i) := by
  intro hw w he
  cases he
  apply decode_of hw (by show assigned 3 _ = true; rw [opcode_pack]; decide)
  obtain ⟨h0, h1⟩ := layout_8 d i _ rfl
  have hp : ∀ w : Word, opcodeOf w = 0x3A →
      parse 3 w = .ok (.ldpc (sBit w) (w.extractLsb' 16 7) (w.extractLsb' 0 16)) := by
    intro w h
    unfold parse
    rw [h]
    rfl
  refine (hp _ (opcode_pack ..)).trans ?_
  rw [sBit_pack, ext_pack _ _ _ _ _ (by decide), ext_pack _ _ _ _ _ (by decide), h0, h1]

theorem addw (e : Bool) (d : BitVec 7) (a : BitVec 7) (b : BitVec 7) : Statement (.addw e d a b) := by
  intro hw w he
  cases he
  apply decode_of hw (by show assigned 3 _ = true; rw [opcode_pack]; decide)
  obtain ⟨h0, h1, h2, hf⟩ := layout_9 d a b _ rfl
  have hp : ∀ (v : Nat) (w : Word), opcodeOf w = 0x40 →
      parse v w = chk 0x0 true w (.addw (sBit w) (w.extractLsb' 16 7) (w.extractLsb' 9 7) (w.extractLsb' 2 7)) := by
    intro v w h
    unfold parse
    rw [h]
    rfl
  refine (hp _ _ (opcode_pack ..)).trans ?_
  refine (chk_ok (by decide) (and_zero _) fun _ => hf).trans ?_
  rw [sBit_pack, ext_pack _ _ _ _ _ (by decide), ext_pack _ _ _ _ _ (by decide), ext_pack _ _ _ _ _ (by decide), h0, h1, h2]

theorem subw (e : Bool) (d : BitVec 7) (a : BitVec 7) (b : BitVec 7) : Statement (.subw e d a b) := by
  intro hw w he
  cases he
  apply decode_of hw (by show assigned 3 _ = true; rw [opcode_pack]; decide)
  obtain ⟨h0, h1, h2, hf⟩ := layout_9 d a b _ rfl
  have hp : ∀ (v : Nat) (w : Word), opcodeOf w = 0x41 →
      parse v w = chk 0x0 true w (.subw (sBit w) (w.extractLsb' 16 7) (w.extractLsb' 9 7) (w.extractLsb' 2 7)) := by
    intro v w h
    unfold parse
    rw [h]
    rfl
  refine (hp _ _ (opcode_pack ..)).trans ?_
  refine (chk_ok (by decide) (and_zero _) fun _ => hf).trans ?_
  rw [sBit_pack, ext_pack _ _ _ _ _ (by decide), ext_pack _ _ _ _ _ (by decide), ext_pack _ _ _ _ _ (by decide), h0, h1, h2]

theorem mulw (e : Bool) (d : BitVec 7) (a : BitVec 7) (b : BitVec 7) (f : BitVec 2) : Statement (.mulw e d a b f) := by
  intro hw w he
  cases he
  apply decode_of hw (by show assigned 3 _ = true; rw [opcode_pack]; decide)
  obtain ⟨h0, h1, h2, h3⟩ := layout_10 d a b f _ rfl
  have hp : ∀ (v : Nat) (w : Word), opcodeOf w = 0x42 →
      parse v w = chk 0x0 false w (.mulw (sBit w) (w.extractLsb' 16 7) (w.extractLsb' 9 7) (w.extractLsb' 2 7) (w.extractLsb' 0 2)) := by
    intro v w h
    unfold parse
    rw [h]
    rfl
  refine (hp _ _ (opcode_pack ..)).trans ?_
  refine (chk_ok (by decide) (and_zero _) (fun h => by cases h)).trans ?_
  rw [sBit_pack, ext_pack _ _ _ _ _ (by decide), ext_pack _ _ _ _ _ (by decide), ext_pack _ _ _ _ _ (by decide), ext_pack _ _ _ _ _ (by decide), h0, h1, h2, h3]

theorem shlw (e : Bool) (d : BitVec 7) (a : BitVec 7) (b : BitVec 7) : Statement (.shlw e d a b) := by
  intro hw w he
  cases he
  apply decode_of hw (by show assigned 3 _ = true; rw [opcode_pack]; decide)
  obtain ⟨h0, h1, h2, hf⟩ := layout_9 d a b _ rfl
  have hp : ∀ (v : Nat) (w : Word), opcodeOf w = 0x43 →
      parse v w = chk 0x0 true w (.shlw (sBit w) (w.extractLsb' 16 7) (w.extractLsb' 9 7) (w.extractLsb' 2 7)) := by
    intro v w h
    unfold parse
    rw [h]
    rfl
  refine (hp _ _ (opcode_pack ..)).trans ?_
  refine (chk_ok (by decide) (and_zero _) fun _ => hf).trans ?_
  rw [sBit_pack, ext_pack _ _ _ _ _ (by decide), ext_pack _ _ _ _ _ (by decide), ext_pack _ _ _ _ _ (by decide), h0, h1, h2]

theorem shrw (e : Bool) (d : BitVec 7) (a : BitVec 7) (b : BitVec 7) (f : BitVec 2) : Statement (.shrw e d a b f) := by
  intro hw w he
  cases he
  apply decode_of hw (by show assigned 3 _ = true; rw [opcode_pack]; decide)
  obtain ⟨h0, h1, h2, h3⟩ := layout_10 d a b f _ rfl
  have hp : ∀ (v : Nat) (w : Word), opcodeOf w = 0x44 →
      parse v w = chk 0x0 false w (.shrw (sBit w) (w.extractLsb' 16 7) (w.extractLsb' 9 7) (w.extractLsb' 2 7) (w.extractLsb' 0 2)) := by
    intro v w h
    unfold parse
    rw [h]
    rfl
  refine (hp _ _ (opcode_pack ..)).trans ?_
  refine (chk_ok (by decide) (and_zero _) (fun h => by cases h)).trans ?_
  rw [sBit_pack, ext_pack _ _ _ _ _ (by decide), ext_pack _ _ _ _ _ (by decide), ext_pack _ _ _ _ _ (by decide), ext_pack _ _ _ _ _ (by decide), h0, h1, h2, h3]

theorem leaw (e : Bool) (d : BitVec 7) (a : BitVec 7) (b : BitVec 7) (f : BitVec 2) : Statement (.leaw e d a b f) := by
  intro hw w he
  cases he
  apply decode_of hw (by show assigned 3 _ = true; rw [opcode_pack]; decide)
  obtain ⟨h0, h1, h2, h3⟩ := layout_10 d a b f _ rfl
  have hp : ∀ (v : Nat) (w : Word), opcodeOf w = 0x45 →
      parse v w = chk 0x0 false w (.leaw (sBit w) (w.extractLsb' 16 7) (w.extractLsb' 9 7) (w.extractLsb' 2 7) (w.extractLsb' 0 2)) := by
    intro v w h
    unfold parse
    rw [h]
    rfl
  refine (hp _ _ (opcode_pack ..)).trans ?_
  refine (chk_ok (by decide) (and_zero _) (fun h => by cases h)).trans ?_
  rw [sBit_pack, ext_pack _ _ _ _ _ (by decide), ext_pack _ _ _ _ _ (by decide), ext_pack _ _ _ _ _ (by decide), ext_pack _ _ _ _ _ (by decide), h0, h1, h2, h3]

theorem movw (e : Bool) (d : BitVec 7) (a : BitVec 7) : Statement (.movw e d a) := by
  intro hw w he
  cases he
  apply decode_of hw (by show assigned 3 _ = true; rw [opcode_pack]; decide)
  obtain ⟨h0, h1, hf, m0⟩ := layout_11 d a _ rfl
  have hp : ∀ (v : Nat) (w : Word), opcodeOf w = 0x46 →
      parse v w = chk 0x1FC true w (.movw (sBit w) (w.extractLsb' 16 7) (w.extractLsb' 9 7)) := by
    intro v w h
    unfold parse
    rw [h]
    rfl
  refine (hp _ _ (opcode_pack ..)).trans ?_
  refine (chk_ok (by decide) (and_mask _ 2 7 m0 (by decide)) fun _ => hf).trans ?_
  rw [sBit_pack, ext_pack _ _ _ _ _ (by decide), ext_pack _ _ _ _ _ (by decide), h0, h1]

theorem cmp (e : Bool) (p : BitVec 6) (a : BitVec 7) (b : BitVec 7) (c : BitVec 3) : Statement (.cmp e p a b c) := by
  intro hw w he
  cases he
  apply decode_of hw (by show assigned 3 _ = true; rw [opcode_pack]; decide)
  obtain ⟨h0, h1, h2, h3⟩ := layout_16 p a b c _ rfl
  have hp : ∀ (v : Nat) (w : Word), opcodeOf w = 0x47 →
      parse v w = chk 0x0 false w (.cmp (sBit w) (w.extractLsb' 17 6) (w.extractLsb' 10 7) (w.extractLsb' 3 7) (w.extractLsb' 0 3)) := by
    intro v w h
    unfold parse
    rw [h]
    rfl
  refine (hp _ _ (opcode_pack ..)).trans ?_
  refine (chk_ok (by decide) (and_zero _) (fun h => by cases h)).trans ?_
  rw [sBit_pack, ext_pack _ _ _ _ _ (by decide), ext_pack _ _ _ _ _ (by decide), ext_pack _ _ _ _ _ (by decide), ext_pack _ _ _ _ _ (by decide), h0, h1, h2, h3]

theorem cmpw (e : Bool) (p : BitVec 6) (a : BitVec 7) (b : BitVec 7) (c : BitVec 3) : Statement (.cmpw e p a b c) := by
  intro hw w he
  cases he
  apply decode_of hw (by show assigned 3 _ = true; rw [opcode_pack]; decide)
  obtain ⟨h0, h1, h2, h3⟩ := layout_16 p a b c _ rfl
  have hp : ∀ (v : Nat) (w : Word), opcodeOf w = 0x48 →
      parse v w = chk 0x0 false w (.cmpw (sBit w) (w.extractLsb' 17 6) (w.extractLsb' 10 7) (w.extractLsb' 3 7) (w.extractLsb' 0 3)) := by
    intro v w h
    unfold parse
    rw [h]
    rfl
  refine (hp _ _ (opcode_pack ..)).trans ?_
  refine (chk_ok (by decide) (and_zero _) (fun h => by cases h)).trans ?_
  rw [sBit_pack, ext_pack _ _ _ _ _ (by decide), ext_pack _ _ _ _ _ (by decide), ext_pack _ _ _ _ _ (by decide), ext_pack _ _ _ _ _ (by decide), h0, h1, h2, h3]

theorem plog (e : Bool) (d : BitVec 7) (a : BitVec 7) (b : BitVec 7) (f : BitVec 2) : Statement (.plog e d a b f) := by
  intro hw w he
  cases he
  apply decode_of hw (by show assigned 3 _ = true; rw [opcode_pack]; decide)
  obtain ⟨h0, h1, h2, h3⟩ := layout_10 d a b f _ rfl
  have hp : ∀ (v : Nat) (w : Word), opcodeOf w = 0x49 →
      parse v w = chk 0x0 false w (.plog (sBit w) (w.extractLsb' 16 7) (w.extractLsb' 9 7) (w.extractLsb' 2 7) (w.extractLsb' 0 2)) := by
    intro v w h
    unfold parse
    rw [h]
    rfl
  refine (hp _ _ (opcode_pack ..)).trans ?_
  refine (chk_ok (by decide) (and_zero _) (fun h => by cases h)).trans ?_
  rw [sBit_pack, ext_pack _ _ _ _ _ (by decide), ext_pack _ _ _ _ _ (by decide), ext_pack _ _ _ _ _ (by decide), ext_pack _ _ _ _ _ (by decide), h0, h1, h2, h3]

theorem p2g (e : Bool) (d : BitVec 7) (f : BitVec 2) : Statement (.p2g e d f) := by
  intro hw w he
  cases he
  apply decode_of hw (by show assigned 3 _ = true; rw [opcode_pack]; decide)
  obtain ⟨h0, h1, m0⟩ := layout_17 d f _ rfl
  have hp : ∀ (v : Nat) (w : Word), opcodeOf w = 0x4A →
      parse v w = chk 0xFFFC false w (.p2g (sBit w) (w.extractLsb' 16 7) (w.extractLsb' 0 2)) := by
    intro v w h
    unfold parse
    rw [h]
    rfl
  refine (hp _ _ (opcode_pack ..)).trans ?_
  refine (chk_ok (by decide) (and_mask _ 2 14 m0 (by decide)) (fun h => by cases h)).trans ?_
  rw [sBit_pack, ext_pack _ _ _ _ _ (by decide), ext_pack _ _ _ _ _ (by decide), h0, h1]

theorem g2p (e : Bool) (a : BitVec 7) (b : BitVec 7) (f : BitVec 2) : Statement (.g2p e a b f) := by
  intro hw w he
  cases he
  apply decode_of hw (by show assigned 3 _ = true; rw [opcode_pack]; decide)
  obtain ⟨h0, h1, h2, m0⟩ := layout_18 a b f _ rfl
  have hp : ∀ (v : Nat) (w : Word), opcodeOf w = 0x4B →
      parse v w = chk 0x7F0000 false w (.g2p (sBit w) (w.extractLsb' 9 7) (w.extractLsb' 2 7) (w.extractLsb' 0 2)) := by
    intro v w h
    unfold parse
    rw [h]
    rfl
  refine (hp _ _ (opcode_pack ..)).trans ?_
  refine (chk_ok (by decide) (and_mask _ 16 7 m0 (by decide)) (fun h => by cases h)).trans ?_
  rw [sBit_pack, ext_pack _ _ _ _ _ (by decide), ext_pack _ _ _ _ _ (by decide), ext_pack _ _ _ _ _ (by decide), h0, h1, h2]

theorem fadd (e : Bool) (d : BitVec 7) (a : BitVec 7) (b : BitVec 7) (f : BitVec 2) : Statement (.fadd e d a b f) := by
  intro hw w he
  cases he
  apply decode_of hw (by show assigned 3 _ = true; rw [opcode_pack]; decide)
  obtain ⟨h0, h1, h2, h3⟩ := layout_10 d a b f _ rfl
  have hp : ∀ (v : Nat) (w : Word), opcodeOf w = 0x50 →
      parse v w = chk 0x0 false w (.fadd (sBit w) (w.extractLsb' 16 7) (w.extractLsb' 9 7) (w.extractLsb' 2 7) (w.extractLsb' 0 2)) := by
    intro v w h
    unfold parse
    rw [h]
    rfl
  refine (hp _ _ (opcode_pack ..)).trans ?_
  refine (chk_ok (by decide) (and_zero _) (fun h => by cases h)).trans ?_
  rw [sBit_pack, ext_pack _ _ _ _ _ (by decide), ext_pack _ _ _ _ _ (by decide), ext_pack _ _ _ _ _ (by decide), ext_pack _ _ _ _ _ (by decide), h0, h1, h2, h3]

theorem fsub (e : Bool) (d : BitVec 7) (a : BitVec 7) (b : BitVec 7) (f : BitVec 2) : Statement (.fsub e d a b f) := by
  intro hw w he
  cases he
  apply decode_of hw (by show assigned 3 _ = true; rw [opcode_pack]; decide)
  obtain ⟨h0, h1, h2, h3⟩ := layout_10 d a b f _ rfl
  have hp : ∀ (v : Nat) (w : Word), opcodeOf w = 0x51 →
      parse v w = chk 0x0 false w (.fsub (sBit w) (w.extractLsb' 16 7) (w.extractLsb' 9 7) (w.extractLsb' 2 7) (w.extractLsb' 0 2)) := by
    intro v w h
    unfold parse
    rw [h]
    rfl
  refine (hp _ _ (opcode_pack ..)).trans ?_
  refine (chk_ok (by decide) (and_zero _) (fun h => by cases h)).trans ?_
  rw [sBit_pack, ext_pack _ _ _ _ _ (by decide), ext_pack _ _ _ _ _ (by decide), ext_pack _ _ _ _ _ (by decide), ext_pack _ _ _ _ _ (by decide), h0, h1, h2, h3]

theorem fmul (e : Bool) (d : BitVec 7) (a : BitVec 7) (b : BitVec 7) (f : BitVec 2) : Statement (.fmul e d a b f) := by
  intro hw w he
  cases he
  apply decode_of hw (by show assigned 3 _ = true; rw [opcode_pack]; decide)
  obtain ⟨h0, h1, h2, h3⟩ := layout_10 d a b f _ rfl
  have hp : ∀ (v : Nat) (w : Word), opcodeOf w = 0x52 →
      parse v w = chk 0x0 false w (.fmul (sBit w) (w.extractLsb' 16 7) (w.extractLsb' 9 7) (w.extractLsb' 2 7) (w.extractLsb' 0 2)) := by
    intro v w h
    unfold parse
    rw [h]
    rfl
  refine (hp _ _ (opcode_pack ..)).trans ?_
  refine (chk_ok (by decide) (and_zero _) (fun h => by cases h)).trans ?_
  rw [sBit_pack, ext_pack _ _ _ _ _ (by decide), ext_pack _ _ _ _ _ (by decide), ext_pack _ _ _ _ _ (by decide), ext_pack _ _ _ _ _ (by decide), h0, h1, h2, h3]

theorem ffma (e : Bool) (d : BitVec 7) (a : BitVec 7) (b : BitVec 7) (f : BitVec 2) : Statement (.ffma e d a b f) := by
  intro hw w he
  cases he
  apply decode_of hw (by show assigned 3 _ = true; rw [opcode_pack]; decide)
  obtain ⟨h0, h1, h2, h3⟩ := layout_10 d a b f _ rfl
  have hp : ∀ (v : Nat) (w : Word), opcodeOf w = 0x53 →
      parse v w = chk 0x0 false w (.ffma (sBit w) (w.extractLsb' 16 7) (w.extractLsb' 9 7) (w.extractLsb' 2 7) (w.extractLsb' 0 2)) := by
    intro v w h
    unfold parse
    rw [h]
    rfl
  refine (hp _ _ (opcode_pack ..)).trans ?_
  refine (chk_ok (by decide) (and_zero _) (fun h => by cases h)).trans ?_
  rw [sBit_pack, ext_pack _ _ _ _ _ (by decide), ext_pack _ _ _ _ _ (by decide), ext_pack _ _ _ _ _ (by decide), ext_pack _ _ _ _ _ (by decide), h0, h1, h2, h3]

theorem fmin (e : Bool) (d : BitVec 7) (a : BitVec 7) (b : BitVec 7) (f : BitVec 2) : Statement (.fmin e d a b f) := by
  intro hw w he
  cases he
  apply decode_of hw (by show assigned 3 _ = true; rw [opcode_pack]; decide)
  obtain ⟨h0, h1, h2, h3⟩ := layout_10 d a b f _ rfl
  have hp : ∀ (v : Nat) (w : Word), opcodeOf w = 0x54 →
      parse v w = chk 0x0 false w (.fmin (sBit w) (w.extractLsb' 16 7) (w.extractLsb' 9 7) (w.extractLsb' 2 7) (w.extractLsb' 0 2)) := by
    intro v w h
    unfold parse
    rw [h]
    rfl
  refine (hp _ _ (opcode_pack ..)).trans ?_
  refine (chk_ok (by decide) (and_zero _) (fun h => by cases h)).trans ?_
  rw [sBit_pack, ext_pack _ _ _ _ _ (by decide), ext_pack _ _ _ _ _ (by decide), ext_pack _ _ _ _ _ (by decide), ext_pack _ _ _ _ _ (by decide), h0, h1, h2, h3]

theorem fmax (e : Bool) (d : BitVec 7) (a : BitVec 7) (b : BitVec 7) (f : BitVec 2) : Statement (.fmax e d a b f) := by
  intro hw w he
  cases he
  apply decode_of hw (by show assigned 3 _ = true; rw [opcode_pack]; decide)
  obtain ⟨h0, h1, h2, h3⟩ := layout_10 d a b f _ rfl
  have hp : ∀ (v : Nat) (w : Word), opcodeOf w = 0x55 →
      parse v w = chk 0x0 false w (.fmax (sBit w) (w.extractLsb' 16 7) (w.extractLsb' 9 7) (w.extractLsb' 2 7) (w.extractLsb' 0 2)) := by
    intro v w h
    unfold parse
    rw [h]
    rfl
  refine (hp _ _ (opcode_pack ..)).trans ?_
  refine (chk_ok (by decide) (and_zero _) (fun h => by cases h)).trans ?_
  rw [sBit_pack, ext_pack _ _ _ _ _ (by decide), ext_pack _ _ _ _ _ (by decide), ext_pack _ _ _ _ _ (by decide), ext_pack _ _ _ _ _ (by decide), h0, h1, h2, h3]

theorem fcmp (e : Bool) (p : BitVec 6) (a : BitVec 7) (b : BitVec 7) (t : BitVec 1) (c : BitVec 2) : Statement (.fcmp e p a b t c) := by
  intro hw w he
  cases he
  apply decode_of hw (by show assigned 3 _ = true; rw [opcode_pack]; decide)
  obtain ⟨h0, h1, h2, h3, h4⟩ := layout_19 p a b t c _ rfl
  have hp : ∀ (v : Nat) (w : Word), opcodeOf w = 0x56 →
      parse v w = chk 0x0 false w (.fcmp (sBit w) (w.extractLsb' 17 6) (w.extractLsb' 10 7) (w.extractLsb' 3 7) (w.extractLsb' 2 1) (w.extractLsb' 0 2)) := by
    intro v w h
    unfold parse
    rw [h]
    rfl
  refine (hp _ _ (opcode_pack ..)).trans ?_
  refine (chk_ok (by decide) (and_zero _) (fun h => by cases h)).trans ?_
  rw [sBit_pack, ext_pack _ _ _ _ _ (by decide), ext_pack _ _ _ _ _ (by decide), ext_pack _ _ _ _ _ (by decide), ext_pack _ _ _ _ _ (by decide), ext_pack _ _ _ _ _ (by decide), h0, h1, h2, h3, h4]

theorem fcvt (e : Bool) (d : BitVec 7) (a : BitVec 7) (fr : BitVec 3) (tt : BitVec 3) : Statement (.fcvt e d a fr tt) := by
  intro hw w he
  cases he
  apply decode_of hw (by show assigned 3 _ = true; rw [opcode_pack]; decide)
  obtain ⟨h0, h1, h2, h3, hf, m0⟩ := layout_20 d a fr tt _ rfl
  have hp : ∀ (v : Nat) (w : Word), opcodeOf w = 0x57 →
      parse v w = chk 0x4 true w (.fcvt (sBit w) (w.extractLsb' 16 7) (w.extractLsb' 9 7) (w.extractLsb' 6 3) (w.extractLsb' 3 3)) := by
    intro v w h
    unfold parse
    rw [h]
    rfl
  refine (hp _ _ (opcode_pack ..)).trans ?_
  refine (chk_ok (by decide) (and_mask _ 2 1 m0 (by decide)) fun _ => hf).trans ?_
  rw [sBit_pack, ext_pack _ _ _ _ _ (by decide), ext_pack _ _ _ _ _ (by decide), ext_pack _ _ _ _ _ (by decide), ext_pack _ _ _ _ _ (by decide), h0, h1, h2, h3]

theorem icvt (e : Bool) (d : BitVec 7) (a : BitVec 7) (m : BitVec 3) (k : BitVec 2) (f : BitVec 2) : Statement (.icvt e d a m k f) := by
  intro hw w he
  cases he
  apply decode_of hw (by show assigned 3 _ = true; rw [opcode_pack]; decide)
  obtain ⟨h0, h1, h2, h3, h4, m0⟩ := layout_21 d a m k f _ rfl
  have hp : ∀ (v : Nat) (w : Word), opcodeOf w = 0x58 →
      parse v w = chk 0xC false w (.icvt (sBit w) (w.extractLsb' 16 7) (w.extractLsb' 9 7) (w.extractLsb' 6 3) (w.extractLsb' 4 2) (w.extractLsb' 0 2)) := by
    intro v w h
    unfold parse
    rw [h]
    rfl
  refine (hp _ _ (opcode_pack ..)).trans ?_
  refine (chk_ok (by decide) (and_mask _ 2 2 m0 (by decide)) (fun h => by cases h)).trans ?_
  rw [sBit_pack, ext_pack _ _ _ _ _ (by decide), ext_pack _ _ _ _ _ (by decide), ext_pack _ _ _ _ _ (by decide), ext_pack _ _ _ _ _ (by decide), ext_pack _ _ _ _ _ (by decide), h0, h1, h2, h3, h4]

theorem rcp (e : Bool) (d : BitVec 7) (a : BitVec 7) (f : BitVec 2) : Statement (.rcp e d a f) := by
  intro hw w he
  cases he
  apply decode_of hw (by show assigned 3 _ = true; rw [opcode_pack]; decide)
  obtain ⟨h0, h1, h2, m0⟩ := layout_22 d a f _ rfl
  have hp : ∀ (v : Nat) (w : Word), opcodeOf w = 0x60 →
      parse v w = chk 0x1FC false w (.rcp (sBit w) (w.extractLsb' 16 7) (w.extractLsb' 9 7) (w.extractLsb' 0 2)) := by
    intro v w h
    unfold parse
    rw [h]
    rfl
  refine (hp _ _ (opcode_pack ..)).trans ?_
  refine (chk_ok (by decide) (and_mask _ 2 7 m0 (by decide)) (fun h => by cases h)).trans ?_
  rw [sBit_pack, ext_pack _ _ _ _ _ (by decide), ext_pack _ _ _ _ _ (by decide), ext_pack _ _ _ _ _ (by decide), h0, h1, h2]

theorem rsq (e : Bool) (d : BitVec 7) (a : BitVec 7) : Statement (.rsq e d a) := by
  intro hw w he
  cases he
  apply decode_of hw (by show assigned 3 _ = true; rw [opcode_pack]; decide)
  obtain ⟨h0, h1, hf, m0⟩ := layout_11 d a _ rfl
  have hp : ∀ (v : Nat) (w : Word), opcodeOf w = 0x61 →
      parse v w = chk 0x1FC true w (.rsq (sBit w) (w.extractLsb' 16 7) (w.extractLsb' 9 7)) := by
    intro v w h
    unfold parse
    rw [h]
    rfl
  refine (hp _ _ (opcode_pack ..)).trans ?_
  refine (chk_ok (by decide) (and_mask _ 2 7 m0 (by decide)) fun _ => hf).trans ?_
  rw [sBit_pack, ext_pack _ _ _ _ _ (by decide), ext_pack _ _ _ _ _ (by decide), h0, h1]

theorem sqrt (e : Bool) (d : BitVec 7) (a : BitVec 7) (f : BitVec 2) : Statement (.sqrt e d a f) := by
  intro hw w he
  cases he
  apply decode_of hw (by show assigned 3 _ = true; rw [opcode_pack]; decide)
  obtain ⟨h0, h1, h2, m0⟩ := layout_22 d a f _ rfl
  have hp : ∀ (v : Nat) (w : Word), opcodeOf w = 0x62 →
      parse v w = chk 0x1FC false w (.sqrt (sBit w) (w.extractLsb' 16 7) (w.extractLsb' 9 7) (w.extractLsb' 0 2)) := by
    intro v w h
    unfold parse
    rw [h]
    rfl
  refine (hp _ _ (opcode_pack ..)).trans ?_
  refine (chk_ok (by decide) (and_mask _ 2 7 m0 (by decide)) (fun h => by cases h)).trans ?_
  rw [sBit_pack, ext_pack _ _ _ _ _ (by decide), ext_pack _ _ _ _ _ (by decide), ext_pack _ _ _ _ _ (by decide), h0, h1, h2]

theorem ex2 (e : Bool) (d : BitVec 7) (a : BitVec 7) : Statement (.ex2 e d a) := by
  intro hw w he
  cases he
  apply decode_of hw (by show assigned 3 _ = true; rw [opcode_pack]; decide)
  obtain ⟨h0, h1, hf, m0⟩ := layout_11 d a _ rfl
  have hp : ∀ (v : Nat) (w : Word), opcodeOf w = 0x63 →
      parse v w = chk 0x1FC true w (.ex2 (sBit w) (w.extractLsb' 16 7) (w.extractLsb' 9 7)) := by
    intro v w h
    unfold parse
    rw [h]
    rfl
  refine (hp _ _ (opcode_pack ..)).trans ?_
  refine (chk_ok (by decide) (and_mask _ 2 7 m0 (by decide)) fun _ => hf).trans ?_
  rw [sBit_pack, ext_pack _ _ _ _ _ (by decide), ext_pack _ _ _ _ _ (by decide), h0, h1]

theorem lg2 (e : Bool) (d : BitVec 7) (a : BitVec 7) : Statement (.lg2 e d a) := by
  intro hw w he
  cases he
  apply decode_of hw (by show assigned 3 _ = true; rw [opcode_pack]; decide)
  obtain ⟨h0, h1, hf, m0⟩ := layout_11 d a _ rfl
  have hp : ∀ (v : Nat) (w : Word), opcodeOf w = 0x64 →
      parse v w = chk 0x1FC true w (.lg2 (sBit w) (w.extractLsb' 16 7) (w.extractLsb' 9 7)) := by
    intro v w h
    unfold parse
    rw [h]
    rfl
  refine (hp _ _ (opcode_pack ..)).trans ?_
  refine (chk_ok (by decide) (and_mask _ 2 7 m0 (by decide)) fun _ => hf).trans ?_
  rw [sBit_pack, ext_pack _ _ _ _ _ (by decide), ext_pack _ _ _ _ _ (by decide), h0, h1]

theorem sin (e : Bool) (d : BitVec 7) (a : BitVec 7) : Statement (.sin e d a) := by
  intro hw w he
  cases he
  apply decode_of hw (by show assigned 3 _ = true; rw [opcode_pack]; decide)
  obtain ⟨h0, h1, hf, m0⟩ := layout_11 d a _ rfl
  have hp : ∀ (v : Nat) (w : Word), opcodeOf w = 0x65 →
      parse v w = chk 0x1FC true w (.sin (sBit w) (w.extractLsb' 16 7) (w.extractLsb' 9 7)) := by
    intro v w h
    unfold parse
    rw [h]
    rfl
  refine (hp _ _ (opcode_pack ..)).trans ?_
  refine (chk_ok (by decide) (and_mask _ 2 7 m0 (by decide)) fun _ => hf).trans ?_
  rw [sBit_pack, ext_pack _ _ _ _ _ (by decide), ext_pack _ _ _ _ _ (by decide), h0, h1]

theorem cos (e : Bool) (d : BitVec 7) (a : BitVec 7) : Statement (.cos e d a) := by
  intro hw w he
  cases he
  apply decode_of hw (by show assigned 3 _ = true; rw [opcode_pack]; decide)
  obtain ⟨h0, h1, hf, m0⟩ := layout_11 d a _ rfl
  have hp : ∀ (v : Nat) (w : Word), opcodeOf w = 0x66 →
      parse v w = chk 0x1FC true w (.cos (sBit w) (w.extractLsb' 16 7) (w.extractLsb' 9 7)) := by
    intro v w h
    unfold parse
    rw [h]
    rfl
  refine (hp _ _ (opcode_pack ..)).trans ?_
  refine (chk_ok (by decide) (and_mask _ 2 7 m0 (by decide)) fun _ => hf).trans ?_
  rw [sBit_pack, ext_pack _ _ _ _ _ (by decide), ext_pack _ _ _ _ _ (by decide), h0, h1]

theorem tanh (e : Bool) (d : BitVec 7) (a : BitVec 7) : Statement (.tanh e d a) := by
  intro hw w he
  cases he
  apply decode_of hw (by show assigned 3 _ = true; rw [opcode_pack]; decide)
  obtain ⟨h0, h1, hf, m0⟩ := layout_11 d a _ rfl
  have hp : ∀ (v : Nat) (w : Word), opcodeOf w = 0x67 →
      parse v w = chk 0x1FC true w (.tanh (sBit w) (w.extractLsb' 16 7) (w.extractLsb' 9 7)) := by
    intro v w h
    unfold parse
    rw [h]
    rfl
  refine (hp _ _ (opcode_pack ..)).trans ?_
  refine (chk_ok (by decide) (and_mask _ 2 7 m0 (by decide)) fun _ => hf).trans ?_
  rw [sBit_pack, ext_pack _ _ _ _ _ (by decide), ext_pack _ _ _ _ _ (by decide), h0, h1]

theorem dot4 (e : Bool) (d : BitVec 7) (a : BitVec 7) (b : BitVec 7) (f : BitVec 2) : Statement (.dot4 e d a b f) := by
  intro hw w he
  cases he
  apply decode_of hw (by show assigned 3 _ = true; rw [opcode_pack]; decide)
  obtain ⟨h0, h1, h2, h3⟩ := layout_10 d a b f _ rfl
  have hp : ∀ (v : Nat) (w : Word), opcodeOf w = 0x68 →
      parse v w = chk 0x0 false w (.dot4 (sBit w) (w.extractLsb' 16 7) (w.extractLsb' 9 7) (w.extractLsb' 2 7) (w.extractLsb' 0 2)) := by
    intro v w h
    unfold parse
    rw [h]
    rfl
  refine (hp _ _ (opcode_pack ..)).trans ?_
  refine (chk_ok (by decide) (and_zero _) (fun h => by cases h)).trans ?_
  rw [sBit_pack, ext_pack _ _ _ _ _ (by decide), ext_pack _ _ _ _ _ (by decide), ext_pack _ _ _ _ _ (by decide), ext_pack _ _ _ _ _ (by decide), h0, h1, h2, h3]

theorem dot8 (e : Bool) (d : BitVec 7) (a : BitVec 7) (b : BitVec 7) (f : BitVec 2) : Statement (.dot8 e d a b f) := by
  intro hw w he
  cases he
  apply decode_of hw (by show assigned 3 _ = true; rw [opcode_pack]; decide)
  obtain ⟨h0, h1, h2, h3⟩ := layout_10 d a b f _ rfl
  have hp : ∀ (v : Nat) (w : Word), opcodeOf w = 0x69 →
      parse v w = chk 0x0 false w (.dot8 (sBit w) (w.extractLsb' 16 7) (w.extractLsb' 9 7) (w.extractLsb' 2 7) (w.extractLsb' 0 2)) := by
    intro v w h
    unfold parse
    rw [h]
    rfl
  refine (hp _ _ (opcode_pack ..)).trans ?_
  refine (chk_ok (by decide) (and_zero _) (fun h => by cases h)).trans ?_
  rw [sBit_pack, ext_pack _ _ _ _ _ (by decide), ext_pack _ _ _ _ _ (by decide), ext_pack _ _ _ _ _ (by decide), ext_pack _ _ _ _ _ (by decide), h0, h1, h2, h3]

theorem pack (e : Bool) (d : BitVec 7) (a : BitVec 7) (b : BitVec 7) (f : BitVec 2) : Statement (.pack e d a b f) := by
  intro hw w he
  cases he
  apply decode_of hw (by show assigned 3 _ = true; rw [opcode_pack]; decide)
  obtain ⟨h0, h1, h2, h3⟩ := layout_10 d a b f _ rfl
  have hp : ∀ (v : Nat) (w : Word), opcodeOf w = 0x6A →
      parse v w = chk 0x0 false w (.pack (sBit w) (w.extractLsb' 16 7) (w.extractLsb' 9 7) (w.extractLsb' 2 7) (w.extractLsb' 0 2)) := by
    intro v w h
    unfold parse
    rw [h]
    rfl
  refine (hp _ _ (opcode_pack ..)).trans ?_
  refine (chk_ok (by decide) (and_zero _) (fun h => by cases h)).trans ?_
  rw [sBit_pack, ext_pack _ _ _ _ _ (by decide), ext_pack _ _ _ _ _ (by decide), ext_pack _ _ _ _ _ (by decide), ext_pack _ _ _ _ _ (by decide), h0, h1, h2, h3]

theorem unpk (e : Bool) (d : BitVec 7) (a : BitVec 7) (b : BitVec 7) (f : BitVec 2) : Statement (.unpk e d a b f) := by
  intro hw w he
  cases he
  apply decode_of hw (by show assigned 3 _ = true; rw [opcode_pack]; decide)
  obtain ⟨h0, h1, h2, h3⟩ := layout_10 d a b f _ rfl
  have hp : ∀ (v : Nat) (w : Word), opcodeOf w = 0x6B →
      parse v w = chk 0x0 false w (.unpk (sBit w) (w.extractLsb' 16 7) (w.extractLsb' 9 7) (w.extractLsb' 2 7) (w.extractLsb' 0 2)) := by
    intro v w h
    unfold parse
    rw [h]
    rfl
  refine (hp _ _ (opcode_pack ..)).trans ?_
  refine (chk_ok (by decide) (and_zero _) (fun h => by cases h)).trans ?_
  rw [sBit_pack, ext_pack _ _ _ _ _ (by decide), ext_pack _ _ _ _ _ (by decide), ext_pack _ _ _ _ _ (by decide), ext_pack _ _ _ _ _ (by decide), h0, h1, h2, h3]

theorem scl (e : Bool) (d : BitVec 7) (a : BitVec 7) (b : BitVec 7) (f : BitVec 2) : Statement (.scl e d a b f) := by
  intro hw w he
  cases he
  apply decode_of hw (by show assigned 3 _ = true; rw [opcode_pack]; decide)
  obtain ⟨h0, h1, h2, h3⟩ := layout_10 d a b f _ rfl
  have hp : ∀ (v : Nat) (w : Word), opcodeOf w = 0x6C →
      parse v w = chk 0x0 false w (.scl (sBit w) (w.extractLsb' 16 7) (w.extractLsb' 9 7) (w.extractLsb' 2 7) (w.extractLsb' 0 2)) := by
    intro v w h
    unfold parse
    rw [h]
    rfl
  refine (hp _ _ (opcode_pack ..)).trans ?_
  refine (chk_ok (by decide) (and_zero _) (fun h => by cases h)).trans ?_
  rw [sBit_pack, ext_pack _ _ _ _ _ (by decide), ext_pack _ _ _ _ _ (by decide), ext_pack _ _ _ _ _ (by decide), ext_pack _ _ _ _ _ (by decide), h0, h1, h2, h3]

theorem br (e : Bool) (p : BitVec 6) (n : BitVec 1) (o : BitVec 16) : Statement (.br e p n o) := by
  intro hw w he
  cases he
  apply decode_of hw (by show assigned 3 _ = true; rw [opcode_pack]; decide)
  obtain ⟨h0, h1, h2⟩ := layout_23 p n o _ rfl
  have hp : ∀ (v : Nat) (w : Word), opcodeOf w = 0x70 →
      parse v w = chk 0x0 false w (.br (sBit w) (w.extractLsb' 17 6) (w.extractLsb' 16 1) (w.extractLsb' 0 16)) := by
    intro v w h
    unfold parse
    rw [h]
    rfl
  refine (hp _ _ (opcode_pack ..)).trans ?_
  refine (chk_ok (by decide) (and_zero _) (fun h => by cases h)).trans ?_
  rw [sBit_pack, ext_pack _ _ _ _ _ (by decide), ext_pack _ _ _ _ _ (by decide), ext_pack _ _ _ _ _ (by decide), h0, h1, h2]

theorem jmpi (e : Bool) (a : BitVec 7) : Statement (.jmpi e a) := by
  intro hw w he
  cases he
  apply decode_of hw (by show assigned 3 _ = true; rw [opcode_pack]; decide)
  obtain ⟨h0, hf, m0, m1⟩ := layout_24 a _ rfl
  have hp : ∀ (v : Nat) (w : Word), opcodeOf w = 0x71 →
      parse v w = chk 0x7F01FC true w (.jmpi (sBit w) (w.extractLsb' 9 7)) := by
    intro v w h
    unfold parse
    rw [h]
    rfl
  refine (hp _ _ (opcode_pack ..)).trans ?_
  refine (chk_ok (by decide) (and_masks _ 2 7 16 7 m0 m1 (by decide)) fun _ => hf).trans ?_
  rw [sBit_pack, ext_pack _ _ _ _ _ (by decide), h0]

theorem call (e : Bool) (o : BitVec 23) : Statement (.call e o) := by
  intro hw w he
  cases he
  apply decode_of hw (by show assigned 3 _ = true; rw [opcode_pack]; decide)
  have h0 := layout_1 o _ rfl
  have hp : ∀ (v : Nat) (w : Word), opcodeOf w = 0x72 →
      parse v w = chk 0x0 false w (.call (sBit w) (w.extractLsb' 0 23)) := by
    intro v w h
    unfold parse
    rw [h]
    rfl
  refine (hp _ _ (opcode_pack ..)).trans ?_
  refine (chk_ok (by decide) (and_zero _) (fun h => by cases h)).trans ?_
  rw [sBit_pack, ext_pack _ _ _ _ _ (by decide), h0]

theorem calli (e : Bool) (a : BitVec 7) : Statement (.calli e a) := by
  intro hw w he
  cases he
  apply decode_of hw (by show assigned 3 _ = true; rw [opcode_pack]; decide)
  obtain ⟨h0, hf, m0, m1⟩ := layout_24 a _ rfl
  have hp : ∀ (v : Nat) (w : Word), opcodeOf w = 0x73 →
      parse v w = chk 0x7F01FC true w (.calli (sBit w) (w.extractLsb' 9 7)) := by
    intro v w h
    unfold parse
    rw [h]
    rfl
  refine (hp _ _ (opcode_pack ..)).trans ?_
  refine (chk_ok (by decide) (and_masks _ 2 7 16 7 m0 m1 (by decide)) fun _ => hf).trans ?_
  rw [sBit_pack, ext_pack _ _ _ _ _ (by decide), h0]

theorem ret (e : Bool) : Statement (.ret e) := by
  intro hw w he
  cases he
  apply decode_of hw (by show assigned 3 _ = true; rw [opcode_pack]; decide)
  obtain ⟨hf, m0⟩ := layout_25 _ rfl
  have hp : ∀ (v : Nat) (w : Word), opcodeOf w = 0x74 →
      parse v w = chk 0x7FFFFC true w (.ret (sBit w)) := by
    intro v w h
    unfold parse
    rw [h]
    rfl
  refine (hp _ _ (opcode_pack ..)).trans ?_
  refine (chk_ok (by decide) (and_mask _ 2 21 m0 (by decide)) fun _ => hf).trans ?_
  rw [sBit_pack]

theorem join (e : Bool) (a : BitVec 7) : Statement (.join e a) := by
  intro hw w he
  cases he
  apply decode_of hw (by show assigned 3 _ = true; rw [opcode_pack]; decide)
  obtain ⟨h0, hf, m0, m1⟩ := layout_24 a _ rfl
  have hp : ∀ (v : Nat) (w : Word), opcodeOf w = 0x75 →
      parse v w = chk 0x7F01FC true w (.join (sBit w) (w.extractLsb' 9 7)) := by
    intro v w h
    unfold parse
    rw [h]
    rfl
  refine (hp _ _ (opcode_pack ..)).trans ?_
  refine (chk_ok (by decide) (and_masks _ 2 7 16 7 m0 m1 (by decide)) fun _ => hf).trans ?_
  rw [sBit_pack, ext_pack _ _ _ _ _ (by decide), h0]

theorem exit (e : Bool) (a : BitVec 7) : Statement (.exit e a) := by
  intro hw w he
  cases he
  apply decode_of hw (by show assigned 3 _ = true; rw [opcode_pack]; decide)
  obtain ⟨h0, hf, m0, m1⟩ := layout_24 a _ rfl
  have hp : ∀ (v : Nat) (w : Word), opcodeOf w = 0x76 →
      parse v w = chk 0x7F01FC true w (.exit (sBit w) (w.extractLsb' 9 7)) := by
    intro v w h
    unfold parse
    rw [h]
    rfl
  refine (hp _ _ (opcode_pack ..)).trans ?_
  refine (chk_ok (by decide) (and_masks _ 2 7 16 7 m0 m1 (by decide)) fun _ => hf).trans ?_
  rw [sBit_pack, ext_pack _ _ _ _ _ (by decide), h0]

theorem trap (e : Bool) (i : BitVec 9) : Statement (.trap e i) := by
  intro hw w he
  cases he
  apply decode_of hw (by show assigned 3 _ = true; rw [opcode_pack]; decide)
  obtain ⟨h0, m0⟩ := layout_26 i _ rfl
  have hp : ∀ (v : Nat) (w : Word), opcodeOf w = 0x77 →
      parse v w = chk 0x7FFE00 false w (.trap (sBit w) (w.extractLsb' 0 9)) := by
    intro v w h
    unfold parse
    rw [h]
    rfl
  refine (hp _ _ (opcode_pack ..)).trans ?_
  refine (chk_ok (by decide) (and_mask _ 9 14 m0 (by decide)) (fun h => by cases h)).trans ?_
  rw [sBit_pack, ext_pack _ _ _ _ _ (by decide), h0]

theorem land (e : Bool) : Statement (.land e) := by
  intro hw w he
  cases he
  apply decode_of hw (by show assigned 3 _ = true; rw [opcode_pack]; decide)
  obtain ⟨hf, m0⟩ := layout_25 _ rfl
  have hp : ∀ (v : Nat) (w : Word), opcodeOf w = 0x78 →
      parse v w = chk 0x7FFFFC true w (.land (sBit w)) := by
    intro v w h
    unfold parse
    rw [h]
    rfl
  refine (hp _ _ (opcode_pack ..)).trans ?_
  refine (chk_ok (by decide) (and_mask _ 2 21 m0 (by decide)) fun _ => hf).trans ?_
  rw [sBit_pack]

theorem yield (e : Bool) : Statement (.yield e) := by
  intro hw w he
  cases he
  apply decode_of hw (by show assigned 3 _ = true; rw [opcode_pack]; decide)
  obtain ⟨hf, m0⟩ := layout_25 _ rfl
  have hp : ∀ (v : Nat) (w : Word), opcodeOf w = 0x79 →
      parse v w = chk 0x7FFFFC true w (.yield (sBit w)) := by
    intro v w h
    unfold parse
    rw [h]
    rfl
  refine (hp _ _ (opcode_pack ..)).trans ?_
  refine (chk_ok (by decide) (and_mask _ 2 21 m0 (by decide)) fun _ => hf).trans ?_
  rw [sBit_pack]

theorem waitc (e : Bool) (m : BitVec 4) (t : BitVec 6) : Statement (.waitc e m t) := by
  intro hw w he
  cases he
  apply decode_of hw (by show assigned 3 _ = true; rw [opcode_pack]; decide)
  obtain ⟨h0, h1, hf, m0, m1⟩ := layout_27 m t _ rfl
  have hp : ∀ (v : Nat) (w : Word), opcodeOf w = 0x7A →
      parse v w = chk 0x70FF00 true w (.waitc (sBit w) (w.extractLsb' 16 4) (w.extractLsb' 2 6)) := by
    intro v w h
    unfold parse
    rw [h]
    rfl
  refine (hp _ _ (opcode_pack ..)).trans ?_
  refine (chk_ok (by decide) (and_masks _ 8 8 20 3 m0 m1 (by decide)) fun _ => hf).trans ?_
  rw [sBit_pack, ext_pack _ _ _ _ _ (by decide), ext_pack _ _ _ _ _ (by decide), h0, h1]

theorem rfeReplay (e : Bool) : Statement (.rfeReplay e) := by
  intro hw w he
  cases he
  apply decode_of hw (by show assigned 3 _ = true; rw [opcode_pack]; decide)
  obtain ⟨m0, hs⟩ := layout_28 _ rfl
  have hp : ∀ (v : Nat) (w : Word), opcodeOf w = 0xE2 → w.extractLsb' 0 2 = 0#2 →
      parse v w = chk 0x7FFFFC false w (.rfeReplay (sBit w)) := by
    intro v w h hs
    unfold parse
    rw [h]
    rw [hs]
    rfl
  refine (hp _ _ (opcode_pack ..) ((ext_pack _ _ _ _ _ (by decide)).trans hs)).trans ?_
  refine (chk_ok (by decide) (and_mask _ 2 21 m0 (by decide)) (fun h => by cases h)).trans ?_
  rw [sBit_pack]

theorem rfeSkip (e : Bool) : Statement (.rfeSkip e) := by
  intro hw w he
  cases he
  apply decode_of hw (by show assigned 3 _ = true; rw [opcode_pack]; decide)
  obtain ⟨m0, hs⟩ := layout_29 _ rfl
  have hp : ∀ (v : Nat) (w : Word), opcodeOf w = 0xE2 → w.extractLsb' 0 2 = 1#2 →
      parse v w = chk 0x7FFFFC false w (.rfeSkip (sBit w)) := by
    intro v w h hs
    unfold parse
    rw [h]
    rw [hs]
    rfl
  refine (hp _ _ (opcode_pack ..) ((ext_pack _ _ _ _ _ (by decide)).trans hs)).trans ?_
  refine (chk_ok (by decide) (and_mask _ 2 21 m0 (by decide)) (fun h => by cases h)).trans ?_
  rw [sBit_pack]

theorem ldb (e : Bool) (v : BitVec 7) (b : BitVec 7) (o : BitVec 9) : Statement (.ldb e v b o) := by
  intro hw w he
  cases he
  apply decode_of hw (by show assigned 3 _ = true; rw [opcode_pack]; decide)
  obtain ⟨h0, h1, h2⟩ := layout_13 v b o _ rfl
  have hp : ∀ (v : Nat) (w : Word), opcodeOf w = 0x80 →
      parse v w = chk 0x0 false w (.ldb (sBit w) (w.extractLsb' 16 7) (w.extractLsb' 9 7) (w.extractLsb' 0 9)) := by
    intro v w h
    unfold parse
    rw [h]
    rfl
  refine (hp _ _ (opcode_pack ..)).trans ?_
  refine (chk_ok (by decide) (and_zero _) (fun h => by cases h)).trans ?_
  rw [sBit_pack, ext_pack _ _ _ _ _ (by decide), ext_pack _ _ _ _ _ (by decide), ext_pack _ _ _ _ _ (by decide), h0, h1, h2]

theorem ldh (e : Bool) (v : BitVec 7) (b : BitVec 7) (o : BitVec 9) : Statement (.ldh e v b o) := by
  intro hw w he
  cases he
  apply decode_of hw (by show assigned 3 _ = true; rw [opcode_pack]; decide)
  obtain ⟨h0, h1, h2⟩ := layout_13 v b o _ rfl
  have hp : ∀ (v : Nat) (w : Word), opcodeOf w = 0x81 →
      parse v w = chk 0x0 false w (.ldh (sBit w) (w.extractLsb' 16 7) (w.extractLsb' 9 7) (w.extractLsb' 0 9)) := by
    intro v w h
    unfold parse
    rw [h]
    rfl
  refine (hp _ _ (opcode_pack ..)).trans ?_
  refine (chk_ok (by decide) (and_zero _) (fun h => by cases h)).trans ?_
  rw [sBit_pack, ext_pack _ _ _ _ _ (by decide), ext_pack _ _ _ _ _ (by decide), ext_pack _ _ _ _ _ (by decide), h0, h1, h2]

theorem ldw (e : Bool) (v : BitVec 7) (b : BitVec 7) (o : BitVec 9) : Statement (.ldw e v b o) := by
  intro hw w he
  cases he
  apply decode_of hw (by show assigned 3 _ = true; rw [opcode_pack]; decide)
  obtain ⟨h0, h1, h2⟩ := layout_13 v b o _ rfl
  have hp : ∀ (v : Nat) (w : Word), opcodeOf w = 0x82 →
      parse v w = chk 0x0 false w (.ldw (sBit w) (w.extractLsb' 16 7) (w.extractLsb' 9 7) (w.extractLsb' 0 9)) := by
    intro v w h
    unfold parse
    rw [h]
    rfl
  refine (hp _ _ (opcode_pack ..)).trans ?_
  refine (chk_ok (by decide) (and_zero _) (fun h => by cases h)).trans ?_
  rw [sBit_pack, ext_pack _ _ _ _ _ (by decide), ext_pack _ _ _ _ _ (by decide), ext_pack _ _ _ _ _ (by decide), h0, h1, h2]

theorem ldd (e : Bool) (v : BitVec 7) (b : BitVec 7) (o : BitVec 9) : Statement (.ldd e v b o) := by
  intro hw w he
  cases he
  apply decode_of hw (by show assigned 3 _ = true; rw [opcode_pack]; decide)
  obtain ⟨h0, h1, h2⟩ := layout_13 v b o _ rfl
  have hp : ∀ (v : Nat) (w : Word), opcodeOf w = 0x83 →
      parse v w = chk 0x0 false w (.ldd (sBit w) (w.extractLsb' 16 7) (w.extractLsb' 9 7) (w.extractLsb' 0 9)) := by
    intro v w h
    unfold parse
    rw [h]
    rfl
  refine (hp _ _ (opcode_pack ..)).trans ?_
  refine (chk_ok (by decide) (and_zero _) (fun h => by cases h)).trans ?_
  rw [sBit_pack, ext_pack _ _ _ _ _ (by decide), ext_pack _ _ _ _ _ (by decide), ext_pack _ _ _ _ _ (by decide), h0, h1, h2]

theorem ldq (e : Bool) (v : BitVec 7) (b : BitVec 7) (o : BitVec 9) : Statement (.ldq e v b o) := by
  intro hw w he
  cases he
  apply decode_of hw (by show assigned 3 _ = true; rw [opcode_pack]; decide)
  obtain ⟨h0, h1, h2⟩ := layout_13 v b o _ rfl
  have hp : ∀ (v : Nat) (w : Word), opcodeOf w = 0x84 →
      parse v w = chk 0x0 false w (.ldq (sBit w) (w.extractLsb' 16 7) (w.extractLsb' 9 7) (w.extractLsb' 0 9)) := by
    intro v w h
    unfold parse
    rw [h]
    rfl
  refine (hp _ _ (opcode_pack ..)).trans ?_
  refine (chk_ok (by decide) (and_zero _) (fun h => by cases h)).trans ?_
  rw [sBit_pack, ext_pack _ _ _ _ _ (by decide), ext_pack _ _ _ _ _ (by decide), ext_pack _ _ _ _ _ (by decide), h0, h1, h2]

theorem stb (e : Bool) (v : BitVec 7) (b : BitVec 7) (o : BitVec 9) : Statement (.stb e v b o) := by
  intro hw w he
  cases he
  apply decode_of hw (by show assigned 3 _ = true; rw [opcode_pack]; decide)
  obtain ⟨h0, h1, h2⟩ := layout_13 v b o _ rfl
  have hp : ∀ (v : Nat) (w : Word), opcodeOf w = 0x85 →
      parse v w = chk 0x0 false w (.stb (sBit w) (w.extractLsb' 16 7) (w.extractLsb' 9 7) (w.extractLsb' 0 9)) := by
    intro v w h
    unfold parse
    rw [h]
    rfl
  refine (hp _ _ (opcode_pack ..)).trans ?_
  refine (chk_ok (by decide) (and_zero _) (fun h => by cases h)).trans ?_
  rw [sBit_pack, ext_pack _ _ _ _ _ (by decide), ext_pack _ _ _ _ _ (by decide), ext_pack _ _ _ _ _ (by decide), h0, h1, h2]

theorem sth (e : Bool) (v : BitVec 7) (b : BitVec 7) (o : BitVec 9) : Statement (.sth e v b o) := by
  intro hw w he
  cases he
  apply decode_of hw (by show assigned 3 _ = true; rw [opcode_pack]; decide)
  obtain ⟨h0, h1, h2⟩ := layout_13 v b o _ rfl
  have hp : ∀ (v : Nat) (w : Word), opcodeOf w = 0x86 →
      parse v w = chk 0x0 false w (.sth (sBit w) (w.extractLsb' 16 7) (w.extractLsb' 9 7) (w.extractLsb' 0 9)) := by
    intro v w h
    unfold parse
    rw [h]
    rfl
  refine (hp _ _ (opcode_pack ..)).trans ?_
  refine (chk_ok (by decide) (and_zero _) (fun h => by cases h)).trans ?_
  rw [sBit_pack, ext_pack _ _ _ _ _ (by decide), ext_pack _ _ _ _ _ (by decide), ext_pack _ _ _ _ _ (by decide), h0, h1, h2]

theorem stw (e : Bool) (v : BitVec 7) (b : BitVec 7) (o : BitVec 9) : Statement (.stw e v b o) := by
  intro hw w he
  cases he
  apply decode_of hw (by show assigned 3 _ = true; rw [opcode_pack]; decide)
  obtain ⟨h0, h1, h2⟩ := layout_13 v b o _ rfl
  have hp : ∀ (v : Nat) (w : Word), opcodeOf w = 0x87 →
      parse v w = chk 0x0 false w (.stw (sBit w) (w.extractLsb' 16 7) (w.extractLsb' 9 7) (w.extractLsb' 0 9)) := by
    intro v w h
    unfold parse
    rw [h]
    rfl
  refine (hp _ _ (opcode_pack ..)).trans ?_
  refine (chk_ok (by decide) (and_zero _) (fun h => by cases h)).trans ?_
  rw [sBit_pack, ext_pack _ _ _ _ _ (by decide), ext_pack _ _ _ _ _ (by decide), ext_pack _ _ _ _ _ (by decide), h0, h1, h2]

theorem std (e : Bool) (v : BitVec 7) (b : BitVec 7) (o : BitVec 9) : Statement (.std e v b o) := by
  intro hw w he
  cases he
  apply decode_of hw (by show assigned 3 _ = true; rw [opcode_pack]; decide)
  obtain ⟨h0, h1, h2⟩ := layout_13 v b o _ rfl
  have hp : ∀ (v : Nat) (w : Word), opcodeOf w = 0x88 →
      parse v w = chk 0x0 false w (.std (sBit w) (w.extractLsb' 16 7) (w.extractLsb' 9 7) (w.extractLsb' 0 9)) := by
    intro v w h
    unfold parse
    rw [h]
    rfl
  refine (hp _ _ (opcode_pack ..)).trans ?_
  refine (chk_ok (by decide) (and_zero _) (fun h => by cases h)).trans ?_
  rw [sBit_pack, ext_pack _ _ _ _ _ (by decide), ext_pack _ _ _ _ _ (by decide), ext_pack _ _ _ _ _ (by decide), h0, h1, h2]

theorem stq (e : Bool) (v : BitVec 7) (b : BitVec 7) (o : BitVec 9) : Statement (.stq e v b o) := by
  intro hw w he
  cases he
  apply decode_of hw (by show assigned 3 _ = true; rw [opcode_pack]; decide)
  obtain ⟨h0, h1, h2⟩ := layout_13 v b o _ rfl
  have hp : ∀ (v : Nat) (w : Word), opcodeOf w = 0x89 →
      parse v w = chk 0x0 false w (.stq (sBit w) (w.extractLsb' 16 7) (w.extractLsb' 9 7) (w.extractLsb' 0 9)) := by
    intro v w h
    unfold parse
    rw [h]
    rfl
  refine (hp _ _ (opcode_pack ..)).trans ?_
  refine (chk_ok (by decide) (and_zero _) (fun h => by cases h)).trans ?_
  rw [sBit_pack, ext_pack _ _ _ _ _ (by decide), ext_pack _ _ _ _ _ (by decide), ext_pack _ _ _ _ _ (by decide), h0, h1, h2]

theorem lds (e : Bool) (v : BitVec 7) (b : BitVec 7) (o : BitVec 9) : Statement (.lds e v b o) := by
  intro hw w he
  cases he
  apply decode_of hw (by show assigned 3 _ = true; rw [opcode_pack]; decide)
  obtain ⟨h0, h1, h2⟩ := layout_13 v b o _ rfl
  have hp : ∀ (v : Nat) (w : Word), opcodeOf w = 0x8A →
      parse v w = chk 0x0 false w (.lds (sBit w) (w.extractLsb' 16 7) (w.extractLsb' 9 7) (w.extractLsb' 0 9)) := by
    intro v w h
    unfold parse
    rw [h]
    rfl
  refine (hp _ _ (opcode_pack ..)).trans ?_
  refine (chk_ok (by decide) (and_zero _) (fun h => by cases h)).trans ?_
  rw [sBit_pack, ext_pack _ _ _ _ _ (by decide), ext_pack _ _ _ _ _ (by decide), ext_pack _ _ _ _ _ (by decide), h0, h1, h2]

theorem sts (e : Bool) (v : BitVec 7) (b : BitVec 7) (o : BitVec 9) : Statement (.sts e v b o) := by
  intro hw w he
  cases he
  apply decode_of hw (by show assigned 3 _ = true; rw [opcode_pack]; decide)
  obtain ⟨h0, h1, h2⟩ := layout_13 v b o _ rfl
  have hp : ∀ (v : Nat) (w : Word), opcodeOf w = 0x8B →
      parse v w = chk 0x0 false w (.sts (sBit w) (w.extractLsb' 16 7) (w.extractLsb' 9 7) (w.extractLsb' 0 9)) := by
    intro v w h
    unfold parse
    rw [h]
    rfl
  refine (hp _ _ (opcode_pack ..)).trans ?_
  refine (chk_ok (by decide) (and_zero _) (fun h => by cases h)).trans ?_
  rw [sBit_pack, ext_pack _ _ _ _ _ (by decide), ext_pack _ _ _ _ _ (by decide), ext_pack _ _ _ _ _ (by decide), h0, h1, h2]

theorem ldpoll (e : Bool) (v : BitVec 7) (b : BitVec 7) (o : BitVec 9) : Statement (.ldpoll e v b o) := by
  intro hw w he
  cases he
  apply decode_of hw (by show assigned 3 _ = true; rw [opcode_pack]; decide)
  obtain ⟨h0, h1, h2⟩ := layout_13 v b o _ rfl
  have hp : ∀ (v : Nat) (w : Word), opcodeOf w = 0x8C →
      parse v w = chk 0x0 false w (.ldpoll (sBit w) (w.extractLsb' 16 7) (w.extractLsb' 9 7) (w.extractLsb' 0 9)) := by
    intro v w h
    unfold parse
    rw [h]
    rfl
  refine (hp _ _ (opcode_pack ..)).trans ?_
  refine (chk_ok (by decide) (and_zero _) (fun h => by cases h)).trans ?_
  rw [sBit_pack, ext_pack _ _ _ _ _ (by decide), ext_pack _ _ _ _ _ (by decide), ext_pack _ _ _ _ _ (by decide), h0, h1, h2]

theorem pref (e : Bool) (v : BitVec 7) (b : BitVec 7) (o : BitVec 9) : Statement (.pref e v b o) := by
  intro hw w he
  cases he
  apply decode_of hw (by show assigned 3 _ = true; rw [opcode_pack]; decide)
  obtain ⟨h0, h1, h2⟩ := layout_13 v b o _ rfl
  have hp : ∀ (v : Nat) (w : Word), opcodeOf w = 0x8D →
      parse v w = chk 0x0 false w (.pref (sBit w) (w.extractLsb' 16 7) (w.extractLsb' 9 7) (w.extractLsb' 0 9)) := by
    intro v w h
    unfold parse
    rw [h]
    rfl
  refine (hp _ _ (opcode_pack ..)).trans ?_
  refine (chk_ok (by decide) (and_zero _) (fun h => by cases h)).trans ?_
  rw [sBit_pack, ext_pack _ _ _ _ _ (by decide), ext_pack _ _ _ _ _ (by decide), ext_pack _ _ _ _ _ (by decide), h0, h1, h2]

theorem aadd (e : Bool) (d : BitVec 7) (a : BitVec 7) (b : BitVec 7) (f : BitVec 2) : Statement (.aadd e d a b f) := by
  intro hw w he
  cases he
  apply decode_of hw (by show assigned 3 _ = true; rw [opcode_pack]; decide)
  obtain ⟨h0, h1, h2, h3⟩ := layout_10 d a b f _ rfl
  have hp : ∀ (v : Nat) (w : Word), opcodeOf w = 0x90 →
      parse v w = chk 0x0 false w (.aadd (sBit w) (w.extractLsb' 16 7) (w.extractLsb' 9 7) (w.extractLsb' 2 7) (w.extractLsb' 0 2)) := by
    intro v w h
    unfold parse
    rw [h]
    rfl
  refine (hp _ _ (opcode_pack ..)).trans ?_
  refine (chk_ok (by decide) (and_zero _) (fun h => by cases h)).trans ?_
  rw [sBit_pack, ext_pack _ _ _ _ _ (by decide), ext_pack _ _ _ _ _ (by decide), ext_pack _ _ _ _ _ (by decide), ext_pack _ _ _ _ _ (by decide), h0, h1, h2, h3]

theorem amm (e : Bool) (d : BitVec 7) (a : BitVec 7) (b : BitVec 7) (f : BitVec 2) : Statement (.amm e d a b f) := by
  intro hw w he
  cases he
  apply decode_of hw (by show assigned 3 _ = true; rw [opcode_pack]; decide)
  obtain ⟨h0, h1, h2, h3⟩ := layout_10 d a b f _ rfl
  have hp : ∀ (v : Nat) (w : Word), opcodeOf w = 0x91 →
      parse v w = chk 0x0 false w (.amm (sBit w) (w.extractLsb' 16 7) (w.extractLsb' 9 7) (w.extractLsb' 2 7) (w.extractLsb' 0 2)) := by
    intro v w h
    unfold parse
    rw [h]
    rfl
  refine (hp _ _ (opcode_pack ..)).trans ?_
  refine (chk_ok (by decide) (and_zero _) (fun h => by cases h)).trans ?_
  rw [sBit_pack, ext_pack _ _ _ _ _ (by decide), ext_pack _ _ _ _ _ (by decide), ext_pack _ _ _ _ _ (by decide), ext_pack _ _ _ _ _ (by decide), h0, h1, h2, h3]

theorem alog (e : Bool) (d : BitVec 7) (a : BitVec 7) (b : BitVec 7) (f : BitVec 2) : Statement (.alog e d a b f) := by
  intro hw w he
  cases he
  apply decode_of hw (by show assigned 3 _ = true; rw [opcode_pack]; decide)
  obtain ⟨h0, h1, h2, h3⟩ := layout_10 d a b f _ rfl
  have hp : ∀ (v : Nat) (w : Word), opcodeOf w = 0x92 →
      parse v w = chk 0x0 false w (.alog (sBit w) (w.extractLsb' 16 7) (w.extractLsb' 9 7) (w.extractLsb' 2 7) (w.extractLsb' 0 2)) := by
    intro v w h
    unfold parse
    rw [h]
    rfl
  refine (hp _ _ (opcode_pack ..)).trans ?_
  refine (chk_ok (by decide) (and_zero _) (fun h => by cases h)).trans ?_
  rw [sBit_pack, ext_pack _ _ _ _ _ (by decide), ext_pack _ _ _ _ _ (by decide), ext_pack _ _ _ _ _ (by decide), ext_pack _ _ _ _ _ (by decide), h0, h1, h2, h3]

theorem acas (e : Bool) (d : BitVec 7) (a : BitVec 7) (b : BitVec 7) (f : BitVec 2) : Statement (.acas e d a b f) := by
  intro hw w he
  cases he
  apply decode_of hw (by show assigned 3 _ = true; rw [opcode_pack]; decide)
  obtain ⟨h0, h1, h2, h3⟩ := layout_10 d a b f _ rfl
  have hp : ∀ (v : Nat) (w : Word), opcodeOf w = 0x93 →
      parse v w = chk 0x0 false w (.acas (sBit w) (w.extractLsb' 16 7) (w.extractLsb' 9 7) (w.extractLsb' 2 7) (w.extractLsb' 0 2)) := by
    intro v w h
    unfold parse
    rw [h]
    rfl
  refine (hp _ _ (opcode_pack ..)).trans ?_
  refine (chk_ok (by decide) (and_zero _) (fun h => by cases h)).trans ?_
  rw [sBit_pack, ext_pack _ _ _ _ _ (by decide), ext_pack _ _ _ _ _ (by decide), ext_pack _ _ _ _ _ (by decide), ext_pack _ _ _ _ _ (by decide), h0, h1, h2, h3]

theorem fenceAcq (e : Bool) (sc : BitVec 4) : Statement (.fenceAcq e sc) := by
  intro hw w he
  cases he
  apply decode_of hw (by show assigned 3 _ = true; rw [opcode_pack]; decide)
  obtain ⟨h0, m0, hs⟩ := layout_30 sc _ rfl
  have hp : ∀ (v : Nat) (w : Word), opcodeOf w = 0x94 → w.extractLsb' 0 2 = 0#2 →
      parse v w = chk 0x7FFFC0 false w (.fenceAcq (sBit w) (w.extractLsb' 2 4)) := by
    intro v w h hs
    unfold parse
    rw [h]
    rw [hs]
    rfl
  refine (hp _ _ (opcode_pack ..) ((ext_pack _ _ _ _ _ (by decide)).trans hs)).trans ?_
  refine (chk_ok (by decide) (and_mask _ 6 17 m0 (by decide)) (fun h => by cases h)).trans ?_
  rw [sBit_pack, ext_pack _ _ _ _ _ (by decide), h0]

theorem fenceRel (e : Bool) (sc : BitVec 4) : Statement (.fenceRel e sc) := by
  intro hw w he
  cases he
  apply decode_of hw (by show assigned 3 _ = true; rw [opcode_pack]; decide)
  obtain ⟨h0, m0, hs⟩ := layout_31 sc _ rfl
  have hp : ∀ (v : Nat) (w : Word), opcodeOf w = 0x94 → w.extractLsb' 0 2 = 1#2 →
      parse v w = chk 0x7FFFC0 false w (.fenceRel (sBit w) (w.extractLsb' 2 4)) := by
    intro v w h hs
    unfold parse
    rw [h]
    rw [hs]
    rfl
  refine (hp _ _ (opcode_pack ..) ((ext_pack _ _ _ _ _ (by decide)).trans hs)).trans ?_
  refine (chk_ok (by decide) (and_mask _ 6 17 m0 (by decide)) (fun h => by cases h)).trans ?_
  rw [sBit_pack, ext_pack _ _ _ _ _ (by decide), h0]

theorem fenceAr (e : Bool) (sc : BitVec 4) : Statement (.fenceAr e sc) := by
  intro hw w he
  cases he
  apply decode_of hw (by show assigned 3 _ = true; rw [opcode_pack]; decide)
  obtain ⟨h0, m0, hs⟩ := layout_32 sc _ rfl
  have hp : ∀ (v : Nat) (w : Word), opcodeOf w = 0x94 → w.extractLsb' 0 2 = 2#2 →
      parse v w = chk 0x7FFFC0 false w (.fenceAr (sBit w) (w.extractLsb' 2 4)) := by
    intro v w h hs
    unfold parse
    rw [h]
    rw [hs]
    rfl
  refine (hp _ _ (opcode_pack ..) ((ext_pack _ _ _ _ _ (by decide)).trans hs)).trans ?_
  refine (chk_ok (by decide) (and_mask _ 6 17 m0 (by decide)) (fun h => by cases h)).trans ?_
  rw [sBit_pack, ext_pack _ _ _ _ _ (by decide), h0]

theorem ofence (e : Bool) : Statement (.ofence e) := by
  intro hw w he
  cases he
  apply decode_of hw (by show assigned 3 _ = true; rw [opcode_pack]; decide)
  obtain ⟨hf, m0⟩ := layout_25 _ rfl
  have hp : ∀ (v : Nat) (w : Word), opcodeOf w = 0x95 →
      parse v w = chk 0x7FFFFC true w (.ofence (sBit w)) := by
    intro v w h
    unfold parse
    rw [h]
    rfl
  refine (hp _ _ (opcode_pack ..)).trans ?_
  refine (chk_ok (by decide) (and_mask _ 2 21 m0 (by decide)) fun _ => hf).trans ?_
  rw [sBit_pack]

theorem cdetect (e : Bool) (d : BitVec 7) (a : BitVec 7) : Statement (.cdetect e d a) := by
  intro hw w he
  cases he
  apply decode_of hw (by show assigned 3 _ = true; rw [opcode_pack]; decide)
  obtain ⟨h0, h1, hf, m0⟩ := layout_11 d a _ rfl
  have hp : ∀ (v : Nat) (w : Word), opcodeOf w = 0x96 →
      parse v w = chk 0x1FC true w (.cdetect (sBit w) (w.extractLsb' 16 7) (w.extractLsb' 9 7)) := by
    intro v w h
    unfold parse
    rw [h]
    rfl
  refine (hp _ _ (opcode_pack ..)).trans ?_
  refine (chk_ok (by decide) (and_mask _ 2 7 m0 (by decide)) fun _ => hf).trans ?_
  rw [sBit_pack, ext_pack _ _ _ _ _ (by decide), ext_pack _ _ _ _ _ (by decide), h0, h1]

theorem ldacq (e : Bool) (v : BitVec 7) (b : BitVec 7) (sc : BitVec 4) : Statement (.ldacq e v b sc) := by
  intro hw w he
  cases he
  apply decode_of hw (by show assigned 3 _ = true; rw [opcode_pack]; decide)
  obtain ⟨h0, h1, h2, m0⟩ := layout_33 v b sc _ rfl
  have hp : ∀ (v : Nat) (w : Word), opcodeOf w = 0x97 →
      parse v w = chk 0x1F0 false w (.ldacq (sBit w) (w.extractLsb' 16 7) (w.extractLsb' 9 7) (w.extractLsb' 0 4)) := by
    intro v w h
    unfold parse
    rw [h]
    rfl
  refine (hp _ _ (opcode_pack ..)).trans ?_
  refine (chk_ok (by decide) (and_mask _ 4 5 m0 (by decide)) (fun h => by cases h)).trans ?_
  rw [sBit_pack, ext_pack _ _ _ _ _ (by decide), ext_pack _ _ _ _ _ (by decide), ext_pack _ _ _ _ _ (by decide), h0, h1, h2]

theorem strel (e : Bool) (v : BitVec 7) (b : BitVec 7) (sc : BitVec 4) : Statement (.strel e v b sc) := by
  intro hw w he
  cases he
  apply decode_of hw (by show assigned 3 _ = true; rw [opcode_pack]; decide)
  obtain ⟨h0, h1, h2, m0⟩ := layout_33 v b sc _ rfl
  have hp : ∀ (v : Nat) (w : Word), opcodeOf w = 0x98 →
      parse v w = chk 0x1F0 false w (.strel (sBit w) (w.extractLsb' 16 7) (w.extractLsb' 9 7) (w.extractLsb' 0 4)) := by
    intro v w h
    unfold parse
    rw [h]
    rfl
  refine (hp _ _ (opcode_pack ..)).trans ?_
  refine (chk_ok (by decide) (and_mask _ 4 5 m0 (by decide)) (fun h => by cases h)).trans ?_
  rw [sBit_pack, ext_pack _ _ _ _ _ (by decide), ext_pack _ _ _ _ _ (by decide), ext_pack _ _ _ _ _ (by decide), h0, h1, h2]

theorem shfl (e : Bool) (d : BitVec 7) (a : BitVec 7) (b : BitVec 7) (f : BitVec 2) : Statement (.shfl e d a b f) := by
  intro hw w he
  cases he
  apply decode_of hw (by show assigned 3 _ = true; rw [opcode_pack]; decide)
  obtain ⟨h0, h1, h2, h3⟩ := layout_10 d a b f _ rfl
  have hp : ∀ (v : Nat) (w : Word), opcodeOf w = 0xA0 →
      parse v w = chk 0x0 false w (.shfl (sBit w) (w.extractLsb' 16 7) (w.extractLsb' 9 7) (w.extractLsb' 2 7) (w.extractLsb' 0 2)) := by
    intro v w h
    unfold parse
    rw [h]
    rfl
  refine (hp _ _ (opcode_pack ..)).trans ?_
  refine (chk_ok (by decide) (and_zero _) (fun h => by cases h)).trans ?_
  rw [sBit_pack, ext_pack _ _ _ _ _ (by decide), ext_pack _ _ _ _ _ (by decide), ext_pack _ _ _ _ _ (by decide), ext_pack _ _ _ _ _ (by decide), h0, h1, h2, h3]

theorem bcast (e : Bool) (d : BitVec 7) (a : BitVec 7) (b : BitVec 7) (f : BitVec 2) : Statement (.bcast e d a b f) := by
  intro hw w he
  cases he
  apply decode_of hw (by show assigned 3 _ = true; rw [opcode_pack]; decide)
  obtain ⟨h0, h1, h2, h3⟩ := layout_10 d a b f _ rfl
  have hp : ∀ (v : Nat) (w : Word), opcodeOf w = 0xA1 →
      parse v w = chk 0x0 false w (.bcast (sBit w) (w.extractLsb' 16 7) (w.extractLsb' 9 7) (w.extractLsb' 2 7) (w.extractLsb' 0 2)) := by
    intro v w h
    unfold parse
    rw [h]
    rfl
  refine (hp _ _ (opcode_pack ..)).trans ?_
  refine (chk_ok (by decide) (and_zero _) (fun h => by cases h)).trans ?_
  rw [sBit_pack, ext_pack _ _ _ _ _ (by decide), ext_pack _ _ _ _ _ (by decide), ext_pack _ _ _ _ _ (by decide), ext_pack _ _ _ _ _ (by decide), h0, h1, h2, h3]

theorem ballot (e : Bool) (d : BitVec 7) (a : BitVec 7) : Statement (.ballot e d a) := by
  intro hw w he
  cases he
  apply decode_of hw (by show assigned 3 _ = true; rw [opcode_pack]; decide)
  obtain ⟨h0, h1, hf, m0⟩ := layout_11 d a _ rfl
  have hp : ∀ (v : Nat) (w : Word), opcodeOf w = 0xA2 →
      parse v w = chk 0x1FC true w (.ballot (sBit w) (w.extractLsb' 16 7) (w.extractLsb' 9 7)) := by
    intro v w h
    unfold parse
    rw [h]
    rfl
  refine (hp _ _ (opcode_pack ..)).trans ?_
  refine (chk_ok (by decide) (and_mask _ 2 7 m0 (by decide)) fun _ => hf).trans ?_
  rw [sBit_pack, ext_pack _ _ _ _ _ (by decide), ext_pack _ _ _ _ _ (by decide), h0, h1]

theorem vote (e : Bool) (d : BitVec 7) (a : BitVec 7) (f : BitVec 2) : Statement (.vote e d a f) := by
  intro hw w he
  cases he
  apply decode_of hw (by show assigned 3 _ = true; rw [opcode_pack]; decide)
  obtain ⟨h0, h1, h2, m0⟩ := layout_22 d a f _ rfl
  have hp : ∀ (v : Nat) (w : Word), opcodeOf w = 0xA3 →
      parse v w = chk 0x1FC false w (.vote (sBit w) (w.extractLsb' 16 7) (w.extractLsb' 9 7) (w.extractLsb' 0 2)) := by
    intro v w h
    unfold parse
    rw [h]
    rfl
  refine (hp _ _ (opcode_pack ..)).trans ?_
  refine (chk_ok (by decide) (and_mask _ 2 7 m0 (by decide)) (fun h => by cases h)).trans ?_
  rw [sBit_pack, ext_pack _ _ _ _ _ (by decide), ext_pack _ _ _ _ _ (by decide), ext_pack _ _ _ _ _ (by decide), h0, h1, h2]

theorem red (e : Bool) (d : BitVec 7) (a : BitVec 7) (o : BitVec 3) (v : BitVec 3) (f : BitVec 2) : Statement (.red e d a o v f) := by
  intro hw w he
  cases he
  apply decode_of hw (by show assigned 3 _ = true; rw [opcode_pack]; decide)
  obtain ⟨h0, h1, h2, h3, h4, m0⟩ := layout_34 d a o v f _ rfl
  have hp : ∀ (v : Nat) (w : Word), opcodeOf w = 0xA4 →
      parse v w = chk 0x20 false w (.red (sBit w) (w.extractLsb' 16 7) (w.extractLsb' 9 7) (w.extractLsb' 6 3) (w.extractLsb' 2 3) (w.extractLsb' 0 2)) := by
    intro v w h
    unfold parse
    rw [h]
    rfl
  refine (hp _ _ (opcode_pack ..)).trans ?_
  refine (chk_ok (by decide) (and_mask _ 5 1 m0 (by decide)) (fun h => by cases h)).trans ?_
  rw [sBit_pack, ext_pack _ _ _ _ _ (by decide), ext_pack _ _ _ _ _ (by decide), ext_pack _ _ _ _ _ (by decide), ext_pack _ _ _ _ _ (by decide), ext_pack _ _ _ _ _ (by decide), h0, h1, h2, h3, h4]

theorem scan (e : Bool) (d : BitVec 7) (a : BitVec 7) (o : BitVec 3) (ex : BitVec 1) (v : BitVec 3) (f : BitVec 2) : Statement (.scan e d a o ex v f) := by
  intro hw w he
  cases he
  apply decode_of hw (by show assigned 3 _ = true; rw [opcode_pack]; decide)
  obtain ⟨h0, h1, h2, h3, h4, h5⟩ := layout_35 d a o ex v f _ rfl
  have hp : ∀ (v : Nat) (w : Word), opcodeOf w = 0xA5 →
      parse v w = chk 0x0 false w (.scan (sBit w) (w.extractLsb' 16 7) (w.extractLsb' 9 7) (w.extractLsb' 6 3) (w.extractLsb' 5 1) (w.extractLsb' 2 3) (w.extractLsb' 0 2)) := by
    intro v w h
    unfold parse
    rw [h]
    rfl
  refine (hp _ _ (opcode_pack ..)).trans ?_
  refine (chk_ok (by decide) (and_zero _) (fun h => by cases h)).trans ?_
  rw [sBit_pack, ext_pack _ _ _ _ _ (by decide), ext_pack _ _ _ _ _ (by decide), ext_pack _ _ _ _ _ (by decide), ext_pack _ _ _ _ _ (by decide), ext_pack _ _ _ _ _ (by decide), ext_pack _ _ _ _ _ (by decide), h0, h1, h2, h3, h4, h5]

theorem topk (e : Bool) (d : BitVec 7) (a : BitVec 7) (b : BitVec 7) (f : BitVec 2) : Statement (.topk e d a b f) := by
  intro hw w he
  cases he
  apply decode_of hw (by show assigned 3 _ = true; rw [opcode_pack]; decide)
  obtain ⟨h0, h1, h2, h3⟩ := layout_10 d a b f _ rfl
  have hp : ∀ (v : Nat) (w : Word), opcodeOf w = 0xA6 →
      parse v w = chk 0x0 false w (.topk (sBit w) (w.extractLsb' 16 7) (w.extractLsb' 9 7) (w.extractLsb' 2 7) (w.extractLsb' 0 2)) := by
    intro v w h
    unfold parse
    rw [h]
    rfl
  refine (hp _ _ (opcode_pack ..)).trans ?_
  refine (chk_ok (by decide) (and_zero _) (fun h => by cases h)).trans ?_
  rw [sBit_pack, ext_pack _ _ _ _ _ (by decide), ext_pack _ _ _ _ _ (by decide), ext_pack _ _ _ _ _ (by decide), ext_pack _ _ _ _ _ (by decide), h0, h1, h2, h3]

theorem matchv (e : Bool) (d : BitVec 7) (a : BitVec 7) (f : BitVec 2) : Statement (.matchv e d a f) := by
  intro hw w he
  cases he
  apply decode_of hw (by show assigned 3 _ = true; rw [opcode_pack]; decide)
  obtain ⟨h0, h1, h2, m0⟩ := layout_22 d a f _ rfl
  have hp : ∀ (v : Nat) (w : Word), opcodeOf w = 0xA7 →
      parse v w = chk 0x1FC false w (.matchv (sBit w) (w.extractLsb' 16 7) (w.extractLsb' 9 7) (w.extractLsb' 0 2)) := by
    intro v w h
    unfold parse
    rw [h]
    rfl
  refine (hp _ _ (opcode_pack ..)).trans ?_
  refine (chk_ok (by decide) (and_mask _ 2 7 m0 (by decide)) (fun h => by cases h)).trans ?_
  rw [sBit_pack, ext_pack _ _ _ _ _ (by decide), ext_pack _ _ _ _ _ (by decide), ext_pack _ _ _ _ _ (by decide), h0, h1, h2]

theorem sortkv (e : Bool) (d : BitVec 7) (a : BitVec 7) (b : BitVec 7) (f : BitVec 2) : Statement (.sortkv e d a b f) := by
  intro hw w he
  cases he
  apply decode_of hw (by show assigned 3 _ = true; rw [opcode_pack]; decide)
  obtain ⟨h0, h1, h2, h3⟩ := layout_10 d a b f _ rfl
  have hp : ∀ (v : Nat) (w : Word), opcodeOf w = 0xA8 →
      parse v w = chk 0x0 false w (.sortkv (sBit w) (w.extractLsb' 16 7) (w.extractLsb' 9 7) (w.extractLsb' 2 7) (w.extractLsb' 0 2)) := by
    intro v w h
    unfold parse
    rw [h]
    rfl
  refine (hp _ _ (opcode_pack ..)).trans ?_
  refine (chk_ok (by decide) (and_zero _) (fun h => by cases h)).trans ?_
  rw [sBit_pack, ext_pack _ _ _ _ _ (by decide), ext_pack _ _ _ _ _ (by decide), ext_pack _ _ _ _ _ (by decide), ext_pack _ _ _ _ _ (by decide), h0, h1, h2, h3]

theorem regroup (e : Bool) (d : BitVec 7) (a : BitVec 7) (n : BitVec 7) : Statement (.regroup e d a n) := by
  intro hw w he
  cases he
  apply decode_of hw (by show assigned 3 _ = true; rw [opcode_pack]; decide)
  obtain ⟨h0, h1, h2, hf⟩ := layout_9 d a n _ rfl
  have hp : ∀ (v : Nat) (w : Word), opcodeOf w = 0xA9 →
      parse v w = chk 0x0 true w (.regroup (sBit w) (w.extractLsb' 16 7) (w.extractLsb' 9 7) (w.extractLsb' 2 7)) := by
    intro v w h
    unfold parse
    rw [h]
    rfl
  refine (hp _ _ (opcode_pack ..)).trans ?_
  refine (chk_ok (by decide) (and_zero _) fun _ => hf).trans ?_
  rw [sBit_pack, ext_pack _ _ _ _ _ (by decide), ext_pack _ _ _ _ _ (by decide), ext_pack _ _ _ _ _ (by decide), h0, h1, h2]

theorem bar (e : Bool) : Statement (.bar e) := by
  intro hw w he
  cases he
  apply decode_of hw (by show assigned 3 _ = true; rw [opcode_pack]; decide)
  obtain ⟨hf, m0⟩ := layout_25 _ rfl
  have hp : ∀ (v : Nat) (w : Word), opcodeOf w = 0xAA →
      parse v w = chk 0x7FFFFC true w (.bar (sBit w)) := by
    intro v w h
    unfold parse
    rw [h]
    rfl
  refine (hp _ _ (opcode_pack ..)).trans ?_
  refine (chk_ok (by decide) (and_mask _ 2 21 m0 (by decide)) fun _ => hf).trans ?_
  rw [sBit_pack]

theorem cvinit (e : Bool) (d : BitVec 7) (a : BitVec 7) : Statement (.cvinit e d a) := by
  intro hw w he
  cases he
  apply decode_of hw (by show assigned 3 _ = true; rw [opcode_pack]; decide)
  obtain ⟨h0, h1, hf, m0⟩ := layout_11 d a _ rfl
  have hp : ∀ (v : Nat) (w : Word), opcodeOf w = 0xAB →
      parse v w = chk 0x1FC true w (.cvinit (sBit w) (w.extractLsb' 16 7) (w.extractLsb' 9 7)) := by
    intro v w h
    unfold parse
    rw [h]
    rfl
  refine (hp _ _ (opcode_pack ..)).trans ?_
  refine (chk_ok (by decide) (and_mask _ 2 7 m0 (by decide)) fun _ => hf).trans ?_
  rw [sBit_pack, ext_pack _ _ _ _ _ (by decide), ext_pack _ _ _ _ _ (by decide), h0, h1]

theorem cvsign (e : Bool) (d : BitVec 7) (a : BitVec 7) : Statement (.cvsign e d a) := by
  intro hw w he
  cases he
  apply decode_of hw (by show assigned 3 _ = true; rw [opcode_pack]; decide)
  obtain ⟨h0, h1, hf, m0⟩ := layout_11 d a _ rfl
  have hp : ∀ (v : Nat) (w : Word), opcodeOf w = 0xAC →
      parse v w = chk 0x1FC true w (.cvsign (sBit w) (w.extractLsb' 16 7) (w.extractLsb' 9 7)) := by
    intro v w h
    unfold parse
    rw [h]
    rfl
  refine (hp _ _ (opcode_pack ..)).trans ?_
  refine (chk_ok (by decide) (and_mask _ 2 7 m0 (by decide)) fun _ => hf).trans ?_
  rw [sBit_pack, ext_pack _ _ _ _ _ (by decide), ext_pack _ _ _ _ _ (by decide), h0, h1]

theorem elect (e : Bool) (d : BitVec 7) : Statement (.elect e d) := by
  intro hw w he
  cases he
  apply decode_of hw (by show assigned 3 _ = true; rw [opcode_pack]; decide)
  obtain ⟨h0, hf, m0⟩ := layout_36 d _ rfl
  have hp : ∀ (v : Nat) (w : Word), opcodeOf w = 0xAD →
      parse v w = chk 0xFFFC true w (.elect (sBit w) (w.extractLsb' 16 7)) := by
    intro v w h
    unfold parse
    rw [h]
    rfl
  refine (hp _ _ (opcode_pack ..)).trans ?_
  refine (chk_ok (by decide) (and_mask _ 2 14 m0 (by decide)) fun _ => hf).trans ?_
  rw [sBit_pack, ext_pack _ _ _ _ _ (by decide), h0]

theorem tload (e : Bool) (d : BitVec 7) (a : BitVec 7) (b : BitVec 7) (f : BitVec 2) : Statement (.tload e d a b f) := by
  intro hw w he
  cases he
  apply decode_of hw (by show assigned 3 _ = true; rw [opcode_pack]; decide)
  obtain ⟨h0, h1, h2, h3⟩ := layout_10 d a b f _ rfl
  have hp : ∀ (v : Nat) (w : Word), opcodeOf w = 0xB0 →
      parse v w = chk 0x0 false w (.tload (sBit w) (w.extractLsb' 16 7) (w.extractLsb' 9 7) (w.extractLsb' 2 7) (w.extractLsb' 0 2)) := by
    intro v w h
    unfold parse
    rw [h]
    rfl
  refine (hp _ _ (opcode_pack ..)).trans ?_
  refine (chk_ok (by decide) (and_zero _) (fun h => by cases h)).trans ?_
  rw [sBit_pack, ext_pack _ _ _ _ _ (by decide), ext_pack _ _ _ _ _ (by decide), ext_pack _ _ _ _ _ (by decide), ext_pack _ _ _ _ _ (by decide), h0, h1, h2, h3]

theorem tstore (e : Bool) (d : BitVec 7) (a : BitVec 7) (b : BitVec 7) : Statement (.tstore e d a b) := by
  intro hw w he
  cases he
  apply decode_of hw (by show assigned 3 _ = true; rw [opcode_pack]; decide)
  obtain ⟨h0, h1, h2, hf⟩ := layout_9 d a b _ rfl
  have hp : ∀ (v : Nat) (w : Word), opcodeOf w = 0xB1 →
      parse v w = chk 0x0 true w (.tstore (sBit w) (w.extractLsb' 16 7) (w.extractLsb' 9 7) (w.extractLsb' 2 7)) := by
    intro v w h
    unfold parse
    rw [h]
    rfl
  refine (hp _ _ (opcode_pack ..)).trans ?_
  refine (chk_ok (by decide) (and_zero _) fun _ => hf).trans ?_
  rw [sBit_pack, ext_pack _ _ _ _ _ (by decide), ext_pack _ _ _ _ _ (by decide), ext_pack _ _ _ _ _ (by decide), h0, h1, h2]

theorem tbind (e : Bool) (d : BitVec 7) (a : BitVec 7) (b : BitVec 7) : Statement (.tbind e d a b) := by
  intro hw w he
  cases he
  apply decode_of hw (by show assigned 3 _ = true; rw [opcode_pack]; decide)
  obtain ⟨h0, h1, h2, hf⟩ := layout_9 d a b _ rfl
  have hp : ∀ (v : Nat) (w : Word), opcodeOf w = 0xB2 →
      parse v w = chk 0x0 true w (.tbind (sBit w) (w.extractLsb' 16 7) (w.extractLsb' 9 7) (w.extractLsb' 2 7)) := by
    intro v w h
    unfold parse
    rw [h]
    rfl
  refine (hp _ _ (opcode_pack ..)).trans ?_
  refine (chk_ok (by decide) (and_zero _) fun _ => hf).trans ?_
  rw [sBit_pack, ext_pack _ _ _ _ _ (by decide), ext_pack _ _ _ _ _ (by decide), ext_pack _ _ _ _ _ (by decide), h0, h1, h2]

theorem tzero (e : Bool) (d : BitVec 7) (a : BitVec 7) (f : BitVec 2) : Statement (.tzero e d a f) := by
  intro hw w he
  cases he
  apply decode_of hw (by show assigned 3 _ = true; rw [opcode_pack]; decide)
  obtain ⟨h0, h1, h2, m0⟩ := layout_22 d a f _ rfl
  have hp : ∀ (v : Nat) (w : Word), opcodeOf w = 0xB3 →
      parse v w = chk 0x1FC false w (.tzero (sBit w) (w.extractLsb' 16 7) (w.extractLsb' 9 7) (w.extractLsb' 0 2)) := by
    intro v w h
    unfold parse
    rw [h]
    rfl
  refine (hp _ _ (opcode_pack ..)).trans ?_
  refine (chk_ok (by decide) (and_mask _ 2 7 m0 (by decide)) (fun h => by cases h)).trans ?_
  rw [sBit_pack, ext_pack _ _ _ _ _ (by decide), ext_pack _ _ _ _ _ (by decide), ext_pack _ _ _ _ _ (by decide), h0, h1, h2]

theorem tfree (e : Bool) (d : BitVec 7) : Statement (.tfree e d) := by
  intro hw w he
  cases he
  apply decode_of hw (by show assigned 3 _ = true; rw [opcode_pack]; decide)
  obtain ⟨h0, hf, m0⟩ := layout_36 d _ rfl
  have hp : ∀ (v : Nat) (w : Word), opcodeOf w = 0xB4 →
      parse v w = chk 0xFFFC true w (.tfree (sBit w) (w.extractLsb' 16 7)) := by
    intro v w h
    unfold parse
    rw [h]
    rfl
  refine (hp _ _ (opcode_pack ..)).trans ?_
  refine (chk_ok (by decide) (and_mask _ 2 14 m0 (by decide)) fun _ => hf).trans ?_
  rw [sBit_pack, ext_pack _ _ _ _ _ (by decide), h0]

theorem tmma (e : Bool) (d : BitVec 7) (a : BitVec 7) (b : BitVec 7) (f : BitVec 2) : Statement (.tmma e d a b f) := by
  intro hw w he
  cases he
  apply decode_of hw (by show assigned 3 _ = true; rw [opcode_pack]; decide)
  obtain ⟨h0, h1, h2, h3⟩ := layout_10 d a b f _ rfl
  have hp : ∀ (v : Nat) (w : Word), opcodeOf w = 0xB5 →
      parse v w = chk 0x0 false w (.tmma (sBit w) (w.extractLsb' 16 7) (w.extractLsb' 9 7) (w.extractLsb' 2 7) (w.extractLsb' 0 2)) := by
    intro v w h
    unfold parse
    rw [h]
    rfl
  refine (hp _ _ (opcode_pack ..)).trans ?_
  refine (chk_ok (by decide) (and_zero _) (fun h => by cases h)).trans ?_
  rw [sBit_pack, ext_pack _ _ _ _ _ (by decide), ext_pack _ _ _ _ _ (by decide), ext_pack _ _ _ _ _ (by decide), ext_pack _ _ _ _ _ (by decide), h0, h1, h2, h3]

theorem tmmas (e : Bool) (d : BitVec 7) (a : BitVec 7) (b : BitVec 7) : Statement (.tmmas e d a b) := by
  intro hw w he
  cases he
  apply decode_of hw (by show assigned 3 _ = true; rw [opcode_pack]; decide)
  obtain ⟨h0, h1, h2, hs⟩ := layout_37 d a b _ rfl
  have hp : ∀ (v : Nat) (w : Word), opcodeOf w = 0xB6 → w.extractLsb' 0 2 = 2#2 →
      parse v w = chk 0x0 false w (.tmmas (sBit w) (w.extractLsb' 16 7) (w.extractLsb' 9 7) (w.extractLsb' 2 7)) := by
    intro v w h hs
    unfold parse
    rw [h]
    rw [hs]
    rfl
  refine (hp _ _ (opcode_pack ..) ((ext_pack _ _ _ _ _ (by decide)).trans hs)).trans ?_
  refine (chk_ok (by decide) (and_zero _) (fun h => by cases h)).trans ?_
  rw [sBit_pack, ext_pack _ _ _ _ _ (by decide), ext_pack _ _ _ _ _ (by decide), ext_pack _ _ _ _ _ (by decide), h0, h1, h2]

theorem tadd (e : Bool) (d : BitVec 7) (a : BitVec 7) (b : BitVec 7) : Statement (.tadd e d a b) := by
  intro hw w he
  cases he
  apply decode_of hw (by show assigned 3 _ = true; rw [opcode_pack]; decide)
  obtain ⟨h0, h1, h2, hf⟩ := layout_9 d a b _ rfl
  have hp : ∀ (v : Nat) (w : Word), opcodeOf w = 0xB7 →
      parse v w = chk 0x0 true w (.tadd (sBit w) (w.extractLsb' 16 7) (w.extractLsb' 9 7) (w.extractLsb' 2 7)) := by
    intro v w h
    unfold parse
    rw [h]
    rfl
  refine (hp _ _ (opcode_pack ..)).trans ?_
  refine (chk_ok (by decide) (and_zero _) fun _ => hf).trans ?_
  rw [sBit_pack, ext_pack _ _ _ _ _ (by decide), ext_pack _ _ _ _ _ (by decide), ext_pack _ _ _ _ _ (by decide), h0, h1, h2]

theorem trnd (e : Bool) (d : BitVec 7) (a : BitVec 7) (b : BitVec 7) : Statement (.trnd e d a b) := by
  intro hw w he
  cases he
  apply decode_of hw (by show assigned 3 _ = true; rw [opcode_pack]; decide)
  obtain ⟨h0, h1, h2, hf⟩ := layout_9 d a b _ rfl
  have hp : ∀ (v : Nat) (w : Word), opcodeOf w = 0xB8 →
      parse v w = chk 0x0 true w (.trnd (sBit w) (w.extractLsb' 16 7) (w.extractLsb' 9 7) (w.extractLsb' 2 7)) := by
    intro v w h
    unfold parse
    rw [h]
    rfl
  refine (hp _ _ (opcode_pack ..)).trans ?_
  refine (chk_ok (by decide) (and_zero _) fun _ => hf).trans ?_
  rw [sBit_pack, ext_pack _ _ _ _ _ (by decide), ext_pack _ _ _ _ _ (by decide), ext_pack _ _ _ _ _ (by decide), h0, h1, h2]

theorem tdense (e : Bool) (d : BitVec 7) (a : BitVec 7) (f : BitVec 2) : Statement (.tdense e d a f) := by
  intro hw w he
  cases he
  apply decode_of hw (by show assigned 3 _ = true; rw [opcode_pack]; decide)
  obtain ⟨h0, h1, h2, m0⟩ := layout_22 d a f _ rfl
  have hp : ∀ (v : Nat) (w : Word), opcodeOf w = 0xB9 →
      parse v w = chk 0x1FC false w (.tdense (sBit w) (w.extractLsb' 16 7) (w.extractLsb' 9 7) (w.extractLsb' 0 2)) := by
    intro v w h
    unfold parse
    rw [h]
    rfl
  refine (hp _ _ (opcode_pack ..)).trans ?_
  refine (chk_ok (by decide) (and_mask _ 2 7 m0 (by decide)) (fun h => by cases h)).trans ?_
  rw [sBit_pack, ext_pack _ _ _ _ _ (by decide), ext_pack _ _ _ _ _ (by decide), ext_pack _ _ _ _ _ (by decide), h0, h1, h2]

theorem tlrf (e : Bool) (d : BitVec 7) (a : BitVec 7) (b : BitVec 7) : Statement (.tlrf e d a b) := by
  intro hw w he
  cases he
  apply decode_of hw (by show assigned 3 _ = true; rw [opcode_pack]; decide)
  obtain ⟨h0, h1, h2, hf⟩ := layout_9 d a b _ rfl
  have hp : ∀ (v : Nat) (w : Word), opcodeOf w = 0xBA →
      parse v w = chk 0x0 true w (.tlrf (sBit w) (w.extractLsb' 16 7) (w.extractLsb' 9 7) (w.extractLsb' 2 7)) := by
    intro v w h
    unfold parse
    rw [h]
    rfl
  refine (hp _ _ (opcode_pack ..)).trans ?_
  refine (chk_ok (by decide) (and_zero _) fun _ => hf).trans ?_
  rw [sBit_pack, ext_pack _ _ _ _ _ (by decide), ext_pack _ _ _ _ _ (by decide), ext_pack _ _ _ _ _ (by decide), h0, h1, h2]

theorem tscal (e : Bool) (d : BitVec 7) (a : BitVec 7) (b : BitVec 7) (f : BitVec 2) : Statement (.tscal e d a b f) := by
  intro hw w he
  cases he
  apply decode_of hw (by show assigned 3 _ = true; rw [opcode_pack]; decide)
  obtain ⟨h0, h1, h2, h3⟩ := layout_10 d a b f _ rfl
  have hp : ∀ (v : Nat) (w : Word), opcodeOf w = 0xBB →
      parse v w = chk 0x0 false w (.tscal (sBit w) (w.extractLsb' 16 7) (w.extractLsb' 9 7) (w.extractLsb' 2 7) (w.extractLsb' 0 2)) := by
    intro v w h
    unfold parse
    rw [h]
    rfl
  refine (hp _ _ (opcode_pack ..)).trans ?_
  refine (chk_ok (by decide) (and_zero _) (fun h => by cases h)).trans ?_
  rw [sBit_pack, ext_pack _ _ _ _ _ (by decide), ext_pack _ _ _ _ _ (by decide), ext_pack _ _ _ _ _ (by decide), ext_pack _ _ _ _ _ (by decide), h0, h1, h2, h3]

theorem tinfo (e : Bool) (d : BitVec 7) (a : BitVec 7) : Statement (.tinfo e d a) := by
  intro hw w he
  cases he
  apply decode_of hw (by show assigned 3 _ = true; rw [opcode_pack]; decide)
  obtain ⟨h0, h1, hf, m0⟩ := layout_11 d a _ rfl
  have hp : ∀ (v : Nat) (w : Word), opcodeOf w = 0xBC →
      parse v w = chk 0x1FC true w (.tinfo (sBit w) (w.extractLsb' 16 7) (w.extractLsb' 9 7)) := by
    intro v w h
    unfold parse
    rw [h]
    rfl
  refine (hp _ _ (opcode_pack ..)).trans ?_
  refine (chk_ok (by decide) (and_mask _ 2 7 m0 (by decide)) fun _ => hf).trans ?_
  rw [sBit_pack, ext_pack _ _ _ _ _ (by decide), ext_pack _ _ _ _ _ (by decide), h0, h1]

theorem tmova (e : Bool) (d : BitVec 7) (a : BitVec 7) (b : BitVec 7) : Statement (.tmova e d a b) := by
  intro hw w he
  cases he
  apply decode_of hw (by show assigned 3 _ = true; rw [opcode_pack]; decide)
  obtain ⟨h0, h1, h2, hf⟩ := layout_9 d a b _ rfl
  have hp : ∀ (v : Nat) (w : Word), opcodeOf w = 0xBD →
      parse v w = chk 0x0 true w (.tmova (sBit w) (w.extractLsb' 16 7) (w.extractLsb' 9 7) (w.extractLsb' 2 7)) := by
    intro v w h
    unfold parse
    rw [h]
    rfl
  refine (hp _ _ (opcode_pack ..)).trans ?_
  refine (chk_ok (by decide) (and_zero _) fun _ => hf).trans ?_
  rw [sBit_pack, ext_pack _ _ _ _ _ (by decide), ext_pack _ _ _ _ _ (by decide), ext_pack _ _ _ _ _ (by decide), h0, h1, h2]

theorem tmovr (e : Bool) (d : BitVec 7) (a : BitVec 7) (b : BitVec 7) : Statement (.tmovr e d a b) := by
  intro hw w he
  cases he
  apply decode_of hw (by show assigned 3 _ = true; rw [opcode_pack]; decide)
  obtain ⟨h0, h1, h2, hf⟩ := layout_9 d a b _ rfl
  have hp : ∀ (v : Nat) (w : Word), opcodeOf w = 0xBE →
      parse v w = chk 0x0 true w (.tmovr (sBit w) (w.extractLsb' 16 7) (w.extractLsb' 9 7) (w.extractLsb' 2 7)) := by
    intro v w h
    unfold parse
    rw [h]
    rfl
  refine (hp _ _ (opcode_pack ..)).trans ?_
  refine (chk_ok (by decide) (and_zero _) fun _ => hf).trans ?_
  rw [sBit_pack, ext_pack _ _ _ _ _ (by decide), ext_pack _ _ _ _ _ (by decide), ext_pack _ _ _ _ _ (by decide), h0, h1, h2]

theorem twait (e : Bool) (d : BitVec 7) (a : BitVec 7) (b : BitVec 7) (f : BitVec 2) : Statement (.twait e d a b f) := by
  intro hw w he
  cases he
  apply decode_of hw (by show assigned 3 _ = true; rw [opcode_pack]; decide)
  obtain ⟨h0, h1, h2, h3⟩ := layout_10 d a b f _ rfl
  have hp : ∀ (v : Nat) (w : Word), opcodeOf w = 0xBF →
      parse v w = chk 0x0 false w (.twait (sBit w) (w.extractLsb' 16 7) (w.extractLsb' 9 7) (w.extractLsb' 2 7) (w.extractLsb' 0 2)) := by
    intro v w h
    unfold parse
    rw [h]
    rfl
  refine (hp _ _ (opcode_pack ..)).trans ?_
  refine (chk_ok (by decide) (and_zero _) (fun h => by cases h)).trans ?_
  rw [sBit_pack, ext_pack _ _ _ _ _ (by decide), ext_pack _ _ _ _ _ (by decide), ext_pack _ _ _ _ _ (by decide), ext_pack _ _ _ _ _ (by decide), h0, h1, h2, h3]

theorem tlu (e : Bool) (d : BitVec 7) : Statement (.tlu e d) := by
  intro hw w he
  cases he
  apply decode_of hw (by show assigned 3 _ = true; rw [opcode_pack]; decide)
  obtain ⟨h0, hf, m0⟩ := layout_36 d _ rfl
  have hp : ∀ (v : Nat) (w : Word), opcodeOf w = 0xC0 →
      parse v w = chk 0xFFFC true w (.tlu (sBit w) (w.extractLsb' 16 7)) := by
    intro v w h
    unfold parse
    rw [h]
    rfl
  refine (hp _ _ (opcode_pack ..)).trans ?_
  refine (chk_ok (by decide) (and_mask _ 2 14 m0 (by decide)) fun _ => hf).trans ?_
  rw [sBit_pack, ext_pack _ _ _ _ _ (by decide), h0]

theorem ttrs (e : Bool) (d : BitVec 7) (a : BitVec 7) (f : BitVec 2) : Statement (.ttrs e d a f) := by
  intro hw w he
  cases he
  apply decode_of hw (by show assigned 3 _ = true; rw [opcode_pack]; decide)
  obtain ⟨h0, h1, h2, m0⟩ := layout_22 d a f _ rfl
  have hp : ∀ (v : Nat) (w : Word), opcodeOf w = 0xC1 →
      parse v w = chk 0x1FC false w (.ttrs (sBit w) (w.extractLsb' 16 7) (w.extractLsb' 9 7) (w.extractLsb' 0 2)) := by
    intro v w h
    unfold parse
    rw [h]
    rfl
  refine (hp _ _ (opcode_pack ..)).trans ?_
  refine (chk_ok (by decide) (and_mask _ 2 7 m0 (by decide)) (fun h => by cases h)).trans ?_
  rw [sBit_pack, ext_pack _ _ _ _ _ (by decide), ext_pack _ _ _ _ _ (by decide), ext_pack _ _ _ _ _ (by decide), h0, h1, h2]

theorem tcvt (e : Bool) (d : BitVec 7) (a : BitVec 7) (m : BitVec 4) (f : BitVec 2) : Statement (.tcvt e d a m f) := by
  intro hw w he
  cases he
  apply decode_of hw (by show assigned 3 _ = true; rw [opcode_pack]; decide)
  obtain ⟨h0, h1, h2, h3, m0⟩ := layout_38 d a m f _ rfl
  have hp : ∀ (v : Nat) (w : Word), opcodeOf w = 0xC2 →
      parse v w = chk 0x1C0 false w (.tcvt (sBit w) (w.extractLsb' 16 7) (w.extractLsb' 9 7) (w.extractLsb' 2 4) (w.extractLsb' 0 2)) := by
    intro v w h
    unfold parse
    rw [h]
    rfl
  refine (hp _ _ (opcode_pack ..)).trans ?_
  refine (chk_ok (by decide) (and_mask _ 6 3 m0 (by decide)) (fun h => by cases h)).trans ?_
  rw [sBit_pack, ext_pack _ _ _ _ _ (by decide), ext_pack _ _ _ _ _ (by decide), ext_pack _ _ _ _ _ (by decide), ext_pack _ _ _ _ _ (by decide), h0, h1, h2, h3]

theorem ttran (e : Bool) (d : BitVec 7) (a : BitVec 7) (f : BitVec 2) : Statement (.ttran e d a f) := by
  intro hw w he
  cases he
  apply decode_of hw (by show assigned 3 _ = true; rw [opcode_pack]; decide)
  obtain ⟨h0, h1, h2, m0⟩ := layout_22 d a f _ rfl
  have hp : ∀ (v : Nat) (w : Word), opcodeOf w = 0xC3 →
      parse v w = chk 0x1FC false w (.ttran (sBit w) (w.extractLsb' 16 7) (w.extractLsb' 9 7) (w.extractLsb' 0 2)) := by
    intro v w h
    unfold parse
    rw [h]
    rfl
  refine (hp _ _ (opcode_pack ..)).trans ?_
  refine (chk_ok (by decide) (and_mask _ 2 7 m0 (by decide)) (fun h => by cases h)).trans ?_
  rw [sBit_pack, ext_pack _ _ _ _ _ (by decide), ext_pack _ _ _ _ _ (by decide), ext_pack _ _ _ _ _ (by decide), h0, h1, h2]

theorem tset (e : Bool) (d : BitVec 7) (a : BitVec 7) (b : BitVec 7) : Statement (.tset e d a b) := by
  intro hw w he
  cases he
  apply decode_of hw (by show assigned 3 _ = true; rw [opcode_pack]; decide)
  obtain ⟨h0, h1, h2, hf⟩ := layout_9 d a b _ rfl
  have hp : ∀ (v : Nat) (w : Word), opcodeOf w = 0xC4 →
      parse v w = chk 0x0 true w (.tset (sBit w) (w.extractLsb' 16 7) (w.extractLsb' 9 7) (w.extractLsb' 2 7)) := by
    intro v w h
    unfold parse
    rw [h]
    rfl
  refine (hp _ _ (opcode_pack ..)).trans ?_
  refine (chk_ok (by decide) (and_zero _) fun _ => hf).trans ?_
  rw [sBit_pack, ext_pack _ _ _ _ _ (by decide), ext_pack _ _ _ _ _ (by decide), ext_pack _ _ _ _ _ (by decide), h0, h1, h2]

theorem tcopy (e : Bool) (d : BitVec 7) (a : BitVec 7) (f : BitVec 2) : Statement (.tcopy e d a f) := by
  intro hw w he
  cases he
  apply decode_of hw (by show assigned 3 _ = true; rw [opcode_pack]; decide)
  obtain ⟨h0, h1, h2, m0⟩ := layout_22 d a f _ rfl
  have hp : ∀ (v : Nat) (w : Word), opcodeOf w = 0xC5 →
      parse v w = chk 0x1FC false w (.tcopy (sBit w) (w.extractLsb' 16 7) (w.extractLsb' 9 7) (w.extractLsb' 0 2)) := by
    intro v w h
    unfold parse
    rw [h]
    rfl
  refine (hp _ _ (opcode_pack ..)).trans ?_
  refine (chk_ok (by decide) (and_mask _ 2 7 m0 (by decide)) (fun h => by cases h)).trans ?_
  rw [sBit_pack, ext_pack _ _ _ _ _ (by decide), ext_pack _ _ _ _ _ (by decide), ext_pack _ _ _ _ _ (by decide), h0, h1, h2]

theorem tget (e : Bool) (d : BitVec 7) (a : BitVec 7) (b : BitVec 7) (f : BitVec 2) : Statement (.tget e d a b f) := by
  intro hw w he
  cases he
  apply decode_of hw (by show assigned 3 _ = true; rw [opcode_pack]; decide)
  obtain ⟨h0, h1, h2, h3⟩ := layout_10 d a b f _ rfl
  have hp : ∀ (v : Nat) (w : Word), opcodeOf w = 0xC6 →
      parse v w = chk 0x0 false w (.tget (sBit w) (w.extractLsb' 16 7) (w.extractLsb' 9 7) (w.extractLsb' 2 7) (w.extractLsb' 0 2)) := by
    intro v w h
    unfold parse
    rw [h]
    rfl
  refine (hp _ _ (opcode_pack ..)).trans ?_
  refine (chk_ok (by decide) (and_zero _) (fun h => by cases h)).trans ?_
  rw [sBit_pack, ext_pack _ _ _ _ _ (by decide), ext_pack _ _ _ _ _ (by decide), ext_pack _ _ _ _ _ (by decide), ext_pack _ _ _ _ _ (by decide), h0, h1, h2, h3]

theorem tnorm (e : Bool) (d : BitVec 7) (a : BitVec 7) (f : BitVec 2) : Statement (.tnorm e d a f) := by
  intro hw w he
  cases he
  apply decode_of hw (by show assigned 3 _ = true; rw [opcode_pack]; decide)
  obtain ⟨h0, h1, h2, m0⟩ := layout_22 d a f _ rfl
  have hp : ∀ (v : Nat) (w : Word), opcodeOf w = 0xC7 →
      parse v w = chk 0x1FC false w (.tnorm (sBit w) (w.extractLsb' 16 7) (w.extractLsb' 9 7) (w.extractLsb' 0 2)) := by
    intro v w h
    unfold parse
    rw [h]
    rfl
  refine (hp _ _ (opcode_pack ..)).trans ?_
  refine (chk_ok (by decide) (and_mask _ 2 7 m0 (by decide)) (fun h => by cases h)).trans ?_
  rw [sBit_pack, ext_pack _ _ _ _ _ (by decide), ext_pack _ _ _ _ _ (by decide), ext_pack _ _ _ _ _ (by decide), h0, h1, h2]

theorem qpush (e : Bool) (a : BitVec 7) (b : BitVec 7) : Statement (.qpush e a b) := by
  intro hw w he
  cases he
  apply decode_of hw (by show assigned 3 _ = true; rw [opcode_pack]; decide)
  obtain ⟨h0, h1, m0, hs⟩ := layout_39 a b _ rfl
  have hp : ∀ (v : Nat) (w : Word), opcodeOf w = 0xC8 → w.extractLsb' 0 2 = 0#2 →
      parse v w = chk 0x7F0000 false w (.qpush (sBit w) (w.extractLsb' 9 7) (w.extractLsb' 2 7)) := by
    intro v w h hs
    unfold parse
    rw [h]
    rw [hs]
    rfl
  refine (hp _ _ (opcode_pack ..) ((ext_pack _ _ _ _ _ (by decide)).trans hs)).trans ?_
  refine (chk_ok (by decide) (and_mask _ 16 7 m0 (by decide)) (fun h => by cases h)).trans ?_
  rw [sBit_pack, ext_pack _ _ _ _ _ (by decide), ext_pack _ _ _ _ _ (by decide), h0, h1]

theorem qpushClose (e : Bool) (a : BitVec 7) : Statement (.qpushClose e a) := by
  intro hw w he
  cases he
  apply decode_of hw (by show assigned 3 _ = true; rw [opcode_pack]; decide)
  obtain ⟨h0, m0, m1, hs⟩ := layout_40 a _ rfl
  have hp : ∀ (v : Nat) (w : Word), opcodeOf w = 0xC8 → w.extractLsb' 0 2 = 1#2 →
      parse v w = chk 0x7F01FC false w (.qpushClose (sBit w) (w.extractLsb' 9 7)) := by
    intro v w h hs
    unfold parse
    rw [h]
    rw [hs]
    rfl
  refine (hp _ _ (opcode_pack ..) ((ext_pack _ _ _ _ _ (by decide)).trans hs)).trans ?_
  refine (chk_ok (by decide) (and_masks _ 2 7 16 7 m0 m1 (by decide)) (fun h => by cases h)).trans ?_
  rw [sBit_pack, ext_pack _ _ _ _ _ (by decide), h0]

theorem qpop (e : Bool) (d : BitVec 7) (a : BitVec 7) (b : BitVec 7) : Statement (.qpop e d a b) := by
  intro hw w he
  cases he
  apply decode_of hw (by show assigned 3 _ = true; rw [opcode_pack]; decide)
  obtain ⟨h0, h1, h2, hf⟩ := layout_9 d a b _ rfl
  have hp : ∀ (v : Nat) (w : Word), opcodeOf w = 0xC9 →
      parse v w = chk 0x0 true w (.qpop (sBit w) (w.extractLsb' 16 7) (w.extractLsb' 9 7) (w.extractLsb' 2 7)) := by
    intro v w h
    unfold parse
    rw [h]
    rfl
  refine (hp _ _ (opcode_pack ..)).trans ?_
  refine (chk_ok (by decide) (and_zero _) fun _ => hf).trans ?_
  rw [sBit_pack, ext_pack _ _ _ _ _ (by decide), ext_pack _ _ _ _ _ (by decide), ext_pack _ _ _ _ _ (by decide), h0, h1, h2]

theorem xform (e : Bool) (d : BitVec 7) (a : BitVec 7) : Statement (.xform e d a) := by
  intro hw w he
  cases he
  apply decode_of hw (by show assigned 3 _ = true; rw [opcode_pack]; decide)
  obtain ⟨h0, h1, hf, m0⟩ := layout_11 d a _ rfl
  have hp : ∀ (v : Nat) (w : Word), opcodeOf w = 0xCA →
      parse v w = chk 0x1FC true w (.xform (sBit w) (w.extractLsb' 16 7) (w.extractLsb' 9 7)) := by
    intro v w h
    unfold parse
    rw [h]
    rfl
  refine (hp _ _ (opcode_pack ..)).trans ?_
  refine (chk_ok (by decide) (and_mask _ 2 7 m0 (by decide)) fun _ => hf).trans ?_
  rw [sBit_pack, ext_pack _ _ _ _ _ (by decide), ext_pack _ _ _ _ _ (by decide), h0, h1]

theorem xwait (e : Bool) (a : BitVec 7) : Statement (.xwait e a) := by
  intro hw w he
  cases he
  apply decode_of hw (by show assigned 3 _ = true; rw [opcode_pack]; decide)
  obtain ⟨h0, hf, m0, m1⟩ := layout_24 a _ rfl
  have hp : ∀ (v : Nat) (w : Word), opcodeOf w = 0xCB →
      parse v w = chk 0x7F01FC true w (.xwait (sBit w) (w.extractLsb' 9 7)) := by
    intro v w h
    unfold parse
    rw [h]
    rfl
  refine (hp _ _ (opcode_pack ..)).trans ?_
  refine (chk_ok (by decide) (and_masks _ 2 7 16 7 m0 m1 (by decide)) fun _ => hf).trans ?_
  rw [sBit_pack, ext_pack _ _ _ _ _ (by decide), h0]

theorem xcancel (e : Bool) (d : BitVec 7) (a : BitVec 7) : Statement (.xcancel e d a) := by
  intro hw w he
  cases he
  apply decode_of hw (by show assigned 3 _ = true; rw [opcode_pack]; decide)
  obtain ⟨h0, h1, hf, m0⟩ := layout_11 d a _ rfl
  have hp : ∀ (v : Nat) (w : Word), opcodeOf w = 0xCC →
      parse v w = chk 0x1FC true w (.xcancel (sBit w) (w.extractLsb' 16 7) (w.extractLsb' 9 7)) := by
    intro v w h
    unfold parse
    rw [h]
    rfl
  refine (hp _ _ (opcode_pack ..)).trans ?_
  refine (chk_ok (by decide) (and_mask _ 2 7 m0 (by decide)) fun _ => hf).trans ?_
  rw [sBit_pack, ext_pack _ _ _ _ _ (by decide), ext_pack _ _ _ _ _ (by decide), h0, h1]

theorem coll (e : Bool) (a : BitVec 7) : Statement (.coll e a) := by
  intro hw w he
  cases he
  apply decode_of hw (by show assigned 3 _ = true; rw [opcode_pack]; decide)
  obtain ⟨h0, hf, m0, m1⟩ := layout_24 a _ rfl
  have hp : ∀ (v : Nat) (w : Word), opcodeOf w = 0xCD →
      parse v w = chk 0x7F01FC true w (.coll (sBit w) (w.extractLsb' 9 7)) := by
    intro v w h
    unfold parse
    rw [h]
    rfl
  refine (hp _ _ (opcode_pack ..)).trans ?_
  refine (chk_ok (by decide) (and_masks _ 2 7 16 7 m0 m1 (by decide)) fun _ => hf).trans ?_
  rw [sBit_pack, ext_pack _ _ _ _ _ (by decide), h0]

theorem popenNew (e : Bool) (d : BitVec 7) (a : BitVec 7) : Statement (.popenNew e d a) := by
  intro hw w he
  cases he
  apply decode_of hw (by show assigned 3 _ = true; rw [opcode_pack]; decide)
  obtain ⟨h0, h1, m0, hs⟩ := layout_41 d a _ rfl
  have hp : ∀ (v : Nat) (w : Word), opcodeOf w = 0xD0 → w.extractLsb' 0 2 = 0#2 →
      parse v w = chk 0x1FC false w (.popenNew (sBit w) (w.extractLsb' 16 7) (w.extractLsb' 9 7)) := by
    intro v w h hs
    unfold parse
    rw [h]
    rw [hs]
    rfl
  refine (hp _ _ (opcode_pack ..) ((ext_pack _ _ _ _ _ (by decide)).trans hs)).trans ?_
  refine (chk_ok (by decide) (and_mask _ 2 7 m0 (by decide)) (fun h => by cases h)).trans ?_
  rw [sBit_pack, ext_pack _ _ _ _ _ (by decide), ext_pack _ _ _ _ _ (by decide), h0, h1]

theorem popenReset (e : Bool) (d : BitVec 7) (a : BitVec 7) (b : BitVec 7) : Statement (.popenReset e d a b) := by
  intro hw w he
  cases he
  apply decode_of hw (by show assigned 3 _ = true; rw [opcode_pack]; decide)
  obtain ⟨h0, h1, h2, hs⟩ := layout_42 d a b _ rfl
  have hp : ∀ (v : Nat) (w : Word), opcodeOf w = 0xD0 → w.extractLsb' 0 2 = 1#2 →
      parse v w = chk 0x0 false w (.popenReset (sBit w) (w.extractLsb' 16 7) (w.extractLsb' 9 7) (w.extractLsb' 2 7)) := by
    intro v w h hs
    unfold parse
    rw [h]
    rw [hs]
    rfl
  refine (hp _ _ (opcode_pack ..) ((ext_pack _ _ _ _ _ (by decide)).trans hs)).trans ?_
  refine (chk_ok (by decide) (and_zero _) (fun h => by cases h)).trans ?_
  rw [sBit_pack, ext_pack _ _ _ _ _ (by decide), ext_pack _ _ _ _ _ (by decide), ext_pack _ _ _ _ _ (by decide), h0, h1, h2]

theorem pclaim (e : Bool) (d : BitVec 7) (a : BitVec 7) (b : BitVec 7) : Statement (.pclaim e d a b) := by
  intro hw w he
  cases he
  apply decode_of hw (by show assigned 3 _ = true; rw [opcode_pack]; decide)
  obtain ⟨h0, h1, h2, hf⟩ := layout_9 d a b _ rfl
  have hp : ∀ (v : Nat) (w : Word), opcodeOf w = 0xD1 →
      parse v w = chk 0x0 true w (.pclaim (sBit w) (w.extractLsb' 16 7) (w.extractLsb' 9 7) (w.extractLsb' 2 7)) := by
    intro v w h
    unfold parse
    rw [h]
    rfl
  refine (hp _ _ (opcode_pack ..)).trans ?_
  refine (chk_ok (by decide) (and_zero _) fun _ => hf).trans ?_
  rw [sBit_pack, ext_pack _ _ _ _ _ (by decide), ext_pack _ _ _ _ _ (by decide), ext_pack _ _ _ _ _ (by decide), h0, h1, h2]

theorem pcloseRet (e : Bool) (d : BitVec 7) (a : BitVec 7) (b : BitVec 7) : Statement (.pcloseRet e d a b) := by
  intro hw w he
  cases he
  apply decode_of hw (by show assigned 3 _ = true; rw [opcode_pack]; decide)
  obtain ⟨h0, h1, h2, hs⟩ := layout_43 d a b _ rfl
  have hp : ∀ (v : Nat) (w : Word), opcodeOf w = 0xD2 → w.extractLsb' 0 2 = 0#2 →
      parse v w = chk 0x0 false w (.pcloseRet (sBit w) (w.extractLsb' 16 7) (w.extractLsb' 9 7) (w.extractLsb' 2 7)) := by
    intro v w h hs
    unfold parse
    rw [h]
    rw [hs]
    rfl
  refine (hp _ _ (opcode_pack ..) ((ext_pack _ _ _ _ _ (by decide)).trans hs)).trans ?_
  refine (chk_ok (by decide) (and_zero _) (fun h => by cases h)).trans ?_
  rw [sBit_pack, ext_pack _ _ _ _ _ (by decide), ext_pack _ _ _ _ _ (by decide), ext_pack _ _ _ _ _ (by decide), h0, h1, h2]

theorem pcloseSeal (e : Bool) (d : BitVec 7) (a : BitVec 7) (b : BitVec 7) : Statement (.pcloseSeal e d a b) := by
  intro hw w he
  cases he
  apply decode_of hw (by show assigned 3 _ = true; rw [opcode_pack]; decide)
  obtain ⟨h0, h1, h2, hs⟩ := layout_42 d a b _ rfl
  have hp : ∀ (v : Nat) (w : Word), opcodeOf w = 0xD2 → w.extractLsb' 0 2 = 1#2 →
      parse v w = chk 0x0 false w (.pcloseSeal (sBit w) (w.extractLsb' 16 7) (w.extractLsb' 9 7) (w.extractLsb' 2 7)) := by
    intro v w h hs
    unfold parse
    rw [h]
    rw [hs]
    rfl
  refine (hp _ _ (opcode_pack ..) ((ext_pack _ _ _ _ _ (by decide)).trans hs)).trans ?_
  refine (chk_ok (by decide) (and_zero _) (fun h => by cases h)).trans ?_
  rw [sBit_pack, ext_pack _ _ _ _ _ (by decide), ext_pack _ _ _ _ _ (by decide), ext_pack _ _ _ _ _ (by decide), h0, h1, h2]

theorem pbias (e : Bool) (d : BitVec 7) (a : BitVec 7) (b : BitVec 7) : Statement (.pbias e d a b) := by
  intro hw w he
  cases he
  apply decode_of hw (by show assigned 3 _ = true; rw [opcode_pack]; decide)
  obtain ⟨h0, h1, h2, hf⟩ := layout_9 d a b _ rfl
  have hp : ∀ (v : Nat) (w : Word), opcodeOf w = 0xD3 →
      parse v w = chk 0x0 true w (.pbias (sBit w) (w.extractLsb' 16 7) (w.extractLsb' 9 7) (w.extractLsb' 2 7)) := by
    intro v w h
    unfold parse
    rw [h]
    rfl
  refine (hp _ _ (opcode_pack ..)).trans ?_
  refine (chk_ok (by decide) (and_zero _) fun _ => hf).trans ?_
  rw [sBit_pack, ext_pack _ _ _ _ _ (by decide), ext_pack _ _ _ _ _ (by decide), ext_pack _ _ _ _ _ (by decide), h0, h1, h2]

theorem fnew (e : Bool) (d : BitVec 7) : Statement (.fnew e d) := by
  intro hw w he
  cases he
  apply decode_of hw (by show assigned 3 _ = true; rw [opcode_pack]; decide)
  obtain ⟨h0, hf, m0⟩ := layout_36 d _ rfl
  have hp : ∀ (v : Nat) (w : Word), opcodeOf w = 0xD4 →
      parse v w = chk 0xFFFC true w (.fnew (sBit w) (w.extractLsb' 16 7)) := by
    intro v w h
    unfold parse
    rw [h]
    rfl
  refine (hp _ _ (opcode_pack ..)).trans ?_
  refine (chk_ok (by decide) (and_mask _ 2 14 m0 (by decide)) fun _ => hf).trans ?_
  rw [sBit_pack, ext_pack _ _ _ _ _ (by decide), h0]

theorem invoke (e : Bool) (d : BitVec 7) (a : BitVec 7) : Statement (.invoke e d a) := by
  intro hw w he
  cases he
  apply decode_of hw (by show assigned 3 _ = true; rw [opcode_pack]; decide)
  obtain ⟨h0, h1, hf, m0⟩ := layout_11 d a _ rfl
  have hp : ∀ (v : Nat) (w : Word), opcodeOf w = 0xD5 →
      parse v w = chk 0x1FC true w (.invoke (sBit w) (w.extractLsb' 16 7) (w.extractLsb' 9 7)) := by
    intro v w h
    unfold parse
    rw [h]
    rfl
  refine (hp _ _ (opcode_pack ..)).trans ?_
  refine (chk_ok (by decide) (and_mask _ 2 7 m0 (by decide)) fun _ => hf).trans ?_
  rw [sBit_pack, ext_pack _ _ _ _ _ (by decide), ext_pack _ _ _ _ _ (by decide), h0, h1]

theorem invh (e : Bool) (d : BitVec 7) (a : BitVec 7) (b : BitVec 7) : Statement (.invh e d a b) := by
  intro hw w he
  cases he
  apply decode_of hw (by show assigned 3 _ = true; rw [opcode_pack]; decide)
  obtain ⟨h0, h1, h2, hf⟩ := layout_9 d a b _ rfl
  have hp : ∀ (v : Nat) (w : Word), opcodeOf w = 0xD6 →
      parse v w = chk 0x0 true w (.invh (sBit w) (w.extractLsb' 16 7) (w.extractLsb' 9 7) (w.extractLsb' 2 7)) := by
    intro v w h
    unfold parse
    rw [h]
    rfl
  refine (hp _ _ (opcode_pack ..)).trans ?_
  refine (chk_ok (by decide) (and_zero _) fun _ => hf).trans ?_
  rw [sBit_pack, ext_pack _ _ _ _ _ (by decide), ext_pack _ _ _ _ _ (by decide), ext_pack _ _ _ _ _ (by decide), h0, h1, h2]

theorem fput (e : Bool) (d : BitVec 7) (a : BitVec 7) (b : BitVec 7) (f : BitVec 2) : Statement (.fput e d a b f) := by
  intro hw w he
  cases he
  apply decode_of hw (by show assigned 3 _ = true; rw [opcode_pack]; decide)
  obtain ⟨h0, h1, h2, h3⟩ := layout_10 d a b f _ rfl
  have hp : ∀ (v : Nat) (w : Word), opcodeOf w = 0xD7 →
      parse v w = chk 0x0 false w (.fput (sBit w) (w.extractLsb' 16 7) (w.extractLsb' 9 7) (w.extractLsb' 2 7) (w.extractLsb' 0 2)) := by
    intro v w h
    unfold parse
    rw [h]
    rfl
  refine (hp _ _ (opcode_pack ..)).trans ?_
  refine (chk_ok (by decide) (and_zero _) (fun h => by cases h)).trans ?_
  rw [sBit_pack, ext_pack _ _ _ _ _ (by decide), ext_pack _ _ _ _ _ (by decide), ext_pack _ _ _ _ _ (by decide), ext_pack _ _ _ _ _ (by decide), h0, h1, h2, h3]

theorem fgetWait (e : Bool) (d : BitVec 7) (a : BitVec 7) (b : BitVec 7) : Statement (.fgetWait e d a b) := by
  intro hw w he
  cases he
  apply decode_of hw (by show assigned 3 _ = true; rw [opcode_pack]; decide)
  obtain ⟨h0, h1, h2, hs⟩ := layout_43 d a b _ rfl
  have hp : ∀ (v : Nat) (w : Word), opcodeOf w = 0xD8 → w.extractLsb' 0 2 = 0#2 →
      parse v w = chk 0x0 false w (.fgetWait (sBit w) (w.extractLsb' 16 7) (w.extractLsb' 9 7) (w.extractLsb' 2 7)) := by
    intro v w h hs
    unfold parse
    rw [h]
    rw [hs]
    rfl
  refine (hp _ _ (opcode_pack ..) ((ext_pack _ _ _ _ _ (by decide)).trans hs)).trans ?_
  refine (chk_ok (by decide) (and_zero _) (fun h => by cases h)).trans ?_
  rw [sBit_pack, ext_pack _ _ _ _ _ (by decide), ext_pack _ _ _ _ _ (by decide), ext_pack _ _ _ _ _ (by decide), h0, h1, h2]

theorem fgetPoll (e : Bool) (d : BitVec 7) (a : BitVec 7) (b : BitVec 7) : Statement (.fgetPoll e d a b) := by
  intro hw w he
  cases he
  apply decode_of hw (by show assigned 3 _ = true; rw [opcode_pack]; decide)
  obtain ⟨h0, h1, h2, hs⟩ := layout_42 d a b _ rfl
  have hp : ∀ (v : Nat) (w : Word), opcodeOf w = 0xD8 → w.extractLsb' 0 2 = 1#2 →
      parse v w = chk 0x0 false w (.fgetPoll (sBit w) (w.extractLsb' 16 7) (w.extractLsb' 9 7) (w.extractLsb' 2 7)) := by
    intro v w h hs
    unfold parse
    rw [h]
    rw [hs]
    rfl
  refine (hp _ _ (opcode_pack ..) ((ext_pack _ _ _ _ _ (by decide)).trans hs)).trans ?_
  refine (chk_ok (by decide) (and_zero _) (fun h => by cases h)).trans ?_
  rw [sBit_pack, ext_pack _ _ _ _ _ (by decide), ext_pack _ _ _ _ _ (by decide), ext_pack _ _ _ _ _ (by decide), h0, h1, h2]

theorem fbreak (e : Bool) (d : BitVec 7) (a : BitVec 7) (b : BitVec 7) : Statement (.fbreak e d a b) := by
  intro hw w he
  cases he
  apply decode_of hw (by show assigned 3 _ = true; rw [opcode_pack]; decide)
  obtain ⟨h0, h1, h2, hf⟩ := layout_9 d a b _ rfl
  have hp : ∀ (v : Nat) (w : Word), opcodeOf w = 0xD9 →
      parse v w = chk 0x0 true w (.fbreak (sBit w) (w.extractLsb' 16 7) (w.extractLsb' 9 7) (w.extractLsb' 2 7)) := by
    intro v w h
    unfold parse
    rw [h]
    rfl
  refine (hp _ _ (opcode_pack ..)).trans ?_
  refine (chk_ok (by decide) (and_zero _) fun _ => hf).trans ?_
  rw [sBit_pack, ext_pack _ _ _ _ _ (by decide), ext_pack _ _ _ _ _ (by decide), ext_pack _ _ _ _ _ (by decide), h0, h1, h2]

theorem frel (e : Bool) (d : BitVec 7) (a : BitVec 7) : Statement (.frel e d a) := by
  intro hw w he
  cases he
  apply decode_of hw (by show assigned 3 _ = true; rw [opcode_pack]; decide)
  obtain ⟨h0, h1, hf, m0⟩ := layout_11 d a _ rfl
  have hp : ∀ (v : Nat) (w : Word), opcodeOf w = 0xDA →
      parse v w = chk 0x1FC true w (.frel (sBit w) (w.extractLsb' 16 7) (w.extractLsb' 9 7)) := by
    intro v w h
    unfold parse
    rw [h]
    rfl
  refine (hp _ _ (opcode_pack ..)).trans ?_
  refine (chk_ok (by decide) (and_mask _ 2 7 m0 (by decide)) fun _ => hf).trans ?_
  rw [sBit_pack, ext_pack _ _ _ _ _ (by decide), ext_pack _ _ _ _ _ (by decide), h0, h1]

theorem slice (e : Bool) (d : BitVec 7) (a : BitVec 7) : Statement (.slice e d a) := by
  intro hw w he
  cases he
  apply decode_of hw (by show assigned 3 _ = true; rw [opcode_pack]; decide)
  obtain ⟨h0, h1, hf, m0⟩ := layout_11 d a _ rfl
  have hp : ∀ (v : Nat) (w : Word), opcodeOf w = 0xE0 →
      parse v w = chk 0x1FC true w (.slice (sBit w) (w.extractLsb' 16 7) (w.extractLsb' 9 7)) := by
    intro v w h
    unfold parse
    rw [h]
    rfl
  refine (hp _ _ (opcode_pack ..)).trans ?_
  refine (chk_ok (by decide) (and_mask _ 2 7 m0 (by decide)) fun _ => hf).trans ?_
  rw [sBit_pack, ext_pack _ _ _ _ _ (by decide), ext_pack _ _ _ _ _ (by decide), h0, h1]

theorem cwatchSet (e : Bool) (d : BitVec 7) (a : BitVec 7) : Statement (.cwatchSet e d a) := by
  intro hw w he
  cases he
  apply decode_of hw (by show assigned 3 _ = true; rw [opcode_pack]; decide)
  obtain ⟨h0, h1, m0, hs⟩ := layout_41 d a _ rfl
  have hp : ∀ (v : Nat) (w : Word), opcodeOf w = 0xE1 → w.extractLsb' 0 2 = 0#2 →
      parse v w = chk 0x1FC false w (.cwatchSet (sBit w) (w.extractLsb' 16 7) (w.extractLsb' 9 7)) := by
    intro v w h hs
    unfold parse
    rw [h]
    rw [hs]
    rfl
  refine (hp _ _ (opcode_pack ..) ((ext_pack _ _ _ _ _ (by decide)).trans hs)).trans ?_
  refine (chk_ok (by decide) (and_mask _ 2 7 m0 (by decide)) (fun h => by cases h)).trans ?_
  rw [sBit_pack, ext_pack _ _ _ _ _ (by decide), ext_pack _ _ _ _ _ (by decide), h0, h1]

theorem cwatchClr (e : Bool) (d : BitVec 7) (a : BitVec 7) : Statement (.cwatchClr e d a) := by
  intro hw w he
  cases he
  apply decode_of hw (by show assigned 3 _ = true; rw [opcode_pack]; decide)
  obtain ⟨h0, h1, m0, hs⟩ := layout_44 d a _ rfl
  have hp : ∀ (v : Nat) (w : Word), opcodeOf w = 0xE1 → w.extractLsb' 0 2 = 1#2 →
      parse v w = chk 0x1FC false w (.cwatchClr (sBit w) (w.extractLsb' 16 7) (w.extractLsb' 9 7)) := by
    intro v w h hs
    unfold parse
    rw [h]
    rw [hs]
    rfl
  refine (hp _ _ (opcode_pack ..) ((ext_pack _ _ _ _ _ (by decide)).trans hs)).trans ?_
  refine (chk_ok (by decide) (and_mask _ 2 7 m0 (by decide)) (fun h => by cases h)).trans ?_
  rw [sBit_pack, ext_pack _ _ _ _ _ (by decide), ext_pack _ _ _ _ _ (by decide), h0, h1]

theorem tlbinvPage (e : Bool) (a : BitVec 7) (b : BitVec 7) : Statement (.tlbinvPage e a b) := by
  intro hw w he
  cases he
  apply decode_of hw (by show assigned 3 _ = true; rw [opcode_pack]; decide)
  obtain ⟨h0, h1, m0, hs⟩ := layout_39 a b _ rfl
  have hp : ∀ (v : Nat) (w : Word), opcodeOf w = 0xE3 → w.extractLsb' 0 2 = 0#2 →
      parse v w = chk 0x7F0000 false w (.tlbinvPage (sBit w) (w.extractLsb' 9 7) (w.extractLsb' 2 7)) := by
    intro v w h hs
    unfold parse
    rw [h]
    rw [hs]
    rfl
  refine (hp _ _ (opcode_pack ..) ((ext_pack _ _ _ _ _ (by decide)).trans hs)).trans ?_
  refine (chk_ok (by decide) (and_mask _ 16 7 m0 (by decide)) (fun h => by cases h)).trans ?_
  rw [sBit_pack, ext_pack _ _ _ _ _ (by decide), ext_pack _ _ _ _ _ (by decide), h0, h1]

theorem tlbinvAsid (e : Bool) (b : BitVec 7) : Statement (.tlbinvAsid e b) := by
  intro hw w he
  cases he
  apply decode_of hw (by show assigned 3 _ = true; rw [opcode_pack]; decide)
  obtain ⟨h0, m0, hs⟩ := layout_45 b _ rfl
  have hp : ∀ (v : Nat) (w : Word), opcodeOf w = 0xE3 → w.extractLsb' 0 2 = 1#2 →
      parse v w = chk 0x7FFE00 false w (.tlbinvAsid (sBit w) (w.extractLsb' 2 7)) := by
    intro v w h hs
    unfold parse
    rw [h]
    rw [hs]
    rfl
  refine (hp _ _ (opcode_pack ..) ((ext_pack _ _ _ _ _ (by decide)).trans hs)).trans ?_
  refine (chk_ok (by decide) (and_mask _ 9 14 m0 (by decide)) (fun h => by cases h)).trans ?_
  rw [sBit_pack, ext_pack _ _ _ _ _ (by decide), h0]

theorem tlbinvAll (e : Bool) : Statement (.tlbinvAll e) := by
  intro hw w he
  cases he
  apply decode_of hw (by show assigned 3 _ = true; rw [opcode_pack]; decide)
  obtain ⟨m0, hs⟩ := layout_46 _ rfl
  have hp : ∀ (v : Nat) (w : Word), opcodeOf w = 0xE3 → w.extractLsb' 0 2 = 2#2 →
      parse v w = chk 0x7FFFFC false w (.tlbinvAll (sBit w)) := by
    intro v w h hs
    unfold parse
    rw [h]
    rw [hs]
    rfl
  refine (hp _ _ (opcode_pack ..) ((ext_pack _ _ _ _ _ (by decide)).trans hs)).trans ?_
  refine (chk_ok (by decide) (and_mask _ 2 21 m0 (by decide)) (fun h => by cases h)).trans ?_
  rw [sBit_pack]

theorem ctxsv (e : Bool) (d : BitVec 7) (a : BitVec 7) (b : BitVec 7) : Statement (.ctxsv e d a b) := by
  intro hw w he
  cases he
  apply decode_of hw (by show assigned 3 _ = true; rw [opcode_pack]; decide)
  obtain ⟨h0, h1, h2, hf⟩ := layout_9 d a b _ rfl
  have hp : ∀ (v : Nat) (w : Word), opcodeOf w = 0xE4 →
      parse v w = chk 0x0 true w (.ctxsv (sBit w) (w.extractLsb' 16 7) (w.extractLsb' 9 7) (w.extractLsb' 2 7)) := by
    intro v w h
    unfold parse
    rw [h]
    rfl
  refine (hp _ _ (opcode_pack ..)).trans ?_
  refine (chk_ok (by decide) (and_zero _) fun _ => hf).trans ?_
  rw [sBit_pack, ext_pack _ _ _ _ _ (by decide), ext_pack _ _ _ _ _ (by decide), ext_pack _ _ _ _ _ (by decide), h0, h1, h2]

theorem ctxld (e : Bool) (d : BitVec 7) (a : BitVec 7) : Statement (.ctxld e d a) := by
  intro hw w he
  cases he
  apply decode_of hw (by show assigned 3 _ = true; rw [opcode_pack]; decide)
  obtain ⟨h0, h1, hf, m0⟩ := layout_11 d a _ rfl
  have hp : ∀ (v : Nat) (w : Word), opcodeOf w = 0xE5 →
      parse v w = chk 0x1FC true w (.ctxld (sBit w) (w.extractLsb' 16 7) (w.extractLsb' 9 7)) := by
    intro v w h
    unfold parse
    rw [h]
    rfl
  refine (hp _ _ (opcode_pack ..)).trans ?_
  refine (chk_ok (by decide) (and_mask _ 2 7 m0 (by decide)) fun _ => hf).trans ?_
  rw [sBit_pack, ext_pack _ _ _ _ _ (by decide), ext_pack _ _ _ _ _ (by decide), h0, h1]

theorem cflush (e : Bool) (a : BitVec 7) (b : BitVec 7) (f : BitVec 2) : Statement (.cflush e a b f) := by
  intro hw w he
  cases he
  apply decode_of hw (by show assigned 3 _ = true; rw [opcode_pack]; decide)
  obtain ⟨h0, h1, h2, m0⟩ := layout_18 a b f _ rfl
  have hp : ∀ (v : Nat) (w : Word), opcodeOf w = 0xE6 →
      parse v w = chk 0x7F0000 false w (.cflush (sBit w) (w.extractLsb' 9 7) (w.extractLsb' 2 7) (w.extractLsb' 0 2)) := by
    intro v w h
    unfold parse
    rw [h]
    rfl
  refine (hp _ _ (opcode_pack ..)).trans ?_
  refine (chk_ok (by decide) (and_mask _ 16 7 m0 (by decide)) (fun h => by cases h)).trans ?_
  rw [sBit_pack, ext_pack _ _ _ _ _ (by decide), ext_pack _ _ _ _ _ (by decide), ext_pack _ _ _ _ _ (by decide), h0, h1, h2]

theorem cinv (e : Bool) (a : BitVec 7) (b : BitVec 7) (f : BitVec 2) : Statement (.cinv e a b f) := by
  intro hw w he
  cases he
  apply decode_of hw (by show assigned 3 _ = true; rw [opcode_pack]; decide)
  obtain ⟨h0, h1, h2, m0⟩ := layout_18 a b f _ rfl
  have hp : ∀ (v : Nat) (w : Word), opcodeOf w = 0xE7 →
      parse v w = chk 0x7F0000 false w (.cinv (sBit w) (w.extractLsb' 9 7) (w.extractLsb' 2 7) (w.extractLsb' 0 2)) := by
    intro v w h
    unfold parse
    rw [h]
    rfl
  refine (hp _ _ (opcode_pack ..)).trans ?_
  refine (chk_ok (by decide) (and_mask _ 16 7 m0 (by decide)) (fun h => by cases h)).trans ?_
  rw [sBit_pack, ext_pack _ _ _ _ _ (by decide), ext_pack _ _ _ _ _ (by decide), ext_pack _ _ _ _ _ (by decide), h0, h1, h2]

theorem runStart (gid : Nat) :
    Statement (.runStart gid) := by
  intro _ _ h
  cases h

theorem resultReturn (uid : Nat) (id : Nat) :
    Statement (.resultReturn uid id) := by
  intro _ _ h
  cases h

theorem regroupOperation (team : Nat) :
    Statement (.regroupOperation team) := by
  intro _ _ h
  cases h

theorem kill (slice : Nat) :
    Statement (.kill slice) := by
  intro _ _ h
  cases h

theorem groupActivation (core : Nat) :
    Statement (.groupActivation core) := by
  intro _ _ h
  cases h

theorem ageingRotation (core : Nat) :
    Statement (.ageingRotation core) := by
  intro _ _ h
  cases h

theorem issueStarvation (gid : Nat) :
    Statement (.issueStarvation gid) := by
  intro _ _ h
  cases h

theorem deferralWindowExpiry (slice : Nat) :
    Statement (.deferralWindowExpiry slice) := by
  intro _ _ h
  cases h

theorem ldpollTimeout (uid : Nat) (id : Nat) :
    Statement (.ldpollTimeout uid id) := by
  intro _ _ h
  cases h

theorem dirtyLineWriteBack (core : Nat) (line : Nat) :
    Statement (.dirtyLineWriteBack core line) := by
  intro _ _ h
  cases h

theorem l1AgeLimit (core : Nat) (line : Nat) :
    Statement (.l1AgeLimit core line) := by
  intro _ _ h
  cases h

theorem ownershipGrant (die : Nat) (line : Nat) :
    Statement (.ownershipGrant die line) := by
  intro _ _ h
  cases h

theorem hbmWriteBack (line : Nat) :
    Statement (.hbmWriteBack line) := by
  intro _ _ h
  cases h

theorem scrub (line : Nat) :
    Statement (.scrub line) := by
  intro _ _ h
  cases h

theorem uncorrectableError (loc : ErrLoc) :
    Statement (.uncorrectableError loc) := by
  intro _ _ h
  cases h

theorem pfdoneAcknowledge (v : Word) :
    Statement (.pfdoneAcknowledge v) := by
  intro _ _ h
  cases h

theorem tstatClear (uid : Nat) (v : Word) :
    Statement (.tstatClear uid v) := by
  intro _ _ h
  cases h

theorem trctlWrite (slice : Nat) (v : Word) :
    Statement (.trctlWrite slice v) := by
  intro _ _ h
  cases h

theorem dbgctlHold (slice : Nat) (on : Bool) :
    Statement (.dbgctlHold slice on) := by
  intro _ _ h
  cases h

theorem dbgctlStop (slice : Nat) (on : Bool) :
    Statement (.dbgctlStop slice on) := by
  intro _ _ h
  cases h

theorem specialRegisterWrite (uid : Nat) (code : BitVec 16) (v : Word) :
    Statement (.specialRegisterWrite uid code v) := by
  intro _ _ h
  cases h

theorem tileOperationComplete (op : Nat) :
    Statement (.tileOperationComplete op) := by
  intro _ _ h
  cases h

theorem arrayOperationStart (core : Nat) :
    Statement (.arrayOperationStart core) := by
  intro _ _ h
  cases h

theorem bandGating (core : Nat) (band : Nat) :
    Statement (.bandGating core band) := by
  intro _ _ h
  cases h

theorem cadenceUpdate (core : Nat) :
    Statement (.cadenceUpdate core) := by
  intro _ _ h
  cases h

theorem apronAnnouncement (team : Nat) :
    Statement (.apronAnnouncement team) := by
  intro _ _ h
  cases h

theorem phaseGrant (team : Nat) :
    Statement (.phaseGrant team) := by
  intro _ _ h
  cases h

theorem phaseOnset (team : Nat) :
    Statement (.phaseOnset team) := by
  intro _ _ h
  cases h

theorem phaseIdleExpiry (team : Nat) :
    Statement (.phaseIdleExpiry team) := by
  intro _ _ h
  cases h

theorem railStepUp (cluster : Nat) (band : Nat) :
    Statement (.railStepUp cluster band) := by
  intro _ _ h
  cases h

theorem railHoldExpiry (cluster : Nat) (band : Nat) :
    Statement (.railHoldExpiry cluster band) := by
  intro _ _ h
  cases h

theorem railStepDown (cluster : Nat) (band : Nat) :
    Statement (.railStepDown cluster band) := by
  intro _ _ h
  cases h

theorem sensorRead (die0 : Nat) (die1 : Nat) :
    Statement (.sensorRead die0 die1) := by
  intro _ _ h
  cases h

theorem kthermAdjust :
    Statement (.kthermAdjust) := by
  intro _ _ h
  cases h

theorem transformChunk (tag : Nat) :
    Statement (.transformChunk tag) := by
  intro _ _ h
  cases h

theorem transformEnd (tag : Nat) :
    Statement (.transformEnd tag) := by
  intro _ _ h
  cases h

theorem decoderWatchdog (tag : Nat) :
    Statement (.decoderWatchdog tag) := by
  intro _ _ h
  cases h

theorem collectiveComplete (tag : Nat) :
    Statement (.collectiveComplete tag) := by
  intro _ _ h
  cases h

theorem collectiveMemberTimeout (tag : Nat) :
    Statement (.collectiveMemberTimeout tag) := by
  intro _ _ h
  cases h

theorem cloakroomInvoke (h : MsgHead) (desc : List Byte) (launch : List Byte) (args : List Byte) (asid : Nat) (anyAsid : Bool) :
    Statement (.cloakroomInvoke h desc launch args asid anyAsid) := by
  intro _ _ h
  cases h

theorem cloakroomInvh (h : MsgHead) (newHandle : DWord) (desc : List Byte) (launch : List Byte) (args : List Byte) (asid : Nat) (anyAsid : Bool) :
    Statement (.cloakroomInvh h newHandle desc launch args asid anyAsid) := by
  intro _ _ h
  cases h

theorem cloakroomFgetWaiter (h : MsgHead) (tag : Nat) (polling : Bool) :
    Statement (.cloakroomFgetWaiter h tag polling) := by
  intro _ _ h
  cases h

theorem cloakroomFput (h : MsgHead) (value : List Byte) :
    Statement (.cloakroomFput h value) := by
  intro _ _ h
  cases h

theorem cloakroomFbreak (h : MsgHead) (cause : Word) (depth : Nat) :
    Statement (.cloakroomFbreak h cause depth) := by
  intro _ _ h
  cases h

theorem cloakroomFrel (h : MsgHead) :
    Statement (.cloakroomFrel h) := by
  intro _ _ h
  cases h

theorem valueReply (h : MsgHead) (tag : Nat) (value : List Byte) :
    Statement (.valueReply h tag value) := by
  intro _ _ h
  cases h

theorem brokenReply (h : MsgHead) (tag : Nat) (cause : Word) (depth : Nat) :
    Statement (.brokenReply h tag cause depth) := by
  intro _ _ h
  cases h

theorem routeUpdate (h : MsgHead) (location : Nat) :
    Statement (.routeUpdate h location) := by
  intro _ _ h
  cases h

theorem acknowledgement (h : MsgHead) (accepted : Bool) (sub : Nat) :
    Statement (.acknowledgement h accepted sub) := by
  intro _ _ h
  cases h

theorem placement (slice : Nat) :
    Statement (.placement slice) := by
  intro _ _ h
  cases h

theorem saveComplete (slice : Nat) :
    Statement (.saveComplete slice) := by
  intro _ _ h
  cases h

theorem restoreComplete (slice : Nat) :
    Statement (.restoreComplete slice) := by
  intro _ _ h
  cases h

theorem suspendResume (slice : Nat) :
    Statement (.suspendResume slice) := by
  intro _ _ h
  cases h

theorem contractRelease (contract : Nat) :
    Statement (.contractRelease contract) := by
  intro _ _ h
  cases h

theorem budgetExhausted (slice : Nat) :
    Statement (.budgetExhausted slice) := by
  intro _ _ h
  cases h

theorem allowanceExpiry (slice : Nat) :
    Statement (.allowanceExpiry slice) := by
  intro _ _ h
  cases h

theorem deadlineMiss (slice : Nat) :
    Statement (.deadlineMiss slice) := by
  intro _ _ h
  cases h

theorem watchEvaluation (watch : Nat) :
    Statement (.watchEvaluation watch) := by
  intro _ _ h
  cases h

theorem contextSaveComplete (ctx : Nat) :
    Statement (.contextSaveComplete ctx) := by
  intro _ _ h
  cases h

theorem contextLoadComplete (ctx : Nat) :
    Statement (.contextLoadComplete ctx) := by
  intro _ _ h
  cases h

theorem linkLevelRetry (link : Nat) :
    Statement (.linkLevelRetry link) := by
  intro _ _ h
  cases h

theorem linkDown (link : Nat) :
    Statement (.linkDown link) := by
  intro _ _ h
  cases h

theorem linkRetrained (link : Nat) :
    Statement (.linkRetrained link) := by
  intro _ _ h
  cases h

theorem remoteAccessRequest (src : Nat) (txn : Nat) (pa : Nat) (op : RemoteOp) :
    Statement (.remoteAccessRequest src txn pa op) := by
  intro _ _ h
  cases h

theorem remoteAccessReply (txn : Nat) (bytes : List Byte) (poison : Bool) (failed : Bool) :
    Statement (.remoteAccessReply txn bytes poison failed) := by
  intro _ _ h
  cases h

theorem livenessFlit (src : Option Nat) :
    Statement (.livenessFlit src) := by
  intro _ _ h
  cases h

theorem memberFailureDeclared (dev : Nat) :
    Statement (.memberFailureDeclared dev) := by
  intro _ _ h
  cases h

theorem failureReport (report : FailReport) :
    Statement (.failureReport report) := by
  intro _ _ h
  cases h

theorem placementReport (src : Option Nat) (level : Nat) (classes : BitVec 16) :
    Statement (.placementReport src level classes) := by
  intro _ _ h
  cases h

theorem supolInvoke (session : SupolHead) (reqId : Nat) (desc : List Byte) (launch : List Byte) (args : List Byte) :
    Statement (.supolInvoke session reqId desc launch args) := by
  intro _ _ h
  cases h

theorem supolInvh (session : SupolHead) (reqId : Nat) (upstream : DWord) (desc : List Byte) (launch : List Byte) (args : List Byte) :
    Statement (.supolInvh session reqId upstream desc launch args) := by
  intro _ _ h
  cases h

theorem fgetNotify (session : SupolHead) (reqId : Nat) (handle : DWord) :
    Statement (.fgetNotify session reqId handle) := by
  intro _ _ h
  cases h

theorem supolFrel (session : SupolHead) (reqId : Nat) (handle : DWord) :
    Statement (.supolFrel session reqId handle) := by
  intro _ _ h
  cases h

theorem contract (who : Requester) (desc : List Byte) (launch : List Byte) :
    Statement (.contract who desc launch) := by
  intro _ _ h
  cases h

theorem rmaRead (session : SupolHead) (reqId : Nat) (va : DWord) (len : Nat) (ordered : Bool) :
    Statement (.rmaRead session reqId va len ordered) := by
  intro _ _ h
  cases h

theorem rmaWrite (session : SupolHead) (reqId : Nat) (va : DWord) (bytes : List Byte) (ordered : Bool) :
    Statement (.rmaWrite session reqId va bytes ordered) := by
  intro _ _ h
  cases h

theorem readReg (who : Requester) (offset : Nat) :
    Statement (.readReg who offset) := by
  intro _ _ h
  cases h

theorem writeReg (who : Requester) (offset : Nat) (v : DWord) :
    Statement (.writeReg who offset v) := by
  intro _ _ h
  cases h

theorem writeDomain (who : Requester) (v : DWord) :
    Statement (.writeDomain who v) := by
  intro _ _ h
  cases h

theorem writeMembers (who : Requester) (v : DWord) :
    Statement (.writeMembers who v) := by
  intro _ _ h
  cases h

theorem writeRouteBase (who : Requester) (v : DWord) :
    Statement (.writeRouteBase who v) := by
  intro _ _ h
  cases h

theorem writeInvArgs (who : Requester) (v : DWord) :
    Statement (.writeInvArgs who v) := by
  intro _ _ h
  cases h

theorem writeInvArgsVa (who : Requester) (v : DWord) :
    Statement (.writeInvArgsVa who v) := by
  intro _ _ h
  cases h

theorem admitCode (who : Requester) (base : DWord) (len : Nat) (asid : Nat) :
    Statement (.admitCode who base len asid) := by
  intro _ _ h
  cases h

theorem retireCode (who : Requester) (codeId : Nat) :
    Statement (.retireCode who codeId) := by
  intro _ _ h
  cases h

theorem openSession (who : Requester) (asid : Nat) (mgmt : Bool) (secure : Bool) :
    Statement (.openSession who asid mgmt secure) := by
  intro _ _ h
  cases h

theorem closeSession (who : Requester) (session : Nat) :
    Statement (.closeSession who session) := by
  intro _ _ h
  cases h

theorem quote (who : Requester) (nonce : List Byte) :
    Statement (.quote who nonce) := by
  intro _ _ h
  cases h

theorem getCert (who : Requester) :
    Statement (.getCert who) := by
  intro _ _ h
  cases h

theorem rasRead (who : Requester) (code : Nat) :
    Statement (.rasRead who code) := by
  intro _ _ h
  cases h

theorem rasClear (who : Requester) (code : Nat) :
    Statement (.rasClear who code) := by
  intro _ _ h
  cases h

theorem logRead (who : Requester) (which : Nat) :
    Statement (.logRead who which) := by
  intro _ _ h
  cases h

theorem debugStop (who : Requester) (slice : Nat) :
    Statement (.debugStop who slice) := by
  intro _ _ h
  cases h

theorem debugStepPath (who : Requester) (slice : Nat) (gid : Nat) (key : PathKey) :
    Statement (.debugStepPath who slice gid key) := by
  intro _ _ h
  cases h

theorem debugStepAll (who : Requester) (slice : Nat) (gid : Nat) :
    Statement (.debugStepAll who slice gid) := by
  intro _ _ h
  cases h

theorem debugResume (who : Requester) (slice : Nat) :
    Statement (.debugResume who slice) := by
  intro _ _ h
  cases h

theorem contractWithdraw (who : Requester) (contract : Nat) :
    Statement (.contractWithdraw who contract) := by
  intro _ _ h
  cases h

theorem resetCold :
    Statement (.resetCold) := by
  intro _ _ h
  cases h

theorem resetWarm :
    Statement (.resetWarm) := by
  intro _ _ h
  cases h

theorem resetPartition (r : ResetReq) :
    Statement (.resetPartition r) := by
  intro _ _ h
  cases h

theorem loadFw (who : Requester) (image : List Byte) :
    Statement (.loadFw who image) := by
  intro _ _ h
  cases h

theorem managementWatchdog :
    Statement (.managementWatchdog) := by
  intro _ _ h
  cases h

theorem powerOn (slotA : List Byte) :
    Statement (.powerOn slotA) := by
  intro _ _ h
  cases h

theorem supolPacketDrop :
    Statement (.supolPacketDrop) := by
  intro _ _ h
  cases h

theorem bandPowerUp (core : Nat) (band : Nat) :
    Statement (.bandPowerUp core band) := by
  intro _ _ h
  cases h

theorem correctedError (loc : ErrLoc) :
    Statement (.correctedError loc) := by
  intro _ _ h
  cases h

theorem collectiveControlMessage (src : Nat) (tag : Nat) (fields : List Nat) (data : List Nat) :
    Statement (.collectiveControlMessage src tag fields data) := by
  intro _ _ h
  cases h

end Sys2Proof.Laws.Encoding
end

