-- ==== Sys2Proof/Laws/State.lean ====
section
/-! SUPPORT. What each update of the state leaves of each field, and reading back what was updated. -/

namespace Sys2Proof.Machine

/-! ### `State.setThread` -/

@[simp] theorem State.setThread_now (s : State) (u : Nat) (f : Thread → Thread) : (s.setThread u f).now = s.now := rfl
@[simp] theorem State.setThread_fresh (s : State) (u : Nat) (f : Thread → Thread) : (s.setThread u f).fresh = s.fresh := rfl
@[simp] theorem State.setThread_nextUid (s : State) (u : Nat) (f : Thread → Thread) : (s.setThread u f).nextUid = s.nextUid := rfl
@[simp] theorem State.setThread_nextSlice (s : State) (u : Nat) (f : Thread → Thread) : (s.setThread u f).nextSlice = s.nextSlice := rfl
@[simp] theorem State.setThread_part (s : State) (u : Nat) (f : Thread → Thread) : (s.setThread u f).part = s.part := rfl
@[simp] theorem State.setThread_boot (s : State) (u : Nat) (f : Thread → Thread) : (s.setThread u f).boot = s.boot := rfl
@[simp] theorem State.setThread_mem (s : State) (u : Nat) (f : Thread → Thread) : (s.setThread u f).mem = s.mem := rfl
@[simp] theorem State.setThread_cores (s : State) (u : Nat) (f : Thread → Thread) : (s.setThread u f).cores = s.cores := rfl
@[simp] theorem State.setThread_walkers (s : State) (u : Nat) (f : Thread → Thread) : (s.setThread u f).walkers = s.walkers := rfl
@[simp] theorem State.setThread_groups (s : State) (u : Nat) (f : Thread → Thread) : (s.setThread u f).groups = s.groups := rfl
@[simp] theorem State.setThread_teams (s : State) (u : Nat) (f : Thread → Thread) : (s.setThread u f).teams = s.teams := rfl
@[simp] theorem State.setThread_slices (s : State) (u : Nat) (f : Thread → Thread) : (s.setThread u f).slices = s.slices := rfl
@[simp] theorem State.setThread_cur (s : State) (u : Nat) (f : Thread → Thread) : (s.setThread u f).cur = s.cur := rfl
@[simp] theorem State.setThread_ops (s : State) (u : Nat) (f : Thread → Thread) : (s.setThread u f).ops = s.ops := rfl
@[simp] theorem State.setThread_nextOp (s : State) (u : Nat) (f : Thread → Thread) : (s.setThread u f).nextOp = s.nextOp := rfl
@[simp] theorem State.setThread_xsubs (s : State) (u : Nat) (f : Thread → Thread) : (s.setThread u f).xsubs = s.xsubs := rfl
@[simp] theorem State.setThread_xforms (s : State) (u : Nat) (f : Thread → Thread) : (s.setThread u f).xforms = s.xforms := rfl
@[simp] theorem State.setThread_nextTag (s : State) (u : Nat) (f : Thread → Thread) : (s.setThread u f).nextTag = s.nextTag := rfl
@[simp] theorem State.setThread_colls (s : State) (u : Nat) (f : Thread → Thread) : (s.setThread u f).colls = s.colls := rfl
@[simp] theorem State.setThread_collIn (s : State) (u : Nat) (f : Thread → Thread) : (s.setThread u f).collIn = s.collIn := rfl
@[simp] theorem State.setThread_updates (s : State) (u : Nat) (f : Thread → Thread) : (s.setThread u f).updates = s.updates := rfl
@[simp] theorem State.setThread_pockets (s : State) (u : Nat) (f : Thread → Thread) : (s.setThread u f).pockets = s.pockets := rfl
@[simp] theorem State.setThread_cloak (s : State) (u : Nat) (f : Thread → Thread) : (s.setThread u f).cloak = s.cloak := rfl
@[simp] theorem State.setThread_codes (s : State) (u : Nat) (f : Thread → Thread) : (s.setThread u f).codes = s.codes := rfl
@[simp] theorem State.setThread_contracts (s : State) (u : Nat) (f : Thread → Thread) : (s.setThread u f).contracts = s.contracts := rfl
@[simp] theorem State.setThread_nextContract (s : State) (u : Nat) (f : Thread → Thread) : (s.setThread u f).nextContract = s.nextContract := rfl
@[simp] theorem State.setThread_sessions (s : State) (u : Nat) (f : Thread → Thread) : (s.setThread u f).sessions = s.sessions := rfl
@[simp] theorem State.setThread_rma (s : State) (u : Nat) (f : Thread → Thread) : (s.setThread u f).rma = s.rma := rfl
@[simp] theorem State.setThread_nextRma (s : State) (u : Nat) (f : Thread → Thread) : (s.setThread u f).nextRma = s.nextRma := rfl
@[simp] theorem State.setThread_hostQ (s : State) (u : Nat) (f : Thread → Thread) : (s.setThread u f).hostQ = s.hostQ := rfl
@[simp] theorem State.setThread_pf (s : State) (u : Nat) (f : Thread → Thread) : (s.setThread u f).pf = s.pf := rfl
@[simp] theorem State.setThread_watches (s : State) (u : Nat) (f : Thread → Thread) : (s.setThread u f).watches = s.watches := rfl
@[simp] theorem State.setThread_starved (s : State) (u : Nat) (f : Thread → Thread) : (s.setThread u f).starved = s.starved := rfl
@[simp] theorem State.setThread_ctxAreas (s : State) (u : Nat) (f : Thread → Thread) : (s.setThread u f).ctxAreas = s.ctxAreas := rfl
@[simp] theorem State.setThread_refusals (s : State) (u : Nat) (f : Thread → Thread) : (s.setThread u f).refusals = s.refusals := rfl
@[simp] theorem State.setThread_waitingInv (s : State) (u : Nat) (f : Thread → Thread) : (s.setThread u f).waitingInv = s.waitingInv := rfl
@[simp] theorem State.setThread_mgmt (s : State) (u : Nat) (f : Thread → Thread) : (s.setThread u f).mgmt = s.mgmt := rfl
@[simp] theorem State.setThread_ras (s : State) (u : Nat) (f : Thread → Thread) : (s.setThread u f).ras = s.ras := rfl
@[simp] theorem State.setThread_rasLog (s : State) (u : Nat) (f : Thread → Thread) : (s.setThread u f).rasLog = s.rasLog := rfl
@[simp] theorem State.setThread_apron (s : State) (u : Nat) (f : Thread → Thread) : (s.setThread u f).apron = s.apron := rfl
@[simp] theorem State.setThread_fabric (s : State) (u : Nat) (f : Thread → Thread) : (s.setThread u f).fabric = s.fabric := rfl
@[simp] theorem State.setThread_agenda (s : State) (u : Nat) (f : Thread → Thread) : (s.setThread u f).agenda = s.agenda := rfl
@[simp] theorem State.setThread_outbox (s : State) (u : Nat) (f : Thread → Thread) : (s.setThread u f).outbox = s.outbox := rfl

/-! ### `State.setThreads` -/

@[simp] theorem State.setThreads_now (s : State) (us : List Nat) (f : Thread → Thread) : (s.setThreads us f).now = s.now := rfl
@[simp] theorem State.setThreads_fresh (s : State) (us : List Nat) (f : Thread → Thread) : (s.setThreads us f).fresh = s.fresh := rfl
@[simp] theorem State.setThreads_nextUid (s : State) (us : List Nat) (f : Thread → Thread) : (s.setThreads us f).nextUid = s.nextUid := rfl
@[simp] theorem State.setThreads_nextSlice (s : State) (us : List Nat) (f : Thread → Thread) : (s.setThreads us f).nextSlice = s.nextSlice := rfl
@[simp] theorem State.setThreads_part (s : State) (us : List Nat) (f : Thread → Thread) : (s.setThreads us f).part = s.part := rfl
@[simp] theorem State.setThreads_boot (s : State) (us : List Nat) (f : Thread → Thread) : (s.setThreads us f).boot = s.boot := rfl
@[simp] theorem State.setThreads_mem (s : State) (us : List Nat) (f : Thread → Thread) : (s.setThreads us f).mem = s.mem := rfl
@[simp] theorem State.setThreads_cores (s : State) (us : List Nat) (f : Thread → Thread) : (s.setThreads us f).cores = s.cores := rfl
@[simp] theorem State.setThreads_walkers (s : State) (us : List Nat) (f : Thread → Thread) : (s.setThreads us f).walkers = s.walkers := rfl
@[simp] theorem State.setThreads_groups (s : State) (us : List Nat) (f : Thread → Thread) : (s.setThreads us f).groups = s.groups := rfl
@[simp] theorem State.setThreads_teams (s : State) (us : List Nat) (f : Thread → Thread) : (s.setThreads us f).teams = s.teams := rfl
@[simp] theorem State.setThreads_slices (s : State) (us : List Nat) (f : Thread → Thread) : (s.setThreads us f).slices = s.slices := rfl
@[simp] theorem State.setThreads_cur (s : State) (us : List Nat) (f : Thread → Thread) : (s.setThreads us f).cur = s.cur := rfl
@[simp] theorem State.setThreads_ops (s : State) (us : List Nat) (f : Thread → Thread) : (s.setThreads us f).ops = s.ops := rfl
@[simp] theorem State.setThreads_nextOp (s : State) (us : List Nat) (f : Thread → Thread) : (s.setThreads us f).nextOp = s.nextOp := rfl
@[simp] theorem State.setThreads_xsubs (s : State) (us : List Nat) (f : Thread → Thread) : (s.setThreads us f).xsubs = s.xsubs := rfl
@[simp] theorem State.setThreads_xforms (s : State) (us : List Nat) (f : Thread → Thread) : (s.setThreads us f).xforms = s.xforms := rfl
@[simp] theorem State.setThreads_nextTag (s : State) (us : List Nat) (f : Thread → Thread) : (s.setThreads us f).nextTag = s.nextTag := rfl
@[simp] theorem State.setThreads_colls (s : State) (us : List Nat) (f : Thread → Thread) : (s.setThreads us f).colls = s.colls := rfl
@[simp] theorem State.setThreads_collIn (s : State) (us : List Nat) (f : Thread → Thread) : (s.setThreads us f).collIn = s.collIn := rfl
@[simp] theorem State.setThreads_updates (s : State) (us : List Nat) (f : Thread → Thread) : (s.setThreads us f).updates = s.updates := rfl
@[simp] theorem State.setThreads_pockets (s : State) (us : List Nat) (f : Thread → Thread) : (s.setThreads us f).pockets = s.pockets := rfl
@[simp] theorem State.setThreads_cloak (s : State) (us : List Nat) (f : Thread → Thread) : (s.setThreads us f).cloak = s.cloak := rfl
@[simp] theorem State.setThreads_codes (s : State) (us : List Nat) (f : Thread → Thread) : (s.setThreads us f).codes = s.codes := rfl
@[simp] theorem State.setThreads_contracts (s : State) (us : List Nat) (f : Thread → Thread) : (s.setThreads us f).contracts = s.contracts := rfl
@[simp] theorem State.setThreads_nextContract (s : State) (us : List Nat) (f : Thread → Thread) : (s.setThreads us f).nextContract = s.nextContract := rfl
@[simp] theorem State.setThreads_sessions (s : State) (us : List Nat) (f : Thread → Thread) : (s.setThreads us f).sessions = s.sessions := rfl
@[simp] theorem State.setThreads_rma (s : State) (us : List Nat) (f : Thread → Thread) : (s.setThreads us f).rma = s.rma := rfl
@[simp] theorem State.setThreads_nextRma (s : State) (us : List Nat) (f : Thread → Thread) : (s.setThreads us f).nextRma = s.nextRma := rfl
@[simp] theorem State.setThreads_hostQ (s : State) (us : List Nat) (f : Thread → Thread) : (s.setThreads us f).hostQ = s.hostQ := rfl
@[simp] theorem State.setThreads_pf (s : State) (us : List Nat) (f : Thread → Thread) : (s.setThreads us f).pf = s.pf := rfl
@[simp] theorem State.setThreads_watches (s : State) (us : List Nat) (f : Thread → Thread) : (s.setThreads us f).watches = s.watches := rfl
@[simp] theorem State.setThreads_starved (s : State) (us : List Nat) (f : Thread → Thread) : (s.setThreads us f).starved = s.starved := rfl
@[simp] theorem State.setThreads_ctxAreas (s : State) (us : List Nat) (f : Thread → Thread) : (s.setThreads us f).ctxAreas = s.ctxAreas := rfl
@[simp] theorem State.setThreads_refusals (s : State) (us : List Nat) (f : Thread → Thread) : (s.setThreads us f).refusals = s.refusals := rfl
@[simp] theorem State.setThreads_waitingInv (s : State) (us : List Nat) (f : Thread → Thread) : (s.setThreads us f).waitingInv = s.waitingInv := rfl
@[simp] theorem State.setThreads_mgmt (s : State) (us : List Nat) (f : Thread → Thread) : (s.setThreads us f).mgmt = s.mgmt := rfl
@[simp] theorem State.setThreads_ras (s : State) (us : List Nat) (f : Thread → Thread) : (s.setThreads us f).ras = s.ras := rfl
@[simp] theorem State.setThreads_rasLog (s : State) (us : List Nat) (f : Thread → Thread) : (s.setThreads us f).rasLog = s.rasLog := rfl
@[simp] theorem State.setThreads_apron (s : State) (us : List Nat) (f : Thread → Thread) : (s.setThreads us f).apron = s.apron := rfl
@[simp] theorem State.setThreads_fabric (s : State) (us : List Nat) (f : Thread → Thread) : (s.setThreads us f).fabric = s.fabric := rfl
@[simp] theorem State.setThreads_agenda (s : State) (us : List Nat) (f : Thread → Thread) : (s.setThreads us f).agenda = s.agenda := rfl
@[simp] theorem State.setThreads_outbox (s : State) (us : List Nat) (f : Thread → Thread) : (s.setThreads us f).outbox = s.outbox := rfl

/-! ### `State.setGroup` -/

@[simp] theorem State.setGroup_now (s : State) (g : Nat) (f : Group → Group) : (s.setGroup g f).now = s.now := rfl
@[simp] theorem State.setGroup_fresh (s : State) (g : Nat) (f : Group → Group) : (s.setGroup g f).fresh = s.fresh := rfl
@[simp] theorem State.setGroup_nextUid (s : State) (g : Nat) (f : Group → Group) : (s.setGroup g f).nextUid = s.nextUid := rfl
@[simp] theorem State.setGroup_nextSlice (s : State) (g : Nat) (f : Group → Group) : (s.setGroup g f).nextSlice = s.nextSlice := rfl
@[simp] theorem State.setGroup_part (s : State) (g : Nat) (f : Group → Group) : (s.setGroup g f).part = s.part := rfl
@[simp] theorem State.setGroup_boot (s : State) (g : Nat) (f : Group → Group) : (s.setGroup g f).boot = s.boot := rfl
@[simp] theorem State.setGroup_mem (s : State) (g : Nat) (f : Group → Group) : (s.setGroup g f).mem = s.mem := rfl
@[simp] theorem State.setGroup_cores (s : State) (g : Nat) (f : Group → Group) : (s.setGroup g f).cores = s.cores := rfl
@[simp] theorem State.setGroup_walkers (s : State) (g : Nat) (f : Group → Group) : (s.setGroup g f).walkers = s.walkers := rfl
@[simp] theorem State.setGroup_threads (s : State) (g : Nat) (f : Group → Group) : (s.setGroup g f).threads = s.threads := rfl
@[simp] theorem State.setGroup_teams (s : State) (g : Nat) (f : Group → Group) : (s.setGroup g f).teams = s.teams := rfl
@[simp] theorem State.setGroup_slices (s : State) (g : Nat) (f : Group → Group) : (s.setGroup g f).slices = s.slices := rfl
@[simp] theorem State.setGroup_cur (s : State) (g : Nat) (f : Group → Group) : (s.setGroup g f).cur = s.cur := rfl
@[simp] theorem State.setGroup_ops (s : State) (g : Nat) (f : Group → Group) : (s.setGroup g f).ops = s.ops := rfl
@[simp] theorem State.setGroup_nextOp (s : State) (g : Nat) (f : Group → Group) : (s.setGroup g f).nextOp = s.nextOp := rfl
@[simp] theorem State.setGroup_xsubs (s : State) (g : Nat) (f : Group → Group) : (s.setGroup g f).xsubs = s.xsubs := rfl
@[simp] theorem State.setGroup_xforms (s : State) (g : Nat) (f : Group → Group) : (s.setGroup g f).xforms = s.xforms := rfl
@[simp] theorem State.setGroup_nextTag (s : State) (g : Nat) (f : Group → Group) : (s.setGroup g f).nextTag = s.nextTag := rfl
@[simp] theorem State.setGroup_colls (s : State) (g : Nat) (f : Group → Group) : (s.setGroup g f).colls = s.colls := rfl
@[simp] theorem State.setGroup_collIn (s : State) (g : Nat) (f : Group → Group) : (s.setGroup g f).collIn = s.collIn := rfl
@[simp] theorem State.setGroup_updates (s : State) (g : Nat) (f : Group → Group) : (s.setGroup g f).updates = s.updates := rfl
@[simp] theorem State.setGroup_pockets (s : State) (g : Nat) (f : Group → Group) : (s.setGroup g f).pockets = s.pockets := rfl
@[simp] theorem State.setGroup_cloak (s : State) (g : Nat) (f : Group → Group) : (s.setGroup g f).cloak = s.cloak := rfl
@[simp] theorem State.setGroup_codes (s : State) (g : Nat) (f : Group → Group) : (s.setGroup g f).codes = s.codes := rfl
@[simp] theorem State.setGroup_contracts (s : State) (g : Nat) (f : Group → Group) : (s.setGroup g f).contracts = s.contracts := rfl
@[simp] theorem State.setGroup_nextContract (s : State) (g : Nat) (f : Group → Group) : (s.setGroup g f).nextContract = s.nextContract := rfl
@[simp] theorem State.setGroup_sessions (s : State) (g : Nat) (f : Group → Group) : (s.setGroup g f).sessions = s.sessions := rfl
@[simp] theorem State.setGroup_rma (s : State) (g : Nat) (f : Group → Group) : (s.setGroup g f).rma = s.rma := rfl
@[simp] theorem State.setGroup_nextRma (s : State) (g : Nat) (f : Group → Group) : (s.setGroup g f).nextRma = s.nextRma := rfl
@[simp] theorem State.setGroup_hostQ (s : State) (g : Nat) (f : Group → Group) : (s.setGroup g f).hostQ = s.hostQ := rfl
@[simp] theorem State.setGroup_pf (s : State) (g : Nat) (f : Group → Group) : (s.setGroup g f).pf = s.pf := rfl
@[simp] theorem State.setGroup_watches (s : State) (g : Nat) (f : Group → Group) : (s.setGroup g f).watches = s.watches := rfl
@[simp] theorem State.setGroup_starved (s : State) (g : Nat) (f : Group → Group) : (s.setGroup g f).starved = s.starved := rfl
@[simp] theorem State.setGroup_ctxAreas (s : State) (g : Nat) (f : Group → Group) : (s.setGroup g f).ctxAreas = s.ctxAreas := rfl
@[simp] theorem State.setGroup_refusals (s : State) (g : Nat) (f : Group → Group) : (s.setGroup g f).refusals = s.refusals := rfl
@[simp] theorem State.setGroup_waitingInv (s : State) (g : Nat) (f : Group → Group) : (s.setGroup g f).waitingInv = s.waitingInv := rfl
@[simp] theorem State.setGroup_mgmt (s : State) (g : Nat) (f : Group → Group) : (s.setGroup g f).mgmt = s.mgmt := rfl
@[simp] theorem State.setGroup_ras (s : State) (g : Nat) (f : Group → Group) : (s.setGroup g f).ras = s.ras := rfl
@[simp] theorem State.setGroup_rasLog (s : State) (g : Nat) (f : Group → Group) : (s.setGroup g f).rasLog = s.rasLog := rfl
@[simp] theorem State.setGroup_apron (s : State) (g : Nat) (f : Group → Group) : (s.setGroup g f).apron = s.apron := rfl
@[simp] theorem State.setGroup_fabric (s : State) (g : Nat) (f : Group → Group) : (s.setGroup g f).fabric = s.fabric := rfl
@[simp] theorem State.setGroup_agenda (s : State) (g : Nat) (f : Group → Group) : (s.setGroup g f).agenda = s.agenda := rfl
@[simp] theorem State.setGroup_outbox (s : State) (g : Nat) (f : Group → Group) : (s.setGroup g f).outbox = s.outbox := rfl

/-! ### `State.setTeam` -/

@[simp] theorem State.setTeam_now (s : State) (u : Nat) (f : Team → Team) : (s.setTeam u f).now = s.now := rfl
@[simp] theorem State.setTeam_fresh (s : State) (u : Nat) (f : Team → Team) : (s.setTeam u f).fresh = s.fresh := rfl
@[simp] theorem State.setTeam_nextUid (s : State) (u : Nat) (f : Team → Team) : (s.setTeam u f).nextUid = s.nextUid := rfl
@[simp] theorem State.setTeam_nextSlice (s : State) (u : Nat) (f : Team → Team) : (s.setTeam u f).nextSlice = s.nextSlice := rfl
@[simp] theorem State.setTeam_part (s : State) (u : Nat) (f : Team → Team) : (s.setTeam u f).part = s.part := rfl
@[simp] theorem State.setTeam_boot (s : State) (u : Nat) (f : Team → Team) : (s.setTeam u f).boot = s.boot := rfl
@[simp] theorem State.setTeam_mem (s : State) (u : Nat) (f : Team → Team) : (s.setTeam u f).mem = s.mem := rfl
@[simp] theorem State.setTeam_cores (s : State) (u : Nat) (f : Team → Team) : (s.setTeam u f).cores = s.cores := rfl
@[simp] theorem State.setTeam_walkers (s : State) (u : Nat) (f : Team → Team) : (s.setTeam u f).walkers = s.walkers := rfl
@[simp] theorem State.setTeam_threads (s : State) (u : Nat) (f : Team → Team) : (s.setTeam u f).threads = s.threads := rfl
@[simp] theorem State.setTeam_groups (s : State) (u : Nat) (f : Team → Team) : (s.setTeam u f).groups = s.groups := rfl
@[simp] theorem State.setTeam_slices (s : State) (u : Nat) (f : Team → Team) : (s.setTeam u f).slices = s.slices := rfl
@[simp] theorem State.setTeam_cur (s : State) (u : Nat) (f : Team → Team) : (s.setTeam u f).cur = s.cur := rfl
@[simp] theorem State.setTeam_ops (s : State) (u : Nat) (f : Team → Team) : (s.setTeam u f).ops = s.ops := rfl
@[simp] theorem State.setTeam_nextOp (s : State) (u : Nat) (f : Team → Team) : (s.setTeam u f).nextOp = s.nextOp := rfl
@[simp] theorem State.setTeam_xsubs (s : State) (u : Nat) (f : Team → Team) : (s.setTeam u f).xsubs = s.xsubs := rfl
@[simp] theorem State.setTeam_xforms (s : State) (u : Nat) (f : Team → Team) : (s.setTeam u f).xforms = s.xforms := rfl
@[simp] theorem State.setTeam_nextTag (s : State) (u : Nat) (f : Team → Team) : (s.setTeam u f).nextTag = s.nextTag := rfl
@[simp] theorem State.setTeam_colls (s : State) (u : Nat) (f : Team → Team) : (s.setTeam u f).colls = s.colls := rfl
@[simp] theorem State.setTeam_collIn (s : State) (u : Nat) (f : Team → Team) : (s.setTeam u f).collIn = s.collIn := rfl
@[simp] theorem State.setTeam_updates (s : State) (u : Nat) (f : Team → Team) : (s.setTeam u f).updates = s.updates := rfl
@[simp] theorem State.setTeam_pockets (s : State) (u : Nat) (f : Team → Team) : (s.setTeam u f).pockets = s.pockets := rfl
@[simp] theorem State.setTeam_cloak (s : State) (u : Nat) (f : Team → Team) : (s.setTeam u f).cloak = s.cloak := rfl
@[simp] theorem State.setTeam_codes (s : State) (u : Nat) (f : Team → Team) : (s.setTeam u f).codes = s.codes := rfl
@[simp] theorem State.setTeam_contracts (s : State) (u : Nat) (f : Team → Team) : (s.setTeam u f).contracts = s.contracts := rfl
@[simp] theorem State.setTeam_nextContract (s : State) (u : Nat) (f : Team → Team) : (s.setTeam u f).nextContract = s.nextContract := rfl
@[simp] theorem State.setTeam_sessions (s : State) (u : Nat) (f : Team → Team) : (s.setTeam u f).sessions = s.sessions := rfl
@[simp] theorem State.setTeam_rma (s : State) (u : Nat) (f : Team → Team) : (s.setTeam u f).rma = s.rma := rfl
@[simp] theorem State.setTeam_nextRma (s : State) (u : Nat) (f : Team → Team) : (s.setTeam u f).nextRma = s.nextRma := rfl
@[simp] theorem State.setTeam_hostQ (s : State) (u : Nat) (f : Team → Team) : (s.setTeam u f).hostQ = s.hostQ := rfl
@[simp] theorem State.setTeam_pf (s : State) (u : Nat) (f : Team → Team) : (s.setTeam u f).pf = s.pf := rfl
@[simp] theorem State.setTeam_watches (s : State) (u : Nat) (f : Team → Team) : (s.setTeam u f).watches = s.watches := rfl
@[simp] theorem State.setTeam_starved (s : State) (u : Nat) (f : Team → Team) : (s.setTeam u f).starved = s.starved := rfl
@[simp] theorem State.setTeam_ctxAreas (s : State) (u : Nat) (f : Team → Team) : (s.setTeam u f).ctxAreas = s.ctxAreas := rfl
@[simp] theorem State.setTeam_refusals (s : State) (u : Nat) (f : Team → Team) : (s.setTeam u f).refusals = s.refusals := rfl
@[simp] theorem State.setTeam_waitingInv (s : State) (u : Nat) (f : Team → Team) : (s.setTeam u f).waitingInv = s.waitingInv := rfl
@[simp] theorem State.setTeam_mgmt (s : State) (u : Nat) (f : Team → Team) : (s.setTeam u f).mgmt = s.mgmt := rfl
@[simp] theorem State.setTeam_ras (s : State) (u : Nat) (f : Team → Team) : (s.setTeam u f).ras = s.ras := rfl
@[simp] theorem State.setTeam_rasLog (s : State) (u : Nat) (f : Team → Team) : (s.setTeam u f).rasLog = s.rasLog := rfl
@[simp] theorem State.setTeam_apron (s : State) (u : Nat) (f : Team → Team) : (s.setTeam u f).apron = s.apron := rfl
@[simp] theorem State.setTeam_fabric (s : State) (u : Nat) (f : Team → Team) : (s.setTeam u f).fabric = s.fabric := rfl
@[simp] theorem State.setTeam_agenda (s : State) (u : Nat) (f : Team → Team) : (s.setTeam u f).agenda = s.agenda := rfl
@[simp] theorem State.setTeam_outbox (s : State) (u : Nat) (f : Team → Team) : (s.setTeam u f).outbox = s.outbox := rfl

/-! ### `State.setSlice` -/

@[simp] theorem State.setSlice_now (s : State) (n : Nat) (f : Slice → Slice) : (s.setSlice n f).now = s.now := rfl
@[simp] theorem State.setSlice_fresh (s : State) (n : Nat) (f : Slice → Slice) : (s.setSlice n f).fresh = s.fresh := rfl
@[simp] theorem State.setSlice_nextUid (s : State) (n : Nat) (f : Slice → Slice) : (s.setSlice n f).nextUid = s.nextUid := rfl
@[simp] theorem State.setSlice_nextSlice (s : State) (n : Nat) (f : Slice → Slice) : (s.setSlice n f).nextSlice = s.nextSlice := rfl
@[simp] theorem State.setSlice_part (s : State) (n : Nat) (f : Slice → Slice) : (s.setSlice n f).part = s.part := rfl
@[simp] theorem State.setSlice_boot (s : State) (n : Nat) (f : Slice → Slice) : (s.setSlice n f).boot = s.boot := rfl
@[simp] theorem State.setSlice_mem (s : State) (n : Nat) (f : Slice → Slice) : (s.setSlice n f).mem = s.mem := rfl
@[simp] theorem State.setSlice_cores (s : State) (n : Nat) (f : Slice → Slice) : (s.setSlice n f).cores = s.cores := rfl
@[simp] theorem State.setSlice_walkers (s : State) (n : Nat) (f : Slice → Slice) : (s.setSlice n f).walkers = s.walkers := rfl
@[simp] theorem State.setSlice_threads (s : State) (n : Nat) (f : Slice → Slice) : (s.setSlice n f).threads = s.threads := rfl
@[simp] theorem State.setSlice_groups (s : State) (n : Nat) (f : Slice → Slice) : (s.setSlice n f).groups = s.groups := rfl
@[simp] theorem State.setSlice_teams (s : State) (n : Nat) (f : Slice → Slice) : (s.setSlice n f).teams = s.teams := rfl
@[simp] theorem State.setSlice_cur (s : State) (n : Nat) (f : Slice → Slice) : (s.setSlice n f).cur = s.cur := rfl
@[simp] theorem State.setSlice_ops (s : State) (n : Nat) (f : Slice → Slice) : (s.setSlice n f).ops = s.ops := rfl
@[simp] theorem State.setSlice_nextOp (s : State) (n : Nat) (f : Slice → Slice) : (s.setSlice n f).nextOp = s.nextOp := rfl
@[simp] theorem State.setSlice_xsubs (s : State) (n : Nat) (f : Slice → Slice) : (s.setSlice n f).xsubs = s.xsubs := rfl
@[simp] theorem State.setSlice_xforms (s : State) (n : Nat) (f : Slice → Slice) : (s.setSlice n f).xforms = s.xforms := rfl
@[simp] theorem State.setSlice_nextTag (s : State) (n : Nat) (f : Slice → Slice) : (s.setSlice n f).nextTag = s.nextTag := rfl
@[simp] theorem State.setSlice_colls (s : State) (n : Nat) (f : Slice → Slice) : (s.setSlice n f).colls = s.colls := rfl
@[simp] theorem State.setSlice_collIn (s : State) (n : Nat) (f : Slice → Slice) : (s.setSlice n f).collIn = s.collIn := rfl
@[simp] theorem State.setSlice_updates (s : State) (n : Nat) (f : Slice → Slice) : (s.setSlice n f).updates = s.updates := rfl
@[simp] theorem State.setSlice_pockets (s : State) (n : Nat) (f : Slice → Slice) : (s.setSlice n f).pockets = s.pockets := rfl
@[simp] theorem State.setSlice_cloak (s : State) (n : Nat) (f : Slice → Slice) : (s.setSlice n f).cloak = s.cloak := rfl
@[simp] theorem State.setSlice_codes (s : State) (n : Nat) (f : Slice → Slice) : (s.setSlice n f).codes = s.codes := rfl
@[simp] theorem State.setSlice_contracts (s : State) (n : Nat) (f : Slice → Slice) : (s.setSlice n f).contracts = s.contracts := rfl
@[simp] theorem State.setSlice_nextContract (s : State) (n : Nat) (f : Slice → Slice) : (s.setSlice n f).nextContract = s.nextContract := rfl
@[simp] theorem State.setSlice_sessions (s : State) (n : Nat) (f : Slice → Slice) : (s.setSlice n f).sessions = s.sessions := rfl
@[simp] theorem State.setSlice_rma (s : State) (n : Nat) (f : Slice → Slice) : (s.setSlice n f).rma = s.rma := rfl
@[simp] theorem State.setSlice_nextRma (s : State) (n : Nat) (f : Slice → Slice) : (s.setSlice n f).nextRma = s.nextRma := rfl
@[simp] theorem State.setSlice_hostQ (s : State) (n : Nat) (f : Slice → Slice) : (s.setSlice n f).hostQ = s.hostQ := rfl
@[simp] theorem State.setSlice_pf (s : State) (n : Nat) (f : Slice → Slice) : (s.setSlice n f).pf = s.pf := rfl
@[simp] theorem State.setSlice_watches (s : State) (n : Nat) (f : Slice → Slice) : (s.setSlice n f).watches = s.watches := rfl
@[simp] theorem State.setSlice_starved (s : State) (n : Nat) (f : Slice → Slice) : (s.setSlice n f).starved = s.starved := rfl
@[simp] theorem State.setSlice_ctxAreas (s : State) (n : Nat) (f : Slice → Slice) : (s.setSlice n f).ctxAreas = s.ctxAreas := rfl
@[simp] theorem State.setSlice_refusals (s : State) (n : Nat) (f : Slice → Slice) : (s.setSlice n f).refusals = s.refusals := rfl
@[simp] theorem State.setSlice_waitingInv (s : State) (n : Nat) (f : Slice → Slice) : (s.setSlice n f).waitingInv = s.waitingInv := rfl
@[simp] theorem State.setSlice_mgmt (s : State) (n : Nat) (f : Slice → Slice) : (s.setSlice n f).mgmt = s.mgmt := rfl
@[simp] theorem State.setSlice_ras (s : State) (n : Nat) (f : Slice → Slice) : (s.setSlice n f).ras = s.ras := rfl
@[simp] theorem State.setSlice_rasLog (s : State) (n : Nat) (f : Slice → Slice) : (s.setSlice n f).rasLog = s.rasLog := rfl
@[simp] theorem State.setSlice_apron (s : State) (n : Nat) (f : Slice → Slice) : (s.setSlice n f).apron = s.apron := rfl
@[simp] theorem State.setSlice_fabric (s : State) (n : Nat) (f : Slice → Slice) : (s.setSlice n f).fabric = s.fabric := rfl
@[simp] theorem State.setSlice_agenda (s : State) (n : Nat) (f : Slice → Slice) : (s.setSlice n f).agenda = s.agenda := rfl
@[simp] theorem State.setSlice_outbox (s : State) (n : Nat) (f : Slice → Slice) : (s.setSlice n f).outbox = s.outbox := rfl

/-! ### `State.setCore` -/

@[simp] theorem State.setCore_now (s : State) (n : Nat) (f : Core → Core) : (s.setCore n f).now = s.now := rfl
@[simp] theorem State.setCore_fresh (s : State) (n : Nat) (f : Core → Core) : (s.setCore n f).fresh = s.fresh := rfl
@[simp] theorem State.setCore_nextUid (s : State) (n : Nat) (f : Core → Core) : (s.setCore n f).nextUid = s.nextUid := rfl
@[simp] theorem State.setCore_nextSlice (s : State) (n : Nat) (f : Core → Core) : (s.setCore n f).nextSlice = s.nextSlice := rfl
@[simp] theorem State.setCore_part (s : State) (n : Nat) (f : Core → Core) : (s.setCore n f).part = s.part := rfl
@[simp] theorem State.setCore_boot (s : State) (n : Nat) (f : Core → Core) : (s.setCore n f).boot = s.boot := rfl
@[simp] theorem State.setCore_mem (s : State) (n : Nat) (f : Core → Core) : (s.setCore n f).mem = s.mem := rfl
@[simp] theorem State.setCore_walkers (s : State) (n : Nat) (f : Core → Core) : (s.setCore n f).walkers = s.walkers := rfl
@[simp] theorem State.setCore_threads (s : State) (n : Nat) (f : Core → Core) : (s.setCore n f).threads = s.threads := rfl
@[simp] theorem State.setCore_groups (s : State) (n : Nat) (f : Core → Core) : (s.setCore n f).groups = s.groups := rfl
@[simp] theorem State.setCore_teams (s : State) (n : Nat) (f : Core → Core) : (s.setCore n f).teams = s.teams := rfl
@[simp] theorem State.setCore_slices (s : State) (n : Nat) (f : Core → Core) : (s.setCore n f).slices = s.slices := rfl
@[simp] theorem State.setCore_cur (s : State) (n : Nat) (f : Core → Core) : (s.setCore n f).cur = s.cur := rfl
@[simp] theorem State.setCore_ops (s : State) (n : Nat) (f : Core → Core) : (s.setCore n f).ops = s.ops := rfl
@[simp] theorem State.setCore_nextOp (s : State) (n : Nat) (f : Core → Core) : (s.setCore n f).nextOp = s.nextOp := rfl
@[simp] theorem State.setCore_xsubs (s : State) (n : Nat) (f : Core → Core) : (s.setCore n f).xsubs = s.xsubs := rfl
@[simp] theorem State.setCore_xforms (s : State) (n : Nat) (f : Core → Core) : (s.setCore n f).xforms = s.xforms := rfl
@[simp] theorem State.setCore_nextTag (s : State) (n : Nat) (f : Core → Core) : (s.setCore n f).nextTag = s.nextTag := rfl
@[simp] theorem State.setCore_colls (s : State) (n : Nat) (f : Core → Core) : (s.setCore n f).colls = s.colls := rfl
@[simp] theorem State.setCore_collIn (s : State) (n : Nat) (f : Core → Core) : (s.setCore n f).collIn = s.collIn := rfl
@[simp] theorem State.setCore_updates (s : State) (n : Nat) (f : Core → Core) : (s.setCore n f).updates = s.updates := rfl
@[simp] theorem State.setCore_pockets (s : State) (n : Nat) (f : Core → Core) : (s.setCore n f).pockets = s.pockets := rfl
@[simp] theorem State.setCore_cloak (s : State) (n : Nat) (f : Core → Core) : (s.setCore n f).cloak = s.cloak := rfl
@[simp] theorem State.setCore_codes (s : State) (n : Nat) (f : Core → Core) : (s.setCore n f).codes = s.codes := rfl
@[simp] theorem State.setCore_contracts (s : State) (n : Nat) (f : Core → Core) : (s.setCore n f).contracts = s.contracts := rfl
@[simp] theorem State.setCore_nextContract (s : State) (n : Nat) (f : Core → Core) : (s.setCore n f).nextContract = s.nextContract := rfl
@[simp] theorem State.setCore_sessions (s : State) (n : Nat) (f : Core → Core) : (s.setCore n f).sessions = s.sessions := rfl
@[simp] theorem State.setCore_rma (s : State) (n : Nat) (f : Core → Core) : (s.setCore n f).rma = s.rma := rfl
@[simp] theorem State.setCore_nextRma (s : State) (n : Nat) (f : Core → Core) : (s.setCore n f).nextRma = s.nextRma := rfl
@[simp] theorem State.setCore_hostQ (s : State) (n : Nat) (f : Core → Core) : (s.setCore n f).hostQ = s.hostQ := rfl
@[simp] theorem State.setCore_pf (s : State) (n : Nat) (f : Core → Core) : (s.setCore n f).pf = s.pf := rfl
@[simp] theorem State.setCore_watches (s : State) (n : Nat) (f : Core → Core) : (s.setCore n f).watches = s.watches := rfl
@[simp] theorem State.setCore_starved (s : State) (n : Nat) (f : Core → Core) : (s.setCore n f).starved = s.starved := rfl
@[simp] theorem State.setCore_ctxAreas (s : State) (n : Nat) (f : Core → Core) : (s.setCore n f).ctxAreas = s.ctxAreas := rfl
@[simp] theorem State.setCore_refusals (s : State) (n : Nat) (f : Core → Core) : (s.setCore n f).refusals = s.refusals := rfl
@[simp] theorem State.setCore_waitingInv (s : State) (n : Nat) (f : Core → Core) : (s.setCore n f).waitingInv = s.waitingInv := rfl
@[simp] theorem State.setCore_mgmt (s : State) (n : Nat) (f : Core → Core) : (s.setCore n f).mgmt = s.mgmt := rfl
@[simp] theorem State.setCore_ras (s : State) (n : Nat) (f : Core → Core) : (s.setCore n f).ras = s.ras := rfl
@[simp] theorem State.setCore_rasLog (s : State) (n : Nat) (f : Core → Core) : (s.setCore n f).rasLog = s.rasLog := rfl
@[simp] theorem State.setCore_apron (s : State) (n : Nat) (f : Core → Core) : (s.setCore n f).apron = s.apron := rfl
@[simp] theorem State.setCore_fabric (s : State) (n : Nat) (f : Core → Core) : (s.setCore n f).fabric = s.fabric := rfl
@[simp] theorem State.setCore_agenda (s : State) (n : Nat) (f : Core → Core) : (s.setCore n f).agenda = s.agenda := rfl
@[simp] theorem State.setCore_outbox (s : State) (n : Nat) (f : Core → Core) : (s.setCore n f).outbox = s.outbox := rfl

/-! ### `State.tick` -/

@[simp] theorem State.tick_now (s : State) : (s.tick).now = s.now := rfl
@[simp] theorem State.tick_nextUid (s : State) : (s.tick).nextUid = s.nextUid := rfl
@[simp] theorem State.tick_nextSlice (s : State) : (s.tick).nextSlice = s.nextSlice := rfl
@[simp] theorem State.tick_part (s : State) : (s.tick).part = s.part := rfl
@[simp] theorem State.tick_boot (s : State) : (s.tick).boot = s.boot := rfl
@[simp] theorem State.tick_mem (s : State) : (s.tick).mem = s.mem := rfl
@[simp] theorem State.tick_cores (s : State) : (s.tick).cores = s.cores := rfl
@[simp] theorem State.tick_walkers (s : State) : (s.tick).walkers = s.walkers := rfl
@[simp] theorem State.tick_threads (s : State) : (s.tick).threads = s.threads := rfl
@[simp] theorem State.tick_groups (s : State) : (s.tick).groups = s.groups := rfl
@[simp] theorem State.tick_teams (s : State) : (s.tick).teams = s.teams := rfl
@[simp] theorem State.tick_slices (s : State) : (s.tick).slices = s.slices := rfl
@[simp] theorem State.tick_cur (s : State) : (s.tick).cur = s.cur := rfl
@[simp] theorem State.tick_ops (s : State) : (s.tick).ops = s.ops := rfl
@[simp] theorem State.tick_nextOp (s : State) : (s.tick).nextOp = s.nextOp := rfl
@[simp] theorem State.tick_xsubs (s : State) : (s.tick).xsubs = s.xsubs := rfl
@[simp] theorem State.tick_xforms (s : State) : (s.tick).xforms = s.xforms := rfl
@[simp] theorem State.tick_nextTag (s : State) : (s.tick).nextTag = s.nextTag := rfl
@[simp] theorem State.tick_colls (s : State) : (s.tick).colls = s.colls := rfl
@[simp] theorem State.tick_collIn (s : State) : (s.tick).collIn = s.collIn := rfl
@[simp] theorem State.tick_updates (s : State) : (s.tick).updates = s.updates := rfl
@[simp] theorem State.tick_pockets (s : State) : (s.tick).pockets = s.pockets := rfl
@[simp] theorem State.tick_cloak (s : State) : (s.tick).cloak = s.cloak := rfl
@[simp] theorem State.tick_codes (s : State) : (s.tick).codes = s.codes := rfl
@[simp] theorem State.tick_contracts (s : State) : (s.tick).contracts = s.contracts := rfl
@[simp] theorem State.tick_nextContract (s : State) : (s.tick).nextContract = s.nextContract := rfl
@[simp] theorem State.tick_sessions (s : State) : (s.tick).sessions = s.sessions := rfl
@[simp] theorem State.tick_rma (s : State) : (s.tick).rma = s.rma := rfl
@[simp] theorem State.tick_nextRma (s : State) : (s.tick).nextRma = s.nextRma := rfl
@[simp] theorem State.tick_hostQ (s : State) : (s.tick).hostQ = s.hostQ := rfl
@[simp] theorem State.tick_pf (s : State) : (s.tick).pf = s.pf := rfl
@[simp] theorem State.tick_watches (s : State) : (s.tick).watches = s.watches := rfl
@[simp] theorem State.tick_starved (s : State) : (s.tick).starved = s.starved := rfl
@[simp] theorem State.tick_ctxAreas (s : State) : (s.tick).ctxAreas = s.ctxAreas := rfl
@[simp] theorem State.tick_refusals (s : State) : (s.tick).refusals = s.refusals := rfl
@[simp] theorem State.tick_waitingInv (s : State) : (s.tick).waitingInv = s.waitingInv := rfl
@[simp] theorem State.tick_mgmt (s : State) : (s.tick).mgmt = s.mgmt := rfl
@[simp] theorem State.tick_ras (s : State) : (s.tick).ras = s.ras := rfl
@[simp] theorem State.tick_rasLog (s : State) : (s.tick).rasLog = s.rasLog := rfl
@[simp] theorem State.tick_apron (s : State) : (s.tick).apron = s.apron := rfl
@[simp] theorem State.tick_fabric (s : State) : (s.tick).fabric = s.fabric := rfl
@[simp] theorem State.tick_agenda (s : State) : (s.tick).agenda = s.agenda := rfl
@[simp] theorem State.tick_outbox (s : State) : (s.tick).outbox = s.outbox := rfl

/-! ### `State.send` -/

@[simp] theorem State.send_now (s : State) (m : OutMsg) : (s.send m).now = s.now := rfl
@[simp] theorem State.send_fresh (s : State) (m : OutMsg) : (s.send m).fresh = s.fresh := rfl
@[simp] theorem State.send_nextUid (s : State) (m : OutMsg) : (s.send m).nextUid = s.nextUid := rfl
@[simp] theorem State.send_nextSlice (s : State) (m : OutMsg) : (s.send m).nextSlice = s.nextSlice := rfl
@[simp] theorem State.send_part (s : State) (m : OutMsg) : (s.send m).part = s.part := rfl
@[simp] theorem State.send_boot (s : State) (m : OutMsg) : (s.send m).boot = s.boot := rfl
@[simp] theorem State.send_mem (s : State) (m : OutMsg) : (s.send m).mem = s.mem := rfl
@[simp] theorem State.send_cores (s : State) (m : OutMsg) : (s.send m).cores = s.cores := rfl
@[simp] theorem State.send_walkers (s : State) (m : OutMsg) : (s.send m).walkers = s.walkers := rfl
@[simp] theorem State.send_threads (s : State) (m : OutMsg) : (s.send m).threads = s.threads := rfl
@[simp] theorem State.send_groups (s : State) (m : OutMsg) : (s.send m).groups = s.groups := rfl
@[simp] theorem State.send_teams (s : State) (m : OutMsg) : (s.send m).teams = s.teams := rfl
@[simp] theorem State.send_slices (s : State) (m : OutMsg) : (s.send m).slices = s.slices := rfl
@[simp] theorem State.send_cur (s : State) (m : OutMsg) : (s.send m).cur = s.cur := rfl
@[simp] theorem State.send_ops (s : State) (m : OutMsg) : (s.send m).ops = s.ops := rfl
@[simp] theorem State.send_nextOp (s : State) (m : OutMsg) : (s.send m).nextOp = s.nextOp := rfl
@[simp] theorem State.send_xsubs (s : State) (m : OutMsg) : (s.send m).xsubs = s.xsubs := rfl
@[simp] theorem State.send_xforms (s : State) (m : OutMsg) : (s.send m).xforms = s.xforms := rfl
@[simp] theorem State.send_nextTag (s : State) (m : OutMsg) : (s.send m).nextTag = s.nextTag := rfl
@[simp] theorem State.send_colls (s : State) (m : OutMsg) : (s.send m).colls = s.colls := rfl
@[simp] theorem State.send_collIn (s : State) (m : OutMsg) : (s.send m).collIn = s.collIn := rfl
@[simp] theorem State.send_updates (s : State) (m : OutMsg) : (s.send m).updates = s.updates := rfl
@[simp] theorem State.send_pockets (s : State) (m : OutMsg) : (s.send m).pockets = s.pockets := rfl
@[simp] theorem State.send_cloak (s : State) (m : OutMsg) : (s.send m).cloak = s.cloak := rfl
@[simp] theorem State.send_codes (s : State) (m : OutMsg) : (s.send m).codes = s.codes := rfl
@[simp] theorem State.send_contracts (s : State) (m : OutMsg) : (s.send m).contracts = s.contracts := rfl
@[simp] theorem State.send_nextContract (s : State) (m : OutMsg) : (s.send m).nextContract = s.nextContract := rfl
@[simp] theorem State.send_sessions (s : State) (m : OutMsg) : (s.send m).sessions = s.sessions := rfl
@[simp] theorem State.send_rma (s : State) (m : OutMsg) : (s.send m).rma = s.rma := rfl
@[simp] theorem State.send_nextRma (s : State) (m : OutMsg) : (s.send m).nextRma = s.nextRma := rfl
@[simp] theorem State.send_hostQ (s : State) (m : OutMsg) : (s.send m).hostQ = s.hostQ := rfl
@[simp] theorem State.send_pf (s : State) (m : OutMsg) : (s.send m).pf = s.pf := rfl
@[simp] theorem State.send_watches (s : State) (m : OutMsg) : (s.send m).watches = s.watches := rfl
@[simp] theorem State.send_starved (s : State) (m : OutMsg) : (s.send m).starved = s.starved := rfl
@[simp] theorem State.send_ctxAreas (s : State) (m : OutMsg) : (s.send m).ctxAreas = s.ctxAreas := rfl
@[simp] theorem State.send_refusals (s : State) (m : OutMsg) : (s.send m).refusals = s.refusals := rfl
@[simp] theorem State.send_waitingInv (s : State) (m : OutMsg) : (s.send m).waitingInv = s.waitingInv := rfl
@[simp] theorem State.send_mgmt (s : State) (m : OutMsg) : (s.send m).mgmt = s.mgmt := rfl
@[simp] theorem State.send_ras (s : State) (m : OutMsg) : (s.send m).ras = s.ras := rfl
@[simp] theorem State.send_rasLog (s : State) (m : OutMsg) : (s.send m).rasLog = s.rasLog := rfl
@[simp] theorem State.send_apron (s : State) (m : OutMsg) : (s.send m).apron = s.apron := rfl
@[simp] theorem State.send_fabric (s : State) (m : OutMsg) : (s.send m).fabric =
    s.fabric.sent s.now s.outbox.length m := rfl
@[simp] theorem State.send_agenda (s : State) (m : OutMsg) : (s.send m).agenda = s.agenda := rfl

/-! ### `Fabric.sent` -/

@[simp] theorem Fabric.sent_links (f : Fabric) (now n : Nat) (m : OutMsg) : (f.sent now n m).links = f.links := by
  unfold Fabric.sent; split <;> rfl
@[simp] theorem Fabric.sent_ports (f : Fabric) (now n : Nat) (m : OutMsg) : (f.sent now n m).ports = f.ports := by
  unfold Fabric.sent; split <;> rfl
@[simp] theorem Fabric.sent_members (f : Fabric) (now n : Nat) (m : OutMsg) : (f.sent now n m).members = f.members := by
  unfold Fabric.sent; split <;> rfl
@[simp] theorem Fabric.sent_remote (f : Fabric) (now n : Nat) (m : OutMsg) : (f.sent now n m).remote = f.remote := by
  unfold Fabric.sent; split <;> rfl
@[simp] theorem Fabric.sent_held (f : Fabric) (now n : Nat) (m : OutMsg) : (f.sent now n m).held = f.held := by
  unfold Fabric.sent; split <;> rfl
@[simp] theorem Fabric.sent_polls (f : Fabric) (now n : Nat) (m : OutMsg) : (f.sent now n m).polls = f.polls := by
  unfold Fabric.sent; split <;> rfl
@[simp] theorem Fabric.sent_reads (f : Fabric) (now n : Nat) (m : OutMsg) : (f.sent now n m).reads = f.reads := by
  unfold Fabric.sent; split <;> rfl
@[simp] theorem Fabric.sent_nextTxn (f : Fabric) (now n : Nat) (m : OutMsg) : (f.sent now n m).nextTxn = f.nextTxn := by
  unfold Fabric.sent; split <;> rfl
@[simp] theorem Fabric.sent_livenessAt (f : Fabric) (now n : Nat) (m : OutMsg) : (f.sent now n m).livenessAt = f.livenessAt := by
  unfold Fabric.sent; split <;> rfl
@[simp] theorem Fabric.sent_reportAt (f : Fabric) (now n : Nat) (m : OutMsg) : (f.sent now n m).reportAt = f.reportAt := by
  unfold Fabric.sent; split <;> rfl
@[simp] theorem Fabric.sent_routes (f : Fabric) (now n : Nat) (m : OutMsg) : (f.sent now n m).routes = f.routes := by
  unfold Fabric.sent; split <;> rfl

/-! ### Reading back -/

@[simp] theorem State.tick_fresh (s : State) : s.tick.fresh = s.fresh + 1 := rfl

@[simp] theorem State.send_outbox (s : State) (m : OutMsg) : (s.send m).outbox =
    if s.fabric.stuck s.now m then s.outbox else s.outbox ++ [m] := rfl

/-- A message that need not wait leaves at once, over the first route of its device that is up. -/
theorem State.send_free {s : State} {m : OutMsg} (h : s.fabric.stuck s.now m = false) :
    s.send m = { s with
      outbox := s.outbox ++ [m]
      fabric := { s.fabric with flights := s.fabric.flown s.now s.outbox.length m } } := by
  simp [State.send, Fabric.sent, h]

/-- A message that no route is up for, or that must wait for one sent over another route, waits. -/
theorem State.send_stuck {s : State} {m : OutMsg} (h : s.fabric.stuck s.now m = true) :
    s.send m = { s with fabric := { s.fabric with unsent := s.fabric.unsent ++ [m] } } := by
  simp [State.send, Fabric.sent, h]

theorem find?_update {α : Type} (key : α → Nat) (n m : Nat) (f : α → α) (l : List α)
    (hf : ∀ x, key x = n → key (f x) = n) :
    (l.map fun x => if key x = n then f x else x).find? (key · == m) =
      (l.find? (key · == m)).map fun x => if m = n then f x else x := by
  induction l with
  | nil => rfl
  | cons x r ih =>
    simp only [List.map_cons, List.find?_cons]
    by_cases hx : key x = n
    · rw [if_pos hx, hf x hx]
      by_cases hm : n = m
      · subst hm
        simp [hx]
      · have hb : (n == m) = false := by simpa using hm
        simp [hx, hb, ih]
    · rw [if_neg hx]
      by_cases hm : key x = m
      · subst hm
        simp [hx]
      · have hb : (key x == m) = false := by simpa using hm
        simp [hb, ih]

/-- A thread other than the one that changes stays. -/
theorem State.thread_setThread_other (s : State) {u v : Nat} {f : Thread → Thread}
    (hf : ∀ t, t.uid = u → (f t).uid = u) (h : v ≠ u) : (s.setThread u f).thread v = s.thread v := by
  unfold State.thread State.setThread
  rw [find?_update Thread.uid u v f s.threads hf]
  simp [h]

/-- The thread that changes, of a machine that has it. -/
theorem State.thread_setThread_same (s : State) {u : Nat} {f : Thread → Thread}
    (hf : ∀ t, t.uid = u → (f t).uid = u) (h : s.threads.any (·.uid == u) = true) :
    (s.setThread u f).thread u = f (s.thread u) := by
  unfold State.thread State.setThread
  rw [find?_update Thread.uid u u f s.threads hf]
  cases hx : s.threads.find? (·.uid == u) with
  | none =>
    rw [List.find?_eq_none] at hx
    obtain ⟨t, ht, e⟩ := List.any_eq_true.mp h
    exact absurd e (hx t ht)
  | some t => simp

end Sys2Proof.Machine
end

