-- ==== Sys2Proof/Laws/Thread.lean ====
section
/-! SUPPORT. What a write of a register or a predicate leaves of each field of a thread, and what reads back. -/

namespace Sys2Proof.Machine

/-! ### `Thread.putG` -/

@[simp] theorem Thread.putG_uid (t : Thread) (n : Nat) (v : Word) : (t.putG n v).uid = t.uid := by unfold Thread.putG; split <;> rfl
@[simp] theorem Thread.putG_slice (t : Thread) (n : Nat) (v : Word) : (t.putG n v).slice = t.slice := by unfold Thread.putG; split <;> rfl
@[simp] theorem Thread.putG_team (t : Thread) (n : Nat) (v : Word) : (t.putG n v).team = t.team := by unfold Thread.putG; split <;> rfl
@[simp] theorem Thread.putG_gid (t : Thread) (n : Nat) (v : Word) : (t.putG n v).gid = t.gid := by unfold Thread.putG; split <;> rfl
@[simp] theorem Thread.putG_role (t : Thread) (n : Nat) (v : Word) : (t.putG n v).role = t.role := by unfold Thread.putG; split <;> rfl
@[simp] theorem Thread.putG_tid (t : Thread) (n : Nat) (v : Word) : (t.putG n v).tid = t.tid := by unfold Thread.putG; split <;> rfl
@[simp] theorem Thread.putG_orig (t : Thread) (n : Nat) (v : Word) : (t.putG n v).orig = t.orig := by unfold Thread.putG; split <;> rfl
@[simp] theorem Thread.putG_core (t : Thread) (n : Nat) (v : Word) : (t.putG n v).core = t.core := by unfold Thread.putG; split <;> rfl
@[simp] theorem Thread.putG_lane (t : Thread) (n : Nat) (v : Word) : (t.putG n v).lane = t.lane := by unfold Thread.putG; split <;> rfl
@[simp] theorem Thread.putG_pc (t : Thread) (n : Nat) (v : Word) : (t.putG n v).pc = t.pc := by unfold Thread.putG; split <;> rfl
@[simp] theorem Thread.putG_pos (t : Thread) (n : Nat) (v : Word) : (t.putG n v).pos = t.pos := by unfold Thread.putG; split <;> rfl
@[simp] theorem Thread.putG_runId (t : Thread) (n : Nat) (v : Word) : (t.putG n v).runId = t.runId := by unfold Thread.putG; split <;> rfl
@[simp] theorem Thread.putG_runSeq (t : Thread) (n : Nat) (v : Word) : (t.putG n v).runSeq = t.runSeq := by unfold Thread.putG; split <;> rfl
@[simp] theorem Thread.putG_after (t : Thread) (n : Nat) (v : Word) : (t.putG n v).after = t.after := by unfold Thread.putG; split <;> rfl
@[simp] theorem Thread.putG_csp (t : Thread) (n : Nat) (v : Word) : (t.putG n v).csp = t.csp := by unfold Thread.putG; split <;> rfl
@[simp] theorem Thread.putG_userCsp (t : Thread) (n : Nat) (v : Word) : (t.putG n v).userCsp = t.userCsp := by unfold Thread.putG; split <;> rfl
@[simp] theorem Thread.putG_mode (t : Thread) (n : Nat) (v : Word) : (t.putG n v).mode = t.mode := by unfold Thread.putG; split <;> rfl
@[simp] theorem Thread.putG_preds (t : Thread) (n : Nat) (v : Word) : (t.putG n v).preds = t.preds := by unfold Thread.putG; split <;> rfl
@[simp] theorem Thread.putG_ctr (t : Thread) (n : Nat) (v : Word) : (t.putG n v).ctr = t.ctr := by unfold Thread.putG; split <;> rfl
@[simp] theorem Thread.putG_fpctl (t : Thread) (n : Nat) (v : Word) : (t.putG n v).fpctl = t.fpctl := by unfold Thread.putG; split <;> rfl
@[simp] theorem Thread.putG_fpflags (t : Thread) (n : Nat) (v : Word) : (t.putG n v).fpflags = t.fpflags := by unfold Thread.putG; split <;> rfl
@[simp] theorem Thread.putG_iflags (t : Thread) (n : Nat) (v : Word) : (t.putG n v).iflags = t.iflags := by unfold Thread.putG; split <;> rfl
@[simp] theorem Thread.putG_tstat (t : Thread) (n : Nat) (v : Word) : (t.putG n v).tstat = t.tstat := by unfold Thread.putG; split <;> rfl
@[simp] theorem Thread.putG_tset (t : Thread) (n : Nat) (v : Word) : (t.putG n v).tset = t.tset := by unfold Thread.putG; split <;> rfl
@[simp] theorem Thread.putG_frec (t : Thread) (n : Nat) (v : Word) : (t.putG n v).frec = t.frec := by unfold Thread.putG; split <;> rfl
@[simp] theorem Thread.putG_cycHi (t : Thread) (n : Nat) (v : Word) : (t.putG n v).cycHi = t.cycHi := by unfold Thread.putG; split <;> rfl
@[simp] theorem Thread.putG_ssel (t : Thread) (n : Nat) (v : Word) : (t.putG n v).ssel = t.ssel := by unfold Thread.putG; split <;> rfl
@[simp] theorem Thread.putG_stamp (t : Thread) (n : Nat) (v : Word) : (t.putG n v).stamp = t.stamp := by unfold Thread.putG; split <;> rfl
@[simp] theorem Thread.putG_park (t : Thread) (n : Nat) (v : Word) : (t.putG n v).park = t.park := by unfold Thread.putG; split <;> rfl
@[simp] theorem Thread.putG_parkPc (t : Thread) (n : Nat) (v : Word) : (t.putG n v).parkPc = t.parkPc := by unfold Thread.putG; split <;> rfl
@[simp] theorem Thread.putG_ended (t : Thread) (n : Nat) (v : Word) : (t.putG n v).ended = t.ended := by unfold Thread.putG; split <;> rfl
@[simp] theorem Thread.putG_pend (t : Thread) (n : Nat) (v : Word) : (t.putG n v).pend = t.pend := by unfold Thread.putG; split <;> rfl
@[simp] theorem Thread.putG_hints (t : Thread) (n : Nat) (v : Word) : (t.putG n v).hints = t.hints := by unfold Thread.putG; split <;> rfl
@[simp] theorem Thread.putG_resume (t : Thread) (n : Nat) (v : Word) : (t.putG n v).resume = t.resume := by unfold Thread.putG; split <;> rfl
@[simp] theorem Thread.putG_gather (t : Thread) (n : Nat) (v : Word) : (t.putG n v).gather = t.gather := by unfold Thread.putG; split <;> rfl
@[simp] theorem Thread.putG_budgetDue (t : Thread) (n : Nat) (v : Word) : (t.putG n v).budgetDue = t.budgetDue := by unfold Thread.putG; split <;> rfl
@[simp] theorem Thread.putG_dbgStep (t : Thread) (n : Nat) (v : Word) : (t.putG n v).dbgStep = t.dbgStep := by unfold Thread.putG; split <;> rfl

/-! ### `Thread.setG` -/

@[simp] theorem Thread.setG_uid (t : Thread) (n : Nat) (v : Word) : (t.setG n v).uid = t.uid := Thread.putG_uid t n v
@[simp] theorem Thread.setG_slice (t : Thread) (n : Nat) (v : Word) : (t.setG n v).slice = t.slice := Thread.putG_slice t n v
@[simp] theorem Thread.setG_team (t : Thread) (n : Nat) (v : Word) : (t.setG n v).team = t.team := Thread.putG_team t n v
@[simp] theorem Thread.setG_gid (t : Thread) (n : Nat) (v : Word) : (t.setG n v).gid = t.gid := Thread.putG_gid t n v
@[simp] theorem Thread.setG_role (t : Thread) (n : Nat) (v : Word) : (t.setG n v).role = t.role := Thread.putG_role t n v
@[simp] theorem Thread.setG_tid (t : Thread) (n : Nat) (v : Word) : (t.setG n v).tid = t.tid := Thread.putG_tid t n v
@[simp] theorem Thread.setG_orig (t : Thread) (n : Nat) (v : Word) : (t.setG n v).orig = t.orig := Thread.putG_orig t n v
@[simp] theorem Thread.setG_core (t : Thread) (n : Nat) (v : Word) : (t.setG n v).core = t.core := Thread.putG_core t n v
@[simp] theorem Thread.setG_lane (t : Thread) (n : Nat) (v : Word) : (t.setG n v).lane = t.lane := Thread.putG_lane t n v
@[simp] theorem Thread.setG_pc (t : Thread) (n : Nat) (v : Word) : (t.setG n v).pc = t.pc := Thread.putG_pc t n v
@[simp] theorem Thread.setG_pos (t : Thread) (n : Nat) (v : Word) : (t.setG n v).pos = t.pos := Thread.putG_pos t n v
@[simp] theorem Thread.setG_runId (t : Thread) (n : Nat) (v : Word) : (t.setG n v).runId = t.runId := Thread.putG_runId t n v
@[simp] theorem Thread.setG_runSeq (t : Thread) (n : Nat) (v : Word) : (t.setG n v).runSeq = t.runSeq := Thread.putG_runSeq t n v
@[simp] theorem Thread.setG_after (t : Thread) (n : Nat) (v : Word) : (t.setG n v).after = t.after := Thread.putG_after t n v
@[simp] theorem Thread.setG_csp (t : Thread) (n : Nat) (v : Word) : (t.setG n v).csp = t.csp := Thread.putG_csp t n v
@[simp] theorem Thread.setG_userCsp (t : Thread) (n : Nat) (v : Word) : (t.setG n v).userCsp = t.userCsp := Thread.putG_userCsp t n v
@[simp] theorem Thread.setG_mode (t : Thread) (n : Nat) (v : Word) : (t.setG n v).mode = t.mode := Thread.putG_mode t n v
@[simp] theorem Thread.setG_preds (t : Thread) (n : Nat) (v : Word) : (t.setG n v).preds = t.preds := Thread.putG_preds t n v
@[simp] theorem Thread.setG_ctr (t : Thread) (n : Nat) (v : Word) : (t.setG n v).ctr = t.ctr := Thread.putG_ctr t n v
@[simp] theorem Thread.setG_fpctl (t : Thread) (n : Nat) (v : Word) : (t.setG n v).fpctl = t.fpctl := Thread.putG_fpctl t n v
@[simp] theorem Thread.setG_fpflags (t : Thread) (n : Nat) (v : Word) : (t.setG n v).fpflags = t.fpflags := Thread.putG_fpflags t n v
@[simp] theorem Thread.setG_iflags (t : Thread) (n : Nat) (v : Word) : (t.setG n v).iflags = t.iflags := Thread.putG_iflags t n v
@[simp] theorem Thread.setG_tstat (t : Thread) (n : Nat) (v : Word) : (t.setG n v).tstat = t.tstat := Thread.putG_tstat t n v
@[simp] theorem Thread.setG_tset (t : Thread) (n : Nat) (v : Word) : (t.setG n v).tset = t.tset := Thread.putG_tset t n v
@[simp] theorem Thread.setG_frec (t : Thread) (n : Nat) (v : Word) : (t.setG n v).frec = t.frec := Thread.putG_frec t n v
@[simp] theorem Thread.setG_cycHi (t : Thread) (n : Nat) (v : Word) : (t.setG n v).cycHi = t.cycHi := Thread.putG_cycHi t n v
@[simp] theorem Thread.setG_ssel (t : Thread) (n : Nat) (v : Word) : (t.setG n v).ssel = t.ssel := Thread.putG_ssel t n v
@[simp] theorem Thread.setG_stamp (t : Thread) (n : Nat) (v : Word) : (t.setG n v).stamp = t.stamp := Thread.putG_stamp t n v
@[simp] theorem Thread.setG_park (t : Thread) (n : Nat) (v : Word) : (t.setG n v).park = t.park := Thread.putG_park t n v
@[simp] theorem Thread.setG_parkPc (t : Thread) (n : Nat) (v : Word) : (t.setG n v).parkPc = t.parkPc := Thread.putG_parkPc t n v
@[simp] theorem Thread.setG_ended (t : Thread) (n : Nat) (v : Word) : (t.setG n v).ended = t.ended := Thread.putG_ended t n v
@[simp] theorem Thread.setG_hints (t : Thread) (n : Nat) (v : Word) : (t.setG n v).hints = t.hints := Thread.putG_hints t n v
@[simp] theorem Thread.setG_resume (t : Thread) (n : Nat) (v : Word) : (t.setG n v).resume = t.resume := Thread.putG_resume t n v
@[simp] theorem Thread.setG_gather (t : Thread) (n : Nat) (v : Word) : (t.setG n v).gather = t.gather := Thread.putG_gather t n v
@[simp] theorem Thread.setG_budgetDue (t : Thread) (n : Nat) (v : Word) : (t.setG n v).budgetDue = t.budgetDue := Thread.putG_budgetDue t n v
@[simp] theorem Thread.setG_dbgStep (t : Thread) (n : Nat) (v : Word) : (t.setG n v).dbgStep = t.dbgStep := Thread.putG_dbgStep t n v

/-! ### `Thread.setW` -/

@[simp] theorem Thread.setW_uid (t : Thread) (n : Nat) (v : DWord) : (t.setW n v).uid = t.uid := (Thread.setG_uid _ _ _).trans (Thread.setG_uid _ _ _)
@[simp] theorem Thread.setW_slice (t : Thread) (n : Nat) (v : DWord) : (t.setW n v).slice = t.slice := (Thread.setG_slice _ _ _).trans (Thread.setG_slice _ _ _)
@[simp] theorem Thread.setW_team (t : Thread) (n : Nat) (v : DWord) : (t.setW n v).team = t.team := (Thread.setG_team _ _ _).trans (Thread.setG_team _ _ _)
@[simp] theorem Thread.setW_gid (t : Thread) (n : Nat) (v : DWord) : (t.setW n v).gid = t.gid := (Thread.setG_gid _ _ _).trans (Thread.setG_gid _ _ _)
@[simp] theorem Thread.setW_role (t : Thread) (n : Nat) (v : DWord) : (t.setW n v).role = t.role := (Thread.setG_role _ _ _).trans (Thread.setG_role _ _ _)
@[simp] theorem Thread.setW_tid (t : Thread) (n : Nat) (v : DWord) : (t.setW n v).tid = t.tid := (Thread.setG_tid _ _ _).trans (Thread.setG_tid _ _ _)
@[simp] theorem Thread.setW_orig (t : Thread) (n : Nat) (v : DWord) : (t.setW n v).orig = t.orig := (Thread.setG_orig _ _ _).trans (Thread.setG_orig _ _ _)
@[simp] theorem Thread.setW_core (t : Thread) (n : Nat) (v : DWord) : (t.setW n v).core = t.core := (Thread.setG_core _ _ _).trans (Thread.setG_core _ _ _)
@[simp] theorem Thread.setW_lane (t : Thread) (n : Nat) (v : DWord) : (t.setW n v).lane = t.lane := (Thread.setG_lane _ _ _).trans (Thread.setG_lane _ _ _)
@[simp] theorem Thread.setW_pc (t : Thread) (n : Nat) (v : DWord) : (t.setW n v).pc = t.pc := (Thread.setG_pc _ _ _).trans (Thread.setG_pc _ _ _)
@[simp] theorem Thread.setW_pos (t : Thread) (n : Nat) (v : DWord) : (t.setW n v).pos = t.pos := (Thread.setG_pos _ _ _).trans (Thread.setG_pos _ _ _)
@[simp] theorem Thread.setW_runId (t : Thread) (n : Nat) (v : DWord) : (t.setW n v).runId = t.runId := (Thread.setG_runId _ _ _).trans (Thread.setG_runId _ _ _)
@[simp] theorem Thread.setW_runSeq (t : Thread) (n : Nat) (v : DWord) : (t.setW n v).runSeq = t.runSeq := (Thread.setG_runSeq _ _ _).trans (Thread.setG_runSeq _ _ _)
@[simp] theorem Thread.setW_after (t : Thread) (n : Nat) (v : DWord) : (t.setW n v).after = t.after := (Thread.setG_after _ _ _).trans (Thread.setG_after _ _ _)
@[simp] theorem Thread.setW_csp (t : Thread) (n : Nat) (v : DWord) : (t.setW n v).csp = t.csp := (Thread.setG_csp _ _ _).trans (Thread.setG_csp _ _ _)
@[simp] theorem Thread.setW_userCsp (t : Thread) (n : Nat) (v : DWord) : (t.setW n v).userCsp = t.userCsp := (Thread.setG_userCsp _ _ _).trans (Thread.setG_userCsp _ _ _)
@[simp] theorem Thread.setW_mode (t : Thread) (n : Nat) (v : DWord) : (t.setW n v).mode = t.mode := (Thread.setG_mode _ _ _).trans (Thread.setG_mode _ _ _)
@[simp] theorem Thread.setW_preds (t : Thread) (n : Nat) (v : DWord) : (t.setW n v).preds = t.preds := (Thread.setG_preds _ _ _).trans (Thread.setG_preds _ _ _)
@[simp] theorem Thread.setW_ctr (t : Thread) (n : Nat) (v : DWord) : (t.setW n v).ctr = t.ctr := (Thread.setG_ctr _ _ _).trans (Thread.setG_ctr _ _ _)
@[simp] theorem Thread.setW_fpctl (t : Thread) (n : Nat) (v : DWord) : (t.setW n v).fpctl = t.fpctl := (Thread.setG_fpctl _ _ _).trans (Thread.setG_fpctl _ _ _)
@[simp] theorem Thread.setW_fpflags (t : Thread) (n : Nat) (v : DWord) : (t.setW n v).fpflags = t.fpflags := (Thread.setG_fpflags _ _ _).trans (Thread.setG_fpflags _ _ _)
@[simp] theorem Thread.setW_iflags (t : Thread) (n : Nat) (v : DWord) : (t.setW n v).iflags = t.iflags := (Thread.setG_iflags _ _ _).trans (Thread.setG_iflags _ _ _)
@[simp] theorem Thread.setW_tstat (t : Thread) (n : Nat) (v : DWord) : (t.setW n v).tstat = t.tstat := (Thread.setG_tstat _ _ _).trans (Thread.setG_tstat _ _ _)
@[simp] theorem Thread.setW_tset (t : Thread) (n : Nat) (v : DWord) : (t.setW n v).tset = t.tset := (Thread.setG_tset _ _ _).trans (Thread.setG_tset _ _ _)
@[simp] theorem Thread.setW_frec (t : Thread) (n : Nat) (v : DWord) : (t.setW n v).frec = t.frec := (Thread.setG_frec _ _ _).trans (Thread.setG_frec _ _ _)
@[simp] theorem Thread.setW_cycHi (t : Thread) (n : Nat) (v : DWord) : (t.setW n v).cycHi = t.cycHi := (Thread.setG_cycHi _ _ _).trans (Thread.setG_cycHi _ _ _)
@[simp] theorem Thread.setW_ssel (t : Thread) (n : Nat) (v : DWord) : (t.setW n v).ssel = t.ssel := (Thread.setG_ssel _ _ _).trans (Thread.setG_ssel _ _ _)
@[simp] theorem Thread.setW_stamp (t : Thread) (n : Nat) (v : DWord) : (t.setW n v).stamp = t.stamp := (Thread.setG_stamp _ _ _).trans (Thread.setG_stamp _ _ _)
@[simp] theorem Thread.setW_park (t : Thread) (n : Nat) (v : DWord) : (t.setW n v).park = t.park := (Thread.setG_park _ _ _).trans (Thread.setG_park _ _ _)
@[simp] theorem Thread.setW_parkPc (t : Thread) (n : Nat) (v : DWord) : (t.setW n v).parkPc = t.parkPc := (Thread.setG_parkPc _ _ _).trans (Thread.setG_parkPc _ _ _)
@[simp] theorem Thread.setW_ended (t : Thread) (n : Nat) (v : DWord) : (t.setW n v).ended = t.ended := (Thread.setG_ended _ _ _).trans (Thread.setG_ended _ _ _)
@[simp] theorem Thread.setW_hints (t : Thread) (n : Nat) (v : DWord) : (t.setW n v).hints = t.hints := (Thread.setG_hints _ _ _).trans (Thread.setG_hints _ _ _)
@[simp] theorem Thread.setW_resume (t : Thread) (n : Nat) (v : DWord) : (t.setW n v).resume = t.resume := (Thread.setG_resume _ _ _).trans (Thread.setG_resume _ _ _)
@[simp] theorem Thread.setW_gather (t : Thread) (n : Nat) (v : DWord) : (t.setW n v).gather = t.gather := (Thread.setG_gather _ _ _).trans (Thread.setG_gather _ _ _)
@[simp] theorem Thread.setW_budgetDue (t : Thread) (n : Nat) (v : DWord) : (t.setW n v).budgetDue = t.budgetDue := (Thread.setG_budgetDue _ _ _).trans (Thread.setG_budgetDue _ _ _)
@[simp] theorem Thread.setW_dbgStep (t : Thread) (n : Nat) (v : DWord) : (t.setW n v).dbgStep = t.dbgStep := (Thread.setG_dbgStep _ _ _).trans (Thread.setG_dbgStep _ _ _)

/-! ### `Thread.putP` -/

@[simp] theorem Thread.putP_uid (t : Thread) (n : Nat) (b : Bool) : (t.putP n b).uid = t.uid := by unfold Thread.putP; split <;> rfl
@[simp] theorem Thread.putP_slice (t : Thread) (n : Nat) (b : Bool) : (t.putP n b).slice = t.slice := by unfold Thread.putP; split <;> rfl
@[simp] theorem Thread.putP_team (t : Thread) (n : Nat) (b : Bool) : (t.putP n b).team = t.team := by unfold Thread.putP; split <;> rfl
@[simp] theorem Thread.putP_gid (t : Thread) (n : Nat) (b : Bool) : (t.putP n b).gid = t.gid := by unfold Thread.putP; split <;> rfl
@[simp] theorem Thread.putP_role (t : Thread) (n : Nat) (b : Bool) : (t.putP n b).role = t.role := by unfold Thread.putP; split <;> rfl
@[simp] theorem Thread.putP_tid (t : Thread) (n : Nat) (b : Bool) : (t.putP n b).tid = t.tid := by unfold Thread.putP; split <;> rfl
@[simp] theorem Thread.putP_orig (t : Thread) (n : Nat) (b : Bool) : (t.putP n b).orig = t.orig := by unfold Thread.putP; split <;> rfl
@[simp] theorem Thread.putP_core (t : Thread) (n : Nat) (b : Bool) : (t.putP n b).core = t.core := by unfold Thread.putP; split <;> rfl
@[simp] theorem Thread.putP_lane (t : Thread) (n : Nat) (b : Bool) : (t.putP n b).lane = t.lane := by unfold Thread.putP; split <;> rfl
@[simp] theorem Thread.putP_pc (t : Thread) (n : Nat) (b : Bool) : (t.putP n b).pc = t.pc := by unfold Thread.putP; split <;> rfl
@[simp] theorem Thread.putP_pos (t : Thread) (n : Nat) (b : Bool) : (t.putP n b).pos = t.pos := by unfold Thread.putP; split <;> rfl
@[simp] theorem Thread.putP_runId (t : Thread) (n : Nat) (b : Bool) : (t.putP n b).runId = t.runId := by unfold Thread.putP; split <;> rfl
@[simp] theorem Thread.putP_runSeq (t : Thread) (n : Nat) (b : Bool) : (t.putP n b).runSeq = t.runSeq := by unfold Thread.putP; split <;> rfl
@[simp] theorem Thread.putP_after (t : Thread) (n : Nat) (b : Bool) : (t.putP n b).after = t.after := by unfold Thread.putP; split <;> rfl
@[simp] theorem Thread.putP_csp (t : Thread) (n : Nat) (b : Bool) : (t.putP n b).csp = t.csp := by unfold Thread.putP; split <;> rfl
@[simp] theorem Thread.putP_userCsp (t : Thread) (n : Nat) (b : Bool) : (t.putP n b).userCsp = t.userCsp := by unfold Thread.putP; split <;> rfl
@[simp] theorem Thread.putP_mode (t : Thread) (n : Nat) (b : Bool) : (t.putP n b).mode = t.mode := by unfold Thread.putP; split <;> rfl
@[simp] theorem Thread.putP_regs (t : Thread) (n : Nat) (b : Bool) : (t.putP n b).regs = t.regs := by unfold Thread.putP; split <;> rfl
@[simp] theorem Thread.putP_ctr (t : Thread) (n : Nat) (b : Bool) : (t.putP n b).ctr = t.ctr := by unfold Thread.putP; split <;> rfl
@[simp] theorem Thread.putP_fpctl (t : Thread) (n : Nat) (b : Bool) : (t.putP n b).fpctl = t.fpctl := by unfold Thread.putP; split <;> rfl
@[simp] theorem Thread.putP_fpflags (t : Thread) (n : Nat) (b : Bool) : (t.putP n b).fpflags = t.fpflags := by unfold Thread.putP; split <;> rfl
@[simp] theorem Thread.putP_iflags (t : Thread) (n : Nat) (b : Bool) : (t.putP n b).iflags = t.iflags := by unfold Thread.putP; split <;> rfl
@[simp] theorem Thread.putP_tstat (t : Thread) (n : Nat) (b : Bool) : (t.putP n b).tstat = t.tstat := by unfold Thread.putP; split <;> rfl
@[simp] theorem Thread.putP_tset (t : Thread) (n : Nat) (b : Bool) : (t.putP n b).tset = t.tset := by unfold Thread.putP; split <;> rfl
@[simp] theorem Thread.putP_frec (t : Thread) (n : Nat) (b : Bool) : (t.putP n b).frec = t.frec := by unfold Thread.putP; split <;> rfl
@[simp] theorem Thread.putP_cycHi (t : Thread) (n : Nat) (b : Bool) : (t.putP n b).cycHi = t.cycHi := by unfold Thread.putP; split <;> rfl
@[simp] theorem Thread.putP_ssel (t : Thread) (n : Nat) (b : Bool) : (t.putP n b).ssel = t.ssel := by unfold Thread.putP; split <;> rfl
@[simp] theorem Thread.putP_stamp (t : Thread) (n : Nat) (b : Bool) : (t.putP n b).stamp = t.stamp := by unfold Thread.putP; split <;> rfl
@[simp] theorem Thread.putP_park (t : Thread) (n : Nat) (b : Bool) : (t.putP n b).park = t.park := by unfold Thread.putP; split <;> rfl
@[simp] theorem Thread.putP_parkPc (t : Thread) (n : Nat) (b : Bool) : (t.putP n b).parkPc = t.parkPc := by unfold Thread.putP; split <;> rfl
@[simp] theorem Thread.putP_ended (t : Thread) (n : Nat) (b : Bool) : (t.putP n b).ended = t.ended := by unfold Thread.putP; split <;> rfl
@[simp] theorem Thread.putP_pend (t : Thread) (n : Nat) (b : Bool) : (t.putP n b).pend = t.pend := by unfold Thread.putP; split <;> rfl
@[simp] theorem Thread.putP_hints (t : Thread) (n : Nat) (b : Bool) : (t.putP n b).hints = t.hints := by unfold Thread.putP; split <;> rfl
@[simp] theorem Thread.putP_resume (t : Thread) (n : Nat) (b : Bool) : (t.putP n b).resume = t.resume := by unfold Thread.putP; split <;> rfl
@[simp] theorem Thread.putP_gather (t : Thread) (n : Nat) (b : Bool) : (t.putP n b).gather = t.gather := by unfold Thread.putP; split <;> rfl
@[simp] theorem Thread.putP_budgetDue (t : Thread) (n : Nat) (b : Bool) : (t.putP n b).budgetDue = t.budgetDue := by unfold Thread.putP; split <;> rfl
@[simp] theorem Thread.putP_dbgStep (t : Thread) (n : Nat) (b : Bool) : (t.putP n b).dbgStep = t.dbgStep := by unfold Thread.putP; split <;> rfl

/-! ### `Thread.setP` -/

@[simp] theorem Thread.setP_uid (t : Thread) (n : Nat) (b : Bool) : (t.setP n b).uid = t.uid := Thread.putP_uid t n b
@[simp] theorem Thread.setP_slice (t : Thread) (n : Nat) (b : Bool) : (t.setP n b).slice = t.slice := Thread.putP_slice t n b
@[simp] theorem Thread.setP_team (t : Thread) (n : Nat) (b : Bool) : (t.setP n b).team = t.team := Thread.putP_team t n b
@[simp] theorem Thread.setP_gid (t : Thread) (n : Nat) (b : Bool) : (t.setP n b).gid = t.gid := Thread.putP_gid t n b
@[simp] theorem Thread.setP_role (t : Thread) (n : Nat) (b : Bool) : (t.setP n b).role = t.role := Thread.putP_role t n b
@[simp] theorem Thread.setP_tid (t : Thread) (n : Nat) (b : Bool) : (t.setP n b).tid = t.tid := Thread.putP_tid t n b
@[simp] theorem Thread.setP_orig (t : Thread) (n : Nat) (b : Bool) : (t.setP n b).orig = t.orig := Thread.putP_orig t n b
@[simp] theorem Thread.setP_core (t : Thread) (n : Nat) (b : Bool) : (t.setP n b).core = t.core := Thread.putP_core t n b
@[simp] theorem Thread.setP_lane (t : Thread) (n : Nat) (b : Bool) : (t.setP n b).lane = t.lane := Thread.putP_lane t n b
@[simp] theorem Thread.setP_pc (t : Thread) (n : Nat) (b : Bool) : (t.setP n b).pc = t.pc := Thread.putP_pc t n b
@[simp] theorem Thread.setP_pos (t : Thread) (n : Nat) (b : Bool) : (t.setP n b).pos = t.pos := Thread.putP_pos t n b
@[simp] theorem Thread.setP_runId (t : Thread) (n : Nat) (b : Bool) : (t.setP n b).runId = t.runId := Thread.putP_runId t n b
@[simp] theorem Thread.setP_runSeq (t : Thread) (n : Nat) (b : Bool) : (t.setP n b).runSeq = t.runSeq := Thread.putP_runSeq t n b
@[simp] theorem Thread.setP_after (t : Thread) (n : Nat) (b : Bool) : (t.setP n b).after = t.after := Thread.putP_after t n b
@[simp] theorem Thread.setP_csp (t : Thread) (n : Nat) (b : Bool) : (t.setP n b).csp = t.csp := Thread.putP_csp t n b
@[simp] theorem Thread.setP_userCsp (t : Thread) (n : Nat) (b : Bool) : (t.setP n b).userCsp = t.userCsp := Thread.putP_userCsp t n b
@[simp] theorem Thread.setP_mode (t : Thread) (n : Nat) (b : Bool) : (t.setP n b).mode = t.mode := Thread.putP_mode t n b
@[simp] theorem Thread.setP_regs (t : Thread) (n : Nat) (b : Bool) : (t.setP n b).regs = t.regs := Thread.putP_regs t n b
@[simp] theorem Thread.setP_ctr (t : Thread) (n : Nat) (b : Bool) : (t.setP n b).ctr = t.ctr := Thread.putP_ctr t n b
@[simp] theorem Thread.setP_fpctl (t : Thread) (n : Nat) (b : Bool) : (t.setP n b).fpctl = t.fpctl := Thread.putP_fpctl t n b
@[simp] theorem Thread.setP_fpflags (t : Thread) (n : Nat) (b : Bool) : (t.setP n b).fpflags = t.fpflags := Thread.putP_fpflags t n b
@[simp] theorem Thread.setP_iflags (t : Thread) (n : Nat) (b : Bool) : (t.setP n b).iflags = t.iflags := Thread.putP_iflags t n b
@[simp] theorem Thread.setP_tstat (t : Thread) (n : Nat) (b : Bool) : (t.setP n b).tstat = t.tstat := Thread.putP_tstat t n b
@[simp] theorem Thread.setP_tset (t : Thread) (n : Nat) (b : Bool) : (t.setP n b).tset = t.tset := Thread.putP_tset t n b
@[simp] theorem Thread.setP_frec (t : Thread) (n : Nat) (b : Bool) : (t.setP n b).frec = t.frec := Thread.putP_frec t n b
@[simp] theorem Thread.setP_cycHi (t : Thread) (n : Nat) (b : Bool) : (t.setP n b).cycHi = t.cycHi := Thread.putP_cycHi t n b
@[simp] theorem Thread.setP_ssel (t : Thread) (n : Nat) (b : Bool) : (t.setP n b).ssel = t.ssel := Thread.putP_ssel t n b
@[simp] theorem Thread.setP_stamp (t : Thread) (n : Nat) (b : Bool) : (t.setP n b).stamp = t.stamp := Thread.putP_stamp t n b
@[simp] theorem Thread.setP_park (t : Thread) (n : Nat) (b : Bool) : (t.setP n b).park = t.park := Thread.putP_park t n b
@[simp] theorem Thread.setP_parkPc (t : Thread) (n : Nat) (b : Bool) : (t.setP n b).parkPc = t.parkPc := Thread.putP_parkPc t n b
@[simp] theorem Thread.setP_ended (t : Thread) (n : Nat) (b : Bool) : (t.setP n b).ended = t.ended := Thread.putP_ended t n b
@[simp] theorem Thread.setP_hints (t : Thread) (n : Nat) (b : Bool) : (t.setP n b).hints = t.hints := Thread.putP_hints t n b
@[simp] theorem Thread.setP_resume (t : Thread) (n : Nat) (b : Bool) : (t.setP n b).resume = t.resume := Thread.putP_resume t n b
@[simp] theorem Thread.setP_gather (t : Thread) (n : Nat) (b : Bool) : (t.setP n b).gather = t.gather := Thread.putP_gather t n b
@[simp] theorem Thread.setP_budgetDue (t : Thread) (n : Nat) (b : Bool) : (t.setP n b).budgetDue = t.budgetDue := Thread.putP_budgetDue t n b
@[simp] theorem Thread.setP_dbgStep (t : Thread) (n : Nat) (b : Bool) : (t.setP n b).dbgStep = t.dbgStep := Thread.putP_dbgStep t n b

/-! ### `Thread.release` -/

@[simp] theorem Thread.release_uid (t : Thread) (n : Nat) : (t.release n).uid = t.uid := by unfold Thread.release; split <;> rfl
@[simp] theorem Thread.release_slice (t : Thread) (n : Nat) : (t.release n).slice = t.slice := by unfold Thread.release; split <;> rfl
@[simp] theorem Thread.release_team (t : Thread) (n : Nat) : (t.release n).team = t.team := by unfold Thread.release; split <;> rfl
@[simp] theorem Thread.release_gid (t : Thread) (n : Nat) : (t.release n).gid = t.gid := by unfold Thread.release; split <;> rfl
@[simp] theorem Thread.release_role (t : Thread) (n : Nat) : (t.release n).role = t.role := by unfold Thread.release; split <;> rfl
@[simp] theorem Thread.release_tid (t : Thread) (n : Nat) : (t.release n).tid = t.tid := by unfold Thread.release; split <;> rfl
@[simp] theorem Thread.release_orig (t : Thread) (n : Nat) : (t.release n).orig = t.orig := by unfold Thread.release; split <;> rfl
@[simp] theorem Thread.release_core (t : Thread) (n : Nat) : (t.release n).core = t.core := by unfold Thread.release; split <;> rfl
@[simp] theorem Thread.release_lane (t : Thread) (n : Nat) : (t.release n).lane = t.lane := by unfold Thread.release; split <;> rfl
@[simp] theorem Thread.release_pc (t : Thread) (n : Nat) : (t.release n).pc = t.pc := by unfold Thread.release; split <;> rfl
@[simp] theorem Thread.release_pos (t : Thread) (n : Nat) : (t.release n).pos = t.pos := by unfold Thread.release; split <;> rfl
@[simp] theorem Thread.release_runId (t : Thread) (n : Nat) : (t.release n).runId = t.runId := by unfold Thread.release; split <;> rfl
@[simp] theorem Thread.release_runSeq (t : Thread) (n : Nat) : (t.release n).runSeq = t.runSeq := by unfold Thread.release; split <;> rfl
@[simp] theorem Thread.release_after (t : Thread) (n : Nat) : (t.release n).after = t.after := by unfold Thread.release; split <;> rfl
@[simp] theorem Thread.release_csp (t : Thread) (n : Nat) : (t.release n).csp = t.csp := by unfold Thread.release; split <;> rfl
@[simp] theorem Thread.release_userCsp (t : Thread) (n : Nat) : (t.release n).userCsp = t.userCsp := by unfold Thread.release; split <;> rfl
@[simp] theorem Thread.release_mode (t : Thread) (n : Nat) : (t.release n).mode = t.mode := by unfold Thread.release; split <;> rfl
@[simp] theorem Thread.release_preds (t : Thread) (n : Nat) : (t.release n).preds = t.preds := by unfold Thread.release; split <;> rfl
@[simp] theorem Thread.release_ctr (t : Thread) (n : Nat) : (t.release n).ctr = t.ctr := by unfold Thread.release; split <;> rfl
@[simp] theorem Thread.release_fpctl (t : Thread) (n : Nat) : (t.release n).fpctl = t.fpctl := by unfold Thread.release; split <;> rfl
@[simp] theorem Thread.release_fpflags (t : Thread) (n : Nat) : (t.release n).fpflags = t.fpflags := by unfold Thread.release; split <;> rfl
@[simp] theorem Thread.release_iflags (t : Thread) (n : Nat) : (t.release n).iflags = t.iflags := by unfold Thread.release; split <;> rfl
@[simp] theorem Thread.release_tstat (t : Thread) (n : Nat) : (t.release n).tstat = t.tstat := by unfold Thread.release; split <;> rfl
@[simp] theorem Thread.release_tset (t : Thread) (n : Nat) : (t.release n).tset = t.tset := by unfold Thread.release; split <;> rfl
@[simp] theorem Thread.release_frec (t : Thread) (n : Nat) : (t.release n).frec = t.frec := by unfold Thread.release; split <;> rfl
@[simp] theorem Thread.release_cycHi (t : Thread) (n : Nat) : (t.release n).cycHi = t.cycHi := by unfold Thread.release; split <;> rfl
@[simp] theorem Thread.release_ssel (t : Thread) (n : Nat) : (t.release n).ssel = t.ssel := by unfold Thread.release; split <;> rfl
@[simp] theorem Thread.release_stamp (t : Thread) (n : Nat) : (t.release n).stamp = t.stamp := by unfold Thread.release; split <;> rfl
@[simp] theorem Thread.release_park (t : Thread) (n : Nat) : (t.release n).park = t.park := by unfold Thread.release; split <;> rfl
@[simp] theorem Thread.release_parkPc (t : Thread) (n : Nat) : (t.release n).parkPc = t.parkPc := by unfold Thread.release; split <;> rfl
@[simp] theorem Thread.release_ended (t : Thread) (n : Nat) : (t.release n).ended = t.ended := by unfold Thread.release; split <;> rfl
@[simp] theorem Thread.release_pend (t : Thread) (n : Nat) : (t.release n).pend = t.pend := by unfold Thread.release; split <;> rfl
@[simp] theorem Thread.release_hints (t : Thread) (n : Nat) : (t.release n).hints = t.hints := by unfold Thread.release; split <;> rfl
@[simp] theorem Thread.release_resume (t : Thread) (n : Nat) : (t.release n).resume = t.resume := by unfold Thread.release; split <;> rfl
@[simp] theorem Thread.release_gather (t : Thread) (n : Nat) : (t.release n).gather = t.gather := by unfold Thread.release; split <;> rfl
@[simp] theorem Thread.release_budgetDue (t : Thread) (n : Nat) : (t.release n).budgetDue = t.budgetDue := by unfold Thread.release; split <;> rfl
@[simp] theorem Thread.release_dbgStep (t : Thread) (n : Nat) : (t.release n).dbgStep = t.dbgStep := by unfold Thread.release; split <;> rfl

/-! ### Reading back -/

@[simp] theorem Thread.g_zero (t : Thread) : t.g 0 = 0 := rfl

@[simp] theorem Thread.p_zero (t : Thread) : t.p 0 = true := rfl

theorem regGet_regPut (l : List (Nat × Word)) (n m : Nat) (v : Word) :
    regGet (regPut l n v) m = if m = n then v else regGet l m := by
  induction l with
  | nil => simp [regPut, regGet, eq_comm]
  | cons c r ih =>
    simp only [regPut]
    split
    · simp only [regGet, eq_comm (a := n)]
    · split
      · rename_i h
        subst h
        simp only [regGet, eq_comm (a := c.1)]
        split <;> rfl
      · rename_i h
        simp only [regGet, ih]
        by_cases hm : c.1 = m
        · subst hm
          rw [if_pos rfl, if_neg (Ne.symm h), if_pos rfl]
        · rw [if_neg hm, if_neg hm]

/-- A register reads what was written last; g0 reads 0 (R14). -/
theorem Thread.g_setG (t : Thread) (n m : Nat) (v : Word) :
    (t.setG n v).g m = if m = n ∧ n ≠ 0 then v else t.g m := by
  unfold Thread.g
  by_cases hm : m = 0
  · subst hm
    by_cases hn : n = 0
    · simp [hn]
    · simp [Ne.symm hn]
  · rw [if_neg hm, if_neg hm]
    show regGet (t.putG n v).regs m = _
    unfold Thread.putG
    by_cases hn : n = 0
    · subst hn
      simp
    · rw [if_neg hn]
      dsimp only
      rw [regGet_regPut]
      simp [hn]

theorem Thread.p_setP (t : Thread) (n m : Nat) (b : Bool) (h : n < 48) :
    (t.setP n b).p m = if m = n ∧ n ≠ 0 then b else t.p m := by
  unfold Thread.p
  by_cases hm : m = 0
  · subst hm
    by_cases hn : n = 0
    · simp [hn]
    · simp [Ne.symm hn]
  · have h0 : (m == 0) = false := by simpa using hm
    rw [h0, Bool.false_or, Bool.false_or]
    show (t.putP n b).preds.getLsbD m = _
    unfold Thread.putP
    by_cases hn : n = 0
    · subst hn
      simp [hm]
    · rw [if_neg hn]
      dsimp only
      unfold predPut
      have hbit : (BitVec.ofNat 48 (2 ^ n)).getLsbD m = decide (m = n) := by
        rw [BitVec.getLsbD_ofNat, Nat.testBit_two_pow]
        by_cases e : m = n
        · subst e
          simp [h]
        · simp [e, Ne.symm e]
      cases b
      · simp only [Bool.false_eq_true, if_false, BitVec.getLsbD_and, BitVec.getLsbD_not, hbit]
        by_cases e : m = n
        · subst e
          simp [hn]
        · by_cases h48 : m < 48
          · simp [e, h48]
          · simp [e, BitVec.getLsbD_of_ge _ _ (Nat.le_of_not_lt h48)]
      · simp only [if_true, BitVec.getLsbD_or, hbit]
        by_cases e : m = n
        · subst e
          simp [hn]
        · simp [e]

end Sys2Proof.Machine
end

