-- ==== Sys2Proof/Tests/Slice0.lean ====
section
/-! SUPPORT. Tests of decoding and of single steps, and states that meet the hypotheses of the statements. -/

set_option maxRecDepth 100000

namespace Sys2Proof.Tests
open Sys2Proof Sys2Proof.Machine

/-- The translation of the lab's one page: 2 MiB at 0, readable, writable and executable. -/
def labPage : TlbEntry :=
  { asid := 0, base := 0, size := 2097152, pa := 0, r := true, w := true, x := true, u := true, cmp := false,
    rmt := false, home := 0 }

/-- Words in device memory from an address on. -/
def wordsAt (a : Nat) (ws : List Word) : List (Nat × Byte) := numbered a (ws.flatMap fun w => leBytes 4 w.toNat)

/-- One thread of a supervisor slice on one core at the PC 0, with registers and with words in memory. -/
def lab (regs : List (Nat × Word)) (mem : List (Nat × Byte)) : State :=
  let s := State.reset.solo 0
  { s with
    threads := s.threads.map fun t => regs.foldl (fun t r => t.putG r.1 r.2) t
    cores := [{ Core.reset 0 0 0 with tlb := [labPage] }]
    mem := { Mem.empty with hbm := mem.foldl (fun m c => Memory.put m c.1 c.2) [] } }

/-- The lab's thread. -/
def one (s : State) : Thread := s.threads.headD default

/-- A state in which the lab's thread is changed. -/
def tweak (f : Thread → Thread) (s : State) : State := { s with threads := s.threads.map f }

/-- The group of a state issues an instruction. -/
def goes (s : State) (i : Instr) : Bool :=
  match s.issuing with
  | some (g, ts) => s.issues i g ts
  | none => false

theorem test_decode_hints :
    ([(0b00000000110010110000000000000001, .himm false 0x4B0001),
      (0b00000001000000000000000000010100, .hmod false 0x000014),
      (0b00000001110111111000000000000000, .hgrd false 47 1 2),
      (0b10000010000000000000000100010001, .trl 0x000111),
      (0b00000010100000001011111111111110, .hsch false 1 4095 1 0),
      (0b10000011000000000000000000000000, .nop true),
      (0b00111100000000000000000000000000, .land false),
      (0b10000100011111111111111111110000, .brk true 0x7FFFF0),
      (0b00000100100001011000000000000001, .trace false 5 0x8001)] : List (Word × Instr)).all
      (fun x => decide (decode 3 x.1 = .ok x.2)) = true := by decide

theorem test_decode_phases :
    ([(0b00000011100000010010001101000101, .phaseAnnounce false 1 2 3 4 5),
      (0b10000011100100000000000000000000, .phaseEnd true),
      (0b00000011101000000000000000000000, .phaseQuery false)] : List (Word × Instr)).all
      (fun x => decide (decode 3 x.1 = .ok x.2)) = true := by decide

theorem test_decode_integer :
    ([(0b10001000011111110000000111011100, .add true 127 0 119),
      (0b00001000100000010000010000001100, .sub false 1 2 3),
      (0b00001001000001010000110000011100, .mul false 5 6 7),
      (0b10001001100001010000110000011101, .mulh true 5 6 7 1),
      (0b00001010000001010000110000011100, .mad false 5 6 7),
      (0b00001010100001010000110000011100, .and false 5 6 7),
      (0b00001011000001010000110000011100, .or false 5 6 7),
      (0b00001011100001010000110000011100, .xor false 5 6 7),
      (0b10001100000001010000110000011100, .andn true 5 6 7),
      (0b00001100100001010000110000011100, .shl false 5 6 7),
      (0b00001101000001010000110000011100, .shr false 5 6 7),
      (0b00001101100001010000110000011100, .sra false 5 6 7)] : List (Word × Instr)).all
      (fun x => decide (decode 3 x.1 = .ok x.2)) = true := by decide

theorem test_decode_counts :
    ([(0b00001110000001010000110000011101, .min false 5 6 7 1),
      (0b00001110100001010000110000011100, .max false 5 6 7 0),
      (0b10001111000001010000110000000000, .abs true 5 6),
      (0b00001111100001010000110000000000, .clz false 5 6),
      (0b00010000000001010000110000000000, .popc false 5 6),
      (0b00010000111111110000110000000000, .brev false 127 6),
      (0b00010001000001010000110000011100, .bfx false 5 6 7),
      (0b00010001100001010000110000011100, .bfi false 5 6 7),
      (0b00010010000001011011110000110000, .cmov false 5 47 6),
      (0b00010010100001010000110000011101, .div false 5 6 7 1),
      (0b10010011000001010000110000011100, .rem true 5 6 7 0),
      (0b00010011100001010000110000011101, .adds false 5 6 7 1),
      (0b00010100000001010000110000011100, .subs false 5 6 7 0)] : List (Word × Instr)).all
      (fun x => decide (decode 3 x.1 = .ok x.2)) = true := by decide

theorem test_decode_immediates :
    ([(0b00011000000001011111111111111101, .movi false 5 0xFFFD),
      (0b10011000100001010000110111111110, .addi true 5 6 0x1FE),
      (0b00011001000001010000110000000011, .andi false 5 6 3),
      (0b00011001100001010000110100000000, .ori false 5 6 0x100),
      (0b00011010000001010000110000000011, .xori false 5 6 3),
      (0b10011010100001010000110001011111, .shi true 5 6 2 31),
      (0b00011011000001100001011001111111, .cmpi false 3 5 4 0x7F),
      (0b00011011100000001111111000000000, .mov false 0 127),
      (0b00011100000001011000000000000001, .s2g false 5 0x8001),
      (0b10011100100001010000000000100000, .g2s true 5 0x20),
      (0b00011101001110111000000000000010, .ldpc false 59 0x8002)] : List (Word × Instr)).all
      (fun x => decide (decode 3 x.1 = .ok x.2)) = true := by decide

theorem test_decode_wide :
    ([(0b10100000001110110000000000000100, .addw true 59 0 1),
      (0b00100000100001010000110000011100, .subw false 5 6 7),
      (0b00100001000001011111110111111110, .mulw false 5 126 127 2),
      (0b00100001100001010000110000011100, .shlw false 5 6 7),
      (0b00100010000001010000110000011101, .shrw false 5 6 7 1),
      (0b00100010100001010000110000011111, .leaw false 5 6 7 3),
      (0b10100011000000000111011000000000, .movw true 0 59),
      (0b00100011100000100001010000110111, .cmp false 1 5 6 7),
      (0b00100100010111100001010000110010, .cmpw false 47 5 6 2),
      (0b00100100101011110000000000000111, .plog false 47 0 1 3),
      (0b10100101000001010000000000000001, .p2g true 5 1),
      (0b00100101100000000000101000011000, .g2p false 5 6 0)] : List (Word × Instr)).all
      (fun x => decide (decode 3 x.1 = .ok x.2)) = true := by decide

theorem test_decode_floats :
    ([(0b00101000000001010000110000011110, .fadd false 5 6 7 2),
      (0b10101000100001010000110000011101, .fsub true 5 6 7 1),
      (0b00101001000001010000110000011100, .fmul false 5 6 7 0),
      (0b00101001100001010000110000011110, .ffma false 5 6 7 2),
      (0b00101010000001010000110000011100, .fmin false 5 6 7 0),
      (0b00101010100001010000110000011101, .fmax false 5 6 7 1),
      (0b00101011000001100001010000110110, .fcmp false 3 5 6 1 2),
      (0b00101011100001010000110001011000, .fcvt false 5 6 1 3),
      (0b10101100000001010000110011010000, .icvt true 5 6 3 1 0),
      (0b00110000000001010000110000000001, .rcp false 5 6 1),
      (0b00110000100001010000110000000000, .rsq false 5 6),
      (0b00110001000001010000110000000001, .sqrt false 5 6 1),
      (0b00110001100001010000110000000000, .ex2 false 5 6),
      (0b10110010000001010000110000000000, .lg2 true 5 6),
      (0b00110010100001010000110000000000, .sin false 5 6),
      (0b00110011000001010000110000000000, .cos false 5 6),
      (0b00110011100001010000110000000000, .tanh false 5 6)] : List (Word × Instr)).all
      (fun x => decide (decode 3 x.1 = .ok x.2)) = true := by decide

theorem test_decode_packed :
    ([(0b00110100000001010000110000011110, .dot4 false 5 6 7 2),
      (0b10110100100001010000110000011101, .dot8 true 5 6 7 1),
      (0b00110101000001010000110000011101, .pack false 5 6 7 1),
      (0b00110101100001010000110000011100, .unpk false 5 6 7 0),
      (0b00110110000001010000110000011110, .scl false 5 6 7 2)] : List (Word × Instr)).all
      (fun x => decide (decode 3 x.1 = .ok x.2)) = true := by decide

theorem test_decode_control :
    ([(0b10111000010111111000000000000001, .br true 47 1 0x8001),
      (0b10111000100000000111011000000000, .jmpi true 59),
      (0b10111001010000000000000000000001, .call true 0x400001),
      (0b10111001100000000000101000000000, .calli true 5),
      (0b10111010000000000000000000000000, .ret true),
      (0b10111010100000000000101000000000, .join true 5),
      (0b10111011000000001110111000000000, .exit true 119),
      (0b10111011100000000000000100000001, .trap true 0x101),
      (0b10111100100000000000000000000000, .yield true),
      (0b10111101000010010000000011111100, .waitc true 9 63),
      (0b11110001000000000000000000000000, .rfeReplay true),
      (0b11110001000000000000000000000001, .rfeSkip true)] : List (Word × Instr)).all
      (fun x => decide (decode 3 x.1 = .ok x.2)) = true := by decide

theorem test_decode_memory :
    ([(0b01000000000001010000110100000001, .ldb false 5 6 0x101),
      (0b01000000100001010000110000000001, .ldh false 5 6 1),
      (0b11000001000001010000110000000001, .ldw true 5 6 1),
      (0b01000001100001010000110000000001, .ldd false 5 6 1),
      (0b01000010000001100000101000000001, .ldq false 6 5 1),
      (0b01000010100001010000110000000001, .stb false 5 6 1),
      (0b01000011000001010000110000000001, .sth false 5 6 1),
      (0b01000011100001010000110111111110, .stw false 5 6 0x1FE),
      (0b01000100000001010000110000000001, .std false 5 6 1),
      (0b11000100101110100111011000000001, .stq true 58 59 1),
      (0b01000101011111110000110000000001, .lds false 127 6 1),
      (0b01000101100001010000110000000001, .sts false 5 6 1),
      (0b11000110000001010000110000000011, .ldpoll true 5 6 3),
      (0b01000110100000100000110000000001, .pref false 2 6 1)] : List (Word × Instr)).all
      (fun x => decide (decode 3 x.1 = .ok x.2)) = true := by decide

theorem test_decode_atomics :
    ([(0b01001000000001010000110000011110, .aadd false 5 6 7 2),
      (0b01001000100001010000110000011111, .amm false 5 6 7 3),
      (0b11001001000001010000110000011101, .alog true 5 6 7 1),
      (0b01001001100001010000110000011101, .acas false 5 6 7 1),
      (0b01001010000000000000000000001100, .fenceAcq false 3),
      (0b11001010000000000000000000011101, .fenceRel true 7),
      (0b01001010000000000000000000100010, .fenceAr false 8),
      (0b01001010100000000000000000000000, .ofence false),
      (0b01001011000001010000110000000000, .cdetect false 5 6),
      (0b01001011100001010000110000000111, .ldacq false 5 6 7),
      (0b11001100000001010000110000000100, .strel true 5 6 4),
      (0b01110011000000000000101000011001, .cflush false 5 6 1),
      (0b01110011100000000000101000011000, .cinv false 5 6 0)] : List (Word × Instr)).all
      (fun x => decide (decode 3 x.1 = .ok x.2)) = true := by decide

theorem test_decode_cross_lane :
    ([(0b01010000000001010000110000011111, .shfl false 5 6 7 3),
      (0b01010000100001010000110000011100, .bcast false 5 6 7 0),
      (0b01010001000001010000011000000000, .ballot false 5 3),
      (0b11010001100000110000100000000010, .vote true 3 4 2),
      (0b01010010000001010000110010001101, .red false 5 6 2 3 1),
      (0b01010010100001010000110101101101, .scan false 5 6 5 1 3 1),
      (0b01010011000001100001000000011101, .topk false 6 8 7 1),
      (0b01010011100001100001000000000001, .matchv false 6 8 1),
      (0b01010100000001100001000000101000, .sortkv false 6 8 10 0),
      (0b11010101000000000000000000000000, .bar true),
      (0b01010101100001110000101000000000, .cvinit false 7 5),
      (0b11010110000001110000101000000000, .cvsign true 7 5),
      (0b01010110100000110000000000000000, .elect false 3),
      (0b11010100100000110000101000011000, .regroup true 3 5 6)] : List (Word × Instr)).all
      (fun x => decide (decode 3 x.1 = .ok x.2)) = true := by decide

theorem test_decode_tile_moves :
    ([(0b01011000000001010000110000011110, .tload false 5 6 7 2),
      (0b11011000100001010000110000011100, .tstore true 5 6 7),
      (0b01011001000001010000110000011100, .tbind false 5 6 7),
      (0b01011001100001010000110000000001, .tzero false 5 6 1),
      (0b01011010001111110000000000000000, .tfree false 63),
      (0b01100010100001010000110000000011, .tcopy false 5 6 3),
      (0b01100001100001010000110000000001, .ttran false 5 6 1),
      (0b11100001000001010000110000100010, .tcvt true 5 6 8 2),
      (0b01100010000001010000110000011100, .tset false 5 6 7),
      (0b01011110000001010000110000000000, .tinfo false 5 6),
      (0b11011110100110000000101000011100, .tmova true 24 5 7),
      (0b01011111000110000000101000011100, .tmovr false 24 5 7),
      (0b11011111100001011000000111111110, .twait true 5 64 127 2)] : List (Word × Instr)).all
      (fun x => decide (decode 3 x.1 = .ok x.2)) = true := by decide

theorem test_decode_tile_arithmetic :
    ([(0b01011010100001010000110000011111, .tmma false 5 6 7 3),
      (0b11011011000001010000110000011110, .tmmas true 5 6 7),
      (0b01011011100001010000110000011100, .tadd false 5 6 7),
      (0b01011100000001010000110000011100, .trnd false 5 6 7),
      (0b01011100100001010000110000000001, .tdense false 5 6 1),
      (0b01011101000001010000110000011100, .tlrf false 5 6 7),
      (0b01011101100001010000110000011101, .tscal false 5 6 7 1),
      (0b11100000000001010000000000000000, .tlu true 5),
      (0b01100000100001010000110000000001, .ttrs false 5 6 1),
      (0b01100011000001010000110000011101, .tget false 5 6 7 1),
      (0b01100011100001010000110000000000, .tnorm false 5 6 0)] : List (Word × Instr)).all
      (fun x => decide (decode 3 x.1 = .ok x.2)) = true := by decide

theorem test_decode_engines :
    ([(0b11100100000000000000011011101100, .qpush true 3 59),
      (0b01100100000000000000010000000001, .qpushClose false 2),
      (0b11100100100001010000001000001100, .qpop true 5 1 3),
      (0b01100101000001010000110000000000, .xform false 5 6),
      (0b11100101100000000000110000000000, .xwait true 6),
      (0b01100110000001010000110000000000, .xcancel false 5 6),
      (0b01100110100000000000110000000000, .coll false 6)] : List (Word × Instr)).all
      (fun x => decide (decode 3 x.1 = .ok x.2)) = true := by decide

theorem test_decode_pockets :
    ([(0b01101000000001010000110000000000, .popenNew false 5 6),
      (0b01101000000001010000110000011101, .popenReset false 5 6 7),
      (0b11101000100001000000101000011000, .pclaim true 4 5 6),
      (0b01101001000001010000110000011100, .pcloseRet false 5 6 7),
      (0b01101001000001010000110000011101, .pcloseSeal false 5 6 7),
      (0b01101001100001010000110000011100, .pbias false 5 6 7)] : List (Word × Instr)).all
      (fun x => decide (decode 3 x.1 = .ok x.2)) = true := by decide

theorem test_decode_futures :
    ([(0b01101010000001010000000000000000, .fnew false 5),
      (0b11101010100001010000110000000000, .invoke true 5 6),
      (0b01101011000001010000110000011100, .invh false 5 6 7),
      (0b01101011100001000000101000010010, .fput false 4 5 4 2),
      (0b11101100000001000000101000011000, .fgetWait true 4 5 6),
      (0b01101100000001000000101000011001, .fgetPoll false 4 5 6),
      (0b01101100100001000000101000011000, .fbreak false 4 5 6),
      (0b01101101000001000000101000000000, .frel false 4 5),
      (0b01110000000001010000110000000000, .slice false 5 6)] : List (Word × Instr)).all
      (fun x => decide (decode 3 x.1 = .ok x.2)) = true := by decide

theorem test_decode_system :
    ([(0b01110000100001010000110000000000, .cwatchSet false 5 6),
      (0b11110000100001010000110000000001, .cwatchClr true 5 6),
      (0b01110001100000000000101000011000, .tlbinvPage false 5 6),
      (0b01110001100000000000000000010101, .tlbinvAsid false 5),
      (0b01110001100000000000000000000010, .tlbinvAll false),
      (0b01110010000001010000110000011100, .ctxsv false 5 6 7),
      (0b01110010100001010000110000000000, .ctxld false 5 6)] : List (Word × Instr)).all
      (fun x => decide (decode 3 x.1 = .ok x.2)) = true := by decide

theorem test_decode_cmpi_v1 : decode 1 0b00011101000001100001011001111111 = .ok (.cmpiV1 false 3 5 4 0x7F) := by decide

/-! ### One step, with results worked out in the spec or by hand from its formulas -/

/-- The state after an instruction. -/
def after (s : State) (i : Instr) : State :=
  match exec i s with
  | .next t => t
  | _ => State.reset

/-- A register of the lab's thread after an instruction. -/
def gAfter (regs : List (Nat × Word)) (i : Instr) (n : Nat) : Word := (one (after (lab regs []) i)).g n

/-- The lab with a hint pending. -/
def hinted (h : Hints) (regs : List (Nat × Word)) : State := tweak (fun t => { t with hints := h }) (lab regs [])

-- R71: sums wrap; MULH of -2 by 3 as signed is -6, as unsigned 2 * 2^32 + ...
theorem test_add_wraps : gAfter [(6, 0xFFFFFFFF), (7, 2)] (.add false 5 6 7) 5 = 1 := by decide
theorem test_sub_order : gAfter [(6, 3), (7, 5)] (.sub false 5 6 7) 5 = 0xFFFFFFFE := by decide
theorem test_mulh : (gAfter [(6, 0xFFFFFFFE), (7, 3)] (.mulh false 5 6 7 0) 5 = 0xFFFFFFFF) ∧
    gAfter [(6, 0xFFFFFFFE), (7, 3)] (.mulh false 5 6 7 1) 5 = 2 := by decide
theorem test_mad_reads_d : gAfter [(5, 10), (6, 3), (7, 4)] (.mad false 5 6 7) 5 = 22 := by decide
theorem test_andn : gAfter [(6, 0xFF), (7, 0x0F)] (.andn false 5 6 7) 5 = 0xF0 := by decide
theorem test_g0_discards : gAfter [(6, 1), (7, 1)] (.add false 0 6 7) 0 = 0 := by decide

-- R72
theorem test_shl_by_32 : gAfter [(6, 1), (7, 32)] (.shl false 5 6 7) 5 = 0 := by decide
theorem test_sra_by_40 : gAfter [(6, 0x80000000), (7, 40)] (.sra false 5 6 7) 5 = 0xFFFFFFFF := by decide

-- R73
theorem test_min_signed : gAfter [(6, 0xFFFFFFFF), (7, 1)] (.min false 5 6 7 0) 5 = 0xFFFFFFFF := by decide
theorem test_max_unsigned : gAfter [(6, 0xFFFFFFFF), (7, 1)] (.max false 5 6 7 1) 5 = 0xFFFFFFFF := by decide
theorem test_clz_of_zero : gAfter [] (.clz false 5 6) 5 = 32 := by decide
theorem test_abs_wraps : gAfter [(6, 0x80000000)] (.abs false 5 6) 5 = 0x80000000 := by decide
theorem test_brev : gAfter [(6, 0x00000003)] (.brev false 5 6) 5 = 0xC0000000 := by decide

-- R74, its two examples
theorem test_bfx_example : gAfter [(6, 0x00000F80), (7, 0x00010704)] (.bfx false 5 6 7) 5 = 0xFFFFFFF8 := by decide
theorem test_bfx_cut : gAfter [(6, 0xABCD1234), (7, 0x00001F10)] (.bfx false 5 6 7) 5 = 0xABCD := by decide
theorem test_bfi_cut : gAfter [(5, 0x11112222), (6, 0xABCD1234), (7, 0x00001F10)] (.bfi false 5 6 7) 5 = 0x12342222 := by
  decide

-- R76, the table of edges
theorem test_div_edges : gAfter [(6, 7), (7, 0xFFFFFFFE)] (.div false 5 6 7 0) 5 = 0xFFFFFFFD ∧
    gAfter [(6, 0xFFFFFFF9), (7, 2)] (.div false 5 6 7 1) 5 = 0x7FFFFFFC ∧
    gAfter [(6, 0x80000000), (7, 0xFFFFFFFF)] (.div false 5 6 7 0) 5 = 0x7FFFFFFF ∧
    gAfter [(6, 0xFFFFFFF9)] (.div false 5 6 7 0) 5 = 0x80000000 := by decide
theorem test_rem_edges : gAfter [(6, 0xFFFFFFF9), (7, 2)] (.rem false 5 6 7 0) 5 = 0xFFFFFFFF ∧
    gAfter [(6, 0x80000000), (7, 0xFFFFFFFF)] (.rem false 5 6 7 0) 5 = 0 ∧
    gAfter [(6, 0xFFFFFFF9)] (.rem false 5 6 7 1) 5 = 0xFFFFFFF9 := by decide
theorem test_div_flag : (one (after (lab [(6, 0x80000000), (7, 0xFFFFFFFF)] []) (.div false 5 6 7 0))).iflags = SAT := by
  decide

-- R77
theorem test_subs_unsigned_floor : gAfter [(6, 3), (7, 5)] (.subs false 5 6 7 1) 5 = 0 := by decide
theorem test_adds_signed_limit : gAfter [(6, 0x7FFFFFFF), (7, 1)] (.adds false 5 6 7 0) 5 = 0x7FFFFFFF := by decide

-- R79: MOVI alone gives 0xFFFFFFFF, after `himm #0` 0x0000FFFF
theorem test_movi_alone : gAfter [] (.movi false 5 0xFFFF) 5 = 0xFFFFFFFF := by decide
theorem test_movi_under_himm : (one (after (hinted { Hints.zero with himm := encode (.himm false 0) } [])
    (.movi false 5 0xFFFF))).g 5 = 0x0000FFFF := by decide
theorem test_addi_negative : gAfter [(6, 1)] (.addi false 5 6 0x1FE) 5 = 0xFFFFFFFF := by decide

-- R83 to R85
theorem test_addw_carries : (one (after (lab [(12, 0xFFFFFFFF), (14, 1)] []) (.addw false 5 6 7))).w 5 = 0x100000000 := by
  decide
theorem test_leaw_negative_index : (one (after (lab [(12, 0x100), (7, 0xFFFFFFFF)] []) (.leaw false 5 6 7 3))).w 5 = 0xF8 := by
  decide
theorem test_ldpc : (one (after (lab [] []) (.ldpc false 5 3))).w 5 = 12 := by decide
theorem test_movw_to_w0 : (one (after (lab [(12, 7), (13, 9)] []) (.movw false 0 6))).g 1 = 9 := by decide

-- R86: `cmpi.lt.z p1, g5, #-1` compares against 0xFFFFFFFF
theorem test_cmpi_sign_extends : (one (after (lab [(5, 0xFFFFFFFE)] []) (.cmpi false 1 5 4 0x7F))).p 1 = true := by decide
theorem test_cmp_signed : (one (after (lab [(5, 0xFFFFFFFE)] []) (.cmp false 1 5 6 2))).p 1 = true := by decide

-- R87, R88
theorem test_plog_not : (one (after (lab [] []) (.plog false 3 4 0 2))).p 3 = true := by decide
theorem test_p2g_bit0 : gAfter [] (.p2g false 5 0) 5 = 1 := by decide
theorem test_g2p_keeps_p0 : (one (after (lab [(7, 0), (8, 0xFFFFFFFF)] []) (.g2p false 7 8 0))).p 0 = true := by decide

-- R129: 1.0 + 2.0, 1.5 * 2.0, 3.0 * 2.0 + 1.0; R130: the maximum of 1.0 and 2.0
theorem test_fadd : gAfter [(6, 0x3F800000), (7, 0x40000000)] (.fadd false 5 6 7 0) 5 = 0x40400000 := by decide
theorem test_fmul : gAfter [(6, 0x3FC00000), (7, 0x40000000)] (.fmul false 5 6 7 0) 5 = 0x40400000 := by decide
theorem test_ffma : gAfter [(5, 0x3F800000), (6, 0x40400000), (7, 0x40000000)] (.ffma false 5 6 7 0) 5 = 0x40E00000 := by
  decide
theorem test_fmax : gAfter [(6, 0x3F800000), (7, 0x40000000)] (.fmax false 5 6 7 0) 5 = 0x40000000 := by decide
theorem test_fadd_opposite_infinities : (one (after (lab [(6, 0x7F800000), (7, 0xFF800000)] []) (.fadd false 5 6 7 0))).g 5
    = 0x7FC00000 := by decide

-- R53: CNT + 1 instructions are covered; R58: a false guard leaves the destination
theorem test_hgrd_covers : (one (after (lab [] (wordsAt 4 [0x98020000])) (.hgrd false 3 0 0))).hints.cover = 1 := by decide
theorem test_guarded_off : (one (after (hinted { Hints.zero with hgrd := encode (.hgrd false 3 0 0), cover := 1 }
    [(5, 7), (6, 1)]) (.add false 5 6 6))).g 5 = 7 := by decide

-- R95: BR under a true predicate goes to pc + 4 * offset
theorem test_br_taken : (one (after (lab [] []) (.br true 0 0 5))).pc = 20 := by decide
theorem test_br_not_taken : (one (after (lab [] []) (.br true 0 1 5))).pc = 4 := by decide
-- R96: CALL leaves the offset of the next word on the call stack
theorem test_call : (one (after (lab [] []) (.call true 5))).pc = 20 := by decide
theorem test_ret_on_an_empty_stack : (one (after (lab [] []) (.ret true))).ended = some (.exited 0) := by decide
theorem test_exit : (one (after (lab [(6, 3)] []) (.exit true 6))).ended = some (.exited 3) := by decide
-- R109: with no handler a trap kills; R111: the code is in %faddr
theorem test_trap_kills : (one (after (lab [] []) (.trap true 7))).ended = some .killed := by decide
theorem test_trap_address : (one (after (lab [] []) (.trap true 7))).frec.addr = 7 := by decide

-- R149, R150: the bytes of a word in little-endian order
theorem test_stw : ((after (lab [(12, 0x10000), (5, 0x01020304)] []) (.stw false 5 6 1)).l1Byte
    ((after (lab [(12, 0x10000), (5, 0x01020304)] []) (.stw false 5 6 1)).core 0) 0x10004) = 4 := by decide
theorem test_ldb : (one (after (lab [(12, 0x10000)] [(0x10001, 0x80)]) (.ldb false 5 6 1))).pend.map (·.dests)
    = [[(.reg 5, 0x80)]] := by decide
theorem test_sts : ((after (lab [(6, 8), (5, 0x01020304)] []) (.sts false 5 6 1)).team 0).scratchByte 15 = 1 := by decide
-- R165: the old value comes back, the sum stands in memory
theorem test_aadd : (one (after (lab [(12, 0x10000), (7, 3)] (wordsAt 0x10000 [5])) (.aadd false 5 6 7 0))).pend.map
    (·.dests) = [[(.reg 5, 5)]] := by decide

-- R199, R200: with one contributor the reduction is its value
theorem test_red : (one (after (lab [(6, 9)] []) (.red false 5 6 0 3 0))).g 5 = 9 := by decide
theorem test_elect : (one (after (lab [] []) (.elect false 3))).p 3 = true := by decide
-- R205: BAR parks
theorem test_bar : (one (after (lab [] []) (.bar true))).park = .bar := by decide

-- R82: %lane; writing %fpctl keeps three bits
theorem test_s2g_tid : gAfter [(5, 9)] (.s2g false 5 1) 5 = 0 := by decide
theorem test_g2s_fpctl : (one (after (lab [(5, 0xFF)] []) (.g2s false 5 0x20))).fpctl = 7 := by decide

-- R235: a zero tile of 2 by 3
theorem test_tzero : ((after (lab [(6, 0x00010201)] []) (.tzero false 5 6 0)).ops).length = 1 := by decide

-- R340, R326: FNEW gives a handle
theorem test_fnew : ((after (lab [] []) (.fnew false 5)).cloak.entries).length = 1 := by decide

-- R381: the granule is poisoned
theorem test_error : (after (lab [] []) (.uncorrectableError (.l2 3))).mem.poison = [3] := by decide
-- R442: 105 degrees begin the critical sequence, which keeps state 2
theorem test_thermal : (after (lab [] []) (.sensorRead 1680 0)).apron.thermal.state = 2 := by decide

-- R65: the first check that fails; a privileged instruction in user mode raises Privilege
theorem test_privilege : (one (after (tweak (fun t => { t with mode := .user }) (lab [] [])) (.tlbinvAll false))).frec.code
    = 2 := by decide
theorem test_register_subcode : (one (after (lab [] []) (.addw false 60 0 0))).frec.info = 0x400 := by decide

/-! ### States that meet the hypotheses of the statements -/

/-- The group of a state issues an instruction for the threads `ts`, and they are its acting threads. -/
def issuesTo (s : State) (i : Instr) (f : Group → List Thread → Bool) : Bool :=
  match s.issuing with
  | some (g, ts) => s.issues i g ts && !(acting i ts).isEmpty && f g ts
  | none => false

/-- It issues, and the check finds no fault. -/
def passesIn {α : Type} (s : State) (i : Instr) (chk : Cx → State → Thread → Except FaultInfo α) : Bool :=
  issuesTo s i fun g ts => s.passes i g ts chk

/-- It issues, and no thread has reason to wait. -/
def freeIn (s : State) (i : Instr) (p : Thread → State → Bool) : Bool := issuesTo s i fun g ts => s.unheld i g ts p

/-- It issues, and nothing of other devices' memory that it reads is missing. -/
def nearIn (s : State) (i : Instr) (w : Far) : Bool := issuesTo s i fun g ts => s.near i g ts w

/-- It issues, the tiles are free and no operation faults. -/
def tilesIn (s : State) (i : Instr) (named : List Nat) (full : Cx → State → Bool) (f : TileStep) : Bool :=
  issuesTo s i fun g ts => s.tileFree i g ts named full f

/-- It issues, no thread has reason to wait and none faults. -/
def triesIn (s : State) (i : Instr) (p : Thread → State → Bool) (f : Cx → Thread → State → Except FaultInfo State) :
    Bool :=
  issuesTo s i fun g ts => s.unheld i g ts p && (s.tries i g ts f).2.isEmpty

/-- The instructions that issue in the lab for its thread. -/
def allGo (l : List Instr) : Bool := l.all fun i => issuesTo (lab [] []) i fun _ _ => true

theorem witness_integer : allGo [.add true 127 0 119, .sub true 0 5 6, .mul true 5 6 7, .mulh true 5 6 7 0,
    .mulh true 5 6 7 1, .mad true 5 6 7, .and true 5 6 7, .or true 5 6 7, .xor true 5 6 7, .andn true 5 6 7] = true := by
  decide
theorem witness_shifts : allGo [.shl true 5 6 7, .shr true 5 6 7, .sra true 5 6 7] = true := by decide
theorem witness_counts : allGo [.min true 5 6 7 0, .max true 5 6 7 1, .abs true 5 6, .clz true 5 6, .popc true 5 6,
    .brev true 127 6] = true := by decide
theorem witness_bitfields : allGo [.bfx true 5 6 7, .bfi true 5 6 7, .cmov true 5 47 6] = true := by decide
theorem witness_division : allGo [.div true 5 6 7 0, .div true 5 6 7 1, .rem true 5 6 7 0, .rem true 5 6 7 1] = true := by
  decide
theorem witness_saturating : allGo [.adds true 5 6 7 0, .subs true 5 6 7 0, .adds true 5 6 7 1, .subs true 5 6 7 1] = true := by
  decide
theorem witness_immediates : allGo [.movi true 5 0xFFFF, .addi true 5 6 0x1FF, .andi true 5 6 3, .ori true 5 6 3,
    .xori true 5 6 3, .shi true 5 6 0 31, .shi true 5 6 1 31, .shi true 5 6 2 31, .mov true 0 127] = true := by decide
theorem witness_wide : allGo [.addw true 59 0 1, .subw true 5 6 7, .mulw true 5 6 7 0, .mulw true 5 6 7 1,
    .mulw true 5 127 127 2, .shlw true 5 6 7, .shrw true 5 6 7 0, .shrw true 5 6 7 1, .leaw true 5 6 7 3, .movw true 0 59,
    .ldpc true 5 0x8000] = true := by decide
theorem witness_compares : allGo [.cmp true 0 5 6 7, .cmpw true 47 5 6 2, .cmpi true 3 5 4 0x7F] = true := by decide

/-- The lab under another encoding version. -/
def underVersion (v : Nat) (s : State) : State :=
  { s with slices := s.slices.map fun l => { l with launch := { l.launch with version := v } } }

theorem witness_cmpi_v1 : issuesTo (underVersion 1 (lab [] [])) (.cmpiV1 true 3 5 4 0x7F) (fun _ _ => true) = true := by
  decide
theorem witness_predicates : allGo [.plog true 47 0 1 0, .plog true 1 2 3 1, .plog true 1 2 3 2, .plog true 1 2 3 3,
    .p2g true 5 0, .p2g true 5 1, .g2p true 5 6 0, .g2p true 5 6 1] = true := by decide
theorem witness_floats : allGo [.fadd true 5 6 7 0, .fsub true 5 6 7 1, .fmul true 5 6 7 2, .ffma true 5 6 7 0,
    .fmin true 5 6 7 0, .fmax true 5 6 7 1, .fcmp true 3 5 6 1 2, .fcvt true 5 6 0 1, .icvt true 5 6 0 0 0, .rcp true 5 6 0,
    .sqrt true 5 6 1, .rsq true 5 6, .ex2 true 5 6, .lg2 true 5 6, .sin true 5 6, .cos true 5 6, .tanh true 5 6] = true := by
  decide
theorem witness_packed : allGo [.dot4 true 5 6 7 0, .dot4 true 5 6 7 2, .dot8 true 5 6 7 0, .dot8 true 5 6 7 1,
    .pack true 5 6 7 0, .unpk true 5 6 7 0, .scl true 5 6 7 0, .scl true 5 6 7 1, .scl true 5 6 7 2] = true := by decide

-- numbers of 1.5, −1.5 and −0, an infinity and a NaN
theorem holds_of {v : Val} {m : Nat} {e : Int} {n : Bool} (h : v = .fin n m e false) {x : ℝ}
    (hx : (if n then -x else x) = (m : ℝ) * 2 ^ e) : v.holds x := by
  subst h
  simpa [Val.holds] using hx

theorem witness_numbers : (Fmt.fp32.input true 0x3FC00000).holds 1.5 ∧ (Fmt.fp32.input true 0xBFC00000).holds (-1.5) ∧
    (Fmt.fp32.input false 0x80000000).holds 0 ∧ (1.5 : ℝ) + 1.5 ≠ 0 ∧ (1.5 : ℝ) + (-1.5) = 0 ∧ (-1.5 : ℝ) < 1.5 ∧
    (0 : ℝ) < 1.5 ∧ (1.5 : ℝ) * 0 = 0 ∧ (1.5 : ℝ) * 1.5 + (-1.5) ≠ 0 := by
  refine ⟨holds_of (n := false) (m := 0xC00000) (e := -23) (by decide) (by norm_num),
    holds_of (n := true) (m := 0xC00000) (e := -23) (by decide) (by norm_num),
    holds_of (n := true) (m := 0) (e := -149) (by decide) (by norm_num), ?_⟩
  norm_num

theorem witness_special_numbers : Fmt.fp32.input true 0x7F800000 = .inf false ∧ Fmt.fp32.input false 0xFF800000 = .inf true ∧
    (Fmt.fp32.input true 0x7FC00000).isNan = true ∧ Fmt.fp32.hasInf = true ∧ Fmt.fp32.flushes = true ∧
    Fmt.e2m1.flushes = false ∧ Fmt.e4m3.hasInf = false := by decide

/-- An E4M3 element of four is 1. -/
theorem witness_dot : (∀ j < 4, (Fmt.e4m3.dec (elemAt Fmt.e4m3.width 0x38383838 j)).holds 1) ∧
    (1.5 : ℝ) + ((List.range 4).map fun _ => (1 : ℝ) * 1).sum ≠ 0 := by
  refine ⟨fun j h => holds_of (n := false) (m := 8) (e := -3) ?_ (by norm_num), by norm_num [List.range_succ]⟩
  interval_cases j <;> decide
theorem witness_scales : scaleE 127 ≠ 0xFF ∧ scaleE 0xFF = 0xFF := by decide

/-- A lab whose next words are a MOVI and a run's end. -/
def hintLab : State := lab [] (wordsAt 4 [0x18050001, 0x98020000])

theorem witness_hints : ([.himm false 1, .hmod false 4, .hgrd false 47 1 0, .hsch false 1 4095 0 0, .trl 0, .nop true,
    .land true] : List Instr).all (fun i => issuesTo hintLab i fun _ _ => true) = true := by decide

/-- A lab whose w5 points at a landing pad. -/
def padLab : State := lab [(10, 0x200)] (wordsAt 0x200 [0x3C000000])

theorem witness_branches : issuesTo padLab (.br true 47 1 0x8000) (fun _ _ => true) = true ∧
    passesIn padLab (.jmpi true 5) (fun _ s t => s.landingCheck t (t.w 5)) = true := by decide
theorem witness_calls : passesIn padLab (.call true 4) (fun _ s t => s.pushCheck t) = true ∧
    passesIn padLab (.calli true 5) (fun _ s t => calliCheck 5 s t) = true ∧
    passesIn padLab (.ret true) (fun _ s t => s.retCheck t) = true := by decide
theorem witness_near_control :
    nearIn padLab (.jmpi true 5) (fun _ s t => s.landingGrans t (t.w 5)) = true ∧
    nearIn padLab (.calli true 5) (fun _ s t => s.landingGrans t (t.w 5)) = true ∧
    nearIn padLab (.ret true) (fun _ s t => s.retGrans t) = true := by decide
theorem witness_parking : allGo [.join true 5, .exit true 5, .yield true, .waitc true 15 63, .trap true 0x1FF,
    .brk true 0x7FFFFF] = true := by decide

/-- The lab in the handler state of its supervisor slice. -/
def handlerLab : State := tweak (fun t => { t with mode := .superHandler }) (lab [] [])

theorem witness_rfe : passesIn handlerLab (.rfeReplay true) (fun _ s t => s.frameCtx t) = true ∧
    passesIn handlerLab (.rfeSkip true) (fun _ s t => s.frameCtx t) = true := by decide
theorem witness_near_rfe : nearIn handlerLab (.rfeReplay true) (fun _ s t => s.frameGrans t) = true ∧
    nearIn handlerLab (.rfeSkip true) (fun _ s t => s.frameGrans t) = true := by decide
theorem witness_rfe_thread : ({ (default : Thread) with resume := ⟨0, 0, 0, false, true, [], .none, 0⟩ }).resume.boundary = true ∧
    (default : Thread).resume.boundary = false ∧ (default : Thread).resume.ends = false ∧ (one (after handlerLab (.rfeSkip true))).mode = .supervisor ∧
    ({ (default : Thread) with after := some (.rfe true [] Hints.zero) }).after = some (.rfe true [] Hints.zero) := by decide

/-- A lab whose w6 points at a page of zeros that may be read and written. -/
def dataLab : State := lab [(12, 0x10000)] []

theorem witness_loads :
    passesIn dataLab (.ldb true 5 6 0x0FF) (fun cx s t => s.checkAt t (genericEa cx t 6 0x0FF 1) 1 .read) = true ∧
    passesIn dataLab (.ldh true 5 6 0x100) (fun cx s t => s.checkAt t (genericEa cx t 6 0x100 2) 2 .read) = true ∧
    passesIn dataLab (.ldw true 5 6 1) (fun cx s t => s.checkAt t (genericEa cx t 6 1 4) 4 .read) = true ∧
    passesIn dataLab (.ldd true 5 6 1) (fun cx s t => s.checkAt t (genericEa cx t 6 1 8) 8 .read) = true ∧
    passesIn dataLab (.ldq true 8 6 1) (fun cx s t => s.checkAt t (genericEa cx t 6 1 16) 16 .read) = true ∧
    passesIn (lab [(6, 65528)] []) (.lds true 5 6 1) (fun cx s t => checkScratch cx s t 6 1) = true := by decide

/-- The place of an access. -/
def chkAt (p : Place) : Chk := ⟨0, { (default : Acc) with place := p }⟩

theorem witness_load_places : (∃ x ∈ dataLab.threads, x.uid = (one dataLab).uid) ∧
    (chkAt (.phys 0x10000)).acc.place = .phys 0x10000 ∧ (chkAt (.scratch 0 0)).acc.place = .scratch 0 0 ∧
    (chkAt (.chip 0 0)).acc.place = .chip 0 0 ∧ 15 < (LoadTo.quad 5).size ∧ LoadTo.word 0 ∈ [LoadTo.byte 0, .half 0, .word 0] ∧
    (∀ home pa, (chkAt (.phys 0x10000)).acc.place ≠ .remote home pa) := by
  refine ⟨?_, ?_, ?_, ?_, ?_, ?_, fun _ _ => by simp [chkAt]⟩ <;> decide
theorem witness_stores :
    passesIn dataLab (.stb true 5 6 0) (fun cx s t => s.checkAt t (genericEa cx t 6 0 1) 1 .write) = true ∧
    passesIn dataLab (.sth true 5 6 0) (fun cx s t => s.checkAt t (genericEa cx t 6 0 2) 2 .write) = true ∧
    passesIn dataLab (.stw true 5 6 0) (fun cx s t => s.checkAt t (genericEa cx t 6 0 4) 4 .write) = true ∧
    passesIn dataLab (.std true 5 6 0) (fun cx s t => s.checkAt t (genericEa cx t 6 0 8) 8 .write) = true ∧
    passesIn dataLab (.stq true 8 6 0) (fun cx s t => s.checkAt t (genericEa cx t 6 0 16) 16 .write) = true ∧
    passesIn (lab [(6, 0)] []) (.sts true 5 6 0) (fun cx s t => checkScratch cx s t 6 0) = true := by decide
theorem witness_atomics :
    passesIn dataLab (.aadd true 5 6 7 0) (fun _ s t => s.checkAt t (t.w 6) 4 .atomic) = true ∧
    passesIn dataLab (.aadd true 5 6 7 2) (fun _ s t => s.checkAt t (t.w 6) 8 .atomic) = true ∧
    passesIn dataLab (.amm true 5 6 7 3) (fun _ s t => s.checkAt t (t.w 6) 4 .atomic) = true ∧
    passesIn dataLab (.alog true 5 6 7 3) (fun _ s t => s.checkAt t (t.w 6) 4 .atomic) = true ∧
    passesIn dataLab (.acas true 5 6 7 0) (fun _ s t => s.checkAt t (t.w 6) 4 .atomic) = true ∧
    passesIn dataLab (.acas true 5 6 7 1) (fun _ s t => s.checkAt t (t.w 6) 8 .atomic) = true ∧
    passesIn dataLab (.ldpoll true 5 6 0) (fun cx s t => s.checkAt t (genericEa cx t 6 0 4) 4 .read) = true ∧
    issuesTo dataLab (.pref true 2 6 0) (fun _ _ => true) = true := by decide
theorem witness_fences : scopeOf 1 < 2 ∧ 2 ≤ scopeOf 2 ∧ allGo [.fenceAcq true 1, .fenceRel true 1, .fenceAr true 1] = true ∧
    freeIn dataLab (.fenceAcq true 7) (fun t _ => t.memoryOpen) = true ∧
    freeIn dataLab (.fenceRel true 7) (releaseWaits (scopeOf 7)) = true ∧
    freeIn dataLab (.fenceAr true 8) (releaseWaits (scopeOf 8)) = true ∧
    freeIn dataLab (.ofence true) (fun t _ => t.memoryOpen) = true := by decide
theorem witness_ordering :
    passesIn dataLab (.ldacq true 5 6 7) (fun _ s t => s.checkAt t (t.w 6) 4 .read) = true ∧
    freeIn dataLab (.strel true 5 6 7) (fun t s => decide (2 ≤ scopeOf 7) && releaseWaits (scopeOf 7) t s) = true ∧
    passesIn dataLab (.strel true 5 6 7) (fun _ s t => s.checkAt t (t.w 6) 4 .write) = true ∧
    ([.cflush true 6 7 0, .cflush true 6 7 1, .cinv true 6 7 0] : List Instr).all
      (fun i => issuesTo dataLab i fun _ _ => true) = true := by decide

/-- The instruction gathers under HMOD.PART, as `b` says. -/
def gathersIn (b : Bool) (i : Instr) : Bool :=
  issuesTo (tweak (fun t => { t with hints := { Hints.zero with hmod := if b then encode (.hmod false 0x020000) else none } })
    (lab [] [])) i fun g ts => (g.context i ts).m.getLsbD 17 == b

theorem witness_gathering : ([.cdetect true 5 6, .shfl true 5 6 7 0, .bcast true 5 6 7 0, .ballot true 5 3, .vote true 3 4 0,
    .red true 5 6 0 3 0, .scan true 5 6 0 1 3 0, .topk true 6 8 7 0, .matchv true 6 8 0, .sortkv true 6 8 10 0]
    : List Instr).all (fun i => gathersIn false i) = true := by decide
theorem witness_gathering_part : ([.shfl true 5 6 7 0, .bcast true 5 6 7 0, .ballot true 5 3, .vote true 3 4 0,
    .red true 5 6 0 3 0, .scan true 5 6 0 1 3 0, .matchv true 6 8 0] : List Instr).all (fun i => gathersIn true i) = true := by
  decide

/-- The values of three lanes. -/
def lanes3 : List Lane := [⟨0, 5, 1⟩, ⟨2, 7, 1⟩, ⟨3, 5, 2⟩]

theorem witness_gathered : (lanes3.map (·.pos)).Nodup ∧ (∀ x ∈ lanes3, x.pos < 2 ^ 2) ∧
    (∃ c ∈ lanes3, (c.pos : Int) = 3 - (1 : Nat)) ∧ (∀ c ∈ lanes3, (c.pos : Int) ≠ 2 - (1 : Nat)) := by decide
/-- A number that orders these lanes as they stand: by value, then by position. -/
def laneOrder (c : Lane) : Nat := 64 * c.a.toNat + c.pos

theorem witness_ranked : (∃ c ∈ lanes3, c.pos = (lanes3.headD default).b.toNat % 3 + 1) ∧
    (∀ c ∈ lanes3, c.pos ≠ (lanes3.headD default).b.toNat % 4) ∧ lanes3.length ≤ 7 % 2 ^ 2 ∧
    lanes3.Pairwise (fun x y => x.pos < y.pos) ∧
    (∃ c ∈ lanes3, (lanes3.filter fun x => decide (laneOrder x < laneOrder c)).length =
      (lanes3.filter fun x => decide (x.pos < 2)).length) := by decide

theorem witness_team : allGo [.bar true, .cvinit true 7 5, .elect true 3, .regroup true 3 5 3] = true ∧
    freeIn (lab [] []) (.cvsign true 7 5) (fun t _ => t.memoryOpen) = true := by decide
theorem witness_queues : ((lab [] []).slice 0).queue 3 ≠ default ∧ (((lab [] []).slice 0).queue 3).depth ≠ 0 ∧
    (((lab [] []).slice 0).queue 3).closing = false ∧
    freeIn (lab [] []) (.qpush true 3 5) (releaseWaits ((lab [] []).sliceScope 0)) = true ∧
    freeIn (lab [] []) (.qpushClose true 3) (releaseWaits ((lab [] []).sliceScope 0)) = true ∧
    issuesTo (lab [] []) (.qpop true 5 0 3) (fun _ _ => true) = true ∧ (one (lab [] [])).acquiring = false := by decide

/-- A tile of one FP32 element, 1.0. -/
def oneTile (loc : TLoc) : Tile := Tile.mkD 1 loc 1 1 [[0x3F800000]]

/-- A view of 32 scaled E5M2 elements. -/
def scaledTile : Tile :=
  { Tile.mkD 5 .global 1 32 [] with bind := some (⟨0x20000, [32, 1, 1, 1], [32, 0, 0], 5, 2, 0, 1, 0x30000, 0, 1, 32⟩, 0) }

/-- A lab with tiles, a layout record of a 1 by 1 FP32 tensor at w8, and the shape of a 1 by 1 FP32 tile in g12. -/
def tileLab : State :=
  let s := lab [(12, 0x10000), (16, 0x10000)] (wordsAt 0x10000 [0x20000, 0, 1, 1, 0, 0, 4, 0, 0, 0, 0, 0, 0x201, 0, 0, 0])
  { s with teams := s.teams.map fun m => { m with tiles :=
    [(5, oneTile .pool), (6, oneTile .pool), (7, oneTile .bonnet), (8, oneTile .acc), (10, scaledTile), (11, scaledTile)] } }

theorem witness_tile_loads :
    tilesIn tileLab (.tload true 5 8 9 0) [5] freeUnit (fun cx t s => s.runJob cx t (tloadJob 5 8 9 0 t s)) = true ∧
    tilesIn tileLab (.tstore true 5 8 9) [5] freeUnit (fun cx t s => s.runJob cx t (tstoreJob 5 8 9 cx t s)) = true ∧
    tilesIn tileLab (.tbind true 5 8 9) [5] freeUnit (tbindStep 5 8 9) = true := by decide
theorem witness_tile_moves :
    tilesIn tileLab (.tzero true 5 12 0) [5] freeUnit (fun cx t s => s.runJob cx t (tzeroJob 5 0 (t.g 12))) = true ∧
    tilesIn tileLab (.tfree true 5) [5] freeUnit (fun cx _ s =>
      (s.setTeam cx.team fun m => m.freeTile 5, none)) = true ∧
    tilesIn tileLab (.tcopy true 5 6 0) [5, 6] freeUnit (fun cx t s =>
      s.runJob cx t (moveJob 5 6 0 ((s.team cx.team).tile 6).fmt copyTile cx t s)) = true ∧
    tilesIn tileLab (.ttran true 5 6 0) [5, 6] freeUnit (fun cx t s =>
      s.runJob cx t (moveJob 5 6 0 ((s.team cx.team).tile 6).fmt
        (fun x loc => ((copyTile x loc).1.transposed, (copyTile x loc).2)) cx t s)) = true ∧
    tilesIn tileLab (.tcvt true 5 6 2 0) [5, 6] freeUnit (fun cx t s =>
      s.runJob cx t (moveJob 5 6 0 2 (fun x loc => convertTile x 2 loc cx.sat) cx t s)) = true ∧
    tilesIn tileLab (.tset true 5 0 0) [5] freeUnit (tsetStep 5 0 0) = true := by decide
theorem witness_tile_products :
    tilesIn tileLab (.tmma true 8 6 7 0) [8, 6, 7] (fun cx s => ((s.team cx.team).tile 6).kind != .z &&
        ((s.team cx.team).tile 7).kind != .z && s.arrayFull ((s.team cx.team).homeCore 8))
      (tmmaStep 8 6 7 false false) = true ∧
    tilesIn tileLab (.tmmas true 9 10 11) [9, 10, 11] (fun cx s => s.arrayFull ((s.team cx.team).homeCore 9))
      (tmmasStep 9 10 11) = true := by decide
theorem witness_tile_computes :
    tilesIn tileLab (.tadd true 5 6 5) [5, 6, 5] freeUnit (fun cx t s => s.runJob cx t (taddJob 5 6 5 cx t s)) = true ∧
    tilesIn tileLab (.trnd true 5 6 0) [5, 6]
      (fun cx s => ((s.team cx.team).tile 6).kind == .l && s.hemBusy cx 5)
      (fun cx t s => s.runJob cx t (trndJob 5 6 0 cx t s)) = true ∧
    tilesIn tileLab (.tdense true 5 6 0) [5, 6]
      (fun cx s => ((s.team cx.team).tile 6).kind == .l && s.arrayFull ((s.team cx.team).homeCore 5))
      (fun cx t s => s.runJob cx t (tdenseJob 5 6 0 cx t s)) = true ∧
    tilesIn tileLab (.tlrf true 5 6 5) [5, 6, 5] freeUnit (fun cx t s => s.runJob cx t (tlrfJob 5 6 5 cx t s)) = true ∧
    tilesIn tileLab (.tscal true 5 6 7 0) [5, 6] freeUnit (fun cx t s =>
      s.runJob cx t (tscalJob 5 6 7 0 cx t s)) = true := by decide
theorem witness_tile_factors :
    tilesIn tileLab (.tlu true 5) [5] (fun cx s => s.hemBusy cx 5) (fun cx t s => s.runJob cx t (tluJob 5 cx s)) = true ∧
    tilesIn tileLab (.ttrs true 5 6 0) [5, 6]
      (fun cx s => s.hemBusy cx 5) (ttrsStep 5 6 0) = true ∧
    tilesIn tileLab (.tget true 5 6 0 0) [6] freeUnit (tgetStep 5 6 0 0) = true ∧
    tilesIn tileLab (.tnorm true 5 6 0) [6] freeUnit (tnormStep 5 6 0) = true := by decide

/-- A factored tile of one element and rank 1. -/
def thinTile : Tile := Tile.mkL 1 1 1 1 [[0x3F800000]] [[0x3F800000]]

theorem witness_tile_contents : (oneTile .pool).kind = .d ∧ 0 < (oneTile .pool).rows.length ∧
    (∀ l ∈ (oneTile .pool).rows, l.length = (oneTile .pool).n) ∧ (oneTile .pool).fmt ≠ 7 ∧ 0 < (oneTile .pool).n ∧
    (Val.fin false 1 0 false).isZero = false ∧ (Val.zero false).isZero = true ∧ thinTile.kind = .l ∧ thinTile.rank + thinTile.rank ≤ 64 ∧
    0 < (oneTile .acc).exact.length ∧ 0 < ((oneTile .acc).exact.getD 0 []).length ∧ fmtAcc 1 = true ∧
    (Tile.mkZ 1 1 1).kind = .z ∧ (Tile.mkZ 1 1 1).st ≠ .empty ∧ (oneTile .acc).st ≠ .empty ∧ thinTile.st ≠ .empty ∧
    [Val.zero false].length = [Val.zero true].length ∧ 0 < [[Val.zero false]].length := by decide

theorem witness_near_tiles :
    nearIn tileLab (.tload true 5 8 9 0) (recordFar 8 9 true) = true ∧
    nearIn tileLab (.tstore true 5 8 9) (fun cx s t => recordFar 8 9 false cx s t ++ viewFar [5] cx s t) = true ∧
    nearIn tileLab (.tbind true 5 8 9) (recordFar 8 9 false) = true ∧
    ([.tzero true 5 12 0, .tfree true 5, .tset true 5 0 0, .tlu true 5, .ttrs true 5 6 0] : List Instr).all
      (fun i => nearIn tileLab i noFar) = true ∧
    ([.tcopy true 5 6 0, .ttran true 5 6 0, .tcvt true 5 6 2 0, .trnd true 5 6 0, .tdense true 5 6 0,
      .tscal true 5 6 7 0, .tnorm true 5 6 0] : List Instr).all (fun i => nearIn tileLab i (viewFar [6])) = true := by decide
theorem witness_near_tile_pairs :
    nearIn tileLab (.tmma true 8 6 7 0) (viewFar [6, 7]) = true ∧
    nearIn tileLab (.tmmas true 9 10 11) (fun cx s t => viewFar [10, 11] cx s t ++ scaleFar [10, 11] cx s t) = true ∧
    nearIn tileLab (.tadd true 5 6 5) (viewFar [6, 5]) = true ∧ nearIn tileLab (.tlrf true 5 6 5) (viewFar [6, 5]) = true ∧
    nearIn tileLab (.tget true 5 6 0 0) (fun cx s t => elementFar 6 (t.g 0) cx s t) = true := by decide

/-- The row checks of TMOVA and TMOVR from the row word g0 find no fault, for the registers from g24 on. -/
def rowsOk (i : Instr) : Bool :=
  issuesTo tileLab i fun g ts =>
    let x := (tileLab.team g.team).tile 8
    let r := rowMove 0 (tileLab.group g.gid).width 24 x
    (rowLeader 0 (acting i ts)).1.isEmpty && !tileLab.tileBusy g.team 8 &&
      (rowLeader 0 (acting i ts)).2.all fun t => (t.g 0 == 0) && !t.acquiring && (t.poisonIn r.d r.last).isNone &&
        (match rowChecks x r ((tileLab.launchOf t).regBudget t.role) 8 with
         | .ok _ => true
         | .error _ => false)

theorem witness_tile_rows : rowsOk (.tmova true 24 8 0) = true ∧ rowsOk (.tmovr true 24 8 0) = true ∧
    issuesTo tileLab (.tinfo true 5 6) (fun _ _ => true) = true ∧
    issuesTo tileLab (.twait true 0 0 0 3) (fun _ _ => true) = true := by decide

theorem witness_engines :
    freeIn dataLab (.xform true 5 6) (fun t _ => t.memoryOpen) = true ∧
    passesIn dataLab (.xform true 5 6) (fun _ s t => s.engineCheck t (t.w 6) 0x14) = true ∧
    freeIn dataLab (.coll true 6) (releaseWaits 8) = true ∧
    passesIn dataLab (.coll true 6) (fun _ s t => s.engineCheck t (t.w 6) 0x1C) = true ∧
    issuesTo dataLab (.xcancel true 5 6) (fun _ _ => true) = true ∧
    issuesTo (lab [] []) (.xwait true 6) (fun g ts => (acting (.xwait true 6) ts).all fun t =>
      match ((lab [] []).opened (.xwait true 6) g ts).barrierCheck t (t.g 6).toNat with
      | .ok _ => true
      | .error _ => false) = true := by decide

theorem witness_near_engines : nearIn dataLab (.xform true 5 6) (descFar 6 0x14) = true ∧
    nearIn dataLab (.coll true 6) (collFar 6) = true := by decide

/-- A set with 1 expert, 1 sender and a capacity of 1. -/
def pocketOf (id : Nat) (isSealed : Bool) : PocketSet :=
  { (default : PocketSet) with
    id := id, senders := 1, cap := 1, biasVa := 0x20000, countVa := 0x20000
    experts := [⟨[0], [0], [0], isSealed, 0⟩] }

/-- A lab with a pocket set's descriptor at w6: 1 expert, 1 sender, no reservation, capacity 1, its biases and counts
at 0x20000; the set 0 is open, and the set 1, which g7 names, is sealed. -/
def pocketLab : State :=
  let s := lab [(12, 0x10000), (7, 1)] (wordsAt 0x10000 [0x00010001, 1, 0x20000, 0, 0, 0, 0x20000, 0, 0])
  { s with pockets := [pocketOf 0 false, pocketOf 1 true] }

/-- POPEN reads its descriptor without a fault. -/
def opensPocket (i : Instr) (r : Option Nat) : Bool :=
  issuesTo pocketLab i fun g ts => (acting i ts).all fun t => !t.memoryOpen &&
    ((pocketLab.opened i g ts).missing t.uid (popenFar 6 (g.context i ts) (pocketLab.opened i g ts) t)).isEmpty &&
    (match (pocketLab.opened i g ts).popenRead t (t.w 6) r with
     | .ok _ => true
     | .error _ => false)

theorem witness_popen : opensPocket (.popenNew true 5 6) none = true ∧ opensPocket (.popenReset true 5 6 7) (some 1) = true := by
  decide
theorem witness_pocket_calls :
    triesIn pocketLab (.pclaim true 4 0 0) (fun t _ => t.acquiring) (pclaimEff 4 0 0) = true ∧
    triesIn pocketLab (.pcloseRet true 5 0 0) (releaseWaits 7) (pcloseRetEff 5 0 0) = true ∧
    triesIn pocketLab (.pcloseSeal true 5 0 0) (releaseWaits 7) (pcloseSealEff 5 0 0) = true ∧
    triesIn pocketLab (.pbias true 5 0 0) (fun t _ => t.acquiring) (fun cx t s => match s.pocketArgs t 0 0 false with
      | .error f => .error f
      | .ok r => .ok (s.pendResult cx t.uid .ax (gDests 5 (r.set.expert r.e).bias) id)) = true := by decide

/-- A set with 1 sender of 1 reserved slot. -/
def oneSender : PocketSet := { (default : PocketSet) with senders := 1, reserve := 1, cap := 2 }

theorem witness_claims : (⟨[0], [0], [], true, 0⟩ : Expert).isSealed = true ∧
    oneSender.unused ⟨[0], [0], [1], false, 0⟩ 0 = 1 ∧ oneSender.unused ⟨[1], [0], [1], false, 0⟩ 0 = 0 ∧
    (∀ w, w < oneSender.senders → oneSender.unused ⟨[1], [0], [], false, 0⟩ w = 0) := by decide
theorem witness_stolen_claim :
    let p := { oneSender with senders := 3 }
    let x : Expert := ⟨[1, 0, 0], [0, 0, 0], [], false, 0⟩
    p.unused x 0 = 0 ∧ 0 < p.unused x 2 ∧ p.claim x 0 = (2, 2, { x with stolen := [0, 0, 1] }) ∧
    (∀ k, k < p.senders → p.unused x k < p.unused x 2 ∨ p.unused x k = p.unused x 2 ∧ k ≤ 2) := by decide

theorem witness_futures : issuesTo dataLab (.fnew true 5) (fun _ _ => true) = true ∧
    freeIn dataLab (.invoke true 5 6) (releaseWaits 8) = true ∧
    passesIn dataLab (.invoke true 5 6) (fun _ s t => s.readInv t (t.w 6) 4096) = true ∧
    passesIn dataLab (.invh true 5 6 6) (fun _ s t => s.readInv t (t.w 6) 4064) = true ∧
    passesIn dataLab (.slice true 5 6) (fun _ s t => s.readInv t (t.w 6) 4096) = true ∧
    freeIn dataLab (.fput true 5 6 7 2) (releaseWaits 8) = true ∧
    issuesTo dataLab (.frel true 5 6) (fun _ _ => true) = true := by decide
theorem witness_near_futures : nearIn dataLab (.invoke true 5 6) (invFar 6 4096) = true ∧
    nearIn dataLab (.invh true 5 6 6) (invFar 6 4064) = true ∧ nearIn dataLab (.slice true 5 6) (invFar 6 4096) = true ∧
    freeIn dataLab (.invh true 5 6 6) (releaseWaits 8) = true ∧ freeIn dataLab (.slice true 5 6) (releaseWaits 8) = true := by
  decide
theorem witness_handles :
    triesIn dataLab (.fbreak true 4 6 12) (releaseWaits 8) (fbreakEff 4 6 12) = true ∧
    triesIn dataLab (.fgetPoll true 4 6 5) (fun t _ => t.acquiring) (fgetPollEff 4 6 5) = true ∧
    freeIn dataLab (.fgetWait true 4 6 5) (fun t _ => t.acquiring) = true ∧
    issuesTo dataLab (.fgetWait true 4 6 5) (fun g ts => (g.context (.fgetWait true 4 6 5) ts).m.getLsbD 13 == false) = true := by
  decide

/-- The lab with HMOD.POLL pending. -/
def pollHintLab : State := tweak (fun t => { t with hints := { Hints.zero with hmod := encode (.hmod false 0x002000) } }) dataLab

theorem witness_fget_poll_hint :
    issuesTo pollHintLab (.fgetWait true 4 6 5) (fun g ts => (g.context (.fgetWait true 4 6 5) ts).m.getLsbD 13) = true ∧
    triesIn pollHintLab (.fgetWait true 4 6 5) (fun t _ => t.acquiring) (fgetPollEff 4 6 5) = true := by decide

theorem witness_special_registers : freeIn (lab [] []) (.s2g true 5 0x11) (sregWaits 0x11) = true ∧
    freeIn (lab [] []) (.s2g true 5 0x8000) (sregWaits 0x8000) = true ∧
    freeIn (lab [] []) (.g2s true 5 0x23) (fun t s => sregWaits 0x23 t s || ((0x23 : BitVec 16) == 0x8024 && releaseWaits 7 t s))
      = true ∧
    freeIn (lab [] []) (.g2s true 5 0x8024) (fun t s => sregWaits 0x8024 t s || releaseWaits 7 t s) = true ∧
    issuesTo (lab [] []) (.trace true 5 0x8001) (fun _ _ => true) = true := by decide
theorem witness_own_thread : one (lab [] []) ∈ (lab [] []).threads ∧ (one (lab [] [])).live = true ∧
    ∀ u ∈ (lab [] []).threads, u.uid = (one (lab [] [])).uid → u = one (lab [] []) := by decide
theorem witness_system :
    passesIn dataLab (.cwatchSet true 5 6) (fun _ s t => s.readAt t (t.w 6) 64) = true ∧
    passesIn dataLab (.ctxsv true 5 6 7) (fun _ s t => s.ctxCheck t (t.w 6)) = true ∧
    passesIn dataLab (.ctxld true 5 6) (fun _ s t => s.ctxCheck t (t.w 6)) = true ∧
    freeIn dataLab (.tlbinvPage true 5 6) (fun t => tlbWaits (fun x =>
      x.ofPage ((t.g 6).toNat % 4096) (t.w 5).toNat) t) = true ∧
    freeIn dataLab (.tlbinvAsid true 5) (fun t => tlbWaits (fun x => x.asid == (t.g 5).toNat % 4096) t) = true ∧
    freeIn dataLab (.tlbinvAll true) (tlbWaits fun _ => true) = true ∧
    ([.cwatchClr true 5 6, .phaseAnnounce true 0 0 0 0 1, .phaseEnd true, .phaseQuery true] : List Instr).all
      (fun i => issuesTo dataLab i fun _ _ => true) = true := by decide
theorem witness_near_system : nearIn dataLab (.cwatchSet true 5 6) (cwatchFar 6) = true ∧
    nearIn dataLab (.ctxsv true 5 6 7) (ctxFar 6) = true ∧ nearIn dataLab (.ctxld true 5 6) (ctxFar 6) = true := by decide

/-! ### States in which something happens -/

/-- The lab with its group between runs. -/
def restLab : State :=
  let s := lab [] []
  { s with cur := none, groups := s.groups.map fun g => { g with run := none } }

/-- The lab's group and slice. -/
def oneGroup (s : State) : Group := s.groups.headD default
def oneSlice (s : State) : Slice := s.slices.headD default

/-- A result in flight, numbered 1. -/
def flight (k : RKind) : Pending :=
  { (default : Pending) with id := 1, run := 1, cls := .ld, dests := [(.reg 5, 7)], kind := k }

theorem witness_run_start : restLab.groups.find? (·.gid == 1) = some (oneGroup restLab) ∧ restLab.slotFree = true ∧
    (oneGroup restLab).active = true ∧ restLab.groupReady (oneGroup restLab) = true ∧
    oneGroup restLab ∈ (restLab.startable (oneGroup restLab).core).take (restLab.slots (oneGroup restLab).core) := by decide
theorem witness_starvation : restLab.slotFree = true ∧
    State.isStarved { restLab with now := 64 } (oneGroup restLab) = true := by decide
theorem witness_result_return :
    ((tweak (fun t => { t with pend := [flight .ready] }) (lab [] [])).thread 2).pendOf 1 = some (flight .ready) ∧
    ((tweak (fun t => { t with pend := [flight (.part 4)] }) (lab [] [])).thread 2).pendOf 1 = some (flight (.part 4)) := by
  decide

/-- A poll of the address 0x40 at pair scope, expired. -/
def polling : State := tweak (fun t => { t with pend := [flight (.poll (.phys 0x40) 2 0 0x40)] }) (lab [] [])

theorem witness_poll : (polling.thread 2).pendOf 1 = some (flight (.poll (.phys 0x40) 2 0 0x40)) ∧ 0 ≤ polling.now ∧
    (((polling.reloadPoll (polling.thread 2) (flight (.poll (.phys 0x40) 2 0 0x40)) (.phys 0x40) 2 0x40).thread 2).pendOf
      1).isSome = true := by decide

/-- The lab's thread at REGROUP. -/
def regrouping : State := tweak (fun t => { t with park := .regroup 3 1 5 }) restLab

theorem witness_regroup : regrouping.teamThreads 0 ≠ [] ∧ (∀ t ∈ regrouping.teamThreads 0, t.arrivedAt.isSome = true) ∧
    (regrouping.team 0).at_ = .resident ∧ (∀ x ∈ regrouping.groups, x.team = 0 → x.run = none) := by decide
theorem witness_kill : ((lab [] []).slice 0).live = true ∧ ((lab [] []).slice? 0).isSome = true ∧
    (one (lab [] [])).slice ≠ 1 ∧ (∀ y ∈ (lab [] []).threads, y.uid = (one (lab [] [])).uid → y = one (lab [] [])) := by decide

/-- The lab's group, not active. -/
def inactive : State := { restLab with groups := restLab.groups.map fun g => { g with active := false } }

theorem witness_activation : inactive.pendingReady 0 = [oneGroup inactive] ∧ (inactive.activeOn 0).length < 8 ∧
    inactive.regsFit (oneGroup inactive) = true := by decide

/-- A second slice's group is active; the first one's group has waited for 1,024 cycles. -/
def waiting : State :=
  let s := (lab [] []).solo 1
  { s with now := 1024, groups := s.groups.map fun g => { g with run := none, active := g.gid != 1 } }

theorem witness_ageing : waiting.pendingReady 0 = [oneGroup waiting] ∧
    sortBy (fun (x y : Group) => decide (x.enteredAt ≤ y.enteredAt)) (waiting.activeOn 0) = [waiting.group 4] ∧
    (oneGroup waiting).readyAt + (oneGroup waiting).skipped + 1024 ≤ waiting.now := by decide
theorem witness_window : dueAt ((State.setSlice (lab [] []) 0 fun l => { l with window := some 0 }).slice 0).window 0 = true := by
  decide

/-- The lab with changes to its core. -/
def coreLab (f : Core → Core) : State := let s := lab [] []; { s with cores := s.cores.map f }

/-- A dirty line, accepted at 0; the die waits for the line; the age limit has come. -/
def dirtyLab : State :=
  let s := coreLab fun c => { c with l1 := { L1.empty with dirty := [(0x80, 1)], lines := [⟨1, 0⟩], fifo := [(1, 0)] } }
  { s with now := 32768, mem := { s.mem with dies := [⟨[⟨0x80, 0xFF, 1⟩], [(1, 0)], [], []⟩, .empty] } }

theorem witness_lines : 1 ∈ (dirtyLab.core 0).l1.fifo.map (·.1) ∧
    (∃ x ∈ (dirtyLab.core 0).l1.fifo, x.1 = 1 ∧ x.2 + 32768 ≤ dirtyLab.now) ∧ 1 ∈ (dirtyLab.mem.die 0).requests.map (·.1) ∧
    dirtyLab.mem.selfRefresh = false ∧
    State.mem { dirtyLab with mem := { dirtyLab.mem with selfRefresh := true } } = { dirtyLab.mem with selfRefresh := true } := by
  decide
theorem witness_register_writes : one (lab [] []) ∈ (lab [] []).threads ∧ (one (lab [] [])).live = true ∧
    (∀ x ∈ (lab [] []).threads, x.uid = (one (lab [] [])).uid → x = one (lab [] [])) ∧
    (one (lab [] [])).unprivileged = false ∧
    (one (tweak (fun t => { t with mode := .user }) (lab [] []))).unprivileged = true ∧
    ((lab [] []).slice? 0).isSome = true := by decide

/-- An operation of the lab's team in its core's array. -/
def labOp (started : Bool) : TileOp :=
  { (default : TileOp) with id := 1, unit := .array, rowsM := 1, kMax := 1, burst := true, started := started }

/-- The lab with an operation, its clock at 2,048, and one band powered. -/
def opLab (started : Bool) : State :=
  let s := coreLab fun c => { c with gated := 0, bandWake := [(2, 0)] }
  { s with now := 2048, ops := [labOp started] }

theorem witness_operations : (opLab true).ops.find? (·.id == 1) = some (labOp true) ∧
    (opLab true).canComplete (labOp true) = true ∧ (opLab false).nextArrayOp 0 = some (labOp false) := by decide
theorem witness_bands : (opLab false).gateDue ((opLab false).core 0) 3 = true ∧
    2 ∈ ((opLab false).core 0).bandWake.map (·.1) := by decide

/-- The lab's team with an announced phase. -/
def phaseLab (p : Phase) (d : Option (Nat × Nat)) : State :=
  let s := lab [] []
  { s with
    now := 65536 + 64
    teams := s.teams.map fun m => { m with phase := some p }
    apron := { s.apron with queue := [⟨0, 0, 8, 1, d⟩] } }

def labPhase (st : PhaseSt) : Phase :=
  { (default : Phase) with st := st, cls := 4, rows := 8, length := 8, bands := 1, grantAt := 64 }

theorem witness_phases : ((phaseLab (labPhase .pending) none).decision).isSome = true ∧
    (phaseLab (labPhase .pending) (some (0, 1))).grantDue 0 = some 1 ∧
    ((phaseLab (labPhase .pending) none).team 0).phase = some (labPhase .pending) ∧
    (labPhase .pending).late 65600 = true ∧ (labPhase .granted).idle 65600 = true := by decide

/-- The lab's first rail. -/
def railLab (p : PhaseSt) (r : Rail) : State :=
  let s := phaseLab (labPhase p) none
  { s with apron := { s.apron with rails := [r] } }

theorem witness_rails :
    dueAt ((railLab .granted ⟨0, 0, 0, some 0, none, none⟩).rail 0 0).upAt 65600 = true ∧
    ((railLab .granted ⟨0, 0, 0, some 0, none, none⟩).rail 0 0).level <
      (railLab .granted ⟨0, 0, 0, some 0, none, none⟩).railTarget 0 0 ∧
    dueAt ((railLab .granted ⟨0, 0, 3, none, some 0, none⟩).rail 0 0).holdUntil 65600 = true ∧
    (railLab .granted ⟨0, 0, 3, none, some 0, none⟩).railTarget 0 0 <
      ((railLab .granted ⟨0, 0, 3, none, some 0, none⟩).rail 0 0).level ∧
    dueAt ((railLab .granted ⟨0, 0, 3, none, none, some 0⟩).rail 0 0).downAt 65600 = true := by decide

/-- The lab in a thermal state, at the time of an adjustment. -/
def hotLab (n : Nat) : State := State.setThermal { lab [] [] with now := 4096 } fun h => { h with state := n }

theorem witness_thermal : (hotLab 0).apron.thermal.state ≤ 1 ∧ (hotLab 1).apron.thermal.state ≤ 1 ∧
    (hotLab 2).apron.thermal.state = 2 ∧ (hotLab 3).apron.thermal.state = 3 ∧
    (hotLab 0).apron.thermal.adjustAt ≤ (hotLab 0).now ∧ 95 * 16 - 1 < 95 * 16 ∧ 95 * 16 ≤ 105 * 16 - 1 ∧
    105 * 16 ≤ 110 * 16 ∧ 90 * 16 - 1 < 90 * 16 := by decide
theorem witness_thermal_edges : (hotLab 4).apron.thermal.state = 4 ∧ 105 * 16 ≤ 110 * 16 - 1 ∧ 110 * 16 - 1 < 110 * 16 := by
  decide

/-- A transform of the lab's team. -/
def labXform (op status next : Nat) : Xform :=
  { (default : Xform) with tag := 1, op := op, status := status, next := next, wdCycles := 10, chunkAt := some 0, dst := ⟨0, [1, 1, 1, 1], [0, 0, 0], 0, 1, 0, 0, 0, 0, 1, 1⟩ }

/-- The lab with a transform. -/
def xformLab (x : Xform) : State := { lab [] [] with now := 100, xforms := [x] }

theorem witness_transforms : (xformLab (labXform 0 0 0)).atWork 1 = some (labXform 0 0 0) ∧ (labXform 0 0 0).done = false ∧
    (labXform 0 0 0).page = none ∧ (xformLab (labXform 0 0 1)).atWork 1 = some (labXform 0 0 1) ∧
    (labXform 0 0 1).done = true ∧ (xformLab (labXform 0 0 1)).remoteStores (engineUid 1) = false ∧
    (labXform 3 2 0).done = true ∧ (xformLab (labXform 3 2 0)).atWork 1 = some (labXform 3 2 0) ∧
    (xformLab (labXform 4 0 0)).atWork 1 = some (labXform 4 0 0) ∧ (labXform 4 0 0).done = false ∧
    (xformLab (labXform 4 0 0)).asking (engineUid 1) = false ∧
    (labXform 4 0 0).chunkAt = some 0 ∧ 0 + (labXform 4 0 0).wdCycles < 100 ∧ (labXform 3 2 0).status ≠ 0 := by decide

/-- A collective of the members 0, this device, and 1. -/
def labColl (status : Nat) : Coll :=
  { (default : Coll) with tag := 1, members := 3, count := 1, fmt := 1, status := status, mine := some [0x3F800000] }

/-- The lab with a collective, with or without the message of the other member. -/
def collLab (c : Coll) (l : List CollMsg) : State := { lab [] [] with now := 2 ^ 32, colls := [c], collIn := l }

/-- The other member's message. -/
def collMsg : CollMsg := { (default : CollMsg) with src := 1, tag := 1, fields := (labColl 0).fields, data := [0x40000000] }

theorem witness_collectives : (collLab (labColl 0) [collMsg]).colls.find? (·.tag == 1) = some (labColl 0) ∧
    (labColl 0).page = none ∧ (labColl 0).mine = some [0x3F800000] ∧ (labColl 0).devs = [0, 1] ∧
    (collLab (labColl 0) [collMsg]).mem.selfRefresh = false ∧ (labColl 2).status ≠ 0 ∧ (labColl 0).status = 0 ∧
    (collLab (labColl 0) [collMsg]).remoteStores (collUid 1) = false ∧ (labColl 0).written = false ∧
    { labColl 0 with written := true }.page = none ∧
    (∀ e ∈ (labColl 0).devs, e ≠ (collLab (labColl 0) [collMsg]).devid →
      ((collLab (labColl 0) [collMsg]).collFrom 1 e).isSome = true) ∧
    (collLab (labColl 0) [collMsg]).collIn.any (fun m => m.src == 1 && m.tag == 1) = true := by decide
theorem witness_strangers : 2 ∉ (labColl 0).devs ∧ (labColl 0).fields ≠ [] ∧
    (∀ x ∈ (collLab (labColl 0) [collMsg]).collIn, x.src = 2 → x.tag ≠ 1) ∧
    (∀ y ∈ (collLab (labColl 0) [{ collMsg with src := 2, fields := [] }]).collIn, y.tag = (labColl 0).tag → y.src = 2 →
      y = { collMsg with src := 2, fields := [] }) ∧
    (collLab (labColl 0) [{ collMsg with fields := [] }]).collFrom 1 1 = some { collMsg with fields := [] } := by decide
theorem witness_silent_members :
    (((collLab (labColl 0) []).collIn.filter (·.tag == 1)).map (·.at_)).foldl min (labColl 0).issuedAt + 2 ^ 32 ≤
      (collLab (labColl 0) []).now ∧
    (∃ e ∈ (labColl 0).devs, e ≠ (collLab (labColl 0) []).devid ∧ (collLab (labColl 0) []).collFrom 1 e = none) ∧
    (collLab (labColl 0) []).collIn.any (fun m => m.src == 1 && m.tag == 1) = false := by decide

/-- A Cloakroom entry of the handle 0x10000000001. -/
def labEntry (st : FState) (released : Bool) : Entry :=
  { (default : Entry) with slot := 1, handle := 0x10000000001, isHome := true, st := st, released := released, slice := some 0 }

/-- The lab with an entry. -/
def entryLab (e : Entry) : State := let s := lab [] []; { s with cloak := { s.cloak with entries := [e] } }

theorem witness_entries : ([.pending, .full, .broken] : List FState).all (fun st =>
      (entryLab (labEntry st false)).entryOf 0x10000000001 == some (labEntry st false) && st != .forwarded) = true ∧
    (labEntry .pending false).handle = 0x10000000001 ∧ (labEntry .pending false).unplaced = false ∧
    32 < Entry.resLen { labEntry .pending false with resLen := 33 } ∧ (labEntry .pending true).released = true ∧ (labEntry .pending false).resLen ≤ 32 := by decide

/-- A slice that waits for its placement on four cores. -/
def newcomer : State :=
  let s := State.setSlice (lab [] []) 0 fun l =>
    { l with placed := false, resident := false, waitsAt := some 0 }
  { s with cores := [0, 1, 2, 3].map (Core.reset · 0 0), threads := [], groups := [], teams := [], cur := none }

theorem witness_placement : (newcomer.place? 0).isSome = true := by decide

/-- The lab between runs with its team at a place. -/
def teamLab (a : TeamAt) : State :=
  { restLab with
    teams := restLab.teams.map fun m => { m with at_ := a }
    slices := restLab.slices.map fun l => { l with waitsAt := some 0 }
    cores := [0, 1, 2, 3].map (Core.reset · 0 0) }

theorem witness_saves : (teamLab .saving).poolSaves 0 ≠ [] ∧
    (∀ m ∈ (teamLab .saving).poolSaves 0, (teamLab .saving).atRest m = true) ∧
    (teamLab .saving).apron.thermal.state ≠ 2 ∧ ((teamLab .out).restore? 0).isSome = true ∧
    State.mayResume restLab { restLab.slice 0 with suspended := true } = true := by decide

/-- A contract of the lab's slice, due now. -/
def labContract : Contract := { (default : Contract) with id := 1, period := 10, slice := 0 }

/-- The lab with the contract, its job open or not. -/
def contractLab (o : Bool) : State :=
  State.setSlice { lab [] [] with contracts := [labContract] } 0 fun l => { l with jobOpen := o }

theorem witness_releases : (contractLab true).contract? 1 = some labContract ∧ labContract.dueAt ≤ (contractLab true).now ∧
    ((contractLab true).slice labContract.slice).jobOpen = true ∧
    ((contractLab false).slice labContract.slice).jobOpen = false := by decide
theorem witness_budgets :
    Slice.overBudget { oneSlice (lab [] []) with launch := { soloLaunch with budget := 5 }, budgetLeft := 0 } = true ∧
    ((lab [] []).slice 0).inJob = true ∧ Slice.allowance { oneSlice (lab [] []) with allowance := some 0 } = some 0 ∧
    Slice.missed { oneSlice (lab [] []) with deadlineAt := some 0 } 1 = true := by decide
theorem witness_watch : levelCounter 8 = true ∧ levelCounter 7 = false := by decide

/-- A context area of the lab's team. -/
def labArea (loading : Bool) : CtxArea := { (default : CtxArea) with id := 1, teams := [0], loading := loading }

theorem witness_contexts :
    State.ctxSaveReady { teamLab .saving with ctxAreas := [labArea false] } (labArea false) = true ∧
    (State.ctxLoad? { teamLab .queued with ctxAreas := [labArea true] } 1).isSome = true := by decide

/-- The lab as member 0 of a domain with member 1. -/
def domainLab : State :=
  let s := lab [] []
  { s with
    now := 2 ^ 22
    mgmt := { s.mgmt with members := 3 }
    fabric := { s.fabric with members := [⟨1, 0, false, unreported, 0⟩], remote := [{ (default : RemoteWait) with txn := 1, home := 1 }] } }

theorem witness_devices : domainLab.mem.selfRefresh = false ∧
    (domainLab.fabric.remote.find? (·.txn == 1)).isSome = true ∧ domainLab.fabric.livenessAt ≤ domainLab.now ∧
    domainLab.fabric.reportAt ≤ domainLab.now ∧ domainLab.aliveMember 1 = true ∧
    (∃ m ∈ domainLab.fabric.members, m.dev = 1 ∧ m.heardAt + 2 ^ 22 ≤ domainLab.now) ∧
    (domainLab.fabric.members.find? (·.dev == 1)).isSome = true := by decide
theorem witness_device_in_self_refresh :
    (State.mem { domainLab with mem := { domainLab.mem with selfRefresh := true } }).selfRefresh = true := by decide

/-- The domain's lab with one route to member 1, over link 0, which is up or down. -/
def routeLab (u : Bool) : State :=
  { domainLab with fabric := { domainLab.fabric with
      routes := [(1, [[0]])], links := [{ (default : Link) with num := 0, up := u }] } }

theorem witness_routes : (OutMsg.liveness 1).dest = some 1 ∧ (∃ e ∈ (routeLab true).fabric.routes, e.1 = 1) ∧
    (∀ e ∈ (routeLab true).fabric.routes, e.1 = 1 → ∃ r ∈ e.2.take 4, ∀ k ∈ r, ∃ x ∈ (routeLab true).fabric.links,
      x.num = k ∧ x.up = true) ∧
    (∀ e ∈ (routeLab false).fabric.routes, e.1 = 1 → ∀ r ∈ e.2.take 4, ∃ k ∈ r, ∀ x ∈ (routeLab false).fabric.links,
      x.num = k → x.up = false) ∧ (routeLab false).fabric.route? 1 = none ∧ (routeLab false).aliveMember 1 = true ∧
    (∃ m ∈ (routeLab false).fabric.members, m.dev = 1 ∧ m.heardAt + 2 ^ 22 ≤ (routeLab false).now) ∧
    domainLab.memWaits = false := by decide
theorem witness_waiting_messages : (routeLab true).fabric.route? 1 = some [0] ∧ (routeLab true).fabric.unsent = [] ∧
    (routeLab true).fabric.flights = [] ∧ (OutMsg.liveness 1).klass = (OutMsg.failure 1 2).klass ∧
    (∃ x ∈ [Flight.mk 1 (OutMsg.liveness 1).klass [3] (2 ^ 22 + 1)], x.dev = 1 ∧ x.cls = (OutMsg.failure 1 2).klass ∧
      x.route ≠ [0] ∧ (routeLab true).now < x.until_) ∧ (State.heard domainLab 1).aliveMember 1 = true := by decide
theorem witness_critical_device :
    (State.setThermal domainLab fun h => { h with state := 2 }).apron.thermal.state = 2 := by decide

/-- The lab, up, with a management session, a code object and a contract. -/
def hostLab : State :=
  let s := lab [] []
  { s with
    boot := { s.boot with on := true }
    sessions := [⟨1, 0, true, false, 1⟩]
    codes := [⟨1, 0, 64, 0, []⟩, ⟨2, 0, 64, 0, []⟩]
    contracts := [labContract] }

theorem witness_hosts : hostLab.takesFrom (.session (.plain 1) 0) true = true ∧ hostLab.takesFrom (.mailbox 0) true = true ∧
    hostLab.takesFrom (.session (.plain 1) 0) false = true ∧ hostLab.boot.on = true ∧ hostLab.boot.recovery = false ∧
    hostLab.session? 2 = none ∧ hostLab.mustWait 2 = false ∧ 0 < 1 ∧ 65536 ≤ 65536 ∧ 65536 < 65537 := by decide

/-- A message's header of session 1 with a reserved field set, with the wrong length, or over another association. -/
def badHead : SupolHead := { SupolHead.plain 1 with reserved := 1 }
def shortHead : SupolHead := { SupolHead.plain 1 with len := some 0 }
def otherHead : SupolHead := { SupolHead.plain 1 with assoc := some 2 }

/-- The host's lab whose session requires the transport's security. -/
def secureLab : State := { hostLab with sessions := [⟨1, 0, true, true, 1⟩] }

theorem witness_headers : fieldStatus badHead = 0x101 ∧ fieldStatus shortHead = 0x102 ∧ fieldStatus otherHead = 0 ∧
    hostLab.mustWait badHead.num = false ∧ secureLab.mustWait otherHead.num = false ∧ secureLab.boot.on = true ∧
    secureLab.boot.recovery = false ∧ fieldStatus (.plain 2) = 0 ∧
    (∀ x, secureLab.session? otherHead.num = some x → x.secure = true ∧ otherHead.assoc ≠ some x.assoc) := by decide

/-- Bytes with fields in little-endian order: each field's place, size and value. -/
def fieldBytes (n : Nat) (fs : List (Nat × Nat × Nat)) : List Byte :=
  (List.range n).map fun k => match fs.find? fun f => decide (f.1 ≤ k) && decide (k < f.1 + f.2.1) with
    | none => 0
    | some f => BitVec.ofNat 8 (f.2.2 / 256 ^ (k - f.1))

/-- A descriptor for a device, without arguments. -/
def descFor (dev : Nat) : List Byte := fieldBytes 64 [(0, 1, dev)]

/-- A blank launch block. -/
def blankBlock : List Byte := fieldBytes 256 []

/-- The host's lab with a pending future at home, and the failed member 1. -/
def handleLab (st : FState) : State :=
  { hostLab with
    mgmt := { hostLab.mgmt with members := 3 }
    fabric := { hostLab.fabric with members := [⟨1, 0, true, 0, 0⟩] }
    cloak := { hostLab.cloak with entries := [labEntry st false] } }

/-- The outcome of a host's INVOKE for a device: nothing, or the refusal's code. -/
def sentTo (dev : Nat) : Option (Option Nat) :=
  ((handleLab .pending).allocInv 2 (descFor dev)).map fun x =>
    (x.2.sendInvoke (invocationOf (descFor dev) blankBlock [] x.1 0 0 true)).2

theorem witness_host_invoke : inlineOk (descFor 0) blankBlock [] 4096 = true ∧ sentTo 1 = some none ∧
    sentTo 0 = some (some 1) ∧ (handleLab .pending).takesFrom (.session (.plain 1) 0) false = true ∧
    (handleLab .pending).originOf (.session (.plain 1) 0) = (0, true) ∧ inlineOk [] [] [] 4096 = false ∧
    inlineOk [] [] [] 4064 = false := by decide
theorem witness_host_handles : badHandle 0x10000000001 = false ∧ badHandle 0 = true ∧
    inlineOk (descFor 0) blankBlock [] 4064 = true ∧ descFieldsOk (descFor 0) 4064 = true ∧ byteAt (descFor 0) 1 ≤ 15 ∧
    (((handleLab .pending).allocInv 2 (descFor 0)).bind fun x => x.2.entryOf 0x10000000001) = some (labEntry .pending false) ∧
    (handleLab .pending).entryOf 0x10000000001 = some (labEntry .pending false) ∧
    (handleLab .full).entryOf 0x10000000001 = some (labEntry .full false) ∧
    (labEntry .full false).st ≠ .forwarded ∧ (labEntry .full false).result.isSome = true := by decide

/-- A descriptor for this device with a class above 15. -/
def badDesc : List Byte := fieldBytes 64 [(1, 1, 16)]

theorem witness_host_refusals : byteAt (descFor 0) 0 = (handleLab .pending).devid ∧ byteAt badDesc 1 = 16 ∧
    inlineOk badDesc blankBlock [] 4064 = true ∧
    (((handleLab .pending).allocInv 2 badDesc).bind fun x => x.2.entryOf 0x10000000001) = some (labEntry .pending false) ∧
    sentTo 64 = some (some 1) ∧ byteAt (descFor 64) 0 ≠ (handleLab .pending).devid ∧
    inlineOk (descFor 64) blankBlock [] 4096 = true := by decide

/-- The host's lab with its first `k` entries taken. -/
def takenLab (k : Nat) : State :=
  { hostLab with cloak := { hostLab.cloak with entries := (List.range k).map fun n => { (default : Entry) with slot := n } } }

theorem no_free_slot {c : Cloak} (h : ∀ n < 65536, ∃ e ∈ c.entries, e.slot = n) : c.freeSlot = none := by
  refine List.find?_eq_none.mpr fun n _ => ?_
  by_cases hn : n < 65536
  · obtain ⟨e, he, hs⟩ := h n hn
    have : c.entries.any (·.slot == n) = true := List.any_eq_true.mpr ⟨e, he, by simp [hs]⟩
    simp [this]
  · simp [hn]

theorem takenLab_serves (k : Nat) : (takenLab k).takesFrom (.session (.plain 1) 0) false = true := by
  show hostLab.takesFrom (.session (.plain 1) 0) false = true
  decide

theorem allocInv_none {s : State} (h : s.cloak.freeSlot = none) (k : Nat) (d : List Byte) : s.allocInv k d = none := by
  simp [State.allocInv, State.allocHome, Cloak.alloc, h]

theorem witness_no_handle : ∃ s : State, s.takesFrom (.session (.plain 1) 0) false = true ∧ s.allocInv 2 (descFor 0) = none := by
  obtain ⟨k, hk⟩ : ∃ k : Nat, 65536 ≤ k := ⟨_, le_refl _⟩
  exact ⟨takenLab k, takenLab_serves k, allocInv_none (no_free_slot fun n hn =>
    ⟨{ (default : Entry) with slot := n }, List.mem_map.mpr ⟨n, List.mem_range.mpr (by omega), rfl⟩, rfl⟩) 2 _⟩

/-- The host's lab without a slice, a code object at 0 in the address space 0, whose root is valid, and four cores. -/
def guestLab : State :=
  { hostLab with
    slices := [], threads := [], groups := [], teams := [], cur := none, contracts := []
    codes := [⟨1, 0, 64, 0, []⟩]
    cores := [0, 1, 2, 3].map (Core.reset · 0 0)
    mem := { Mem.empty with hbm := [(0, 1)] } }

/-- A launch block of one group of 16 threads. -/
def guestBlock : List Byte :=
  fieldBytes 256 [(0, 4, launchMagic), (4, 1, 3), (6, 1, 1), (8, 4, 0), (0xC, 2, 1), (0xE, 1, 4), (0xF, 1, 8),
    (0x46, 2, 1), (0x58, 4, 0xFFFFFFFF), (0x5C, 4, 128), (0x78, 8, 0x20000), (0x88, 4, 4096), (0x8C, 4, 256)]

/-- A contract of 1,000 cycles in every 65,536 on one core. -/
def guestContract (budget : Nat) : List Byte :=
  fieldBytes 64 [(0, 8, 65536), (8, 8, budget), (0x10, 8, 65536), (0x28, 1, 1)]

theorem witness_contracts : guestLab.takesFrom (.session (.plain 1) 0) true = true ∧ (guestContract 1000).length = 64 ∧
    guestBlock.length = 256 ∧
    (match guestLab.admitContract (guestContract 1000) guestBlock 0 true with
     | .ok x => x.1 == guestLab.nextContract
     | .error _ => false) = true ∧
    (match guestLab.admitContract (guestContract 0) guestBlock 0 true with
     | .ok _ => false
     | .error c => c == 0x0A) = true ∧
    guestLab.originOf (.session (.plain 1) 0) = (0, true) := by decide
theorem witness_management : (hostLab.readMgmt 0x050).isSome = true ∧ hostLab.writeStatus 0x050 1 = 0 ∧
    hostLab.writeStatus 0x000 1 ≠ 0 ∧
    State.slices { hostLab with slices := [] } = [] ∧ State.takesFrom { hostLab with slices := [] } (.session (.plain 1) 0) true = true ∧
    hostLab.freeCodeId = some 3 ∧ hostLab.slices.any (fun l => l.live && l.codeId == 1) = true ∧
    hostLab.slices.any (fun l => l.live && l.codeId == 2) = false ∧ hostLab.codes.any (·.id == 2) = true ∧
    hostLab.sessions.any (·.mgmt) = true ∧ hostLab.freeSession = some 0 ∧ (hostLab.session? 1).isSome = true ∧
    (List.replicate 64 (0 : Byte)).length = 64 ∧ (hostLab.slice? 0).isSome = true ∧
    hostLab.contract? 1 = some labContract := by decide
theorem witness_payloads :
    hostLab.portAsked (.session { SupolHead.plain 1 with op := some 0x99, opLen := some 3 } 0) = none ∧
    payloadStatus (.session { SupolHead.plain 1 with op := some 0x99, opLen := some 3 } 0) ≠ 0 ∧
    hostLab.takesFrom (.session { SupolHead.plain 1 with op := some 0x99, opLen := some 3 } 0) true = true ∧
    payloadStatus (.session (.plain 1) 0) = 0 ∧ payloadStatus (.mailbox 0) = 0 ∧
    hostLab.missing codeObjUid (hostLab.hwGrans 0 0 0 64) = [] := by decide

theorem witness_resets : hostLab.serves false = true ∧ (State.recover hostLab).boot.recovery = true ∧ 39 < 40 := by decide

/-- The host's lab with its group stopped between runs. -/
def stoppedLab : State :=
  { hostLab with cur := none, groups := hostLab.groups.map fun g => { g with run := none, stopped := true } }

theorem witness_single_steps : stoppedLab.groups.find? (fun g => g.gid == 1 && g.slice == 0) = some (oneGroup stoppedLab) ∧
    stoppedLab.maySingle (oneGroup stoppedLab) = true ∧ stoppedLab.takesFrom (.session (.plain 1) 0) true = true := by decide

/-! ### The encoding, the step, faults and frames -/

-- an ill-formed term for each check of `wellFormed` (R65, subcodes 0x02 to 0x04)
theorem test_reserved_field : (Instr.pref false 3 5 0).wellFormed = false := by decide
theorem test_variant : (Instr.shi false 5 6 3 1).wellFormed = false := by decide
theorem test_register_range : (Instr.addw false 60 0 0).wellFormed = false ∧ (Instr.add false 0 119 120).wellFormed = true := by
  decide

theorem witness_encoding : (Instr.ffma true 5 6 7 2).wellFormed = true ∧ Instr.isEvent (.ffma true 5 6 7 2) = false ∧
    Instr.inVersion (.ffma true 5 6 7 2) 3 = true ∧ Instr.inVersion (.cmpiV1 true 3 5 4 1) 1 = true ∧
    Instr.inVersion (.ffma true 5 6 7 2) 1 = true ∧ decode 1 0x29850C1E#32 = .ok (.ffma false 5 6 7 2) := by decide

/-- A lab whose next word is ADD g5, g6, g7 without S. -/
def addLab : State := lab [(6, 2), (7, 3)] (wordsAt 0 [0x08050C1C])

theorem witness_step : addLab.nextAgenda = none ∧ addLab.due.isNone = true ∧ addLab.now % 16 ≠ 15 ∧ addLab.slotFree = false ∧
    addLab.issuing = some (oneGroup addLab, [one addLab]) ∧
    addLab.missing (codeUid (oneGroup addLab).gid) (addLab.runGrans (one addLab)) = [] ∧
    (match addLab.fetch (one addLab) with
     | .ok x => decode (addLab.slice (one addLab).slice).launch.version x.1 == .ok (.add false 5 6 7)
     | .error _ => false) = true := by decide
theorem test_step_runs_the_word : (match step addLab with
    | .next t => (one t).g 5 == 5 && (one t).pc == 4
    | _ => false) = true := by decide

/-- Runs are sound where each names live threads, each once. -/
theorem runsSound_of {s : State} (h : s.groups.all (fun g => match g.run with
    | none => true
    | some us => !us.isEmpty && decide us.Nodup && us.all s.alive) = true) : s.RunsSound := by
  intro g hg us hu
  have := List.all_eq_true.mp h g hg
  rw [hu] at this
  simpa [and_assoc] using this

theorem witness_runs_sound : addLab.RunsSound ∧ (∃ t, step addLab = .next t) :=
  ⟨runsSound_of (by decide), by
    cases h : step addLab with
    | next t => exact ⟨t, rfl⟩
    | fault f => exact absurd (show (match step addLab with | .next _ => true | _ => false) = true by decide) (by simp [h])
    | refused r => exact absurd (show (match step addLab with | .next _ => true | _ => false) = true by decide) (by simp [h])⟩

/-- The lab's thread in user mode, with g6 poisoned. -/
def userLab : State := tweak (fun t => { t with mode := .user, poison := [6] }) (lab [] [])

theorem witness_refused : Instr.isEvent (.tlbinvAll true) = false ∧ userLab.issuing = some (oneGroup userLab, [one userLab]) ∧
    hintClasses [one userLab] = [[one userLab]] ∧ (one userLab).guard (.tlbinvAll true) = .on ∧
    (one userLab).guard (.add true 5 6 7) = .on ∧ (Instr.tlbinvAll true).privileged = true ∧
    (one userLab).unprivileged = true ∧
    (userLab.illegal ((oneGroup userLab).context (.tlbinvAll true) [one userLab]) (.tlbinvAll true) [one userLab]).isSome = true := by
  decide
theorem witness_illegal : privilegeBad (.addw true 60 0 0) (one userLab) = false ∧
    (userLab.illegal ((oneGroup userLab).context (.addw true 60 0 0) [one userLab]) (.addw true 60 0 0) [one userLab]).isSome =
      true := by decide
theorem witness_poison : (Instr.add true 5 6 7).integer = true ∧
    userLab.illegal ((oneGroup userLab).context (.add true 5 6 7) [one userLab]) (.add true 5 6 7) [one userLab] = none ∧
    ((one userLab).poisonRead (.add true 5 6 7) ((oneGroup userLab).context (.add true 5 6 7) [one userLab]).m).isSome = true := by decide

/-- The lab with a trap vector and a handler stack. -/
def vectorLab (v : Word) (n : Nat) : State :=
  State.setSlice (lab [] []) 0 fun l => { l with launch := { l.launch with trapVector := v, handlerStack := n } }

theorem witness_fault_entry : one (vectorLab 0x100 128) ∈ (vectorLab 0x100 128).threads ∧
    (∀ x ∈ (vectorLab 0x100 128).threads, x.uid = (one (vectorLab 0x100 128)).uid → x = one (vectorLab 0x100 128)) ∧
    ((vectorLab 0x100 128).slice 0).dbgHold = false ∧ (one (vectorLab 0x100 128)).inHandler = false ∧
    ((vectorLab 0x100 128).slice 0).launch.trapVector ≠ 0xFFFFFFFF ∧
    128 ≤ ((vectorLab 0x100 128).slice 0).launch.handlerStack ∧
    ((vectorLab 0x100 127).slice 0).launch.handlerStack < 128 ∧
    ((vectorLab 0xFFFFFFFF 128).slice 0).launch.trapVector = 0xFFFFFFFF ∧
    (one handlerLab).inHandler = true ∧ one handlerLab ∈ handlerLab.threads ∧ (handlerLab.slice? 0).isSome = true := by decide

/-- The lab with a ring of page faults of 4 records. -/
def ringLab : State := let s := lab [] []; { s with pf := { s.pf with size := 4 } }

theorem witness_page_faults : ringLab.pf.size ≠ 0 ∧ (lab [] []).pf.size = 0 ∧ one ringLab ∈ ringLab.threads ∧
    (∀ x ∈ ringLab.threads, x.uid = (one ringLab).uid → x = one ringLab) ∧
    ringLab.faultVa (one ringLab) 0x20000 = 0x20000 ∧ 0x20000 < 2 ^ 64 ∧ ringLab.pf.recs = [] ∧
    (State.pf (ringLab.takeFault (one ringLab).uid ⟨0x04, 1, 0x20000, none⟩ ⟨0, 0, false, false⟩ 1)).recs =
      [⟨0, 0, 0x20000, 0, 1, false, [(one ringLab).uid], false⟩] := by decide

theorem witness_computing_frame : (Instr.add false 5 6 7).integer = true ∧ (Instr.fadd false 5 6 7 0).floating = true ∧
    (Instr.add false 5 6 7).sbit = false ∧ (one addLab).hints.hsch = none ∧ goes addLab (.add false 5 6 7) = true ∧
    goes addLab (.fadd false 5 6 7 0) = true ∧ (Instr.add false 5 6 7).integerFlags = false ∧
    (Instr.add false 5 6 7).floating = false ∧ 4 ∉ (Instr.add false 5 6 7).writes 0 ∧
    4 ∉ (Instr.add false 5 6 7).lastRegs 0 := by decide
theorem witness_guarded_off : (tweak (fun t => { t with hints := { Hints.zero with hgrd := encode (.hgrd false 5 0 0), cover := 1 } })
    addLab).threads.map (fun t => t.guard (.add false 5 6 7)) = [.off] := by decide

/-- A result in flight with some destinations. -/
def landing (run : Nat) (f : Option FaultInfo) : Pending :=
  { flight .ready with run := run, dests := [(.reg 5, 7), (.reg 121, 8), (.pred 3, 1)], fault := f }

theorem witness_landing : (landing 1 none).fault = none ∧ ((landing 1 none).dests.map (·.1)).Nodup ∧
    (Dest.reg 5, 7) ∈ (landing 1 none).dests ∧ (Dest.reg 121, 8) ∈ (landing 1 none).dests ∧
    (Dest.pred 3, 1) ∈ (landing 1 none).dests ∧ (landing 1 none).run = (one (lab [] [])).runId ∧
    (landing 2 none).run ≠ (one (lab [] [])).runId ∧ Dest.reg 6 ∉ (landing 1 none).dests.map (·.1) ∧
    (∀ n, n < 48 → n ≠ 3 → Dest.pred n ∉ (landing 1 none).dests.map (·.1)) ∧
    (∀ d ∈ (flight .ready).dests.map (·.1), d = .reg 5) ∧ (landing 1 (some default)).fault ≠ none := by decide
theorem witness_failed_landing :
    landing 1 (some default) ∈ (one (tweak (fun t => { t with pend := [landing 1 (some default)] }) (lab [] []))).pend := by
  decide
theorem witness_registers : 0 < 3 ∧ 3 < 48 ∧ 8 ≠ 3 ∧ 8 < 48 ∧ 8 ≠ 2 * 3 ∧ 8 ≠ 2 * 3 + 1 ∧ 3 < 120 ∧ 120 ≤ 120 ∧
    (Thread.setG (one (tweak (fun t => { t with pend := [flight .ready] }) (lab [] []))) 5 0).pend.length = 1 := by decide

/-- The lab with the last word of the scratchpad at g6. -/
def scratchLab : State := lab [(6, 65532), (5, 0x11223344)] []

theorem witness_scratch : (one scratchLab).hints.hsch = none ∧
    passesIn scratchLab (.sts false 5 6 0) (fun cx s t => checkScratch cx s t 6 0) = true ∧
    passesIn scratchLab (.lds false 5 6 0) (fun cx s t => checkScratch cx s t 6 0) = true ∧
    issuesTo scratchLab (.sts false 5 6 0) (fun g ts => (acting (.sts false 5 6 0) ts == [one scratchLab]) &&
      (match checkScratch (g.context (.sts false 5 6 0) ts) (scratchLab.opened (.sts false 5 6 0) g ts) (one scratchLab) 6 0 with
       | .ok c => c.acc.place == .scratch 0 65532
       | .error _ => false)) = true ∧
    (∃ x ∈ scratchLab.teams, x.uid = 0) ∧ scratchLab.placePoisoned (one scratchLab).core (.scratch 0 65532) 4 = false ∧
    (one scratchLab).live = true := by decide
theorem witness_scratch_runs : scratchLab.RunsSound := runsSound_of (by decide)

/-- The scratchpad's lab with a second thread, in lane 1, whose word is the one before. -/
def pairLab : State :=
  { scratchLab with
    groups := scratchLab.groups.map fun g => { g with run := some [2, 3] }
    threads := scratchLab.threads ++ scratchLab.threads.map fun t => Thread.putG { t with uid := 3, lane := 1 } 6 65528 }

theorem witness_scratch_pair : passesIn pairLab (.sts false 5 6 0) (fun cx s t => checkScratch cx s t 6 0) = true ∧
    issuesTo pairLab (.sts false 5 6 0) (fun g ts => (acting (.sts false 5 6 0) ts == [] ++ pairLab.thread 2 :: [pairLab.thread 3]) &&
      ts.all fun t => match checkScratch (g.context (.sts false 5 6 0) ts) (pairLab.opened (.sts false 5 6 0) g ts) t 6 0 with
       | .ok c => c.acc.place == .scratch 0 (if t.uid = 2 then 65532 else 65528)
       | .error _ => false) = true ∧ 65528 + 4 ≤ 65532 + 3 := by decide
theorem witness_scratch_pair_runs : pairLab.RunsSound := runsSound_of (by decide)

/-- A lab in which die 0 owns line 1, or no die owns it. -/
def ownerLab (l : List (Nat × Nat)) : State := let s := lab [] []; { s with mem := { s.mem with owner := l } }

/-- The place of a store to the last two bytes of line 1. -/
def labChk : Chk := ⟨0xFE, { (default : Acc) with place := .phys 0xFE, isGlobal := true }⟩

theorem witness_global_store : labChk.acc.place = .phys 0xFE ∧
    (∃ x ∈ (ownerLab []).cores, x.num = (one (ownerLab [])).core) ∧ 0 < [(1 : Byte), 2].length ∧
    0xFE % 128 + [(1 : Byte), 2].length ≤ 128 ∧ (if labChk.acc.isGlobal then 1 else 0) ≠ 3 ∧
    (if labChk.acc.isGlobal then 3 else 0) = 3 ∧ ((ownerLab []).core 0).die < (ownerLab []).mem.dies.length ∧
    (ownerLab []).mem.owns ((ownerLab []).core 0).die (lineOf 0xFE) = false ∧
    (ownerLab [(1, 0)]).mem.owns ((ownerLab [(1, 0)]).core 0).die (lineOf 0xFE) = true ∧
    (∀ h ∈ ((ownerLab [(1, 0)]).mem.die ((ownerLab [(1, 0)]).core 0).die).held, lineOf h.addr ≠ lineOf 0xFE) ∧
    lineOf 0x80 ∉ (ownerLab []).givesUp 0 (lineOf 0xFE) := by decide

end Sys2Proof.Tests
end

section
/-! Integer, address and predicate instructions (spec/03): the value each writes, once per shared result, and the
statements about them. -/

namespace Sys2Proof.Machine

/-! ### Instructions that compute on a thread's own registers -/

/-- What the acting threads write matters only in the context of the issue. -/
theorem State.lanes_congr {s : State} {i : Instr} {g : Group} {ts : List Thread} {w w' : Cx → Thread → Thread → Thread}
    (h : ∀ t x, w (g.context i ts) t x = w' (g.context i ts) t x) : s.lanes i g ts w = s.lanes i g ts w' := by
  unfold State.lanes
  simp only [h]

/-- An instruction whose meaning is a register operation computes it. -/
theorem computes_of_alu {i : Instr} {w : Cx → Thread → Thread → Thread} (h : ∀ s, exec i s = word i (alu w) s) :
    Computes i w := fun s _ _ hi => (h s).trans (word_alu hi)

theorem Computes.congr {i : Instr} {w w' : Cx → Thread → Thread → Thread} (h : Computes i w)
    (hw : ∀ cx t x, w cx t x = w' cx t x) : Computes i w' :=
  fun s g ts hi => (h s g ts hi).trans (State.lanes_congr fun t x => hw _ t x)

/-! ### Results that set flags -/

theorem Thread.setGI_mk (t : Thread) (n : Nat) (v f : Word) : t.setGI n (v, f) = (t.setG n v).orI f := rfl

@[simp] theorem Thread.orI_zero (t : Thread) : t.orI 0 = t := by
  simp [Thread.orI]

/-- A result without a flag is a plain write. -/
@[simp] theorem Thread.setGI_zero (t : Thread) (n : Nat) (v : Word) : t.setGI n (v, 0) = t.setG n v :=
  Thread.orI_zero _

/-- The write of a value clamped to the signed range (R66). -/
theorem Thread.setGI_satS (t : Thread) (n : Nat) (r : Int) :
    t.setGI n (satS r) =
      if r < -2147483648 then (t.setG n 0x80000000).orI SAT
      else if 2147483647 < r then (t.setG n 0x7FFFFFFF).orI SAT
      else t.setG n (BitVec.ofInt 32 r) := by
  unfold satS
  split
  · rfl
  · split
    · rfl
    · exact Thread.setGI_zero ..

/-- The write of a value clamped to the unsigned range (R66). -/
theorem Thread.setGI_satZ (t : Thread) (n : Nat) (r : Int) :
    t.setGI n (satZ r) =
      if r < 0 then (t.setG n 0).orI SAT
      else if 4294967295 < r then (t.setG n 0xFFFFFFFF).orI SAT
      else t.setG n (BitVec.ofInt 32 r) := by
  unfold satZ
  split
  · rfl
  · split
    · rfl
    · exact Thread.setGI_zero ..

/-- The most negative number is the one that no 32-bit word negates. -/
theorem toInt_eq_min_iff (x : Word) : x.toInt = -2147483648 ↔ x = 0x80000000 :=
  ⟨fun h => BitVec.eq_of_toInt_eq (h.trans rfl), fun h => h ▸ rfl⟩

theorem toInt_eq_neg_one_iff (x : Word) : x.toInt = -1 ↔ x = 0xFFFFFFFF :=
  ⟨fun h => BitVec.eq_of_toInt_eq (h.trans rfl), fun h => h ▸ rfl⟩

/-- ABS clamps, or wraps, at the most negative number alone (R73). -/
theorem Thread.setGI_absRes (t : Thread) (n : Nat) (sat : Bool) (v : Word) :
    t.setGI n (absRes sat v) =
      if v.toInt = -2147483648 then
        if sat then (t.setG n 0x7FFFFFFF).orI SAT else t.setG n 0x80000000
      else t.setG n (BitVec.ofNat 32 v.toInt.natAbs) := by
  have hlo := BitVec.le_toInt v
  have hhi := BitVec.toInt_lt (x := v)
  cases sat
  case false =>
    simp only [absRes, Bool.false_eq_true, if_false, Thread.setGI_zero, BitVec.ofInt_natCast]
    split
    case isTrue h => rw [h]; rfl
    case isFalse => rfl
  case true =>
    simp only [absRes, if_true, Thread.setGI_satS, BitVec.ofInt_natCast]
    rw [if_neg (by omega)]
    split
    case isTrue h => rw [if_pos (by omega)]
    case isFalse h => rw [if_neg (by omega)]

/-- The operands of the one signed quotient that does not fit (R76). -/
theorem overflows_iff (x y : Word) :
    (x = 0x80000000 && y == 0xFFFFFFFF) = true ↔ x.toInt = -2147483648 ∧ y.toInt = -1 := by
  simp [toInt_eq_min_iff, toInt_eq_neg_one_iff]

/-- DIV.s (R76). -/
theorem Thread.setGI_divRes_signed (t : Thread) (n : Nat) (x y : Word) :
    t.setGI n (divRes true x y) =
      if y = 0 then (t.setG n (if 0 ≤ x.toInt then 0x7FFFFFFF else 0x80000000)).orI IDZ
      else if x.toInt = -2147483648 ∧ y.toInt = -1 then (t.setG n 0x7FFFFFFF).orI SAT
      else t.setG n (BitVec.ofInt 32 (x.toInt.tdiv y.toInt)) := by
  simp only [divRes, if_true, overflows_iff]
  split
  · rfl
  · split
    · rfl
    · exact Thread.setGI_zero ..

/-- DIV.z (R76). -/
theorem Thread.setGI_divRes_unsigned (t : Thread) (n : Nat) (x y : Word) :
    t.setGI n (divRes false x y) =
      if y = 0 then (t.setG n 0xFFFFFFFF).orI IDZ else t.setG n (BitVec.ofNat 32 (x.toNat / y.toNat)) := by
  simp only [divRes, Bool.false_eq_true, if_false]
  split
  · rfl
  · exact Thread.setGI_zero ..

/-- REM.s: what division that truncates leaves has the sign of the dividend (R76). -/
theorem Thread.setGI_remRes_signed (t : Thread) (n : Nat) (x y : Word) :
    t.setGI n (remRes true x y) =
      if y = 0 then (t.setG n x).orI IDZ
      else if x.toInt = -2147483648 ∧ y.toInt = -1 then t.setG n 0
      else t.setG n (BitVec.ofInt 32 (x.toInt.tmod y.toInt)) := by
  have hmod : x.toInt - x.toInt.tdiv y.toInt * y.toInt = x.toInt.tmod y.toInt := by
    rw [Int.tmod_def, Int.mul_comm]
  simp only [remRes, if_true, overflows_iff, hmod]
  split
  · rfl
  · split <;> exact Thread.setGI_zero ..

/-- REM.z (R76). -/
theorem Thread.setGI_remRes_unsigned (t : Thread) (n : Nat) (x y : Word) :
    t.setGI n (remRes false x y) =
      if y = 0 then (t.setG n x).orI IDZ else t.setG n (BitVec.ofNat 32 (x.toNat % y.toNat)) := by
  simp only [remRes, Bool.false_eq_true, if_false]
  split
  · rfl
  · exact Thread.setGI_zero ..

/-- ADDS.z can only be too large (R77). -/
theorem Thread.setGI_addsRes_unsigned (t : Thread) (n : Nat) (x y : Word) :
    t.setGI n (addsRes false false x y) =
      if 4294967295 < x.toNat + y.toNat then (t.setG n 0xFFFFFFFF).orI SAT
      else t.setG n (BitVec.ofNat 32 (x.toNat + y.toNat)) := by
  simp only [addsRes, Bool.false_eq_true, if_false, Thread.setGI_satZ]
  rw [if_neg (by omega), ← Nat.cast_add, BitVec.ofInt_natCast]
  split
  case isTrue h => rw [if_pos (by omega)]
  case isFalse h => rw [if_neg (by omega)]

/-- SUBS.z can only be too small (R77). -/
theorem Thread.setGI_subsRes_unsigned (t : Thread) (n : Nat) (x y : Word) :
    t.setGI n (addsRes true false x y) =
      if x.toNat < y.toNat then (t.setG n 0).orI SAT else t.setG n (BitVec.ofNat 32 (x.toNat - y.toNat)) := by
  have hx := x.isLt
  simp only [addsRes, Bool.false_eq_true, if_false, if_true, Thread.setGI_satZ]
  by_cases h : x.toNat < y.toNat
  · rw [if_pos (by omega), if_pos h]
  · rw [if_neg (by omega), if_neg (by omega), if_neg h, ← Nat.cast_sub (by omega), BitVec.ofInt_natCast]

/-! ### Bits and bit fields (R73, R74) -/

theorem reverse_eq_ofFnLE (x : Word) : x.reverse = BitVec.ofFnLE fun k : Fin 32 => x.getLsbD (31 - k) := by
  apply BitVec.eq_of_getLsbD_eq
  intro k hk
  rw [BitVec.getLsbD_reverse, BitVec.getMsbD_eq_getLsbD, BitVec.getLsbD_ofFnLE]
  simp [hk]

theorem bfPos_eq (c : Word) : bfPos c = c.toNat % 32 := by
  simp [bfPos]

theorem bfLen_eq (c : Word) : bfLen c = min (c.toNat / 256 % 32 + 1) (32 - bfPos c) := by
  simp [bfLen, Nat.shiftRight_eq_div_pow]

theorem getLsbD_lowMask (n k : Nat) : (lowMask n).getLsbD k = (decide (k < 32) && decide (k < n)) := by
  simp [lowMask, BitVec.getLsbD_ofNat, Nat.testBit_two_pow_sub_one]

/-- The mask of a field of `n` bits at `pos` covers the field. -/
theorem getLsbD_fieldMask (pos n : Nat) {k : Nat} (hk : k < 32) :
    (lowMask n <<< pos).getLsbD k = decide (pos ≤ k ∧ k < pos + n) := by
  rw [BitVec.getLsbD_shiftLeft, getLsbD_lowMask, Bool.eq_iff_iff]
  simp only [Bool.and_eq_true, Bool.not_eq_true', decide_eq_true_eq, decide_eq_false_iff_not]
  omega

/-- The value of a field of `n` bits at `pos`. -/
theorem toNat_field (x : Word) (pos n : Nat) (hn : n ≤ 32) :
    ((x >>> pos) &&& lowMask n).toNat = x.toNat / 2 ^ pos % 2 ^ n := by
  have hp : 2 ^ n ≤ 2 ^ 32 := Nat.pow_le_pow_right (by decide) hn
  have hm : (lowMask n).toNat = 2 ^ n - 1 := by
    have := Nat.two_pow_pos n
    rw [lowMask, BitVec.toNat_ofNat, Nat.mod_eq_of_lt (by omega)]
  rw [BitVec.toNat_and, hm, Nat.and_two_pow_sub_one_eq_mod, BitVec.toNat_ushiftRight, Nat.shiftRight_eq_div_pow]

/-- Its top bit is its sign. -/
theorem field_sign (f : Word) (n : Nat) (h1 : 1 ≤ n) (hf : f.toNat < 2 ^ n) :
    f.getLsbD (n - 1) = decide (2 ^ n ≤ 2 * f.toNat) := by
  obtain ⟨m, rfl⟩ := Nat.exists_eq_add_of_le' h1
  rw [Nat.pow_succ] at *
  rw [Nat.add_sub_cancel, ← BitVec.testBit_toNat]
  by_cases h : 2 ^ m ≤ f.toNat
  · rw [Nat.testBit_of_two_pow_le_and_two_pow_add_one_gt h (by rw [Nat.pow_succ]; omega)]
    exact (decide_eq_true (by omega)).symm
  · rw [Nat.testBit_lt_two_pow (by omega)]
    exact (decide_eq_false (by omega)).symm

theorem ofNat_two_pow (w n : Nat) : BitVec.ofNat w (2 ^ n) = BitVec.twoPow w n :=
  BitVec.eq_of_toNat_eq (by rw [BitVec.toNat_ofNat, BitVec.toNat_twoPow])

theorem ofInt_two_pow (w n : Nat) : BitVec.ofInt w (2 ^ n) = BitVec.twoPow w n := by
  rw [← ofNat_two_pow, ← BitVec.ofInt_natCast, Nat.cast_pow]
  rfl

/-- The ones above `n` low bits are minus 2 to the `n`. -/
theorem compl_lowMask (n : Nat) : ~~~(lowMask n) = -BitVec.twoPow 32 n := by
  have h : lowMask n + 1#32 = BitVec.twoPow 32 n := by
    rw [lowMask, ← BitVec.ofNat_add, Nat.sub_add_cancel Nat.one_le_two_pow, ofNat_two_pow]
  rw [← h, BitVec.neg_add, BitVec.not_eq_neg_add]

/-- Ones above a field take 2 to its length from its value. -/
theorem or_not_lowMask (x : Word) (n : Nat) :
    x &&& lowMask n ||| ~~~(lowMask n) = BitVec.ofInt 32 (((x &&& lowMask n).toNat : Int) - 2 ^ n) := by
  have hd : (x &&& lowMask n) &&& ~~~(lowMask n) = 0#32 := by rw [BitVec.and_assoc]; simp
  rw [← BitVec.add_eq_or_of_and_eq_zero _ _ hd, compl_lowMask, Int.sub_eq_add_neg, BitVec.ofInt_add, BitVec.ofInt_neg,
    ofInt_two_pow, BitVec.ofInt_natCast, BitVec.ofNat_toNat, BitVec.setWidth_eq]

/-- BFX: the field's value, or under SIGN the number that it is in two's complement (R74). -/
theorem bfxRes_eq (x c : Word) :
    bfxRes x c =
      let pos := c.toNat % 32
      let n := min (c.toNat / 256 % 32 + 1) (32 - pos)
      let v := x.toNat / 2 ^ pos % 2 ^ n
      if c.getLsbD 16 then BitVec.ofInt 32 (if 2 ^ n ≤ 2 * v then (v : Int) - 2 ^ n else v) else BitVec.ofNat 32 v := by
  have h1 : 1 ≤ bfLen c := by rw [bfLen_eq, bfPos_eq]; omega
  have h32 : bfLen c ≤ 32 := by rw [bfLen_eq]; omega
  have hv := toNat_field x (bfPos c) (bfLen c) h32
  have hs := field_sign _ _ h1 (hv.trans_lt (Nat.mod_lt _ (Nat.two_pow_pos _)))
  simp only [← bfPos_eq, ← bfLen_eq]
  have hw : BitVec.ofNat 32 ((x >>> bfPos c) &&& lowMask (bfLen c)).toNat = (x >>> bfPos c) &&& lowMask (bfLen c) := by
    rw [BitVec.ofNat_toNat, BitVec.setWidth_eq]
  simp only [bfxRes, hs, or_not_lowMask, ← hv]
  cases c.getLsbD 16
  case false => exact hw.symm
  case true =>
    simp only [Bool.true_and, decide_eq_true_eq, if_true]
    split
    · rfl
    · rw [BitVec.ofInt_natCast, hw]

/-- BFI: the bits of the field come from the bits of the value at 0, the others stay (R74). -/
theorem bfiRes_eq (v x c : Word) :
    bfiRes v x c =
      let pos := c.toNat % 32
      let n := min (c.toNat / 256 % 32 + 1) (32 - pos)
      BitVec.ofFnLE fun k : Fin 32 => if pos ≤ k ∧ k < pos + n then x.getLsbD (k - pos) else v.getLsbD k := by
  simp only [← bfPos_eq, ← bfLen_eq]
  apply BitVec.eq_of_getLsbD_eq
  intro k hk
  simp only [bfiRes, BitVec.getLsbD_or, BitVec.getLsbD_and, BitVec.getLsbD_not, getLsbD_fieldMask _ _ hk,
    BitVec.getLsbD_shiftLeft, BitVec.getLsbD_ofFnLE, hk, dif_pos, decide_true, Bool.true_and]
  by_cases h : bfPos c ≤ k ∧ k < bfPos c + bfLen c
  · simp [h]
  · simp [h]

/-! ### Immediates (R55, R79) -/

@[simp] theorem immS_none {w : Nat} (f : BitVec w) : immS none f = f.signExtend 32 := rfl

@[simp] theorem immZ_none {w : Nat} (f : BitVec w) : immZ none f = BitVec.ofNat 32 f.toNat :=
  (BitVec.ofNat_toNat ..).symm

/-- A hint's payload above a field of 9 bits or more fills the word. -/
theorem signExtend_payload {w : Nat} (hw : 9 ≤ w) (h : BitVec 23) (f : BitVec w) :
    (h ++ f).signExtend 32 = BitVec.ofNat 32 (h.toNat * 2 ^ w + f.toNat) := by
  rw [BitVec.signExtend_eq_setWidth_of_le _ (by omega), ← Laws.Encoding.app_nat, BitVec.ofNat_toNat]

theorem immS_some_wide {w : Nat} (hw : 9 ≤ w) (h : BitVec 23) (f : BitVec w) :
    immS (some h) f = BitVec.ofNat 32 (h.toNat * 2 ^ w + f.toNat) := signExtend_payload hw h f

theorem immZ_some_wide {w : Nat} (hw : 9 ≤ w) (h : BitVec 23) (f : BitVec w) :
    immZ (some h) f = BitVec.ofNat 32 (h.toNat * 2 ^ w + f.toNat) := signExtend_payload hw h f

/-- A hint's payload above the 7 bits of a compare's immediate is a signed number of 30 bits (R86). -/
theorem immS_some_compare (h : BitVec 23) (i : BitVec 7) :
    immS (some h) i = BitVec.ofInt 32
      (if 2 ^ 29 ≤ h.toNat * 128 + i.toNat then ((h.toNat * 128 + i.toNat : Nat) : Int) - 2 ^ 30
       else ((h.toNat * 128 + i.toNat : Nat) : Int)) := by
  refine congrArg (BitVec.ofInt 32) ?_
  rw [BitVec.toInt_eq_toNat_cond, Laws.Encoding.app_nat]
  split
  case isTrue h => exact (if_neg (by omega)).symm
  case isFalse h => exact (if_pos (by omega)).symm

/-- SHI's amount is below 32, so that each kind is the plain shift (R80). -/
theorem shiRes_eq (k : BitVec 2) (x : Word) (n : BitVec 5) :
    shiRes k x n.toNat = if k = 0 then x <<< n.toNat else if k = 1 then x >>> n.toNat else x.sshiftRight n.toNat := by
  have h : ¬ 32 ≤ n.toNat := by have := n.isLt; omega
  simp only [shiRes, shlRes, shrRes, sraRes, h, if_false]

/-! ### 64-bit and address arithmetic (R83 to R85) -/

theorem mulwRes_signed (t : Thread) (a b : Nat) :
    mulwRes t 1 a b = BitVec.ofInt 64 ((t.g a).toInt * (t.g b).toInt) := (BitVec.ofInt_mul ..).symm

theorem mulwRes_unsigned (t : Thread) (a b : Nat) :
    mulwRes t 2 a b = BitVec.ofNat 64 ((t.g a).toNat * (t.g b).toNat) := by
  rw [BitVec.ofNat_mul, BitVec.ofNat_toNat, BitVec.ofNat_toNat]
  rfl

theorem leawRes_eq (f : BitVec 2) (x : DWord) (y : Word) :
    leawRes f x y = x + BitVec.ofInt 64 (y.toInt * 2 ^ f.toNat) := by
  rw [leawRes, BitVec.shiftLeft_eq_mul_twoPow, BitVec.ofInt_mul, ofInt_two_pow]
  rfl

theorem ldpcRes_eq (base : DWord) (pc imm : Word) :
    ldpcRes base pc imm = base + pc.setWidth 64 + BitVec.ofInt 64 (4 * imm.toInt) := by
  rw [BitVec.ofInt_mul]
  rfl

/-! ### Compare conditions (R86) -/

section Conditions
variable {n : Nat} (x y : BitVec n)

theorem icond_eq : icond 0 x y = decide (x = y) := rfl

theorem icond_ne : icond 1 x y = decide (x ≠ y) := (decide_not ..).symm

theorem icond_lt_signed : icond 2 x y = decide (x.toInt < y.toInt) := rfl

theorem icond_ge_signed : icond 3 x y = decide (y.toInt ≤ x.toInt) :=
  (decide_not ..).symm.trans (decide_eq_decide.mpr not_lt)

theorem icond_lt_unsigned : icond 4 x y = decide (x.toNat < y.toNat) := rfl

theorem icond_ge_unsigned : icond 5 x y = decide (y.toNat ≤ x.toNat) :=
  (decide_not ..).symm.trans (decide_eq_decide.mpr not_lt)

theorem icond_any_bit : icond 6 x y = decide (x &&& y ≠ 0) := (decide_not ..).symm

theorem icond_no_bit : icond 7 x y = decide (x &&& y = 0) := rfl

end Conditions

/-! ### The statements -/

/-- Settles O1: each result is the one that the model's arm writes. -/
theorem integerArithmeticWritesResult : Obligations.IntegerArithmeticWritesResult := fun _ _ _ _ _ =>
  ⟨computes_of_alu fun _ => rfl, computes_of_alu fun _ => rfl, computes_of_alu fun _ => rfl,
    computes_of_alu fun _ => rfl, computes_of_alu fun _ => rfl, computes_of_alu fun _ => rfl,
    computes_of_alu fun _ => rfl, computes_of_alu fun _ => rfl, computes_of_alu fun _ => rfl⟩

/-- Settles O2: the amount is the register as a natural number, compared with 32 before the shift. -/
theorem shiftsTakeTheWholeAmount : Obligations.ShiftsTakeTheWholeAmount := fun _ _ _ _ =>
  ⟨computes_of_alu fun _ => rfl, computes_of_alu fun _ => rfl, computes_of_alu fun _ => rfl⟩

/-- Settles O3: ABS by `Thread.setGI_absRes`, BREV bit by bit. -/
theorem minMaxAbsAndCounts : Obligations.MinMaxAbsAndCounts := by
  intro e d a b f
  refine ⟨computes_of_alu fun _ => rfl, computes_of_alu fun _ => rfl, ?abs, computes_of_alu fun _ => rfl,
    computes_of_alu fun _ => rfl, ?brev⟩
  case abs => exact (computes_of_alu fun _ => rfl).congr fun _ _ _ => Thread.setGI_absRes ..
  case brev => exact (computes_of_alu fun _ => rfl).congr fun _ t x => congrArg (x.setG _) (reverse_eq_ofFnLE _)

/-- Settles O4, by the value of a field (`bfxRes_eq`) and the bits that replace one (`bfiRes_eq`). -/
theorem bitFieldsAreCutAtBit31 : Obligations.BitFieldsAreCutAtBit31 := by
  intro e d a b p
  refine ⟨?bfx, ?bfi, computes_of_alu fun _ => rfl⟩
  case bfx => exact (computes_of_alu fun _ => rfl).congr fun _ t x => congrArg (x.setG _) (bfxRes_eq ..)
  case bfi => exact (computes_of_alu fun _ => rfl).congr fun _ t x => congrArg (x.setG _) (bfiRes_eq ..)

/-- Settles O5, each variant by what it writes and the flag it merges. -/
theorem divisionTruncatesTowardZero : Obligations.DivisionTruncatesTowardZero := fun _ _ _ _ =>
  ⟨(computes_of_alu fun _ => rfl).congr fun _ _ _ => Thread.setGI_divRes_signed ..,
    (computes_of_alu fun _ => rfl).congr fun _ _ _ => Thread.setGI_divRes_unsigned ..,
    (computes_of_alu fun _ => rfl).congr fun _ _ _ => Thread.setGI_remRes_signed ..,
    (computes_of_alu fun _ => rfl).congr fun _ _ _ => Thread.setGI_remRes_unsigned ..⟩

/-- Settles O6: a signed sum clamps at both ends, an unsigned one at the end that it can pass. -/
theorem saturatingAddsClamp : Obligations.SaturatingAddsClamp := fun _ _ _ _ =>
  ⟨(computes_of_alu fun _ => rfl).congr fun _ _ _ => Thread.setGI_satS ..,
    (computes_of_alu fun _ => rfl).congr fun _ _ _ => Thread.setGI_satS ..,
    (computes_of_alu fun _ => rfl).congr fun _ _ _ => Thread.setGI_addsRes_unsigned ..,
    (computes_of_alu fun _ => rfl).congr fun _ _ _ => Thread.setGI_subsRes_unsigned ..⟩

/-- SHI of any kind (R80). -/
theorem computes_shi (e : Bool) (d a : BitVec 7) (k : BitVec 2) (n : BitVec 5) :
    Computes (.shi e d a k n) fun _ t x => x.setG d.toNat
      (if k = 0 then t.g a.toNat <<< n.toNat else if k = 1 then t.g a.toNat >>> n.toNat
       else (t.g a.toNat).sshiftRight n.toNat) :=
  (computes_of_alu fun _ => rfl).congr fun _ _ x => congrArg (x.setG _) (shiRes_eq ..)

/-- Settles O7: the instructions read `immS` and `immZ`, whose cases are the field alone and the field under HIMM. -/
theorem immediatesExtendOrTakeTheHint : Obligations.ImmediatesExtendOrTakeTheHint := fun e d a j i n =>
  ⟨computes_of_alu fun _ => rfl, computes_of_alu fun _ => rfl, computes_of_alu fun _ => rfl,
    computes_of_alu fun _ => rfl, computes_of_alu fun _ => rfl,
    computes_shi e d a 0 n, computes_shi e d a 1 n, computes_shi e d a 2 n, computes_of_alu fun _ => rfl,
    immS_none j, immS_none i, immZ_none i,
    fun h => ⟨immS_some_wide (by decide) h j, immS_some_wide (by decide) h i, immZ_some_wide (by decide) h i⟩⟩

/-- Settles O8: products, scaled indices and word offsets are exact before they are cut to 64 bits. -/
theorem wideAndAddressArithmetic : Obligations.WideAndAddressArithmetic := by
  intro e d a b f j
  refine ⟨computes_of_alu fun _ => rfl, computes_of_alu fun _ => rfl, computes_of_alu fun _ => rfl, ?muls, ?mulz,
    computes_of_alu fun _ => rfl, computes_of_alu fun _ => rfl, computes_of_alu fun _ => rfl, ?leaw,
    computes_of_alu fun _ => rfl, ?ldpc⟩
  case muls => exact (computes_of_alu fun _ => rfl).congr fun _ _ x => congrArg (x.setW _) (mulwRes_signed ..)
  case mulz => exact (computes_of_alu fun _ => rfl).congr fun _ _ x => congrArg (x.setW _) (mulwRes_unsigned ..)
  case leaw => exact (computes_of_alu fun _ => rfl).congr fun _ _ x => congrArg (x.setW _) (leawRes_eq ..)
  case ldpc =>
    intro s g ts hi
    have hw : exec (.ldpc e d j) s = word (.ldpc e d j) (alu fun cx _ x =>
        x.setW d.toNat (ldpcRes (s.slice cx.slice).codeBase cx.pc (immS cx.himm j))) s := rfl
    rw [hw, word_alu hi]
    exact State.lanes_congr fun _ x => congrArg (x.setW _) (ldpcRes_eq ..)

/-- Settles O9: the compares write `icond`, one of the eight conditions. -/
theorem comparesWriteTheirCondition : Obligations.ComparesWriteTheirCondition := fun _ _ _ _ _ i =>
  ⟨computes_of_alu fun _ => rfl, computes_of_alu fun _ => rfl, computes_of_alu fun _ => rfl,
    computes_of_alu fun _ => rfl,
    fun _ x y => ⟨icond_eq x y, icond_ne x y, icond_lt_signed x y, icond_ge_signed x y, icond_lt_unsigned x y,
      icond_ge_unsigned x y, icond_any_bit x y, icond_no_bit x y⟩,
    immS_none i, fun h => immS_some_compare h i⟩

end Sys2Proof.Machine
end

section
/-! Control and divergence (spec/04): the instructions whose whole effect is a fault. -/

namespace Sys2Proof.Machine

/-- An instruction whose meaning is a fault of each live thread raises it in each acting thread. -/
theorem raises_of_lanewise {i : Instr} {f : Cx → Thread → FaultInfo}
    (h : ∀ s, exec i s = word i (lanewise fun cx t => .error (f cx t)) s) : Raises i f :=
  fun s _ _ hi => (h s).trans (word_raises hi)

/-- TRAP (R111): under HIMM, `immZ` is the code of 32 bits. -/
theorem raises_trap (e : Bool) (i : BitVec 9) :
    Raises (.trap e i) fun cx _ => ⟨0x10, 0, (immZ cx.himm i).setWidth 64, none⟩ :=
  raises_of_lanewise fun _ => rfl

/-- BRK (R118). -/
theorem raises_brk (e : Bool) (c : BitVec 23) : Raises (.brk e c) fun _ _ => ⟨0x0F, 1, c.setWidth 64, none⟩ :=
  raises_of_lanewise fun _ => rfl

/-- Settles O18: the only effect of either instruction is the fault that it raises, with no tile named. -/
theorem trapAndBreakRaiseTheirFault : Obligations.TrapAndBreakRaiseTheirFault := fun e i c =>
  ⟨raises_trap e i, raises_brk e c⟩

end Sys2Proof.Machine
end

section
/-! The encoding (spec/02): a word that the decoder accepts is the encoding of what it is read as, opcode by
opcode of the opcode map, and the statements about encoder and decoder. -/

namespace Sys2Proof.Words
open Laws.Encoding (app_nat opcode_pack)

theorem chk_eq_ok {res w : Word} {nf : Bool} {i j : Instr} (h : chk res nf w i = .ok j) :
    w &&& res = 0#32 ∧ (nf = true → w.toNat % 4 = 0) ∧ i = j := by
  unfold chk at h
  split at h
  · cases h
  case isFalse hz =>
    split at h
    · cases h
    case isFalse hf =>
      cases h
      refine ⟨by simpa using hz, fun hn => ?_, rfl⟩
      simp only [hn, Bool.true_and, bne_iff_ne, ne_eq, not_not] at hf
      have := congrArg BitVec.toNat hf
      simpa [BitVec.extractLsb'_toNat] using this

/-- A word is its switch bit, its opcode and its payload. -/
theorem pack_parts {w : Word} {op : BitVec 8} {pl : BitVec 23} (ho : opcodeOf w = op.toNat)
    (hp : pl.toNat = w.toNat % 2 ^ 23) : pack (sBit w) op pl = w := by
  have hs : (sBit w).toNat = w.toNat / 2 ^ 31 := by
    rw [sBit, ← BitVec.testBit_toNat, Nat.toNat_testBit]
    have := w.isLt
    omega
  unfold opcodeOf at ho
  rw [BitVec.extractLsb'_toNat, Nat.shiftRight_eq_div_pow] at ho
  apply BitVec.eq_of_toNat_eq
  unfold pack
  erw [app_nat, app_nat]
  rw [BitVec.toNat_ofBool, hs, hp, ← ho]
  omega

/-- A word whose bits of one field are 0. -/
theorem and_field_eq_zero_iff (w : Word) (a n : Nat) (m : Word) (hm : m.toNat = (2 ^ n - 1) * 2 ^ a) :
    w &&& m = 0#32 ↔ w.toNat / 2 ^ a % 2 ^ n = 0 := by
  rw [← BitVec.toNat_inj, BitVec.toNat_and, hm]
  have : w.toNat &&& (2 ^ n - 1) * 2 ^ a = w.toNat / 2 ^ a % 2 ^ n * 2 ^ a := by
    apply Nat.eq_of_testBit_eq
    intro k
    rw [Nat.testBit_and, Nat.testBit_mul_two_pow, Nat.testBit_mul_two_pow, Nat.testBit_two_pow_sub_one,
      Nat.testBit_mod_two_pow, Nat.testBit_div_two_pow]
    by_cases hk : a ≤ k
    · simp [hk, Bool.and_comm]
    · simp [hk]
  rw [this]
  simp

theorem and_fields_eq_zero_iff (w : Word) (a n b k : Nat) (m : Word)
    (hm : m = BitVec.ofNat 32 ((2 ^ n - 1) * 2 ^ a) ||| BitVec.ofNat 32 ((2 ^ k - 1) * 2 ^ b))
    (ha : (2 ^ n - 1) * 2 ^ a < 2 ^ 32) (hb : (2 ^ k - 1) * 2 ^ b < 2 ^ 32):
    w &&& m = 0#32 ↔ w.toNat / 2 ^ a % 2 ^ n = 0 ∧ w.toNat / 2 ^ b % 2 ^ k = 0 := by
  rw [hm, BitVec.and_or_distrib_left, BitVec.or_eq_zero_iff, and_field_eq_zero_iff w a n _ (by simpa using ha),
    and_field_eq_zero_iff w b k _ (by simpa using hb)]


/-! ### The masks of reserved bits, as fields -/

section Masks
variable (w : Word)

@[simp] theorem and_none : w &&& (0x0 : Word) = 0#32 ↔ True := by simp
theorem and_3FFF : w &&& (0x3FFF : Word) = 0#32 ↔ w.toNat / 2 ^ 0 % 2 ^ 14 = 0 := and_field_eq_zero_iff w 0 14 _ rfl
theorem and_7F0000 : w &&& (0x7F0000 : Word) = 0#32 ↔ w.toNat / 2 ^ 16 % 2 ^ 7 = 0 := and_field_eq_zero_iff w 16 7 _ rfl
theorem and_7FFFFF : w &&& (0x7FFFFF : Word) = 0#32 ↔ w.toNat / 2 ^ 0 % 2 ^ 23 = 0 := and_field_eq_zero_iff w 0 23 _ rfl
theorem and_FFFFF : w &&& (0xFFFFF : Word) = 0#32 ↔ w.toNat / 2 ^ 0 % 2 ^ 20 = 0 := and_field_eq_zero_iff w 0 20 _ rfl
theorem and_1FC : w &&& (0x1FC : Word) = 0#32 ↔ w.toNat / 2 ^ 2 % 2 ^ 7 = 0 := and_field_eq_zero_iff w 2 7 _ rfl
theorem and_7 : w &&& (0x7 : Word) = 0#32 ↔ w.toNat / 2 ^ 0 % 2 ^ 3 = 0 := and_field_eq_zero_iff w 0 3 _ rfl
theorem and_180 : w &&& (0x180 : Word) = 0#32 ↔ w.toNat / 2 ^ 7 % 2 ^ 2 = 0 := and_field_eq_zero_iff w 7 2 _ rfl
theorem and_FFFC : w &&& (0xFFFC : Word) = 0#32 ↔ w.toNat / 2 ^ 2 % 2 ^ 14 = 0 := and_field_eq_zero_iff w 2 14 _ rfl
theorem and_4 : w &&& (0x4 : Word) = 0#32 ↔ w.toNat / 2 ^ 2 % 2 ^ 1 = 0 := and_field_eq_zero_iff w 2 1 _ rfl
theorem and_C : w &&& (0xC : Word) = 0#32 ↔ w.toNat / 2 ^ 2 % 2 ^ 2 = 0 := and_field_eq_zero_iff w 2 2 _ rfl
theorem and_7FFFFC : w &&& (0x7FFFFC : Word) = 0#32 ↔ w.toNat / 2 ^ 2 % 2 ^ 21 = 0 := and_field_eq_zero_iff w 2 21 _ rfl
theorem and_7FFE00 : w &&& (0x7FFE00 : Word) = 0#32 ↔ w.toNat / 2 ^ 9 % 2 ^ 14 = 0 := and_field_eq_zero_iff w 9 14 _ rfl
theorem and_7FFFC0 : w &&& (0x7FFFC0 : Word) = 0#32 ↔ w.toNat / 2 ^ 6 % 2 ^ 17 = 0 := and_field_eq_zero_iff w 6 17 _ rfl
theorem and_1F0 : w &&& (0x1F0 : Word) = 0#32 ↔ w.toNat / 2 ^ 4 % 2 ^ 5 = 0 := and_field_eq_zero_iff w 4 5 _ rfl
theorem and_20 : w &&& (0x20 : Word) = 0#32 ↔ w.toNat / 2 ^ 5 % 2 ^ 1 = 0 := and_field_eq_zero_iff w 5 1 _ rfl
theorem and_1C0 : w &&& (0x1C0 : Word) = 0#32 ↔ w.toNat / 2 ^ 6 % 2 ^ 3 = 0 := and_field_eq_zero_iff w 6 3 _ rfl
theorem and_7F01FC : w &&& (0x7F01FC : Word) = 0#32 ↔ w.toNat / 2 ^ 16 % 2 ^ 7 = 0 ∧ w.toNat / 2 ^ 2 % 2 ^ 7 = 0 :=
  and_fields_eq_zero_iff w 16 7 2 7 _ rfl (by decide) (by decide)
theorem and_70FF00 : w &&& (0x70FF00 : Word) = 0#32 ↔ w.toNat / 2 ^ 20 % 2 ^ 3 = 0 ∧ w.toNat / 2 ^ 8 % 2 ^ 8 = 0 :=
  and_fields_eq_zero_iff w 20 3 8 8 _ rfl (by decide) (by decide)

end Masks


/-! ### The common layouts -/

section Layouts
variable {w : Word} {i : Instr} {op : BitVec 8}

/-- An opcode with three registers and a variant. -/
theorem encode_dabf {c : Bool → BitVec 7 → BitVec 7 → BitVec 7 → BitVec 2 → Instr} (hc : ∀ e d a b f, encode
    (c e d a b f) = some (pack e op (d ++ a ++ b ++ f)))
    (ho : opcodeOf w = op.toNat) (h : chk 0x0 false w (c (sBit w) (w.extractLsb' 16 7) (w.extractLsb' 9 7)
      (w.extractLsb' 2 7) (w.extractLsb' 0 2)) = .ok i) : encode i = some w := by
  obtain ⟨hz, hf, rfl⟩ := chk_eq_ok h
  rw [hc, pack_parts ho]
  erw [app_nat]
  simp only [app_nat, BitVec.extractLsb'_toNat, Nat.shiftRight_eq_div_pow]
  omega

/-- An opcode with three registers. -/
theorem encode_dab {c : Bool → BitVec 7 → BitVec 7 → BitVec 7 → Instr} (hc : ∀ e d a b, encode (c e d a b) = some
    (pack e op (d ++ a ++ b ++ 0#2)))
    (ho : opcodeOf w = op.toNat) (h : chk 0x0 true w (c (sBit w) (w.extractLsb' 16 7) (w.extractLsb' 9 7)
      (w.extractLsb' 2 7)) = .ok i) : encode i = some w := by
  obtain ⟨hz, hf, rfl⟩ := chk_eq_ok h
  rw [hc, pack_parts ho]
  erw [app_nat]
  simp only [app_nat, BitVec.extractLsb'_toNat, Nat.shiftRight_eq_div_pow, BitVec.toNat_ofNat, forall_const] at *
  omega

/-- An opcode with two registers. -/
theorem encode_da {c : Bool → BitVec 7 → BitVec 7 → Instr} (hc : ∀ e d a, encode (c e d a) = some (pack e op
    (d ++ a ++ 0#9)))
    (ho : opcodeOf w = op.toNat) (h : chk 0x1FC true w (c (sBit w) (w.extractLsb' 16 7) (w.extractLsb' 9 7)) = .ok i) :
    encode i = some w := by
  obtain ⟨hz, hf, rfl⟩ := chk_eq_ok h
  rw [hc, pack_parts ho]
  erw [app_nat]
  simp only [app_nat, and_1FC, BitVec.extractLsb'_toNat, Nat.shiftRight_eq_div_pow, BitVec.toNat_ofNat,
    forall_const] at *
  omega

/-- An opcode with two registers and an offset of 9 bits. -/
theorem encode_dai {c : Bool → BitVec 7 → BitVec 7 → BitVec 9 → Instr} (hc : ∀ e d a i, encode (c e d a i) = some
    (pack e op (d ++ a ++ i)))
    (ho : opcodeOf w = op.toNat) (h : chk 0x0 false w (c (sBit w) (w.extractLsb' 16 7) (w.extractLsb' 9 7)
      (w.extractLsb' 0 9)) = .ok i) : encode i = some w := by
  obtain ⟨hz, hf, rfl⟩ := chk_eq_ok h
  rw [hc, pack_parts ho]
  erw [app_nat]
  simp only [app_nat, BitVec.extractLsb'_toNat, Nat.shiftRight_eq_div_pow]
  omega

/-- An opcode with two registers and a variant. -/
theorem encode_daf {c : Bool → BitVec 7 → BitVec 7 → BitVec 2 → Instr} (hc : ∀ e d a f, encode (c e d a f) = some
    (pack e op (d ++ a ++ 0#7 ++ f)))
    (ho : opcodeOf w = op.toNat) (h : chk 0x1FC false w (c (sBit w) (w.extractLsb' 16 7) (w.extractLsb' 9 7)
      (w.extractLsb' 0 2)) = .ok i) : encode i = some w := by
  obtain ⟨hz, hf, rfl⟩ := chk_eq_ok h
  rw [hc, pack_parts ho]
  erw [app_nat]
  simp only [app_nat, and_1FC, BitVec.extractLsb'_toNat, Nat.shiftRight_eq_div_pow, BitVec.toNat_ofNat,
    Bool.false_eq_true, false_implies] at *
  omega

/-- An opcode with one source register. -/
theorem encode_a {c : Bool → BitVec 7 → Instr} (hc : ∀ e a, encode (c e a) = some (pack e op (0#7 ++ a ++ 0#9)))
    (ho : opcodeOf w = op.toNat) (h : chk 0x7F01FC true w (c (sBit w) (w.extractLsb' 9 7)) = .ok i) :
    encode i = some w := by
  obtain ⟨hz, hf, rfl⟩ := chk_eq_ok h
  rw [hc, pack_parts ho]
  erw [app_nat]
  simp only [app_nat, and_7F01FC, BitVec.extractLsb'_toNat, Nat.shiftRight_eq_div_pow, forall_const,
    BitVec.toNat_ofNat] at *
  omega

/-- An opcode with one destination register. -/
theorem encode_d {c : Bool → BitVec 7 → Instr} (hc : ∀ e d, encode (c e d) = some (pack e op (d ++ 0#16)))
    (ho : opcodeOf w = op.toNat) (h : chk 0xFFFC true w (c (sBit w) (w.extractLsb' 16 7)) = .ok i) :
    encode i = some w := by
  obtain ⟨hz, hf, rfl⟩ := chk_eq_ok h
  rw [hc, pack_parts ho]
  erw [app_nat]
  simp only [and_FFFC, BitVec.extractLsb'_toNat, Nat.shiftRight_eq_div_pow, forall_const, BitVec.toNat_ofNat] at *
  omega

/-- An opcode with a register and an immediate of 16 bits. -/
theorem encode_di {c : Bool → BitVec 7 → BitVec 16 → Instr} (hc : ∀ e d i, encode (c e d i) = some (pack e op (d ++ i)))
    (ho : opcodeOf w = op.toNat) (h : chk 0x0 false w (c (sBit w) (w.extractLsb' 16 7) (w.extractLsb' 0 16)) = .ok i) :
    encode i = some w := by
  obtain ⟨hz, hf, rfl⟩ := chk_eq_ok h
  rw [hc, pack_parts ho]
  erw [app_nat]
  simp only [BitVec.extractLsb'_toNat, Nat.shiftRight_eq_div_pow]
  omega

/-- An opcode with two source registers and a variant. -/
theorem encode_abf {c : Bool → BitVec 7 → BitVec 7 → BitVec 2 → Instr} (hc : ∀ e a b f, encode (c e a b f) = some
    (pack e op (0#7 ++ a ++ b ++ f)))
    (ho : opcodeOf w = op.toNat) (h : chk 0x7F0000 false w (c (sBit w) (w.extractLsb' 9 7) (w.extractLsb' 2 7)
      (w.extractLsb' 0 2)) = .ok i) : encode i = some w := by
  obtain ⟨hz, hf, rfl⟩ := chk_eq_ok h
  rw [hc, pack_parts ho]
  erw [app_nat]
  simp only [app_nat, and_7F0000, BitVec.extractLsb'_toNat, Nat.shiftRight_eq_div_pow, BitVec.toNat_ofNat] at *
  omega

/-- A trailer, whose switch bit is set. -/
theorem encode_trl (ho : opcodeOf w = 4)
    (h : (if sBit w = true then .ok (.trl (w.extractLsb' 0 23)) else .error .trailer : Except Ill Instr) = .ok i) :
    encode i = some w := by
  split at h
  case isTrue hs =>
    cases h
    have hp : pack (sBit w) 4#8 (w.extractLsb' 0 23) = w := pack_parts ho (by simp [BitVec.extractLsb'_toNat])
    rw [hs] at hp
    exact congrArg some hp
  case isFalse => cases h

end Layouts

set_option maxRecDepth 20000 in
/-- The opcodes that several instructions share. -/
theorem encode_of_parse_shared {v : Nat} {w : Word} {i : Instr} (h : parse v w = .ok i)
    (ho : opcodeOf w = 0x07 ∨ opcodeOf w = 0x94 ∨ opcodeOf w = 0xB6 ∨ opcodeOf w = 0xC8 ∨ opcodeOf w = 0xD0 ∨
      opcodeOf w = 0xD2 ∨ opcodeOf w = 0xD8 ∨ opcodeOf w = 0xE1 ∨ opcodeOf w = 0xE2 ∨ opcodeOf w = 0xE3) :
    encode i = some w := by
  rcases ho with ho | ho | ho | ho | ho | ho | ho | ho | ho | ho
  all_goals
    unfold parse at h
    rw [ho] at h
    conv at h => lhs; whnf
  any_goals split at h
  any_goals cases h
  any_goals obtain ⟨hz, hf, rfl⟩ := chk_eq_ok h
  all_goals refine congrArg some (pack_parts (by assumption) ?_)
  any_goals erw [app_nat]
  all_goals simp only [app_nat, BitVec.extractLsb'_toNat, Nat.shiftRight_eq_div_pow, BitVec.toNat_ofNat,
    Bool.false_eq_true, false_implies, and_none, and_7F0000, and_FFFFF, and_1FC,
    and_7FFFFC, and_7FFE00, and_7FFFC0, and_7F01FC] at *
  all_goals omega

set_option maxRecDepth 20000 in
/-- The opcodes of four or more fields. -/
theorem encode_of_parse_wide {v : Nat} {w : Word} {i : Instr} (h : parse v w = .ok i)
    (ho : opcodeOf w = 0x05 ∨ opcodeOf w = 0x35 ∨ opcodeOf w = 0x36 ∨ opcodeOf w = 0x56 ∨ opcodeOf w = 0x57 ∨
      opcodeOf w = 0x58 ∨ opcodeOf w = 0xA4 ∨ opcodeOf w = 0xA5) : encode i = some w := by
  rcases ho with ho | ho | ho | ho | ho | ho | ho | ho
  all_goals
    unfold parse at h
    rw [ho] at h
    conv at h => lhs; whnf
  any_goals obtain ⟨hz, hf, rfl⟩ := chk_eq_ok h
  all_goals refine congrArg some (pack_parts (by assumption) ?_)
  any_goals erw [app_nat]
  all_goals simp only [app_nat, BitVec.extractLsb'_toNat, Nat.shiftRight_eq_div_pow, BitVec.toNat_ofNat, forall_const,
    Bool.false_eq_true, false_implies, and_none, and_7F0000, and_180,
    and_4, and_C, and_20] at *
  all_goals omega

set_option maxRecDepth 20000 in
/-- A word that the opcode map accepts is the encoding of what it is read as. -/
theorem encode_of_parse {v : Nat} {w : Word} {i : Instr} (h : parse v w = .ok i) : encode i = some w := by
  have hp := h
  unfold parse at h
  split at h
  case h_13 | h_22 | h_23 | h_31 | h_32 | h_33 | h_34 | h_48 | h_50 | h_51 | h_55 | h_58 | h_59 | h_60 | h_61 |
    h_62 | h_63 | h_75 | h_76 | h_77 | h_78 | h_79 | h_105 | h_106 | h_107 | h_108 | h_114 | h_115 | h_120 | h_122 |
    h_128 | h_133 | h_139 | h_143 | h_150 | h_165 =>
    exact encode_dabf (fun _ _ _ _ _ => rfl) (by assumption) h
  case h_10 | h_11 | h_12 | h_14 | h_15 | h_16 | h_17 | h_18 | h_19 | h_20 | h_21 | h_28 | h_29 | h_46 | h_47 |
    h_49 | h_123 | h_129 | h_130 | h_135 | h_136 | h_138 | h_141 | h_142 | h_148 | h_153 | h_159 | h_161 | h_164 |
    h_167 | h_173 =>
    exact encode_dab (fun _ _ _ _ => rfl) (by assumption) h
  case h_24 | h_25 | h_26 | h_27 | h_42 | h_52 | h_68 | h_70 | h_71 | h_72 | h_73 | h_74 | h_111 | h_116 | h_125 |
    h_126 | h_140 | h_154 | h_156 | h_163 | h_168 | h_169 | h_174 =>
    exact encode_da (fun _ _ _ => rfl) (by assumption) h
  case h_36 | h_37 | h_38 | h_39 | h_91 | h_92 | h_93 | h_94 | h_95 | h_96 | h_97 | h_98 | h_99 | h_100 | h_101 |
    h_102 | h_103 | h_104 =>
    exact encode_dai (fun _ _ _ _ => rfl) (by assumption) h
  case h_67 | h_69 | h_117 | h_121 | h_131 | h_137 | h_145 | h_147 | h_149 | h_151 =>
    exact encode_daf (fun _ _ _ _ => rfl) (by assumption) h
  case h_81 | h_83 | h_85 | h_86 | h_155 | h_157 =>
    exact encode_a (fun _ _ => rfl) (by assumption) h
  case h_127 | h_132 | h_144 | h_162 =>
    exact encode_d (fun _ _ => rfl) (by assumption) h
  case h_9 | h_35 | h_43 | h_44 =>
    exact encode_di (fun _ _ _ => rfl) (by assumption) h
  case h_57 | h_175 | h_176 =>
    exact encode_abf (fun _ _ _ _ => rfl) (by assumption) h
  case h_7 | h_109 | h_134 | h_152 | h_158 | h_160 | h_166 | h_170 | h_171 | h_172 =>
    exact encode_of_parse_shared hp (by simp [*])
  case h_5 | h_40 | h_41 | h_64 | h_65 | h_66 | h_118 | h_119 => exact encode_of_parse_wide hp (by simp [*])
  case h_4 => exact encode_trl (by assumption) h
  any_goals split at h
  any_goals cases h
  any_goals obtain ⟨hz, hf, rfl⟩ := chk_eq_ok h
  all_goals refine congrArg some (pack_parts (by assumption) ?_)
  any_goals erw [app_nat]
  all_goals simp only [app_nat, BitVec.extractLsb'_toNat, Nat.shiftRight_eq_div_pow, BitVec.toNat_ofNat, forall_const,
    Bool.false_eq_true, false_implies, and_none, and_3FFF, and_7FFFFF, and_7,
    and_FFFC, and_7FFFFC, and_7FFE00, and_1F0, and_1C0, and_70FF00] at *
  all_goals omega

set_option maxRecDepth 20000 in
/-- A version assigns the opcodes of the instructions that it has. -/
theorem assigned_of_parse {v : Nat} {w : Word} {i : Instr} (h : parse v w = .ok i) (h1 : 1 ≤ v) (h3 : v ≤ 3) :
    i.inVersion v = assigned v (opcodeOf w) := by
  unfold parse at h
  split at h
  case h_177 => cases h
  all_goals
    rename_i ho
    rw [ho]
  any_goals split at h
  any_goals cases h
  case h_45.isTrue.refl hv => rw [hv]; rfl
  case h_45.isFalse.refl hv =>
    obtain rfl | rfl : v = 2 ∨ v = 3 := by omega
    all_goals rfl
  any_goals obtain ⟨-, -, rfl⟩ := chk_eq_ok h
  all_goals
    obtain rfl | rfl | rfl : v = 1 ∨ v = 2 ∨ v = 3 := by omega
    all_goals rfl

set_option maxRecDepth 20000 in
/-- The opcode map differs between versions in one opcode alone, and there only between version 1 and the others
(R64). -/
theorem parse_eq_of_version {v u : Nat} {w : Word} (h : opcodeOf w = 0x3A → (v = 1 ↔ u = 1)) :
    parse v w = parse u w := by
  unfold parse
  split
  case h_45 ho => simp only [h ho]
  all_goals rfl

set_option maxRecDepth 20000 in
/-- At that opcode version 1 has CMPI_V1 and the others have LDPC (R64). -/
theorem version_of_parse_3A {v u : Nat} {w : Word} {i : Instr} (ho : opcodeOf w = 0x3A) (h : parse u w = .ok i)
    (hv : i.inVersion v = true) : v = 1 ↔ u = 1 := by
  unfold parse at h
  rw [ho] at h
  simp only at h
  split at h
  case isTrue hu =>
    cases h
    simp_all [Instr.inVersion]
  case isFalse hu =>
    cases h
    simp only [Instr.inVersion, decide_eq_true_eq] at hv
    omega

/-- What the decoder reads is what the opcode map gives, where the version assigns the opcode and the checks of the
word pass (R65). -/
theorem decode_ok_iff {v : Nat} {w : Word} {i : Instr} :
    decode v w = .ok i ↔ assigned v (opcodeOf w) = true ∧ parse v w = .ok i ∧ i.wellFormed = true := by
  constructor
  case mp =>
    intro h
    unfold decode at h
    split at h
    · cases h
    case isFalse ha =>
      split at h
      · cases h
      case h_2 j hp =>
        split at h
        · cases h
        · split at h
          · cases h
          · split at h
            · cases h
            · cases h
              simp_all [Instr.wellFormed]
  case mpr =>
    rintro ⟨ha, hp, hw⟩
    exact Laws.Encoding.decode_of hw ha hp

end Sys2Proof.Words

namespace Sys2Proof.Laws.Encoding

/-- Every instruction word is read back under the version that its opcode is first assigned in, constructor by
constructor. -/
theorem statement_of (i : Instr) : Statement i := by
  cases i
  exacts [
    himm _ _, hmod _ _, hgrd _ _ _ _, trl _, hsch _ _ _ _ _, nop _, phaseAnnounce _ _ _ _ _ _, phaseEnd _,
    phaseQuery _, brk _ _, trace _ _ _, add _ _ _ _, sub _ _ _ _, mul _ _ _ _, mulh _ _ _ _ _, mad _ _ _ _,
    and _ _ _ _, or _ _ _ _, xor _ _ _ _, andn _ _ _ _, shl _ _ _ _, shr _ _ _ _, sra _ _ _ _, min _ _ _ _ _,
    max _ _ _ _ _, abs _ _ _, clz _ _ _, popc _ _ _, brev _ _ _, bfx _ _ _ _, bfi _ _ _ _, cmov _ _ _ _,
    div _ _ _ _ _, rem _ _ _ _ _, adds _ _ _ _ _, subs _ _ _ _ _, movi _ _ _, addi _ _ _ _, andi _ _ _ _,
    ori _ _ _ _, xori _ _ _ _, shi _ _ _ _ _, cmpi _ _ _ _ _, cmpiV1 _ _ _ _ _, mov _ _ _, s2g _ _ _, g2s _ _ _,
    ldpc _ _ _, addw _ _ _ _, subw _ _ _ _, mulw _ _ _ _ _, shlw _ _ _ _, shrw _ _ _ _ _, leaw _ _ _ _ _, movw _ _ _,
    cmp _ _ _ _ _, cmpw _ _ _ _ _, plog _ _ _ _ _, p2g _ _ _, g2p _ _ _ _, fadd _ _ _ _ _, fsub _ _ _ _ _,
    fmul _ _ _ _ _, ffma _ _ _ _ _, fmin _ _ _ _ _, fmax _ _ _ _ _, fcmp _ _ _ _ _ _, fcvt _ _ _ _ _,
    icvt _ _ _ _ _ _, rcp _ _ _ _, rsq _ _ _, sqrt _ _ _ _, ex2 _ _ _, lg2 _ _ _, sin _ _ _, cos _ _ _, tanh _ _ _,
    dot4 _ _ _ _ _, dot8 _ _ _ _ _, pack _ _ _ _ _, unpk _ _ _ _ _, scl _ _ _ _ _, br _ _ _ _, jmpi _ _, call _ _,
    calli _ _, ret _, join _ _, exit _ _, trap _ _, land _, yield _, waitc _ _ _, rfeReplay _, rfeSkip _,
    ldb _ _ _ _, ldh _ _ _ _, ldw _ _ _ _, ldd _ _ _ _, ldq _ _ _ _, stb _ _ _ _, sth _ _ _ _, stw _ _ _ _,
    std _ _ _ _, stq _ _ _ _, lds _ _ _ _, sts _ _ _ _, ldpoll _ _ _ _, pref _ _ _ _, aadd _ _ _ _ _, amm _ _ _ _ _,
    alog _ _ _ _ _, acas _ _ _ _ _, fenceAcq _ _, fenceRel _ _, fenceAr _ _, ofence _, cdetect _ _ _, ldacq _ _ _ _,
    strel _ _ _ _, shfl _ _ _ _ _, bcast _ _ _ _ _, ballot _ _ _, vote _ _ _ _, red _ _ _ _ _ _, scan _ _ _ _ _ _ _,
    topk _ _ _ _ _, matchv _ _ _ _, sortkv _ _ _ _ _, regroup _ _ _ _, bar _, cvinit _ _ _, cvsign _ _ _, elect _ _,
    tload _ _ _ _ _, tstore _ _ _ _, tbind _ _ _ _, tzero _ _ _ _, tfree _ _, tmma _ _ _ _ _, tmmas _ _ _ _,
    tadd _ _ _ _, trnd _ _ _ _, tdense _ _ _ _, tlrf _ _ _ _, tscal _ _ _ _ _, tinfo _ _ _, tmova _ _ _ _,
    tmovr _ _ _ _, twait _ _ _ _ _, tlu _ _, ttrs _ _ _ _, tcvt _ _ _ _ _, ttran _ _ _ _, tset _ _ _ _,
    tcopy _ _ _ _, tget _ _ _ _ _, tnorm _ _ _ _, qpush _ _ _, qpushClose _ _, qpop _ _ _ _, xform _ _ _, xwait _ _,
    xcancel _ _ _, coll _ _, popenNew _ _ _, popenReset _ _ _ _, pclaim _ _ _ _, pcloseRet _ _ _ _,
    pcloseSeal _ _ _ _, pbias _ _ _ _, fnew _ _, invoke _ _ _, invh _ _ _ _, fput _ _ _ _ _, fgetWait _ _ _ _,
    fgetPoll _ _ _ _, fbreak _ _ _ _, frel _ _ _, slice _ _ _, cwatchSet _ _ _, cwatchClr _ _ _, tlbinvPage _ _ _,
    tlbinvAsid _ _, tlbinvAll _, ctxsv _ _ _ _, ctxld _ _ _, cflush _ _ _ _, cinv _ _ _ _, runStart _,
    resultReturn _ _, regroupOperation _, kill _, groupActivation _, ageingRotation _, issueStarvation _,
    deferralWindowExpiry _, ldpollTimeout _ _, dirtyLineWriteBack _ _, l1AgeLimit _ _, ownershipGrant _ _,
    hbmWriteBack _, scrub _, uncorrectableError _, pfdoneAcknowledge _, tstatClear _ _, trctlWrite _ _,
    dbgctlHold _ _, dbgctlStop _ _, specialRegisterWrite _ _ _, tileOperationComplete _, arrayOperationStart _,
    bandGating _ _, cadenceUpdate _, apronAnnouncement _, phaseGrant _, phaseOnset _, phaseIdleExpiry _,
    railStepUp _ _, railHoldExpiry _ _, railStepDown _ _, sensorRead _ _, kthermAdjust, transformChunk _,
    transformEnd _, decoderWatchdog _, collectiveComplete _, collectiveMemberTimeout _, cloakroomInvoke _ _ _ _ _ _,
    cloakroomInvh _ _ _ _ _ _ _, cloakroomFgetWaiter _ _ _, cloakroomFput _ _, cloakroomFbreak _ _ _,
    cloakroomFrel _, valueReply _ _ _, brokenReply _ _ _ _, routeUpdate _ _, acknowledgement _ _ _, placement _,
    saveComplete _, restoreComplete _, suspendResume _, contractRelease _, budgetExhausted _, allowanceExpiry _,
    deadlineMiss _, watchEvaluation _, contextSaveComplete _, contextLoadComplete _, linkLevelRetry _, linkDown _,
    linkRetrained _, remoteAccessRequest _ _ _ _, remoteAccessReply _ _ _ _, livenessFlit _, memberFailureDeclared _,
    failureReport _, placementReport _ _ _, supolInvoke _ _ _ _ _, supolInvh _ _ _ _ _ _, fgetNotify _ _ _,
    supolFrel _ _ _, contract _ _ _, rmaRead _ _ _ _ _, rmaWrite _ _ _ _ _, readReg _ _, writeReg _ _ _,
    writeDomain _ _, writeMembers _ _, writeRouteBase _ _, writeInvArgs _ _, writeInvArgsVa _ _, admitCode _ _ _ _,
    retireCode _ _, openSession _ _ _ _, closeSession _ _, quote _ _, getCert _, rasRead _ _, rasClear _ _,
    logRead _ _, debugStop _ _, debugStepPath _ _ _ _, debugStepAll _ _ _, debugResume _ _, contractWithdraw _ _,
    resetCold, resetWarm, resetPartition _, loadFw _ _, managementWatchdog, powerOn _, supolPacketDrop,
    bandPowerUp _ _, correctedError _, collectiveControlMessage _ _ _ _]

end Sys2Proof.Laws.Encoding

namespace Sys2Proof.Words

/-- A word that one version reads is read alike by every other version that has the instruction (R64). -/
theorem decode_of_decode {v u : Nat} {w : Word} {i : Instr} (h : decode u w = .ok i) (h1 : 1 ≤ v) (h3 : v ≤ 3)
    (hv : i.inVersion v = true) : decode v w = .ok i := by
  obtain ⟨-, hp, hw⟩ := decode_ok_iff.mp h
  have hp' : parse v w = .ok i := (parse_eq_of_version fun ho => version_of_parse_3A ho hp hv).trans hp
  exact decode_ok_iff.mpr ⟨(assigned_of_parse hp' h1 h3).symm.trans hv, hp', hw⟩

/-- Settles O47. -/
theorem decodeOfEncode : Obligations.DecodeOfEncode := by
  intro i v hw he h1 h3 hv
  obtain ⟨w, hi⟩ : ∃ w, encode i = some w := by
    cases h : encode i with
    | none => simp [Machine.Instr.isEvent, h] at he
    | some w => exact ⟨w, rfl⟩
  have := Laws.Encoding.statement_of i hw w hi
  exact ⟨w, hi, decode_of_decode this h1 h3 hv⟩

/-- Settles O48. -/
theorem encodeOfDecode : Obligations.EncodeOfDecode := by
  intro v w i h1 h3 h
  obtain ⟨ha, hp, hw⟩ := decode_ok_iff.mp h
  exact ⟨encode_of_parse hp, hw, (assigned_of_parse hp h1 h3).trans ha⟩

set_option maxRecDepth 20000 in
/-- Settles O49, each word by the decoder itself. -/
theorem decodeWords : Obligations.DecodeWords := by
  unfold Obligations.DecodeWords
  decide

end Sys2Proof.Words
end

section
/-! Instructions whose meaning is one effect (spec/03, spec/04, spec/06 to spec/08): the shapes of effect that the
statements speak of, each from the instruction's meaning, and the statements that need little else. -/

namespace Sys2Proof.Machine

/-! ### The shapes of effect -/

section Shapes
variable {α : Type} {i : Instr} {p : Thread → State → Bool} {eff : Cx → Thread → State → State} {w : Far}
  {all : Cx → List Thread → State → State} {chk : Cx → State → Thread → Except FaultInfo α}
  {acc : Cx → Thread → α → State → State} {try_ : Cx → Thread → State → Except FaultInfo State}
  {named : List Nat} {full : Cx → State → Bool} {step : TileStep}

theorem does_of_eachLane (h : ∀ s, exec i s = word i (eachLane fun cx t s => .ok (eff cx t s)) s) : Does i eff :=
  fun s _ _ hi => (h s).trans (word_each hi)

theorem doesTogether_of_whole (h : ∀ s, exec i s = word i (whole all) s) : DoesTogether i all :=
  fun s _ _ hi => (h s).trans (word_together hi)

theorem doesWhen_of_holding
    (h : ∀ s, exec i s = word i (holding p (eachLane fun cx t s => .ok (eff cx t s))) s) : DoesWhen i p eff :=
  fun s _ _ hi hu => (h s).trans (word_when hi hu)

theorem accesses_of_memAct (h : ∀ s, exec i s = word i (memAct chk acc) s) : Accesses i chk acc :=
  fun s _ _ hi hp => (h s).trans (word_access hi hp)

theorem accessesWhen_of_holding (h : ∀ s, exec i s = word i (holding p (memAct chk acc)) s) :
    AccessesWhen i p chk acc :=
  fun s _ _ hi hu hp => (h s).trans (word_access_when hi hu hp)

theorem accessesFar_of_holding (h : ∀ s, exec i s = wordFar i w (holding p (memAct chk acc)) s) :
    AccessesFar i w p chk acc :=
  fun s _ _ hi hn hu hp => (h s).trans (wordFar_access hi hn hu hp)

theorem accessesFar_of_memAct (h : ∀ s, exec i s = wordFar i w (memAct chk acc) s) :
    AccessesFar i w (fun _ _ => false) chk acc :=
  fun s _ _ hi hn _ hp => (h s).trans (wordFar_access_now hi hn hp)

theorem tries_of_holding (h : ∀ s, exec i s = word i (holding p (eachLane try_)) s) : Tries i p try_ :=
  fun s _ _ hi hu ht => (h s).trans (word_tries hi hu ht)

theorem tiles_of_tileAct (h : ∀ s, exec i s = word i (tileAct named full step) s) : Tiles i named w full step :=
  fun s _ _ hi _ ht => (h s).trans (word_tiles hi ht)

theorem tiles_of_wordTile (h : ∀ s, exec i s = wordTile i named w full step s) : Tiles i named w full step :=
  fun s _ _ hi hn ht => (h s).trans (wordTile_tiles hi hn ht)

end Shapes

/-! ### Predicates (R87, R88) -/

/-- The low bank is p0 to p31, p0 true. -/
theorem Thread.bank_low (t : Thread) : t.bank false = BitVec.ofFnLE fun k : Fin 32 => t.p k := by
  apply BitVec.eq_of_getLsbD_eq
  intro k hk
  rw [BitVec.getLsbD_ofFnLE, dif_pos hk]
  simp only [Thread.bank, Thread.p, Bool.false_eq_true, if_false, BitVec.getLsbD_or, BitVec.getLsbD_setWidth, hk,
    decide_true, Bool.true_and, BitVec.getLsbD_one]
  by_cases h : k = 0
  · simp [h]
  · simp [h]

/-- The high bank is p32 to p47. -/
theorem Thread.bank_high (t : Thread) :
    t.bank true = BitVec.ofFnLE fun k : Fin 32 => decide ((k : Nat) < 16) && t.p (32 + k) := by
  apply BitVec.eq_of_getLsbD_eq
  intro k hk
  rw [BitVec.getLsbD_ofFnLE, dif_pos hk]
  simp only [Thread.bank, Thread.p, if_true, BitVec.getLsbD_setWidth, BitVec.getLsbD_ushiftRight, hk, decide_true,
    Bool.true_and]
  by_cases h : k < 16
  · simp [h]
  · rw [BitVec.getLsbD_of_ge _ _ (by omega)]
    simp [h]

/-- Settles O10, P2G by the two banks. -/
theorem predicateLogicAndBanks : Obligations.PredicateLogicAndBanks := by
  intro e d a b
  refine ⟨computes_of_alu fun _ => rfl, computes_of_alu fun _ => rfl, computes_of_alu fun _ => rfl,
    computes_of_alu fun _ => rfl, ?low, ?high, computes_of_alu fun _ => ?g2p, computes_of_alu fun _ => rfl⟩
  case low => exact (computes_of_alu fun _ => rfl).congr fun _ t x => congrArg (x.setG _) t.bank_low
  case high => exact (computes_of_alu fun _ => rfl).congr fun _ t x => congrArg (x.setG _) t.bank_high
  case g2p => simp only [exec, execG2p, Thread.scatter, Nat.zero_add]; rfl

/-! ### Hints and control flow (spec/02, spec/04) -/

/-- Settles O14: each hint stores its own word, and the two others have the idle meaning. -/
theorem hintsWaitForTheirTarget : Obligations.HintsWaitForTheirTarget := fun _ _ _ _ _ _ _ _ _ =>
  ⟨computes_of_alu fun _ => rfl, computes_of_alu fun _ => rfl, computes_of_alu fun _ => rfl,
    computes_of_alu fun _ => rfl, computes_of_alu fun _ => rfl, doesTogether_of_whole fun _ => rfl,
    doesTogether_of_whole fun _ => rfl⟩

/-- Settles O15. -/
theorem branchesSetWhereTheRunGoesOn : Obligations.BranchesSetWhereTheRunGoesOn := by
  intro e p n o a
  refine ⟨?br, accessesFar_of_memAct fun _ => rfl⟩
  refine (computes_of_alu fun _ => rfl).congr fun cx t x => ?_
  have hc : (t.p p.toNat != (n == 1)) = true ↔ t.p p.toNat ≠ decide (n = 1) := by
    rw [bne_iff_ne, ← beq_eq_decide]
  simp only [Thread.goto, relTarget, hc]

/-- RET whose checks pass pops nothing more than its effect does. -/
theorem popped_of_no_fault {a : Act} {cx : Cx} {ts : List Thread} {s r : State} (h : a cx ts s = some (r, [])) :
    popped a cx ts s = some (r, []) := by
  simp [popped, h, State.setThreads]

/-- Settles O16. -/
theorem callsPushAndReturnsPop : Obligations.CallsPushAndReturnsPop := by
  intro e o a
  refine ⟨accesses_of_memAct fun _ => rfl, accessesFar_of_memAct fun _ => rfl, ?ret⟩
  intro s g ts hi hn _ hp
  refine (wordFar_issued hi hn (popped_of_no_fault (memAct_passes hp))).trans ?_
  rfl

/-- Settles O17. -/
theorem joinYieldExitAndWaitc : Obligations.JoinYieldExitAndWaitc := fun _ _ _ _ =>
  ⟨computes_of_alu fun _ => rfl, computes_of_alu fun _ => rfl, computes_of_alu fun _ => rfl,
    doesTogether_of_whole fun _ => rfl⟩

/-! ### Returning from the handler (R112) -/

theorem regGet_clearK (l : List (Nat × Word)) {n : Nat} (h : n < 120) : regGet (clearK l) n = regGet l n := by
  induction l with
  | nil => rfl
  | cons c r ih =>
    by_cases hc : c.1 < 120
    · rw [clearK, List.filter_cons_of_pos (by simpa using hc), regGet, regGet, ← ih]
      rfl
    · rw [clearK, List.filter_cons_of_neg (by simpa using hc), regGet, if_neg (by omega)]
      exact ih

theorem regGet_kList (l : List (Nat × Word)) (k : List Word) {n : Nat} (h : n < 120) :
    regGet (kList l k) n = regGet l n := by
  unfold kList
  generalize k.zipIdx = z
  induction z generalizing l with
  | nil => rfl
  | cons x z ih =>
    rw [List.foldl_cons, ih]
    split
    · rfl
    · rw [regGet_regPut, if_neg (by omega)]

@[simp] theorem Thread.g_dropK (t : Thread) {n : Nat} (h : n < 120) : t.dropK.g n = t.g n := by
  unfold Thread.g Thread.dropK
  rw [regGet_clearK _ h]

@[simp] theorem Thread.g_putK (t : Thread) (k : List Word) {n : Nat} (h : n < 120) : (t.putK k).g n = t.g n := by
  unfold Thread.g Thread.putK
  simp only [regGet_kList _ _ h, regGet_clearK _ h]

@[simp] theorem Thread.g_newRun (t : Thread) (pc : Word) {n : Nat} (h : n < 120) : (t.newRun pc).g n = t.g n :=
  t.g_dropK h

@[simp] theorem Thread.g_putKBad (t : Thread) (k : List Word) (bad : List (Nat × Word)) {n : Nat} (h : n < 120) :
    (t.putKBad k bad).g n = t.g n := t.g_putK k h

/-- The thread that leaves its handler, mode and call stack as the code that faulted has them. -/
def Thread.leaving (t : Thread) : Thread :=
  { t with mode := if t.mode = Mode.superHandler then .supervisor else .user, csp := t.userCsp }

/-- Back to a run that was to begin. -/
theorem Thread.rfe_boundary {t : Thread} {c : FrameCtx} {skip : Bool} (hb : t.resume.boundary = true)
    (hp : t.resume.pos = 0) :
    t.rfe c skip = { (t.leaving.newRun t.resume.pc).putK c.k with
      hints := c.hints, park := t.resume.park, parkPc := t.resume.parkPc } := by
  unfold Thread.rfe
  simp only [hb, hp, beq_self_eq_true, Bool.and_self, if_true]
  rfl

/-- Past an instruction that ended its run. -/
theorem Thread.rfe_past_end {t : Thread} {c : FrameCtx} (hb : t.resume.boundary = false) (he : t.resume.ends = true) :
    t.rfe c true = t.leaving.newRun (t.resume.pc + 4) := by
  unfold Thread.rfe
  simp only [hb, he, Bool.false_and, Bool.false_eq_true, if_false, Bool.not_false, Bool.and_self, if_true]
  rfl

/-- Past another instruction. -/
theorem Thread.rfe_past {t : Thread} {c : FrameCtx} (hb : t.resume.boundary = false) (he : t.resume.ends = false) :
    t.rfe c true = { t.leaving.putKBad c.k t.resume.kbad with
      runId := t.resume.run, after := none, pc := t.resume.pc + 4, pos := t.resume.pos + 1,
      hints := c.hints.consume } := by
  unfold Thread.rfe
  simp only [hb, he, Bool.false_and, Bool.false_eq_true, if_false, Bool.not_false, Bool.and_false, Bool.and_self,
    if_true]
  rfl

/-- Back to where it stood in its run. -/
theorem Thread.rfe_back {t : Thread} {c : FrameCtx} {skip : Bool} (hb : t.resume.boundary = true ∨ skip = false)
    (hp : t.resume.boundary = false ∨ t.resume.pos ≠ 0) :
    t.rfe c skip = { t.leaving.putKBad c.k t.resume.kbad with
      runId := t.resume.run, after := none, pc := t.resume.pc, pos := t.resume.pos, hints := c.hints } := by
  have h1 : (t.resume.boundary && t.resume.pos == 0) = false := by
    rcases hp with h | h <;> simp [h]
  have h2 : (skip && t.resume.ends && !t.resume.boundary) = false := by
    rcases hb with h | h <;> simp [h]
  have h3 : (skip && !t.resume.boundary) = false := by
    rcases hb with h | h <;> simp [h]
  unfold Thread.rfe
  simp only [h1, h2, h3, Bool.false_eq_true, if_false]
  rfl

/-- Settles O19, the way back by what RFE finds the thread at. -/
theorem rfeTakesTheThreadBack : Obligations.RfeTakesTheThreadBack := by
  intro e
  refine ⟨accessesFar_of_memAct fun _ => rfl, accessesFar_of_memAct fun _ => rfl, ?back⟩
  intro t skip k h ha
  have hr : t.runOver = t.rfe ⟨k, h⟩ skip := by rw [Thread.runOver, ha]
  rw [hr]
  cases hb : t.resume.boundary with
  | true =>
    by_cases hp : t.resume.pos = 0
    · rw [Thread.rfe_boundary hb hp]
      refine ⟨rfl, rfl, rfl, fun _ => ⟨hp.symm, rfl⟩, nofun, nofun, fun n hn => ?_, rfl, rfl⟩
      exact (Thread.g_putK _ _ hn).trans (Thread.g_newRun _ _ hn)
    · rw [Thread.rfe_back (.inl hb) (.inr hp)]
      exact ⟨rfl, rfl, by simp, fun _ => ⟨rfl, rfl⟩, nofun, nofun,
        fun n hn => Thread.g_putKBad _ _ t.resume.kbad hn, rfl, rfl⟩
  | false =>
    cases skip with
    | false =>
      rw [Thread.rfe_back (.inr rfl) (.inl hb)]
      exact ⟨rfl, rfl, by simp, nofun, fun _ _ => ⟨rfl, rfl⟩, nofun,
        fun n hn => Thread.g_putKBad _ _ t.resume.kbad hn, rfl, rfl⟩
    | true =>
      cases he : t.resume.ends with
      | true =>
        rw [Thread.rfe_past_end hb he]
        exact ⟨rfl, rfl, by simp [Thread.newRun], nofun, nofun, nofun, fun n hn => Thread.g_newRun _ _ hn, rfl, rfl⟩
      | false =>
        rw [Thread.rfe_past hb he]
        exact ⟨rfl, rfl, by simp, nofun, nofun, fun _ _ _ => ⟨rfl, rfl⟩,
          fun n hn => Thread.g_putKBad _ _ t.resume.kbad hn, rfl, rfl⟩

/-! ### Memory and fences (spec/06, spec/07) -/

/-- The bytes of a number are those of its low part before those of its high part. -/
theorem leBytes_append (m n x y : Nat) (h : x < 256 ^ m) :
    leBytes (m + n) (x + y * 256 ^ m) = leBytes m x ++ leBytes n y := by
  induction m generalizing x with
  | zero =>
    obtain rfl : x = 0 := by simpa using h
    simp [leBytes]
  | succ m ih =>
    have hp : 256 ^ (m + 1) = 256 * 256 ^ m := by rw [Nat.pow_succ, Nat.mul_comm]
    have hy : y * 256 ^ (m + 1) = 256 * (y * 256 ^ m) := by rw [hp, Nat.mul_left_comm]
    rw [Nat.add_right_comm m 1 n, leBytes, leBytes, List.cons_append, ← ih (x / 256) (by omega), hy]
    congr 1
    · apply BitVec.eq_of_toNat_eq
      simp only [BitVec.toNat_ofNat]
      omega
    · congr 1
      omega

/-- STQ writes its two pairs one after the other. -/
theorem accesses_stq (e : Bool) (v b : BitVec 7) (o : BitVec 9) :
    Accesses (.stq e v b o) (fun cx s t => s.checkAt t (genericEa cx t b.toNat o 16) 16 .write)
      (storeEff (fun _ t => leBytes 8 (t.w v.toNat).toNat ++ leBytes 8 (t.w (v.toNat + 1)).toNat) Cx.cache) := by
  refine accesses_of_memAct fun s => ?_
  have hb : ∀ t : Thread, leBytes 8 (t.w v.toNat).toNat ++ leBytes 8 (t.w (v.toNat + 1)).toNat =
      leBytes 16 ((t.w v.toNat).toNat + (t.w (v.toNat + 1)).toNat * 2 ^ 64) := fun t =>
    (leBytes_append 8 8 _ _ (t.w v.toNat).isLt).symm
  simp only [hb]
  rfl

/-- Settles O21, the quad store by its two halves. -/
theorem storesWriteTheLowBytes : Obligations.StoresWriteTheLowBytes := fun _ _ _ _ =>
  ⟨accesses_of_memAct fun _ => rfl, accesses_of_memAct fun _ => rfl, accesses_of_memAct fun _ => rfl,
    accesses_of_memAct fun _ => rfl, accesses_stq _ _ _ _, accesses_of_memAct fun _ => rfl⟩

/-- Below group scope a fence is idle. -/
theorem fenceAct_narrow {c : BitVec 4} (h : scopeOf c < 2) (rel acq : Bool) : fenceAct rel acq c = idle := by
  simp [fenceAct, h]

theorem fenceAct_wide {c : BitVec 4} (h : 2 ≤ scopeOf c) (rel acq : Bool) :
    fenceAct rel acq c = holding (fun t s => if rel then releaseWaits (scopeOf c) t s else t.memoryOpen)
      (eachLane fun _ t s => .ok (fenceEff rel acq (scopeOf c) t s)) := by
  simp [fenceAct, Nat.not_lt.mpr h]

/-- Settles O23: a fence is idle or waits and acts, by its scope. -/
theorem fencesReleaseAndAcquire : Obligations.FencesReleaseAndAcquire := by
  intro e sc d a b f
  refine ⟨fun h => ?narrow, fun h => ?wide, doesWhen_of_holding fun _ => rfl, accesses_of_memAct fun _ => rfl,
    accessesWhen_of_holding fun _ => rfl, does_of_eachLane fun _ => rfl, does_of_eachLane fun _ => rfl⟩
  case narrow =>
    have hf : ∀ i rel acq s, word i (fenceAct rel acq sc) s = word i (whole fun _ _ s => s) s := fun i rel acq s => by
      rw [fenceAct_narrow h]; rfl
    exact ⟨doesTogether_of_whole (hf _ _ _), doesTogether_of_whole (hf _ _ _), doesTogether_of_whole (hf _ _ _)⟩
  case wide =>
    have hf : ∀ i rel acq s, word i (fenceAct rel acq sc) s = _ := fun i rel acq s => by
      rw [fenceAct_wide h]
    exact ⟨doesWhen_of_holding (hf _ _ _), doesWhen_of_holding (hf _ _ _), doesWhen_of_holding (hf _ _ _)⟩

/-! ### Teams (spec/08) -/

/-- Settles O25. -/
theorem teamInstructionsAct : Obligations.TeamInstructionsAct := by
  intro e d a n
  refine ⟨does_of_eachLane fun _ => rfl, doesTogether_of_whole fun _ => rfl, doesWhen_of_holding fun _ => rfl,
    doesTogether_of_whole fun _ => rfl, fun s g ts hi => ?regroup⟩
  exact word_issued hi rfl

end Sys2Proof.Machine
end

section
/-! Instructions of the engines, of futures and of the system (spec/11, spec/12, spec/16, spec/17, spec/19, spec/21):
the statements about them that need no more than the shapes of effect and the state's own operations. -/

namespace Sys2Proof.Machine

/-! ### Queues (R285, R286) -/

/-- What a queue instruction does where the queue is there and nobody waits. -/
theorem queueAct_acts {q : Nat} {closing rel : Bool} {f : Cx → List Thread → State → State} {cx : Cx}
    {ts : List Thread} {s : State} (hne : ts ≠ []) (hacq : ∀ t ∈ ts, t.acquiring = false)
    (hd : ((s.slice cx.slice).queue q).depth ≠ 0)
    (hcl : closing = true → ((s.slice cx.slice).queue q).closing = false)
    (hrel : rel = true → ∀ t ∈ ts, releaseWaits (s.sliceScope cx.slice) t s = false) :
    queueAct q closing rel f cx ts s =
      some (ts.foldl (fun s t => s.lastRelease (cx.of t) t.uid)
        (f cx ts (if rel then ts.foldl (fun x t => x.release t (s.sliceScope cx.slice)) s else s)), []) := by
  have hc : (closing && ((s.slice cx.slice).queue q).closing) = false := by
    cases closing with
    | false => rfl
    | true => exact hcl rfl
  have hr : (rel && ts.any fun t => releaseWaits (s.sliceScope cx.slice) t s) = false := by
    cases rel with
    | false => rfl
    | true => exact List.any_eq_false.mpr fun t ht => by simp [hrel rfl t ht]
  have ha : ts.any Thread.acquiring = false := List.any_eq_false.mpr fun t ht => by simp [hacq t ht]
  unfold queueAct
  simp only [List.isEmpty_iff, hne, ha, hd, hc, hr, if_false, Bool.false_eq_true]

@[simp] theorem Group.context_gid (g : Group) (i : Instr) (ts : List Thread) : (g.context i ts).gid = g.gid := rfl

@[simp] theorem Group.context_slice (g : Group) (i : Instr) (ts : List Thread) :
    (g.context i ts).slice = g.slice := rfl

@[simp] theorem Group.context_team (g : Group) (i : Instr) (ts : List Thread) :
    (g.context i ts).team = g.team := rfl

@[simp] theorem State.opened_slice (s : State) (i : Instr) (g : Group) (ts : List Thread) (n : Nat) :
    (s.opened i g ts).slice n = s.slice n := by
  simp [State.slice, State.slice?]

@[simp] theorem State.opened_core (s : State) (i : Instr) (g : Group) (ts : List Thread) (n : Nat) :
    (s.opened i g ts).core n = s.core n := by
  simp [State.core]

@[simp] theorem State.opened_team (s : State) (i : Instr) (g : Group) (ts : List Thread) (n : Nat) :
    (s.opened i g ts).team n = s.team n := by
  simp [State.team]

@[simp] theorem State.opened_group (s : State) (i : Instr) (g : Group) (ts : List Thread) (n : Nat) :
    (s.opened i g ts).group n = s.group n := by
  simp [State.group]

@[simp] theorem State.opened_sliceScope (s : State) (i : Instr) (g : Group) (ts : List Thread) (n : Nat) :
    (s.opened i g ts).sliceScope n = s.sliceScope n := by
  have h : (s.opened i g ts).core = s.core := funext fun _ => State.opened_core ..
  simp [State.sliceScope, h]

theorem State.unheld_apply {s : State} {i : Instr} {g : Group} {ts : List Thread} {p : Thread → State → Bool}
    (h : s.unheld i g ts p = true) : ∀ t ∈ acting i ts, p t (s.opened i g ts) = false := by
  simpa [State.unheld] using h

/-- Settles O26. -/
theorem queuesPushPopAndPark : Obligations.QueuesPushPopAndPark := by
  intro e d a b s g ts
  refine ⟨fun hi hne hacq hd hc hu => ?_, fun hi hne hacq hd hc hu => ?_, fun hi hne hacq hd => ?_⟩
  · refine (word_issued hi (queueAct_acts hne hacq ?_ (fun _ => ?_) fun _ t ht => ?_)).trans ?_
    · simpa using hd
    · simpa using hc
    · simpa using State.unheld_apply hu t ht
    · simp
  · refine (word_issued hi (queueAct_acts hne hacq ?_ (fun _ => ?_) fun _ t ht => ?_)).trans ?_
    · simpa using hd
    · simpa using hc
    · simpa using State.unheld_apply hu t ht
    · simp
  · refine (word_issued hi (queueAct_acts hne hacq ?_ (fun h => ?_) fun h => ?_)).trans ?_
    · simpa using hd
    · cases h
    · cases h
    · rfl

theorem any_acquiring {ts : List Thread} (h : ∀ t ∈ ts, t.acquiring = false) : ts.any Thread.acquiring = false :=
  List.any_eq_false.mpr fun t ht => by simp [h t ht]

@[simp] theorem State.opened_tileBusy (s : State) (i : Instr) (g : Group) (ts : List Thread) (m h : Nat) :
    (s.opened i g ts).tileBusy m h = s.tileBusy m h := by
  simp [State.tileBusy]

@[simp] theorem State.opened_launchOf (s : State) (i : Instr) (g : Group) (ts : List Thread) (t : Thread) :
    (s.opened i g ts).launchOf t = s.launchOf t := by
  simp [State.launchOf]

/-! ### Tile rows (R239, R242, R243) -/

/-- Settles O28. -/
theorem tileRowsDescriptionsAndWaits : Obligations.TileRowsDescriptionsAndWaits := by
  intro e d a b f
  refine ⟨does_of_eachLane fun _ => rfl, doesTogether_of_whole fun _ => rfl, ?mova, ?movr⟩
  case mova =>
    intro s g ts t r q hi hb hacq hl hq
    refine word_issued hi ?_
    have ha := any_acquiring hacq
    simp only [Group.context_team, State.opened_tileBusy, hb, ha, Bool.or_self, Bool.false_eq_true, if_false, hl,
      State.opened_team, State.opened_group, Group.context_gid, State.opened_launchOf, hq]
  case movr =>
    intro s g ts t r q hi hb hacq hl hq hp
    refine word_issued hi ?_
    have ha := any_acquiring hacq
    have hbad := List.filterMap_eq_nil_iff.mpr fun u hu => congrArg (Option.map fun n => (u.uid, poisonFault n))
      (hp u hu)
    have hok := List.filter_eq_self.mpr fun u hu => congrArg Option.isNone (hp u hu)
    simp only [Group.context_team, State.opened_tileBusy, hb, ha, Bool.or_self, Bool.false_eq_true, if_false, hl,
      State.opened_team, State.opened_group, Group.context_gid, State.opened_launchOf, hq]
    rw [hbad, hok]
    rfl

/-! ### Engines (R290 to R306) -/

/-- Settles O29. -/
theorem enginesTakeTheirDescriptors : Obligations.EnginesTakeTheirDescriptors := by
  intro e d a
  refine ⟨accessesFar_of_holding fun _ => rfl, accessesFar_of_holding fun _ => rfl, does_of_eachLane fun _ => rfl,
    fun s g ts hi hne hok => ?_⟩
  refine word_issued hi ?_
  dsimp only
  rw [List.filterMap_eq_nil_iff.mpr (by
    simp only [List.mem_map]
    rintro _ ⟨t, ht, rfl⟩
    simp only [hok t ht])]
  simp only [List.map_nil, List.contains_nil, Bool.not_false, List.filter_true, List.isEmpty_iff, hne, if_false]
  rfl

/-! ### Pockets (R311 to R318) -/

/-- The last of the indices below `n` with the largest value above 0, as `PocketSet.victim` looks for it. -/
def lastMax (u : Nat → Nat) (n : Nat) : Option Nat :=
  (List.range n).foldl (fun best v =>
    match best with
    | none => if 0 < u v then some v else none
    | some w => if u w ≤ u v then some v else some w) none

theorem PocketSet.victim_eq (p : PocketSet) (x : Expert) : p.victim x = lastMax (p.unused x) p.senders := rfl

theorem lastMax_succ (u : Nat → Nat) (n : Nat) : lastMax u (n + 1) =
    match lastMax u n with
    | none => if 0 < u n then some n else none
    | some w => if u w ≤ u n then some n else some w := by
  unfold lastMax
  rw [List.range_succ, List.foldl_append]
  rfl

theorem lastMax_lt {u : Nat → Nat} {n w : Nat} (h : lastMax u n = some w) : w < n := by
  induction n with
  | zero => cases h
  | succ n ih =>
    rw [lastMax_succ] at h
    split at h
    · split at h
      · cases h; omega
      · cases h
    · rename_i w' hw'
      have := ih
      split at h
      · cases h; omega
      · cases h
        exact Nat.lt_succ_of_lt (ih hw')

theorem lastMax_none {u : Nat → Nat} {n : Nat} (h : ∀ k, k < n → u k = 0) : lastMax u n = none := by
  induction n with
  | zero => rfl
  | succ n ih => simp [lastMax_succ, ih fun k hk => h k (by omega), h n (by omega)]

theorem lastMax_some {u : Nat → Nat} {n w : Nat} (hw : w < n) (hpos : 0 < u w)
    (hmax : ∀ k, k < n → u k < u w ∨ u k = u w ∧ k ≤ w) : lastMax u n = some w := by
  induction n with
  | zero => omega
  | succ n ih =>
    rw [lastMax_succ]
    by_cases hn : w = n
    · subst hn
      cases hx : lastMax u w with
      | none => simp [hpos]
      | some w' =>
        have hlt := lastMax_lt hx
        have := hmax w' (by omega)
        simp only [if_pos (show u w' ≤ u w by omega)]
    · have := hmax n (by omega)
      rw [ih (by omega) fun k hk => hmax k (by omega)]
      simp only [if_neg (show ¬u w ≤ u n by omega)]

theorem PocketSet.unused_claimed (p : PocketSet) (x : Expert) {v : Nat} (hv : v < x.own.length) :
    p.unused { x with own := x.own.set v (x.own.getD v 0 + 1) } v = p.unused x v - 1 := by
  simp only [PocketSet.unused, List.getD_eq_getElem?_getD, List.getElem?_set_self hv, Option.getD_some]
  omega

/-- What the lowest acting thread's POPEN does, where nothing stands in its way. -/
theorem popenAct_opens {d a : Nat} {b : Option Nat} {cx : Cx} {t : Thread} {r : List Thread} {s : State}
    {p : PocketSet} (hm : ∀ u ∈ t :: r, u.memoryOpen = false)
    (hp : s.popenRead t (t.w a) (b.map fun n => (t.g n).toNat) = .ok p) :
    popenAct d a b cx (t :: r) s =
      some (let s1 := (t :: r).foldl (fun s t => (s.drain t.core).lastRelease (cx.of t) t.uid) s
         let s2 := { s1 with pockets := p :: s1.pockets.filter fun q => !(q.slice == p.slice && q.id == p.id) }
         let s3 := (List.range p.experts.length).foldl
           (fun s e => s.pocketStore t (p.countVa + BitVec.ofNat 64 (4 * e)) 0) s2
         (t :: r).foldl (fun s t => s.pendResult cx t.uid .ax (gDests d (BitVec.ofNat 32 p.id)) id) s3, []) := by
  have ha : (t :: r).any Thread.memoryOpen = false := List.any_eq_false.mpr fun u hu => by simp [hm u hu]
  unfold popenAct
  simp only [List.head?_cons, ha, Bool.false_eq_true, if_false, hp]

/-- The issue of an instruction for which only the lowest acting thread reads other devices' memory. -/
theorem wordFirst_issued {s r : State} {i : Instr} {w : Far} {act : Act} {g : Group} {ts : List Thread} {t : Thread}
    {l : List Thread} (h : s.issues i g ts = true) (hl : acting i ts = t :: l)
    (hn : (s.opened i g ts).missing t.uid (w (g.context i ts) (s.opened i g ts) t) = [])
    (ha : act (g.context i ts) (t :: l) (s.opened i g ts) = some (r, [])) :
    wordFirst i w act s = .next (State.issued i g ts r []) := by
  refine congrArg _ (State.issue_issued h ?_)
  rw [hl]
  simp only [farHold, List.take_succ_cons, List.take_zero, List.any_cons, List.any_nil, Group.context_of, hn,
    List.isEmpty_nil, Bool.not_true, Bool.or_self, Bool.false_eq_true, if_false, ha]

/-- Settles O30: which sender loses a slot by induction on the senders. -/
theorem pocketsOpenClaimAndClose : Obligations.PocketsOpenClaimAndClose := by
  refine ⟨fun e d a b => ⟨?new, ?reset, tries_of_holding fun _ => rfl, tries_of_holding fun _ => rfl,
    tries_of_holding fun _ => rfl, tries_of_holding fun _ => rfl⟩, fun p x v => ⟨?isSealed, ?own, ?pool, ?steal, ?out⟩⟩
  case new =>
    intro s g ts t r p hi hl hm hn hp
    refine (wordFirst_issued hi hl hn (popenAct_opens (b := none) hm hp)).trans ?_
    rfl
  case reset =>
    intro s g ts t r p hi hl hm hn hp
    refine (wordFirst_issued hi hl hn (popenAct_opens (b := some b.toNat) hm hp)).trans ?_
    rfl
  case isSealed => intro h; simp [PocketSet.claim, h]
  case own =>
    intro h hu
    have hc : p.claim x v = (BitVec.ofNat 32 (v * p.reserve + x.own.getD v 0), 0,
        { x with own := x.own.set v (x.own.getD v 0 + 1) }) := by
      simp only [PocketSet.claim, h, Bool.false_eq_true, if_false, if_pos hu]
    rw [hc]
    exact ⟨rfl, rfl, p.unused_claimed x, rfl⟩
  case pool => intro h hu n r hp; simp [PocketSet.claim, h, hu, hp]
  case steal =>
    intro h hu hp w hw hpos hmax
    simp [PocketSet.claim, h, hu, hp, PocketSet.victim_eq, lastMax_some hw hpos hmax]
  case out =>
    intro h hall hv hp
    simp [PocketSet.claim, h, hall v hv, hp, PocketSet.victim_eq, lastMax_none hall]

/-! ### Futures (R325 to R342) -/

/-- Threads with one context: FGET.wait polls for all of them or waits for all of them. -/
theorem fgetAct_polls {d a b : Nat} {cx : Cx} {ts : List Thread} {s : State} (hc : ∀ t, cx.of t = cx) (hne : ts ≠ [])
    (hm : cx.m.getLsbD 13 = true) : fgetAct d a b cx ts s = fgetPollAct d a b cx ts s := by
  simp only [fgetAct, hc, hm, List.filter_true, List.isEmpty_iff, hne, if_false, Bool.not_true, List.filter_false,
    if_true]
  rfl

theorem fgetAct_waits {d a b : Nat} {cx : Cx} {ts : List Thread} {s : State} (hc : ∀ t, cx.of t = cx)
    (hm : cx.m.getLsbD 13 = false) : fgetAct d a b cx ts s = fgetWaitAct d a b cx ts s := by
  simp only [fgetAct, hc, hm, List.filter_false, List.isEmpty_nil, if_true]

/-- Settles O31. -/
theorem futureInstructionsSendTheirRequest : Obligations.FutureInstructionsSendTheirRequest := by
  intro e d a b f
  refine ⟨does_of_eachLane fun _ => rfl, accessesFar_of_holding fun _ => rfl, accessesFar_of_holding fun _ => rfl,
    accessesFar_of_holding fun _ => rfl, doesWhen_of_holding fun _ => rfl, tries_of_holding fun _ => rfl,
    does_of_eachLane fun _ => rfl, tries_of_holding fun _ => rfl,
    fun s g ts hi hu hne => ⟨fun hm ht => ?poll, fun hm => ?wait⟩⟩
  case poll =>
    refine word_issued hi ((holding_unheld hu).trans ?_)
    rw [fgetAct_polls (fun _ => rfl) hne hm]
    exact congrArg some (Prod.ext rfl ht)
  case wait =>
    refine (word_issued hi ((holding_unheld hu).trans (fgetAct_waits (fun _ => rfl) hm))).trans ?_
    rfl

/-! ### System instructions -/

/-- Settles O33. -/
theorem systemInstructionsAct : Obligations.SystemInstructionsAct := by
  intro e d a b
  refine ⟨accessesFar_of_memAct fun _ => rfl, ?clr, doesWhen_of_holding fun _ => rfl,
    doesWhen_of_holding fun _ => rfl, doesWhen_of_holding fun _ => rfl, accessesFar_of_memAct fun _ => rfl,
    accessesFar_of_memAct fun _ => rfl⟩
  refine does_of_eachLane fun s => congrArg (fun f => word _ (eachLane f) s)
    (funext fun _ => funext fun t => funext fun x => ?_)
  simp only [State.dropWatches, beq_iff_eq]
  rfl

theorem grantCode_lt (p : Option Phase) : grantCode p < 4 := by
  unfold grantCode
  split
  · decide
  · split <;> decide

/-- The PGRANT bits of %tstat are [5:4] (R263). -/
theorem pgrant_bits (v : Word) {n : Nat} (hn : n < 4) : (v &&& ~~~0x30) ||| BitVec.ofNat 32 (16 * n) =
    BitVec.ofFnLE fun k : Fin 32 => if (k : Nat) = 4 ∨ (k : Nat) = 5 then n.testBit (k - 4) else v.getLsbD k := by
  have hmask : ∀ k : Fin 32, (~~~0x30 : Word).getLsbD k = !decide ((k : Nat) = 4 ∨ (k : Nat) = 5) := by decide
  have hcode : ∀ n < 4, ∀ k : Fin 32, (BitVec.ofNat 32 (16 * n)).getLsbD k =
      (decide ((k : Nat) = 4 ∨ (k : Nat) = 5) && n.testBit (k - 4)) := by decide
  apply BitVec.eq_of_getLsbD_eq
  intro k hk
  rw [BitVec.getLsbD_ofFnLE, dif_pos hk, BitVec.getLsbD_or, BitVec.getLsbD_and, hmask ⟨k, hk⟩, hcode n hn ⟨k, hk⟩]
  by_cases h : k = 4 ∨ k = 5 <;> simp [h]

/-- Settles O34: PGRANT by its bits. -/
theorem phaseAnnounceEndAndQuery : Obligations.PhaseAnnounceEndAndQuery := by
  intro e o c lx m b
  refine ⟨does_of_eachLane fun _ => rfl, does_of_eachLane fun _ => rfl, does_of_eachLane fun _ => ?_⟩
  simp only [← pgrant_bits _ (grantCode_lt _)]
  rfl

/-! ### Special registers (R27 to R31, R82) -/

theorem State.thread_of_unique {s : State} {t : Thread} (ht : t ∈ s.threads)
    (hu : ∀ u ∈ s.threads, u.uid = t.uid → u = t) : s.thread t.uid = t := by
  unfold State.thread
  cases hf : s.threads.find? (·.uid == t.uid) with
  | none => exact absurd (List.find?_eq_none.mp hf t ht) (by simp)
  | some u => exact hu u (List.mem_of_find?_eq_some hf) (by simpa using List.find?_some hf)

/-- A thread after a change of it. -/
theorem State.thread_changed {s : State} {t : Thread} (ht : t ∈ s.threads)
    (hu : ∀ u ∈ s.threads, u.uid = t.uid → u = t) {f : Thread → Thread} (hf : ∀ x, (f x).uid = x.uid) :
    (s.setThread t.uid f).thread t.uid = f t := by
  rw [State.thread_setThread_same s (fun x hx => (hf x).trans hx) (List.any_eq_true.mpr ⟨t, ht, by simp⟩),
    State.thread_of_unique ht hu]

theorem hiWord_append_loWord (x : DWord) : hiWord x ++ loWord x = x := by
  apply BitVec.eq_of_getLsbD_eq
  intro k hk
  refine BitVec.getLsbD_append.trans ?_
  by_cases h : k < 32
  · simp [loWord, h]
  · simp [hiWord, h, show k - 32 < 32 by omega, show 32 + (k - 32) = k by omega]

/-- Settles O32. -/
theorem specialRegistersReadAndWrite : Obligations.SpecialRegistersReadAndWrite := by
  refine ⟨fun e d c => ⟨doesWhen_of_holding fun _ => rfl, ?g2s, does_of_eachLane fun _ => rfl⟩, fun s t v => ?_⟩
  case g2s =>
    have hc : (c == 0x8024) = (c.toNat == 0x8024) := by
      rw [Bool.eq_iff_iff, beq_iff_eq, beq_iff_eq, ← BitVec.toNat_inj]
      rfl
    have hc' : c = 0x8024 ↔ c.toNat = 0x8024 := by rw [← BitVec.toNat_inj]; rfl
    simp only [hc, hc']
    exact doesWhen_of_holding fun _ => rfl
  refine ⟨rfl, rfl, rfl, rfl, rfl, rfl, rfl, hiWord_append_loWord _, rfl, hiWord_append_loWord _, fun ht hu => ?_⟩
  dsimp only
  refine ⟨?_, ?_, ?_, ?_, ?_⟩
  · exact congrArg Thread.fpctl (State.thread_changed ht hu (f := fun t => { t with fpctl := v &&& 7 }) fun _ => rfl)
  · exact congrArg Thread.fpflags (State.thread_changed ht hu (f := fun t => { t with fpflags := v &&& 0x1F })
      fun _ => rfl)
  · exact congrArg Thread.iflags (State.thread_changed ht hu (f := fun t => { t with iflags := v &&& 3 }) fun _ => rfl)
  · exact congrArg Thread.tstat (State.thread_changed ht hu (f := fun t => t.clearTstat s.now v) fun _ => rfl)
  · exact congrArg Thread.ssel (State.thread_changed ht hu (f := fun t => { t with ssel := v &&& 0xFFFFF })
      fun _ => rfl)

end Sys2Proof.Machine
end

section
/-! The step of the machine (spec/02, spec/04): that it goes on, what it runs, and the runs it keeps sound. -/

namespace Sys2Proof.Machine

/-! ### A step answers a next state -/

theorem exec_is_next (i : Instr) (s : State) : ∃ t, exec i s = .next t := by
  cases i
  case ageingRotation | allowanceExpiry | apronAnnouncement | arrayOperationStart | bandGating | bandPowerUp |
    budgetExhausted | collectiveComplete | collectiveControlMessage | collectiveMemberTimeout |
    contextSaveComplete | contractRelease | deadlineMiss | decoderWatchdog | deferralWindowExpiry |
    dirtyLineWriteBack | hbmWriteBack | issueStarvation | kthermAdjust | l1AgeLimit | ldpollTimeout | livenessFlit
    | memberFailureDeclared | ownershipGrant | phaseGrant | phaseIdleExpiry | phaseOnset | placementReport |
    railHoldExpiry | railStepDown | railStepUp | regroupOperation | remoteAccessReply | remoteAccessRequest |
    resultReturn | runStart | saveComplete | specialRegisterWrite | suspendResume | tileOperationComplete |
    transformChunk | transformEnd | watchEvaluation =>
    dsimp only [exec, execAgeingRotation, execAllowanceExpiry, execApronAnnouncement, execArrayOperationStart,
      execBandGating, execBandPowerUp, execBudgetExhausted, execCollectiveComplete,
      execCollectiveControlMessage, execCollectiveMemberTimeout, execContextSaveComplete, execContractRelease,
      execDeadlineMiss, execDecoderWatchdog, execDeferralWindowExpiry, execDirtyLineWriteBack, execHbmWriteBack,
      execIssueStarvation, execKthermAdjust, execL1AgeLimit, execLdpollTimeout, execLivenessFlit,
      execMemberFailureDeclared, execOwnershipGrant, execPhaseGrant, execPhaseIdleExpiry, execPhaseOnset,
      execPlacementReport, execRailHoldExpiry, execRailStepDown, execRailStepUp, execRegroupOperation,
      execRemoteAccessReply, execRemoteAccessRequest, execResultReturn, execRunStart, execSaveComplete,
      execSpecialRegisterWrite, execSuspendResume, execTileOperationComplete, execTransformChunk,
      execTransformEnd, execWatchEvaluation]
    repeat' split
    all_goals exact ⟨_, rfl⟩
  all_goals exact ⟨_, rfl⟩

theorem goOn_next (f : State → State) (s : State) : goOn f (.next s) = .next (f s) := rfl

/-- Settles O51: every meaning answers a next state. -/
theorem stepGoesOn : Obligations.StepGoesOn := by
  intro s
  unfold State.goesOn step
  split
  case h_1 i t _ =>
    obtain ⟨x, hx⟩ := exec_is_next i t
    exact ⟨x.afterEvent, by rw [hx, goOn_next]⟩
  case h_2 gid i t _ =>
    obtain ⟨x, hx⟩ := exec_is_next i t
    exact ⟨x.afterWord gid i, by rw [hx, goOn_next]⟩
  case h_3 t _ => exact ⟨t, rfl⟩

/-! ### The word that a step runs (R46, R98) -/

theorem readWord_of_decode {v : Nat} {w : Word} {i : Instr} (h : decode v w = .ok i) : readWord v w = .ok i := by
  obtain ⟨ha, hp, -⟩ := Words.decode_ok_iff.mp h
  simp [readWord, ha, hp]

/-- Settles O50: the turn is the word's, and the word is read as its instruction. -/
theorem stepRunsDecoded : Obligations.StepRunsDecoded := by
  intro s g ts x i hagenda hdue hunit hslot hissuing hnear hfetch hdecode
  have hword : s.wordTurn = .word g.gid i (s.fetched (ts.headD default).core x.2) := by
    simp only [State.wordTurn, hissuing, hnear, List.isEmpty_nil, Bool.not_true, Bool.false_eq_true, if_false, hfetch,
      readWord_of_decode hdecode]
  have hturn : s.turn = s.wordTurn := by
    have hrun : s.runTurn = s.wordTurn := by simp [State.runTurn, hslot]
    simp only [State.turn, hagenda, hdue]
    rcases hunit with h | h
    · rw [if_neg h, hrun]
    · simp only [h, hrun, ite_self]
  simp only [step, hturn, hword]

/-! ### Runs (R46, R91) -/

/-- A run names at least one thread, each once, and none that has ended. -/
def State.SoundRun (s : State) (us : List Nat) : Prop := us ≠ [] ∧ us.Nodup ∧ ∀ u ∈ us, s.alive u = true

/-- A state keeps the runs sound where its threads have not ended and its groups' runs are not new. -/
theorem State.RunsSound.mono {s t : State} (h : s.RunsSound) (ha : ∀ u, s.alive u = true → t.alive u = true)
    (hg : ∀ g ∈ t.groups, ∀ us, g.run = some us → ∃ x ∈ s.groups, x.run = some us) : t.RunsSound := by
  intro g hgm us hr
  obtain ⟨x, hx, hxr⟩ := hg g hgm us hr
  obtain ⟨hne, hnd, hal⟩ := h x hx us hxr
  exact ⟨hne, hnd, fun u hu => ha u (hal u hu)⟩

/-- What is left of any run is sound. -/
theorem State.liveRun_sound {s : State} {g : Group} {us : List Nat} (h : (s.liveRun g).run = some us) :
    s.SoundRun us := by
  unfold State.liveRun at h
  split at h
  · rename_i hn
    rw [hn] at h
    cases h
  · rename_i vs _
    dsimp only at h
    split at h
    · cases h
    · rename_i hne
      obtain rfl := Option.some.inj h
      exact ⟨by simpa using hne, List.nodup_dedup _, fun u hu => (List.mem_filter.mp (List.mem_dedup.mp hu)).2⟩

@[simp] theorem State.standing_run (s : State) (g : Group) : (s.standing g).run = g.run := by
  unfold State.standing
  split
  · split <;> rfl
  · split
    · rfl
    · split <;> rfl

/-- A change of a group that is no change of its run. -/
theorem State.runsSound_setGroup {s : State} (h : s.RunsSound) {n : Nat} {f : Group → Group}
    (hf : ∀ g, (f g).run = g.run) : (s.setGroup n f).RunsSound := by
  refine h.mono (fun u hu => hu) fun g hg us hr => ?_
  obtain ⟨x, hx, rfl⟩ := List.mem_map.mp hg
  refine ⟨x, hx, ?_⟩
  split at hr
  · rwa [hf] at hr
  · exact hr

theorem State.runsSound_activate {s : State} (h : s.RunsSound) (c : Nat) : (s.activate c).RunsSound := by
  unfold State.activate
  split
  · exact h
  · exact State.runsSound_setGroup h fun _ => rfl

theorem State.runsSound_fillActive {s : State} (h : s.RunsSound) (n c : Nat) : (s.fillActive n c).RunsSound := by
  induction n generalizing s with
  | zero => exact h
  | succ n ih =>
    unfold State.fillActive
    split
    · exact h
    · exact ih (State.runsSound_activate h c)

theorem State.runsSound_fillActives {s : State} (h : s.RunsSound) (n : Nat) (cs : List Nat) :
    (cs.foldl (fun s c => s.fillActive n c) s).RunsSound := by
  induction cs generalizing s with
  | nil => exact h
  | cons c cs ih => exact ih (State.runsSound_fillActive h n c)

/-- Regrouping makes the runs sound, whatever they were: it drops the threads that have ended. -/
theorem State.runsSound_regroupAll (s : State) : s.regroupAll.RunsSound := by
  have h1 : ({ s with groups := s.groups.map s.liveRun } : State).RunsSound := by
    intro g hg us hr
    obtain ⟨x, -, rfl⟩ := List.mem_map.mp hg
    exact State.liveRun_sound hr
  refine (State.runsSound_fillActives (h1.mono (t := { s with
    groups := (s.groups.map s.liveRun).map (State.standing { s with groups := s.groups.map s.liveRun }) })
    (fun u hu => hu) fun g hg us hr => ?_) 8 _)
  obtain ⟨x, hx, rfl⟩ := List.mem_map.mp hg
  exact ⟨x, hx, by rwa [State.standing_run] at hr⟩

theorem State.runsSound_settle (s : State) : s.settle.RunsSound := State.runsSound_regroupAll _

theorem State.runsSound_afterEvent (s : State) : s.afterEvent.RunsSound := State.runsSound_settle _

theorem State.runsSound_afterWord (s : State) (gid : Nat) (i : Instr) : (s.afterWord gid i).RunsSound :=
  State.runsSound_settle _

theorem mem_insertBy {α : Type} (le : α → α → Bool) (a x : α) (l : List α) : x ∈ insertBy le a l ↔ x = a ∨ x ∈ l := by
  induction l with
  | nil => simp [insertBy]
  | cons b r ih =>
    unfold insertBy
    split
    · simp
    · simp only [List.mem_cons, ih]
      tauto

theorem mem_sortBy {α : Type} (le : α → α → Bool) (x : α) (l : List α) : x ∈ sortBy le l ↔ x ∈ l := by
  induction l with
  | nil => simp [sortBy]
  | cons a l ih =>
    rw [List.mem_cons, ← ih]
    exact mem_insertBy le a x _

/-- The threads that a group's run would begin with are threads of the group that have not ended. -/
theorem State.select_subset {s : State} {g : Group} {t : Thread} (h : t ∈ s.select g) :
    t ∈ s.threads ∧ t.live = true := by
  have key : ∀ t ∈ sortBy (fun (x y : Thread) => decide (x.lane ≤ y.lane))
      ((s.groupThreads g.gid).filter Thread.ready), t ∈ s.threads ∧ t.live = true := by
    intro t ht
    rw [mem_sortBy, List.mem_filter] at ht
    obtain ⟨htm, hl⟩ := List.mem_filter.mp ht.1
    exact ⟨htm, by simpa using (Bool.and_eq_true_iff.mp hl).2⟩
  unfold State.select at h
  dsimp only at h
  split at h
  · cases h
  · exact key t (List.mem_filter.mp h).1

theorem State.alive_setThreads {s : State} {us : List Nat} {f : Thread → Thread} (hu : ∀ t, (f t).uid = t.uid)
    (hl : ∀ t, (f t).live = t.live) (u : Nat) : (s.setThreads us f).alive u = s.alive u := by
  unfold State.alive State.setThreads
  rw [List.any_map]
  refine congrArg (List.any s.threads) (funext fun t => ?_)
  dsimp only [Function.comp]
  split
  · rw [hu, hl]
  · rfl

/-- A run that begins is sound. -/
theorem State.runsSound_startRun {s : State} (h : s.RunsSound) (g : Group) : (s.startRun g).RunsSound := by
  have halive : ∀ u, (s.setThreads (((s.select g).map (·.uid)).dedup) fun t => { t with stamp := 0 }).alive u =
      s.alive u := State.alive_setThreads (fun _ => rfl) fun _ => rfl
  unfold State.startRun
  dsimp only
  split
  · exact h
  · rename_i hne
    intro x hx us hr
    obtain ⟨y, hy, rfl⟩ := List.mem_map.mp hx
    split at hr
    · obtain rfl := Option.some.inj hr
      refine ⟨by simpa using hne, List.nodup_dedup _, fun u hu => (halive u).trans ?_⟩
      obtain ⟨t, ht, rfl⟩ := List.mem_map.mp (List.mem_dedup.mp hu)
      obtain ⟨htm, hl⟩ := State.select_subset ht
      exact List.any_eq_true.mpr ⟨t, htm, by simp [hl]⟩
    · obtain ⟨hne', hnd, hal⟩ := h y hy us hr
      exact ⟨hne', hnd, fun u hu => (halive u).trans (hal u hu)⟩

theorem State.runsSound_startNext {s t : State} (h : s.RunsSound) (ht : s.startNext = some t) : t.RunsSound := by
  unfold State.startNext at ht
  split at ht
  · cases ht
  · split at ht
    · cases ht
    · split at ht
      · obtain rfl := Option.some.inj ht
        unfold execIssueStarvation
        split
        · exact h
        · split
          · exact State.runsSound_startRun h _
          · exact h
      · obtain rfl := Option.some.inj ht
        unfold execRunStart
        split
        · exact h
        · split
          · exact State.runsSound_startRun h _
          · exact h

theorem State.runsSound_quietTurn {s : State} (h : s.RunsSound) : s.quietTurn.RunsSound := by
  unfold State.quietTurn
  split
  case h_1 t ht => exact State.runsSound_startNext h ht
  case h_2 =>
    split
    · exact State.runsSound_afterEvent _
    · exact State.runsSound_afterEvent _

theorem Turn.own_sound {s t : State} (h : s.RunsSound) (ht : Turn.own s = .own t) : t.RunsSound := Turn.own.inj ht ▸ h

theorem next_sound {s t : State} (h : s.RunsSound) (ht : (Host.Outcome.next s : Out) = .next t) : t.RunsSound :=
  Host.Outcome.next.inj ht ▸ h

theorem State.runsSound_wordTurn {s t : State} (h : s.RunsSound) (ht : s.wordTurn = .own t) : t.RunsSound := by
  unfold State.wordTurn at ht
  split at ht
  · exact Turn.own_sound (State.runsSound_quietTurn h) ht
  · dsimp only at ht
    split at ht
    · exact Turn.own_sound (State.runsSound_afterWord _ _ _) ht
    · split at ht
      · exact Turn.own_sound (State.runsSound_afterWord _ _ _) ht
      · split at ht
        · cases ht
        · exact Turn.own_sound (State.runsSound_afterWord _ _ _) ht

theorem State.runsSound_runTurn {s t : State} (h : s.RunsSound) (ht : s.runTurn = .own t) : t.RunsSound := by
  unfold State.runTurn at ht
  split at ht
  · exact Turn.own_sound (State.runsSound_quietTurn h) ht
  · exact State.runsSound_wordTurn h ht

theorem State.runsSound_turn {s t : State} (h : s.RunsSound) (ht : s.turn = .own t) : t.RunsSound := by
  unfold State.turn at ht
  split at ht
  · cases ht
  · split at ht
    · exact Turn.own_sound (State.runsSound_afterEvent _) ht
    · split at ht
      · split at ht
        · exact Turn.own_sound (State.runsSound_afterEvent _) ht
        · exact State.runsSound_runTurn h ht
      · exact State.runsSound_runTurn h ht

/-- Settles O52: what follows from a meaning ends in a regrouping, which drops ended threads from the runs; a run that
begins is of its group's threads, each once. -/
theorem runsStaySound : Obligations.RunsStaySound := by
  intro s t h hst
  unfold step at hst
  split at hst
  case h_1 i u _ =>
    obtain ⟨x, hx⟩ := exec_is_next i u
    rw [hx, goOn_next] at hst
    exact next_sound (State.runsSound_afterEvent _) hst
  case h_2 gid i u _ =>
    obtain ⟨x, hx⟩ := exec_is_next i u
    rw [hx, goOn_next] at hst
    exact next_sound (State.runsSound_afterWord _ _ _) hst
  case h_3 u hu =>
    exact next_sound (State.runsSound_turn h hu) hst

/-! ### Reset (R446, R452) -/

/-- Settles O53: every core of a part is one after reset. -/
theorem resetState : Obligations.ResetState := by
  refine ⟨fun g hg => ?none, rfl, rfl, rfl, rfl, rfl, rfl, rfl, rfl, rfl, rfl, rfl, rfl, rfl, rfl, fun c hc => ?cores,
    rfl, rfl, rfl, rfl, rfl, rfl⟩
  case none => cases hg
  case cores =>
    obtain ⟨x, -, rfl⟩ := List.mem_map.mp hc
    exact ⟨rfl, rfl, rfl, rfl⟩

end Sys2Proof.Machine
end

section
/-! Happenings beside the instruction words (spec/01, spec/02, spec/04, spec/07, spec/21 to spec/24, spec/26): what each
does where its condition holds. -/

namespace Sys2Proof.Machine

/-! ### Records after a change -/

theorem State.slice?_setSlice (s : State) (n m : Nat) {f : Slice → Slice} (hf : ∀ l, (f l).num = l.num) :
    (s.setSlice n f).slice? m = (s.slice? m).map fun l => if m = n then f l else l := by
  unfold State.slice? State.setSlice
  exact find?_update Slice.num n m f s.slices fun l hl => (hf l).trans hl

theorem State.slice_setSlice_same (s : State) (n : Nat) {f : Slice → Slice} (hf : ∀ l, (f l).num = l.num)
    (h : (s.slice? n).isSome = true) : (s.setSlice n f).slice n = f (s.slice n) := by
  obtain ⟨l, hl⟩ := Option.isSome_iff_exists.mp h
  simp [State.slice, State.slice?_setSlice s n n hf, hl]

/-! ### Killing a slice (R101) -/

@[simp] theorem State.killThread_mem (s : State) (u : Nat) : (s.killThread u).mem = s.mem := rfl

theorem State.killThread_threads (s : State) (u : Nat) :
    (s.killThread u).threads = s.threads.map fun t => if t.uid = u then t.quit .killed else t := rfl

/-- What killing threads one by one leaves of each thread: its slice, and its life unless it is among them. -/
theorem State.mem_killThreads {us : List Nat} {s : State} {y : Thread}
    (hy : y ∈ (us.foldl State.killThread s).threads) :
    ∃ x ∈ s.threads, y.uid = x.uid ∧ y.slice = x.slice ∧ (x.uid ∈ us → y.live = false) ∧
      (x.live = false → y.live = false) := by
  induction us generalizing s with
  | nil => exact ⟨y, hy, rfl, rfl, fun h => absurd h (by simp), id⟩
  | cons u us ih =>
    obtain ⟨z, hz, hzu, hzs, hzi, hzl⟩ := ih hy
    rw [State.killThread_threads] at hz
    obtain ⟨x, hx, rfl⟩ := List.mem_map.mp hz
    refine ⟨x, hx, ?_⟩
    by_cases hxu : x.uid = u
    · rw [if_pos hxu] at hzu hzs hzi hzl
      exact ⟨hzu, hzs, fun _ => hzl rfl, fun _ => hzl rfl⟩
    · rw [if_neg hxu] at hzu hzs hzi hzl
      exact ⟨hzu, hzs, fun h => hzi ((List.mem_cons.mp h).resolve_left hxu), hzl⟩

theorem State.killThreads_other {us : List Nat} {s : State} {x : Thread} (hx : x ∈ s.threads) (hu : x.uid ∉ us) :
    x ∈ (us.foldl State.killThread s).threads := by
  induction us generalizing s with
  | nil => exact hx
  | cons u us ih =>
    rw [List.mem_cons, not_or] at hu
    refine ih ?_ hu.2
    rw [State.killThread_threads]
    exact List.mem_map.mpr ⟨x, hx, if_neg hu.1⟩

theorem State.killThreads_mem (us : List Nat) (s : State) : (us.foldl State.killThread s).mem = s.mem := by
  induction us generalizing s with
  | nil => rfl
  | cons u us ih => rw [List.foldl_cons, ih, State.killThread_mem]

/-- Killing threads ends no slice and drops none. -/
theorem State.killThreads_slice? (us : List Nat) (s : State) (n : Nat) :
    ((us.foldl State.killThread s).slice? n).map Slice.live = (s.slice? n).map Slice.live := by
  induction us generalizing s with
  | nil => rfl
  | cons u us ih =>
    rw [List.foldl_cons, ih]
    unfold State.killThread
    dsimp only
    rw [State.slice?_setSlice (f := fun l => { l with faulted := true }) _ _ _ fun _ => rfl, Option.map_map]
    refine congrArg (fun g => Option.map g (s.slice? n)) (funext fun l => ?_)
    dsimp only [Function.comp]
    split <;> rfl

theorem State.killSlice_eq (s : State) (n : Nat) : s.killSlice n =
    (((s.sliceThreads n).map Thread.uid).foldl State.killThread s).setSlice n fun l =>
      if l.live then { l with faulted := true } else l := by
  rw [List.foldl_map]
  rfl

@[simp] theorem State.killSlice_mem (s : State) (n : Nat) : (s.killSlice n).mem = s.mem := by
  rw [State.killSlice_eq]
  exact State.killThreads_mem _ _

theorem State.killSlice_sliceThreads (s : State) (n : Nat) : (s.killSlice n).sliceThreads n = [] := by
  rw [State.killSlice_eq]
  refine List.filter_eq_nil_iff.mpr fun y hy => ?_
  obtain ⟨x, hx, -, hs, hin, hl⟩ := State.mem_killThreads hy
  suffices h : y.slice = n → y.live = false by
    simpa using h
  intro hn
  by_cases hxl : x.live = true
  · refine hin (List.mem_map.mpr ⟨x, List.mem_filter.mpr ⟨hx, ?_⟩, rfl⟩)
    simp [← hs, hn, hxl]
  · exact hl (by simpa using hxl)

theorem State.killSlice_other {s : State} {n : Nat} {x : Thread} (hx : x ∈ s.threads) (hn : x.slice ≠ n)
    (hu : ∀ y ∈ s.threads, y.uid = x.uid → y = x) : x ∈ (s.killSlice n).threads := by
  rw [State.killSlice_eq]
  refine State.killThreads_other hx fun h => ?_
  obtain ⟨y, hy, hyu⟩ := List.mem_map.mp h
  obtain ⟨hym, hys⟩ := List.mem_filter.mp hy
  rw [hu y hym hyu] at hys
  exact hn (by simpa using (Bool.and_eq_true_iff.mp hys).1)

theorem State.killSlice_faulted {s : State} {n : Nat} (hl : (s.slice n).live = true) (hs : (s.slice? n).isSome = true) :
    ((s.killSlice n).slice n).faulted = true := by
  rw [State.killSlice_eq]
  have hk := State.killThreads_slice? ((s.sliceThreads n).map Thread.uid) s n
  obtain ⟨l, hl'⟩ := Option.isSome_iff_exists.mp hs
  have hlive : l.live = true := by simpa [State.slice, hl'] using hl
  rw [hl'] at hk
  obtain ⟨r, hr, hrl⟩ := Option.map_eq_some_iff.mp hk
  rw [State.slice_setSlice_same _ _ (fun l => by split <;> rfl) (by simp [hr])]
  simp [State.slice, hr, hrl, hlive]

/-! ### Runs, groups and results -/

/-- Settles O35: what a kill leaves by induction on the slice's threads, the others by their conditions. -/
theorem runsGroupsAndResultsGoOn : Obligations.RunsGroupsAndResultsGoOn := by
  intro s g n u id c
  refine ⟨?run, ?starved, ?ready, ?part, ?poll, ?regroup, ?kill, ?enter, ?age, ?window⟩
  case run =>
    intro hf hs ha hr hm
    show execRunStart n s = _
    simp [execRunStart, hf, hs, ha, hr, hm]
  case starved =>
    intro hf hs hst
    show execIssueStarvation n s = _
    simp [execIssueStarvation, hf, hs, hst]
  case ready =>
    intro p hp hk
    show execResultReturn u id s = _
    simp only [execResultReturn, hp, hk]
  case part =>
    intro p m hp hk
    show execResultReturn u id s = _
    simp only [execResultReturn, hp, hk]
  case poll =>
    intro p q pl sc ex ea hp hk hex hq
    show execLdpollTimeout u id s = _
    simp only [execLdpollTimeout, hp, hk, hex, if_true, hq]
  case regroup =>
    intro hne harr hat hrun
    show execRegroupOperation n s = _
    have hlen : ((s.teamThreads n).filterMap fun t => t.arrivedAt.map fun a => (t, a)).length =
        (s.teamThreads n).length := by
      rw [List.length_filterMap_eq_countP, List.countP_eq_length]
      intro t ht
      simpa using harr t ht
    have hany : (s.groups.any fun g => g.team == n && g.run.isSome) = false := by
      rw [List.any_eq_false]
      intro x hx
      by_cases hxt : x.team = n
      · simp [hrun x hx hxt]
      · simp [hxt]
    simp [execRegroupOperation, hne, hlen, hat, hany]
  case kill =>
    exact ⟨s.killSlice n, rfl, State.killSlice_sliceThreads s n, State.killSlice_mem s n,
      fun x hx hn hu => State.killSlice_other hx hn hu, State.killSlice_faulted⟩
  case enter =>
    intro r hp hl hr
    show execGroupActivation c s = _
    simp [execGroupActivation, State.activate, State.entrant, hp, hl, hr]
  case age =>
    intro p r q hp hs hd
    show execAgeingRotation c s = _
    simp only [execAgeingRotation, hp, hs, hd, if_true]
  case window =>
    intro h
    show execDeferralWindowExpiry n s = _
    simp [execDeferralWindowExpiry, h]

/-! ### Write-backs and errors (R181, R371, R373, R381 to R384) -/

theorem rasCount_bumpRas (l : List (Nat × Nat)) (c : Nat) :
    (((bumpRas l c 1).find? (·.1 == c)).map (·.2)).getD 0 =
      min (((l.find? (·.1 == c)).map (·.2)).getD 0 + 1) 0xFFFFFFFF := by
  induction l with
  | nil => simp [bumpRas]
  | cons x l ih =>
    by_cases hx : x.1 = c
    · simp [bumpRas, hx]
    · simp [bumpRas, hx, ih]

theorem State.rasAdd_one (s : State) (c : Nat) : s.rasAdd c 1 = { s with ras := bumpRas s.ras c 1 } := rfl

theorem State.rasCount_rasEvent (s : State) (c w a : Nat) :
    (s.rasEvent c w a).rasCount c = min (s.rasCount c + 1) 0xFFFFFFFF := rasCount_bumpRas s.ras c

theorem State.rasLog_rasEvent (s : State) (c w a : Nat) :
    (s.rasEvent c w a).rasLog.getLast? = some ⟨c, w, a, s.now⟩ := by
  simp only [State.rasEvent, State.rasAdd_one, List.getLast?_drop, List.length_append, List.length_singleton]
  rw [if_neg (by omega), List.getLast?_append_of_ne_nil _ (by simp)]
  rfl

theorem State.mem_poisonGranule (s : State) (g h : Nat) :
    h ∈ (s.poisonGranule g).mem.poison ↔ h ∈ s.mem.poison ∨ h = g := by
  simp [State.poisonGranule]

/-- A scrub changes no byte and no thread and takes away no poison. -/
theorem State.scrub_keeps (s : State) (line : Nat) : (s.scrub line).threads = s.threads ∧
    (s.scrub line).mem.hbm = s.mem.hbm ∧ (s.scrub line).mem.l2 = s.mem.l2 ∧
    ∀ h ∈ s.mem.poison, h ∈ (s.scrub line).mem.poison := by
  unfold State.scrub
  dsimp only
  split
  · exact ⟨rfl, rfl, rfl, fun _ h => h⟩
  · split
    · exact ⟨rfl, rfl, rfl, fun _ h => h⟩
    · split
      · simp only [State.strike, State.rasEvent, State.rasAdd_one]
        split
        · exact ⟨rfl, rfl, rfl, fun _ h => h⟩
        · exact ⟨rfl, rfl, rfl, fun h hh => (State.mem_poisonGranule s _ h).mpr (.inl hh)⟩
      · exact ⟨rfl, rfl, rfl, fun _ h => h⟩

/-- Settles O36. -/
theorem memoryWritesBackAndTakesErrors : Obligations.MemoryWritesBackAndTakesErrors := by
  refine ⟨fun s c line die loc => ⟨fun h => ?back, fun h => ?age, fun h => ?grant, fun h => ?leave, fun h => ?stay,
    ⟨s.scrub line, rfl, rfl, s.scrub_keeps line⟩, rfl, rfl⟩, fun s g => ?l2⟩
  case back =>
    show execDirtyLineWriteBack c line s = _
    obtain ⟨x, hx, rfl⟩ := List.mem_map.mp h
    exact if_pos (List.any_eq_true.mpr ⟨x, hx, by simp⟩)
  case age =>
    show execL1AgeLimit c line s = _
    obtain ⟨x, hx, rfl, ht⟩ := h
    exact if_pos (List.any_eq_true.mpr ⟨x, hx, by simp [ht]⟩)
  case grant =>
    show execOwnershipGrant die line s = _
    obtain ⟨x, hx, rfl⟩ := List.mem_map.mp h
    exact if_pos (List.any_eq_true.mpr ⟨x, hx, by simp⟩)
  case leave =>
    show execHbmWriteBack line s = _
    simp [execHbmWriteBack, h]
  case stay =>
    show execHbmWriteBack line s = _
    simp [execHbmWriteBack, h]
  case l2 =>
    refine ⟨_, rfl, (s.mem_poisonGranule g g).mpr (.inr rfl), fun h hh => (s.mem_poisonGranule g h).mpr (.inl hh),
      fun h hh => ((s.mem_poisonGranule g h).mp hh).symm, rfl, rfl, rfl, ?_, ?_⟩
    · exact State.rasLog_rasEvent ..
    · exact State.rasCount_rasEvent ..

/-! ### Special registers (R31, R82, R365, R366) -/

theorem State.thread_any {s : State} {t : Thread} (ht : t ∈ s.threads) (hl : t.live = true) :
    (s.threads.any fun x => x.uid == t.uid && x.live) = true := List.any_eq_true.mpr ⟨t, ht, by simp [hl]⟩

/-- Settles O37. -/
theorem registerWritesAsHappenings : Obligations.RegisterWritesAsHappenings := by
  intro s t v n b
  refine ⟨fun ht hl hu => ⟨⟨_, rfl, ?tstat⟩, fun c hc => ?ctl, fun hp => ?priv, fun hp => ?unpriv⟩,
    fun hs => ⟨⟨_, rfl, ?trctl⟩, ⟨_, rfl, ?hold⟩, ⟨_, rfl, ?stop⟩⟩, rfl⟩
  case tstat =>
    exact congrArg Thread.tstat (State.thread_changed ht hu (f := fun x => x.clearTstat s.now v) fun _ => rfl)
  case ctl =>
    refine if_pos ?_
    rcases hc with rfl | rfl | rfl <;> simp [State.thread_any ht hl, sregRw, pregRw]
  case priv =>
    refine if_pos ?_
    rw [State.thread_of_unique ht hu]
    simp [State.thread_any ht hl, pregRw, hp]
  case unpriv =>
    refine if_neg ?_
    rw [State.thread_of_unique ht hu]
    simp [hp]
  case trctl =>
    rw [State.slice_setSlice_same s n (fun l => by unfold Slice.setTrctl; split <;> rfl) hs]
    unfold Slice.setTrctl
    split <;> exact ⟨rfl, rfl, rfl⟩
  case hold =>
    rw [State.slice_setSlice_same s n (f := fun l => { l with dbgHold := b }) (fun _ => rfl) hs]
    exact ⟨rfl, rfl⟩
  case stop =>
    rw [State.slice_setSlice_same s n (f := fun l => { l with dbgStop := b }) (fun _ => rfl) hs]
    exact ⟨rfl, rfl⟩

/-! ### Arrays, phases and rails (R221, R263, R413, R414, R436 to R440) -/

/-- Settles O38. -/
theorem arraysPhasesAndRailsStep : Obligations.ArraysPhasesAndRailsStep := by
  intro s o c b m k p
  refine ⟨fun hf hc => ?tile, fun hn => ?array, fun h => if_pos h, fun h => ?power, rfl, fun d hd => ?announce,
    fun hg hp => ?grant, fun hp hl => ?onset, fun hp hi => ?idle, fun hd hl => ?up, fun hd hl => ?hold,
    fun hd hl => ?down⟩
  case tile =>
    show execTileOperationComplete k s = _
    simp only [execTileOperationComplete, hf, hc, if_true]
  case array =>
    show execArrayOperationStart c s = _
    simp only [execArrayOperationStart, hn]
  case power =>
    obtain ⟨x, hx, rfl⟩ := List.mem_map.mp h
    exact if_pos (List.any_eq_true.mpr ⟨x, hx, by simp⟩)
  case announce =>
    show execApronAnnouncement d.1.team s = _
    simp only [execApronAnnouncement, hd, if_true]
  case grant =>
    show execPhaseGrant m s = _
    simp only [execPhaseGrant, hg, hp]
  case onset =>
    show execPhaseOnset m s = _
    simp only [execPhaseOnset, hp, hl, if_true]
  case idle =>
    show execPhaseIdleExpiry m s = _
    simp only [execPhaseIdleExpiry, hp, hi, if_true]
  case up => exact if_pos (by simp [hd, hl])
  case hold => exact if_pos (by simp [hd, hl])
  case down => exact if_pos (by simp [hd, hl])

/-! ### Thermal marks (R442 to R445) -/

theorem State.hottest_pair (s : State) (x y : Nat) (h : s.apron.thermal.temp = [x, y]) : s.hottest = max x y := by
  simp [State.hottest, h]

/-- Settles O39. -/
theorem thermalMarksChangeTheState : Obligations.ThermalMarksChangeTheState := by
  intro s x y u
  have hot : u.hottest = max x y := State.hottest_pair u x y rfl
  have hst : u.apron.thermal.state = s.apron.thermal.state := rfl
  have hread : exec (.sensorRead x y) s = .next u.readSensors := rfl
  refine ⟨fun h hx hy => ?cool, fun h hw hx hy => ?warm, fun h hw hx hy => ?crit, fun h hw => ?cut, fun h hw => ?off,
    fun h hx hy => ?res, fun h => if_pos h⟩
  all_goals rw [hread]; refine congrArg _ ?_; unfold State.readSensors; dsimp only; rw [hot, hst]
  case cool => rw [if_pos h, if_neg (by omega), if_neg (by omega)]
  case warm => rw [if_pos h, if_neg (by omega), if_pos (by omega)]
  case crit =>
    have hc : u.critical = u.beginCritical := if_neg (by rw [hot]; omega)
    rcases h with h | h
    · rw [if_pos h, if_pos (by omega), hc]
    · rw [if_neg (by omega), if_neg (by omega), if_neg (by omega), if_pos (by omega), hc]
  case cut =>
    have hc : u.critical = u.beginCritical.cutOff := if_pos (by rw [hot]; omega)
    rcases h with h | h
    · rw [if_pos h, if_pos (by omega), hc]
    · rw [if_neg (by omega), if_neg (by omega), if_neg (by omega), if_pos (by omega), hc]
  case off => rw [if_neg (by omega), if_pos h, if_pos (by omega)]
  case res => rw [if_neg (by omega), if_neg (by omega), if_pos h, if_pos (by omega)]

end Sys2Proof.Machine
end

section
/-! Happenings of the engines, the Cloakroom and the scheduler (spec/16, spec/19, spec/21, spec/23). -/

namespace Sys2Proof.Machine

/-! ### Transforms and collectives (R290 to R307) -/

/-- The messages of a collective that its device looks at: its members', and those of devices outside it. -/
def State.collHeard (s : State) (c : Coll) : List CollMsg :=
  (c.devs.filter (· != s.devid) ++ s.collStrangers c).filterMap fun d => s.collFrom c.tag d

/-- A collective of which some message differs from its own ends with status 9 (R303). -/
theorem State.finishColl_differs {s : State} {c : Coll} {x : CollMsg} (hx : x ∈ s.collHeard c)
    (hf : x.fields ≠ c.fields) (m : List Nat) : s.finishColl c m = s.endColl c 9 :=
  if_pos (List.any_eq_true.mpr ⟨x, hx, by simp [hf]⟩)

theorem State.collFrom_unique {s : State} {c : Coll} {x : CollMsg} (hx : x ∈ s.collIn) (ht : x.tag = c.tag)
    (hu : ∀ y ∈ s.collIn, y.tag = c.tag → y.src = x.src → y = x) : s.collFrom c.tag x.src = some x := by
  unfold State.collFrom
  cases hf : s.collIn.find? fun m => m.src == x.src && m.tag == c.tag with
  | none => exact absurd (List.find?_eq_none.mp hf x hx) (by simp [ht])
  | some y =>
    have hy := List.find?_some hf
    simp only [Bool.and_eq_true, beq_iff_eq] at hy
    rw [hu y (List.mem_of_find?_eq_some hf) hy.2 hy.1]

theorem State.mem_collStrangers {s : State} {c : Coll} {d : Nat} :
    d ∈ s.collStrangers c ↔ (∃ x ∈ s.collIn, x.tag = c.tag ∧ x.src = d) ∧ d ∉ c.devs := by
  simp [State.collStrangers, and_assoc]

/-- Settles O40. -/
theorem enginesTakeTheirSteps : Obligations.EnginesTakeTheirSteps := by
  intro s x c k src tag f d
  refine ⟨fun hw hd hp ha => ?chunk, fun hw hd hp hr ho => ?fin, fun t hw hop hd hc ht => ?dog,
    fun m hc hp hr hs hw hst hm hall => ?write, fun hc hp hr hs hw => ?close, fun hc hp hr hs hw hst => ?failed,
    fun hc ht hw hsil => ?silent, ?msg, fun m hc hm hd hnone => ?stranger, fun m x hx ht hd hf hu => ?other,
    fun m x e he hne hx hf => ?member⟩
  case chunk =>
    show execTransformChunk k s = _
    simp [execTransformChunk, hw, hd, hp, ha]
  case fin =>
    show execTransformEnd k s = _
    have hc : (decide (x.status = 0) && x.op == 3 && !x.outDone) = false := by
      rcases ho with h | h | h <;> simp [h]
    simp only [execTransformEnd, hw, hd, hp, hr, hc]
    rfl
  case dog =>
    show execDecoderWatchdog k s = _
    simp [execDecoderWatchdog, hw, Xform.late, hop, hd, hc, ht]
  case write =>
    show execCollectiveComplete k s = _
    have ha : ((c.devs.filter (· != s.devid)).all fun d => (s.collFrom k d).isSome) = true := by
      simpa [or_iff_not_imp_left] using hall
    simp [execCollectiveComplete, hc, hp, hr, hs, hw, hst, hm, ha]
  case close =>
    show execCollectiveComplete k s = _
    simp [execCollectiveComplete, hc, hp, hr, hs, hw]
  case failed =>
    show execCollectiveComplete k s = _
    simp [execCollectiveComplete, hc, hp, hr, hs, hw, hst]
  case silent =>
    show execCollectiveMemberTimeout k s = _
    obtain ⟨e, he, hne, hnone⟩ := hsil
    have ha : (c.devs.any fun d => d != s.devid && (s.collFrom k d).isNone) = true :=
      List.any_eq_true.mpr ⟨e, he, by simp [hne, hnone]⟩
    simp only [execCollectiveMemberTimeout, hc, ht, hw, ha, decide_true, Bool.not_false, Bool.and_self, if_true]
  case msg =>
    show ∃ t, execCollectiveControlMessage src tag f d s = .next t ∧ _
    unfold execCollectiveControlMessage
    dsimp only
    split
    · exact ⟨_, rfl, rfl, rfl⟩
    · split
      · exact ⟨_, rfl, rfl, rfl⟩
      · split
        · exact ⟨_, rfl, rfl, rfl⟩
        · exact ⟨_, rfl, rfl, rfl⟩
  case stranger =>
    show execCollectiveControlMessage src tag f d s = _
    have htag : c.tag = tag := by simpa using List.find?_some hc
    have hs : src ∉ (s.heard src).collStrangers c := fun h => by
      obtain ⟨⟨x, hx, hxt, hxs⟩, -⟩ := State.mem_collStrangers.mp h
      exact hnone x hx hxs (hxt.trans htag)
    have hfind : (s.heard src).colls.find? (·.tag == tag) = some c := hc
    simp only [execCollectiveControlMessage, hfind, hm]
    exact if_neg (by simp [hd, hs])
  case other =>
    refine State.finishColl_differs (List.mem_filterMap.mpr ⟨x.src, ?_, State.collFrom_unique hx ht hu⟩) hf m
    exact List.mem_append_right _ (State.mem_collStrangers.mpr ⟨⟨x, hx, ht, rfl⟩, hd⟩)
  case member =>
    exact State.finishColl_differs (List.mem_filterMap.mpr ⟨e, List.mem_append_left _
      (List.mem_filter.mpr ⟨he, by simp [hne]⟩), hx⟩) hf m

/-! ### The Cloakroom (R324 to R342) -/

theorem State.atEntry_pending {s : State} {m : CMsg} {e : Entry} (he : s.entryOf m.head.handle = some e)
    (hp : e.st = .pending) (hu : e.unplaced = false) : s.atEntry m =
      match m.kind with
      | .waiter tag polling => s.atWaiter m e tag polling
      | .fput v => s.atFput m e v
      | .fbreak c d => s.atFbreak m e c d
      | .frel => s.atFrel m e
      | .invh i => s.atInvh m e i
      | _ => s := by
  simp [State.atEntry, he, hp, Entry.result, Entry.keeps, hu] <;> rfl

/-- An entry that has its result answers a message other than a release, and may be reclaimed. -/
theorem State.atEntry_final {s : State} {m : CMsg} {e : Entry} {r : FRes} (he : s.entryOf m.head.handle = some e)
    (hf : e.st ≠ .forwarded) (hr : e.result = some r) (hk : m.kind ≠ .frel) :
    s.atEntry m = (s.atFinal e.handle r m).reclaim e.handle := by
  simp [State.atEntry, he, hf, hr, hk]

theorem Entry.result_of_final (e : Entry) (hp : e.st ≠ .pending) (hf : e.st ≠ .forwarded) : ∃ r, e.result = some r := by
  unfold Entry.result
  cases h : e.st with
  | pending => exact absurd h hp
  | full => exact ⟨_, rfl⟩
  | broken => exact ⟨_, rfl⟩
  | forwarded => exact absurd h hf

/-- Settles O41. -/
theorem cloakroomMessagesArePerformed : Obligations.CloakroomMessagesArePerformed := by
  refine ⟨fun s h n d l a v asid tag depth loc sub any poll ok cause =>
    ⟨rfl, rfl, rfl, rfl, rfl, rfl, rfl, rfl, rfl, rfl⟩, fun s m e i v c d tag he hf hh hu => ?_⟩
  refine ⟨fun hk hp hl => ?put, fun hk hp hl => ?long, fun hk hp => ?full, fun hk hp => ?broken, fun hk hp => ?brk,
    fun hk hp => ?late, fun hk hp => ?waiter, fun hk hp => ?invh, fun hk hp hr => ?rel, fun hk hp hr => ?twice⟩
  all_goals unfold State.handleMsg; simp only [hk]
  case put => rw [State.atEntry_pending he hp hu, hk]; exact if_neg (by omega)
  case long => rw [State.atEntry_pending he hp hu, hk]; exact if_pos hl
  case full =>
    rw [State.atEntry_final he hf (r := .full e.value) (by simp [Entry.result, hp]) (by simp [hk]), hh]
    simp only [State.atFinal, hk]
  case broken =>
    rw [State.atEntry_final he hf (r := .broken e.cause e.depth) (by simp [Entry.result, hp]) (by simp [hk]), hh]
    simp only [State.atFinal, hk]
  case brk => rw [State.atEntry_pending he hp hu, hk]; rfl
  case late =>
    obtain ⟨r, hr⟩ := e.result_of_final hp hf
    rw [State.atEntry_final he hf hr (by simp [hk]), hh]
    simp only [State.atFinal, hk]
  case waiter => rw [State.atEntry_pending he hp hu, hk]; rfl
  case invh => rw [State.atEntry_pending he hp hu, hk]; rfl
  case rel => rw [State.atEntry_pending he hp hu, hk]; exact if_neg (by simp [hr])
  case twice => rw [State.atEntry_pending he hp hu, hk]; exact if_pos hr

/-! ### Slices, contracts and contexts (R350 to R363, R389 to R405) -/

/-- Settles O42. -/
theorem slicesArePlacedReleasedAndSaved : Obligations.SlicesArePlacedReleasedAndSaved := by
  intro s t n k w c
  refine ⟨fun h => ?place, fun hne hrest hst => ?save, fun h => ?restore, fun h => if_pos h,
    fun hk hd hj => ?release, fun hk hd hj => ?hold, fun h => if_pos h, fun hj ha => ?allowance, fun h => if_pos h,
    fun hw hl ha => ?watch, fun hc hr => ?saved, fun h => ?loaded⟩
  case place =>
    show execPlacement n s = _
    rw [execPlacement, h, Option.getD_some]
  case save =>
    show execSaveComplete n s = _
    have ha : (s.poolSaves n).all s.atRest = true := List.all_eq_true.mpr hrest
    have hturn : s.saveTurn n = true := by simp [State.saveTurn, hst]
    simp only [execSaveComplete, hst, if_false]
    exact if_neg (by simp [hne, ha, hturn])
  case restore =>
    show execRestoreComplete n s = _
    rw [execRestoreComplete, h, Option.getD_some]
  case release =>
    show execContractRelease n s = _
    simp only [execContractRelease, hk, Nat.not_lt.mpr hd, hj, Bool.false_eq_true, if_false]
  case hold =>
    show execContractRelease n s = _
    simp only [execContractRelease, hk, Nat.not_lt.mpr hd, hj, if_true, if_false]
  case allowance => exact if_pos (by simp [hj, ha])
  case watch =>
    show execWatchEvaluation n s = _
    simp only [execWatchEvaluation, hw, hl, ha, decide_true, Bool.and_self, if_true]
  case saved =>
    show execContextSaveComplete n s = _
    simp only [execContextSaveComplete, hc, hr, if_true]
  case loaded =>
    show execContextLoadComplete n s = _
    rw [execContextLoadComplete, h, Option.getD_some]

/-! ### Seam and the devices of the domain (R380, R388, R421 to R425) -/

theorem Fabric.linkUp_iff (f : Fabric) (n : Nat) : f.linkUp n = true ↔ ∃ x ∈ f.links, x.num = n ∧ x.up = true := by
  simp [Fabric.linkUp]

theorem Fabric.routesTo_entry {f : Fabric} {n : Nat} (h : ∃ e ∈ f.routes, e.1 = n) :
    ∃ e ∈ f.routes, e.1 = n ∧ f.routesTo n = e.2.take 4 := by
  unfold Fabric.routesTo
  cases hf : f.routes.find? (·.1 == n) with
  | none =>
    obtain ⟨e, he, hen⟩ := h
    exact absurd (List.find?_eq_none.mp hf e he) (by simp [hen])
  | some e => exact ⟨e, List.mem_of_find?_eq_some hf, by simpa using List.find?_some hf, rfl⟩

/-- A message for a device that a route is up for must wait behind one of its class, or for one sent over another. -/
theorem Fabric.stuck_route {f : Fabric} {now n : Nat} {m : OutMsg} {r : List Nat} (hm : m.dest = some n)
    (hr : f.route? n = some r) : f.stuck now m = true ↔ (∃ x ∈ f.unsent, x.dest = some n ∧ x.klass = m.klass) ∨
      ∃ x ∈ f.flights, x.dev = n ∧ x.cls = m.klass ∧ x.route ≠ r ∧ now < x.until_ := by
  simp only [Fabric.stuck, hm, Option.any_some, hr, OutMsg.pairs, Bool.or_eq_true, List.any_eq_true, Bool.and_eq_true,
    beq_iff_eq, decide_eq_true_eq, bne_iff_ne, and_assoc, @eq_comm _ (some n), @eq_comm _ m.klass]

theorem Fabric.stuck_unrouted {f : Fabric} {now n : Nat} {m : OutMsg} (hm : m.dest = some n)
    (hr : f.route? n = none) : f.stuck now m = true := by
  simp only [Fabric.stuck, hm, Option.any_some, hr]

theorem State.foldl_send_livenessAt (s : State) (l : List Nat) (f : State → Nat → OutMsg) :
    (l.foldl (fun s d => s.send (f s d)) s).fabric.livenessAt = s.fabric.livenessAt := by
  induction l generalizing s with
  | nil => rfl
  | cons d l ih => rw [List.foldl_cons, ih, State.send_fabric, Fabric.sent_livenessAt]

theorem State.foldl_send_reportAt (s : State) (l : List Nat) (f : State → Nat → OutMsg) :
    (l.foldl (fun s d => s.send (f s d)) s).fabric.reportAt = s.fabric.reportAt := by
  induction l generalizing s with
  | nil => rfl
  | cons d l ih => rw [List.foldl_cons, ih, State.send_fabric, Fabric.sent_reportAt]

/-- Settles O43. -/
theorem devicesExchangeRequestsAndReports : Obligations.DevicesExchangeRequestsAndReports := by
  intro s l m n t pa op bs p f cl
  refine ⟨rfl, rfl, rfl, fun he => ⟨fun hup hnone => ?route, fun hdown => ?unrouted⟩, fun m hm => ?msg,
    fun h => ?perform,
    fun h => ?wait, fun w hw => ?reply, rfl, fun h => ?live, fun ha hr hs => ?failed, fun ha => ?told,
    fun m hm => ?report, fun h => ?own⟩
  case route =>
    obtain ⟨e, hem, hen, het⟩ := Fabric.routesTo_entry he
    obtain ⟨r, hr, hall⟩ := hup e hem hen
    rw [Fabric.route?, het] at hnone
    refine List.find?_eq_none.mp hnone r hr (List.all_eq_true.mpr fun k hk => ?_)
    exact (s.fabric.linkUp_iff k).mpr (hall k hk)
  case unrouted =>
    obtain ⟨e, hem, hen, het⟩ := Fabric.routesTo_entry he
    rw [Fabric.route?, het]
    refine List.find?_eq_none.mpr fun r hr hall => ?_
    obtain ⟨k, hk, hd⟩ := hdown e hem hen r hr
    obtain ⟨x, hx, hxk, hxu⟩ := (s.fabric.linkUp_iff k).mp (List.all_eq_true.mp hall k hk)
    rw [hd x hx hxk] at hxu
    cases hxu
  case msg =>
    refine ⟨fun hr => State.send_stuck (Fabric.stuck_unrouted hm hr), fun r hr => ⟨fun h => ?_, fun h => ?_,
      fun h1 h2 => ?_⟩⟩
    · exact State.send_stuck ((Fabric.stuck_route hm hr).mpr (.inl h))
    · exact State.send_stuck ((Fabric.stuck_route hm hr).mpr (.inr h))
    · refine State.send_free (Bool.eq_false_iff.mpr fun h => ?_)
      rcases (Fabric.stuck_route hm hr).mp h with ⟨x, hx, hxn, hxk⟩ | ⟨x, hx, hxn, hxk, hxr, hxt⟩
      · exact h1 x hx hxn hxk
      · rcases h2 x hx hxn hxk with h | h
        · exact hxr h
        · omega
  case perform => exact if_neg (Bool.eq_false_iff.mp h)
  case wait =>
    have hw : (s.heard n).memWaits = true := by
      show (s.mem.selfRefresh || s.apron.thermal.state == 2) = true
      simpa using h
    exact ⟨_, if_pos hw, rfl, rfl⟩
  case reply =>
    show execRemoteAccessReply t bs p f s = _
    simp only [execRemoteAccessReply, hw]
  case live =>
    refine ⟨_, if_pos h, ?_⟩
    exact congrArg (· + 65536) (State.foldl_send_livenessAt s _ fun _ => OutMsg.liveness)
  case failed =>
    obtain ⟨m, hm, hmn, hmt⟩ := hs
    have hsil : s.silent n = true := by
      simp only [State.silent, hr, Option.isNone_none, Bool.true_and, List.any_eq_true]
      exact ⟨m, hm, Bool.and_eq_true_iff.mpr ⟨by simp [hmn], decide_eq_true hmt⟩⟩
    exact if_pos (by simp [ha, hsil])
  case told =>
    show Host.Outcome.next (if (s.heard m).aliveMember n then _ else _) = _
    rw [if_pos ha]
  case report =>
    show execPlacementReport (some n) l cl s = _
    simp only [execPlacementReport, hm]
  case own =>
    refine ⟨_, if_pos h, ?_⟩
    exact congrArg (· + 65536)
      (State.foldl_send_reportAt s s.peers fun x d => .level d x.starve (s.mgmt.teamClasses.setWidth 16))

end Sys2Proof.Machine
end

section
/-! Messages of hosts and management (spec/23, spec/25, spec/27). -/

namespace Sys2Proof.Machine

/-! ### A message of a requester (R430, R431, R435, R451) -/

/-- What a requester that the device serves now has: of a session, nothing earlier waits, its header is in order, it is
known, and a management session where `priv` asks for one. -/
theorem State.takesFrom_session {s : State} {q : SupolHead} {r : Nat} {priv : Bool} :
    s.takesFrom (.session q r) priv = true ↔ s.boot.on = true ∧ s.boot.recovery = false ∧ s.mustWait q.num = false ∧
      s.headStatus q = 0 ∧ ((s.session? q.num).any fun x => !priv || x.mgmt) = true := by
  simp only [State.takesFrom, Bool.and_eq_true, Bool.not_eq_true', beq_iff_eq, and_assoc]

theorem State.takesFrom_mailbox {s : State} {k : Nat} {priv : Bool} :
    s.takesFrom (.mailbox k) priv = true ↔ s.boot.on = true ∧ s.boot.recovery = false ∧ s.superSlice k = true := by
  simp only [State.takesFrom, Bool.and_eq_true, Bool.not_eq_true', and_assoc]

theorem State.serves_up {s : State} (hon : s.boot.on = true) (hr : s.boot.recovery = false) (b : Bool) :
    s.serves b = true := by
  simp [State.serves, hon, hr]

theorem State.inTurn_session {s : State} {q : SupolHead} {r : Nat} {i : HostMsg} {go : State → State}
    (h : s.mustWait q.num = false) : s.inTurn (.session q r) i go = go s := by
  simp [State.inTurn, h]

/-- A message of a requester that is served now is performed, in the state that a slice's release leaves. -/
theorem State.serve_takes {s : State} {w : Requester} {priv : Bool} (h : s.takesFrom w priv = true) (type : Nat)
    {p : Bool} (hp : p = true → priv = true) (rec : Bool) (go : State → State) :
    s.serve w type p rec go = go (s.atRequest w) := by
  cases w with
  | session q r =>
    obtain ⟨hon, hr, -, hst, hses⟩ := State.takesFrom_session.mp h
    have hm : (p && !(s.session? q.num).any (·.mgmt)) = false := by
      cases p with
      | false => rfl
      | true =>
        rw [hp rfl] at hses
        simpa using hses
    simp [State.serve, State.serves_up hon hr, hr, hst, hm, State.atRequest]
  | mailbox k =>
    obtain ⟨hon, hr, hk⟩ := State.takesFrom_mailbox.mp h
    simp [State.serve, State.serves_up hon hr, hk, State.atRequest]

/-- It is also next in its order. -/
theorem State.inTurn_takes {s : State} {w : Requester} {priv : Bool} (h : s.takesFrom w priv = true) (i : HostMsg)
    (go : State → State) : s.inTurn w i go = go s := by
  cases w with
  | session q r => exact State.inTurn_session (State.takesFrom_session.mp h).2.2.1
  | mailbox k => rfl

/-- A message whose header is not in order is answered with the header's status. -/
theorem State.serve_head {s : State} {q : SupolHead} (hon : s.boot.on = true) (hr : s.boot.recovery = false)
    (hst : s.headStatus q ≠ 0) (r type : Nat) (priv rec : Bool) (go : State → State) :
    s.serve (.session q r) type priv rec go = s.reply q.num r (typeOf q type) 0 (s.headStatus q) [] := by
  simp [State.serve, State.serves_up hon hr, hr, hst]

theorem State.startRma_head {s : State} {q : SupolHead} (hon : s.boot.on = true) (hr : s.boot.recovery = false)
    (hst : s.headStatus q ≠ 0) (x : Rma) :
    s.startRma q x = s.reply x.session x.reqId (typeOf q (if x.write then 7 else 6)) x.va (s.headStatus q) [] := by
  simp [State.startRma, State.serves_up hon hr, hst]

theorem State.startRma_takes {s : State} {q : SupolHead} {r : Nat} {priv : Bool}
    (h : s.takesFrom (.session q r) priv = true) (x : Rma) : s.startRma q x =
      if x.len = 0 ∨ 65536 < x.len then s.reply x.session x.reqId (if x.write then 7 else 6) x.va 0x102 []
      else { s with rma := s.rma ++ [{ x with id := s.nextRma }], nextRma := s.nextRma + 1 } := by
  obtain ⟨hon, hr, -, hst, -⟩ := State.takesFrom_session.mp h
  simp [State.startRma, State.serves_up hon hr, hst]

/-! ### What a header's status is (R430, R432) -/

theorem fieldStatus_iff (q : SupolHead) : fieldStatus q = 0x101 ↔
    q.version ≠ 1 ∨ q.unknown ≠ none ∨ q.flags ≠ 0 ∨ q.status ≠ 0 ∨ q.reserved ≠ 0 := by
  have hc : (q.version != 1 || q.unknown.isSome || q.flags != 0 || q.status != 0 || q.reserved != 0) = true ↔
      q.version ≠ 1 ∨ q.unknown ≠ none ∨ q.flags ≠ 0 ∨ q.status ≠ 0 ∨ q.reserved ≠ 0 := by
    simp [or_assoc, Option.ne_none_iff_isSome]
  rw [← hc, fieldStatus]
  generalize (q.version != 1 || q.unknown.isSome || q.flags != 0 || q.status != 0 || q.reserved != 0) = b
  cases b
  · simp only [Bool.false_eq_true, if_false, iff_false]
    split <;> decide
  · simp

theorem typeOf_of_fieldStatus {q : SupolHead} (h : fieldStatus q = 0) (type : Nat) : typeOf q type = type := by
  have hn : q.unknown = none := by
    by_contra hu
    rw [(fieldStatus_iff q).mpr (.inr (.inl hu))] at h
    cases h
  simp [typeOf, hn]

theorem State.headStatus_field {s : State} {q : SupolHead} (h : fieldStatus q ≠ 0) :
    s.headStatus q = fieldStatus q := by
  simp [State.headStatus, h]

theorem State.headStatus_unknown {s : State} {q : SupolHead} (h : fieldStatus q = 0)
    (hx : ∀ x, s.session? q.num = some x → x.secure = true ∧ q.assoc ≠ some x.assoc) : s.headStatus q = 0x100 := by
  have ha : ((s.session? q.num).any fun x => x.over q) = false := by
    cases hs : s.session? q.num with
    | none => rfl
    | some x =>
      obtain ⟨h1, h2⟩ := hx x hs
      simp [Session.over, h1, h2]
  simp [State.headStatus, h, ha]

/-! ### Requests of hosts (R343, R393, R433 to R435) -/

section Requests
variable {s : State} {q : SupolHead} {r : Nat}

/-- A request whose header is in order and whose session has nothing waiting is performed. -/
theorem exec_supolInvoke (h : s.takesFrom (.session q r) false = true) (d l a : List Byte) :
    exec (.supolInvoke q r d l a) s = .next (s.hostInvoke q r d l a) :=
  congrArg _ ((State.inTurn_takes h _ _).trans (State.serve_takes h 1 (fun h => h) _ _))

theorem exec_supolInvh (h : s.takesFrom (.session q r) false = true) (u : DWord) (d l a : List Byte) :
    exec (.supolInvh q r u d l a) s = .next (s.hostInvh q r u d l a) :=
  congrArg _ ((State.inTurn_takes h _ _).trans (State.serve_takes h 2 (fun h => h) _ _))

theorem exec_fgetNotify (h : s.takesFrom (.session q r) false = true) (u : DWord) :
    exec (.fgetNotify q r u) s = .next (s.hostNotify q.num r u) :=
  congrArg _ ((State.inTurn_takes h _ _).trans (State.serve_takes h 3 (fun h => h) _ _))

theorem exec_supolFrel (h : s.takesFrom (.session q r) false = true) (u : DWord) :
    exec (.supolFrel q r u) s = .next (if badHandle u then s.reply q.num r 4 u 0x106 []
      else (s.ownMsg u .frel (some (.host q.num r 4))).drainCloak 4096) :=
  congrArg _ ((State.inTurn_takes h _ _).trans (State.serve_takes h 4 (fun h => h) _ _))

/-- A request whose header is not in order is answered so. -/
theorem exec_head (hon : s.boot.on = true) (hr : s.boot.recovery = false) (hw : s.mustWait q.num = false)
    (hst : s.headStatus q ≠ 0) (h : DWord) (d l a bs : List Byte) (len : Nat) (o : Bool) :
    exec (.supolInvoke q r d l a) s = .next (s.reply q.num r (typeOf q 1) 0 (s.headStatus q) []) ∧
    exec (.supolInvh q r h d l a) s = .next (s.reply q.num r (typeOf q 2) 0 (s.headStatus q) []) ∧
    exec (.fgetNotify q r h) s = .next (s.reply q.num r (typeOf q 3) 0 (s.headStatus q) []) ∧
    exec (.supolFrel q r h) s = .next (s.reply q.num r (typeOf q 4) 0 (s.headStatus q) []) ∧
    exec (.contract (.session q r) d l) s = .next (s.reply q.num r (typeOf q 5) 0 (s.headStatus q) []) ∧
    exec (.rmaRead q r h len o) s = .next (s.reply q.num r (typeOf q 6) h (s.headStatus q) []) ∧
    exec (.rmaWrite q r h bs o) s = .next (s.reply q.num r (typeOf q 7) h (s.headStatus q) []) :=
  ⟨congrArg _ ((State.inTurn_session hw).trans (State.serve_head hon hr hst ..)),
    congrArg _ ((State.inTurn_session hw).trans (State.serve_head hon hr hst ..)),
    congrArg _ ((State.inTurn_session hw).trans (State.serve_head hon hr hst ..)),
    congrArg _ ((State.inTurn_session hw).trans (State.serve_head hon hr hst ..)),
    congrArg _ ((State.inTurn_session hw).trans (State.serve_head hon hr hst ..)),
    congrArg _ (State.startRma_head hon hr hst _), congrArg _ (State.startRma_head hon hr hst _)⟩

/-- A session's request that is served now. -/
theorem exec_rmaRead (h : s.takesFrom (.session q r) false = true) (va : DWord) (len : Nat) (o : Bool) :
    exec (.rmaRead q r va len o) s = .next (if len = 0 ∨ 65536 < len then s.reply q.num r 6 va 0x102 []
      else { s with
        rma := s.rma ++ [⟨s.nextRma, q.num, r, false, o, va, len, List.replicate len 0, false, 0, []⟩]
        nextRma := s.nextRma + 1 }) :=
  congrArg _ (State.startRma_takes h _)

theorem exec_rmaWrite (h : s.takesFrom (.session q r) false = true) (va : DWord) (bs : List Byte) (o : Bool) :
    exec (.rmaWrite q r va bs o) s = .next (if bs.length = 0 ∨ 65536 < bs.length then s.reply q.num r 7 va 0x102 []
      else { s with
        rma := s.rma ++ [⟨s.nextRma, q.num, r, true, o, va, bs.length, bs, false, 0, []⟩]
        nextRma := s.nextRma + 1 }) :=
  congrArg _ (State.startRma_takes h _)

/-- A contract of a requester that is served now. -/
theorem exec_contract {w : Requester} (h : s.takesFrom w true = true) (d l : List Byte) :
    exec (.contract w d l) s = .next (
      if d.length != 64 || l.length != 256 then (s.atRequest w).answer w 5 0 0x102 []
      else match (s.atRequest w).admitContract d l ((s.atRequest w).originOf w).1 ((s.atRequest w).originOf w).2 with
        | .error c => ((s.atRequest w).logRefusal c).answer w 5 0 c []
        | .ok x => x.2.answer w 5 (BitVec.ofNat 64 x.1) 0 []) :=
  congrArg _ ((State.inTurn_takes h _ _).trans (State.serve_takes h 5 (fun h => h) _ _))

end Requests

/-- Settles O44. -/
theorem hostMessagesArePerformed : Obligations.HostMessagesArePerformed := by
  intro s q r len h d l a bs w o
  refine ⟨fun hs => ⟨fun x t hi hx ht => ?_, fun x t c hi hx ht => ⟨fun hd => ?_, fun hd => ?_⟩, fun hi hx => ?_,
    fun x e hi hx hb hd hp he hst hu => ?_, fun x e hi hx hb hd he hst hu => ?_, fun e hb he hst => ?_,
    fun e v hb he hst hv => ?_, fun hb => ⟨?_, ?_⟩, fun hb => ?_, fun h0 hl => ?_, fun h0 hl => ?_, fun hi => ?_,
    fun hi => ?_, fun hl => ?_, fun hl => ?_⟩, fun hon hr hf hw hx => ?unknown,
    fun hon hr hw => ⟨fieldStatus_iff q, fun hf => ?head⟩,
    fun ht => ⟨fun x hd hl hx => ?_, fun c hd hl hx => ?_, fun hl => ?_⟩, rfl⟩
  case unknown =>
    have hst := State.headStatus_unknown hf hx
    have h0 := exec_head (r := r) hon hr hw (by rw [hst]; decide) h d l a bs len o
    simpa only [hst, typeOf_of_fieldStatus hf] using h0
  case head =>
    have hst := State.headStatus_field (s := s) hf
    have h0 := exec_head (r := r) hon hr hw (by rw [hst]; exact hf) h d l a bs len o
    simpa only [hst] using h0
  · rw [exec_supolInvoke hs]
    simp only [State.hostInvoke, hi, Bool.not_true, Bool.false_eq_true, if_false, hx, ht]
  · have hn : s.namesHere d = true := by simp [State.namesHere, hd]
    rw [exec_supolInvoke hs]
    simp only [State.hostInvoke, hi, Bool.not_true, Bool.false_eq_true, if_false, hx, ht, hn]
  · have hn : s.namesHere d = false := by simp [State.namesHere, hd]
    rw [exec_supolInvoke hs]
    simp only [State.hostInvoke, hi, Bool.not_true, Bool.false_eq_true, if_false, hx, ht, hn]
  · rw [exec_supolInvoke hs]
    simp only [State.hostInvoke, hi, Bool.not_true, Bool.false_eq_true, if_false, hx]
  · have hfields : invhFieldsOk d = true := by simp [invhFieldsOk, hd, hp]
    have hres : e.result = none := by simp [Entry.result, hst]
    rw [exec_supolInvh hs]
    simp only [State.hostInvh, hi, Bool.not_true, Bool.false_eq_true, if_false, hx, State.hostInvhTo, hb, he, hst, hu,
      hres, invocationOf, hfields, Bool.or_false]
    rfl
  · have hfields : invhFieldsOk d = false := by
      rcases hd with hd | hd
      · simp [invhFieldsOk, hd]
      · simp [invhFieldsOk, hd]
    have hfw : (e.st == .forwarded) = false := by simpa using hst
    rw [exec_supolInvh hs]
    simp only [State.hostInvh, hi, Bool.not_true, Bool.false_eq_true, if_false, hx, State.hostInvhTo, hb, he, hfw, hu,
      invocationOf, hfields, Bool.or_false, Bool.not_false, if_true]
  · have hres : e.result = none := by simp [Entry.result, hst]
    have hfw : (e.st == .forwarded) = false := by simp [hst]
    rw [exec_fgetNotify hs]
    simp only [State.hostNotify, hb, he, hfw, hres, Bool.false_eq_true, if_false]
  · have hfw : (e.st == .forwarded) = false := by simpa using hst
    rw [exec_fgetNotify hs]
    simp only [State.hostNotify, hb, he, hfw, hv, Bool.false_eq_true, if_false]
  · rw [exec_fgetNotify hs]
    simp only [State.hostNotify, hb, if_true]
  · rw [exec_supolFrel hs, if_pos hb]
  · rw [exec_supolFrel hs, if_neg (Bool.eq_false_iff.mp hb)]
  · rw [exec_rmaRead hs, if_neg (by omega)]
  · rw [exec_rmaWrite hs, if_neg (by omega)]
  · rw [exec_supolInvoke hs]
    simp only [State.hostInvoke, hi, Bool.not_false, if_true]
  · rw [exec_supolInvh hs]
    simp only [State.hostInvh, hi, Bool.not_false, if_true]
  · rw [exec_rmaRead hs, if_pos hl]
  · rw [exec_rmaWrite hs, if_pos hl]
  · have hlen : (d.length != 64 || l.length != 256) = false := by simp [hd, hl]
    rw [exec_contract ht]
    simp only [hlen, Bool.false_eq_true, if_false, hx]
  · have hlen : (d.length != 64 || l.length != 256) = false := by simp [hd, hl]
    rw [exec_contract ht]
    simp only [hlen, Bool.false_eq_true, if_false, hx]
  · rw [exec_contract ht, if_pos (by simpa using hl)]

/-! ### Management operations (R119, R120, R384, R386, R448 to R452) -/

section Management
variable {s : State} {w : Requester} {op : MgmtOp}

/-- A requester that is served now is no stranger that opens the first management session. -/
theorem State.firstSession_takes (h : s.takesFrom w true = true) : s.firstSession w op = false := by
  have hs : s.stranger w = false := by
    cases w with
    | mailbox k => rfl
    | session q r =>
      obtain ⟨-, -, -, -, hs⟩ := State.takesFrom_session.mp h
      cases hx : s.session? q.num with
      | none => rw [hx] at hs; cases hs
      | some x => simp [State.stranger, hx]
  unfold State.firstSession
  split
  · simp [hs]
  · rfl

/-- Its operation is performed, in the state that a slice's release leaves. -/
theorem State.mgmt_takes (h : s.takesFrom w true = true) :
    s.mgmt_ w op = (s.atRequest w).mgmtGo w op := by
  refine (State.inTurn_takes h _ _).trans ?_
  unfold State.doMgmt
  rw [State.firstSession_takes h]
  exact State.serve_takes h 8 (fun h => h) _ _

theorem portAsked_none {u : State} (hp : payloadStatus w = 0) : u.portAsked w = none := by
  cases w with
  | mailbox k => rfl
  | session q r =>
    have ho : q.op = none := by
      by_contra hne
      have : q.op.isSome = true := Option.ne_none_iff_isSome.mp hne
      simp [payloadStatus, opStatus, this] at hp
    simp [State.portAsked, ho]

/-- An operation whose payload is in order, and which needs nothing of other devices. -/
theorem State.mgmtGo_run (u : State) (hp : payloadStatus w = 0) (hm : u.mgmtMissing op = []) :
    u.mgmtGo w op = (u.mgmtRun w op).forget [codeObjUid] := by
  unfold State.mgmtGo
  rw [portAsked_none hp]
  simp only [hp, hm, List.isEmpty_nil, bne_self_eq_false, Bool.false_eq_true, if_false, if_true]

/-- It is answered with its status and payload, unless it was a reset. -/
theorem mgmt_answers (h : s.takesFrom w true = true) (hp : payloadStatus w = 0)
    (hm : (s.atRequest w).mgmtMissing op = []) (hr : ∀ x : State, x.unheard w op = false) {x : State} {st : Nat}
    {pay : List Byte} (ho : (s.atRequest w).mgmtOp op = (x, st, pay)) :
    (Host.Outcome.next (s.mgmt_ w op) : Out) = .next ((x.answer w 8 0 st pay).forget [codeObjUid]) := by
  rw [State.mgmt_takes h, State.mgmtGo_run _ hp hm]
  unfold State.mgmtRun
  dsimp only
  rw [ho, hr]
  rfl

/-- One whose payload is not is answered so. -/
theorem mgmt_payload (h : s.takesFrom w true = true) (hn : (s.atRequest w).portAsked w = none)
    (hp : payloadStatus w ≠ 0) :
    (Host.Outcome.next (s.mgmt_ w op) : Out) = .next ((s.atRequest w).answer w 8 0 (payloadStatus w) []) := by
  rw [State.mgmt_takes h]
  unfold State.mgmtGo
  rw [hn]
  exact congrArg _ (if_pos (by simpa using hp))

end Management

theorem State.writeStatus_idle {u : State} {o : Nat} {v : DWord} (hl : u.slices.any Slice.live = false)
    (ho : o = 0x030 ∨ o = 0x038 ∨ o = 0x040 ∨ o = 0x068 ∨ o = 0x070) : u.writeStatus o v = 0 := by
  have hb : (u.slices.any fun l => l.live && l.argBlock.isSome) = false := by
    rw [List.any_eq_false] at hl ⊢
    intro l hm
    simp [hl l hm]
  have hbusy : u.regBusy o = false := by simp [State.regBusy, hl, hb]
  rcases ho with rfl | rfl | rfl | rfl | rfl <;> simp [State.writeStatus, regWritable, hbusy]

theorem State.mgmtOp_writeReg {u : State} {o : Nat} {v : DWord} (h : u.writeStatus o v = 0) :
    u.mgmtOp (.writeReg o v) = (u.putMgmt o v, 0, []) := by
  simp only [State.mgmtOp, h, if_true]

theorem State.admitCode_free {u : State} {b : DWord} {len asid k : Nat} (h : u.freeCodeId = some k) :
    u.admitCode b len asid = ({ u with codes := u.codes ++
      [⟨k, b, len, asid, sha512 (u.codeImage codeObjUid asid b.toNat len)⟩] }, 0, leBytes 4 k) := by
  unfold State.admitCode
  rw [h]

/-- Settles O45. -/
theorem managementOperationsAnswer : Obligations.ManagementOperationsAnswer := by
  intro s w h u did
  refine ⟨fun hn hp o v => ⟨mgmt_payload h hn hp, mgmt_payload h hn hp⟩, fun hp => ?_⟩
  have ans : ∀ {op : MgmtOp} {x : State} {st : Nat} {pay : List Byte}, u.mgmtMissing op = [] →
      (∀ x : State, x.unheard w op = false) → u.mgmtOp op = (x, st, pay) →
      (Host.Outcome.next (s.mgmt_ w op) : Out) = did x st pay := fun hm hr ho => mgmt_answers h hp hm hr ho
  refine ⟨fun o v hv => ans rfl (fun _ => rfl) ?_, fun o v hv => ans rfl (fun _ => rfl) ?_,
    fun o v hv => ans rfl (fun _ => rfl) ?_, fun v hl => ⟨ans rfl (fun _ => rfl) ?_, ans rfl (fun _ => rfl) ?_,
      ans rfl (fun _ => rfl) ?_, ans rfl (fun _ => rfl) ?_, ans rfl (fun _ => rfl) ?_⟩,
    fun b len asid k hk hm => ans hm (fun _ => rfl) ?_, fun k hk => ans rfl (fun _ => rfl) (if_pos hk),
    fun k hk hc => ans rfl (fun _ => rfl) ?_, fun k a m e _ hk => ans rfl (fun _ => rfl) ?_,
    fun n hn => ans rfl (fun _ => rfl) (if_pos hn), fun q hq => ans rfl (fun _ => rfl) (if_pos hq),
    ans rfl (fun _ => rfl) rfl, fun c h1 h2 => ans rfl (fun _ => rfl) (if_pos ⟨h1, h2⟩),
    fun c h1 h2 => ans rfl (fun _ => rfl) (if_pos ⟨h1, h2⟩), ans rfl (fun _ => rfl) rfl, ans rfl (fun _ => rfl) rfl,
    fun n hn => ans rfl (fun _ => rfl) ?_, fun n g gid key hg hm => ⟨ans rfl (fun _ => rfl) ?_,
      ans rfl (fun _ => rfl) ?_⟩,
    fun n hn => ans rfl (fun _ => rfl) ?_, fun k c hc => ans rfl (fun _ => rfl) ?_,
    fun img => ans rfl (fun _ => rfl) rfl⟩
  · simp only [State.mgmtOp, hv]
  · exact State.mgmtOp_writeReg hv
  · exact congrArg (fun x : State => (x, u.writeStatus o v, ([] : List Byte))) (if_neg hv)
  · exact State.mgmtOp_writeReg (State.writeStatus_idle hl (.inl rfl))
  · exact State.mgmtOp_writeReg (State.writeStatus_idle hl (.inr (.inl rfl)))
  · exact State.mgmtOp_writeReg (State.writeStatus_idle hl (.inr (.inr (.inl rfl))))
  · exact State.mgmtOp_writeReg (State.writeStatus_idle hl (.inr (.inr (.inr (.inl rfl)))))
  · exact State.mgmtOp_writeReg (State.writeStatus_idle hl (.inr (.inr (.inr (.inr rfl)))))
  · show u.admitCode b len asid = _
    rw [State.admitCode_free hk]
  · simp only [State.mgmtOp, hk, hc, Bool.false_eq_true, if_false, if_true]
  · simp only [State.mgmtOp, State.openSession, hk]
  · exact if_neg (by simpa [Option.isSome_iff_ne_none] using hn)
  · simp only [State.mgmtOp, State.debugStep, hg, hm, if_true]; rfl
  · simp only [State.mgmtOp, State.debugStep, hg, hm, if_true]; rfl
  · exact if_neg (by simpa [Option.isSome_iff_ne_none] using hn)
  · simp only [State.mgmtOp, hc]

/-! ### Resets and boot (R446, R447) -/

theorem State.recover_linkUp (z : State) (n : Nat) : z.recover.fabric.linkUp n = false := by
  simp [State.recover, Fabric.linkUp]

@[simp] theorem State.forget_cores (s : State) (us : List Nat) : (s.forget us).cores = s.cores := by
  unfold State.forget; split <;> rfl

@[simp] theorem State.forget_slices (s : State) (us : List Nat) : (s.forget us).slices = s.slices := by
  unfold State.forget; split <;> rfl

@[simp] theorem State.answer_cores (s : State) (w : Requester) (type : Nat) (target : DWord) (st : Nat)
    (pay : List Byte) : (s.answer w type target st pay).cores = s.cores := by
  cases w <;> rfl

@[simp] theorem State.answer_slices (s : State) (w : Requester) (type : Nat) (target : DWord) (st : Nat)
    (pay : List Byte) : (s.answer w type target st pay).slices = s.slices := by
  cases w <;> rfl

/-- What a partition reset leaves of the cores and slices, whether or not somebody is left to answer (R446). -/
theorem State.mgmtRun_partition (u : State) (w : Requester) {c : Nat} (hc : c < 40) :
    (u.mgmtRun w (.reset 2 c)).cores = (u.partitionReset c).cores ∧
      (u.mgmtRun w (.reset 2 c)).slices = (u.partitionReset c).slices := by
  have ho : u.mgmtOp (.reset 2 c) = (u.partitionReset c, 0, []) := by simp [State.mgmtOp, hc]
  unfold State.mgmtRun
  dsimp only
  rw [ho]
  split
  · exact ⟨rfl, rfl⟩
  · exact ⟨State.answer_cores .., State.answer_slices ..⟩

/-- Settles O46. -/
theorem resetsClearTheDevice : Obligations.ResetsClearTheDevice := by
  intro s img w c b boots
  have hboot : ∀ z : State, z.boot.slotA = b.boot.slotA → z.boot.slotB = b.boot.slotB → z.bootUp = boots z := by
    intro z ha hb
    simp only [State.bootUp, boots, Bool.or_eq_true, decide_eq_true_eq]
    simp only [← ha, ← hb]
    rfl
  refine ⟨fun h => ⟨?_, ?_⟩, fun h => ⟨?_, ?_⟩, rfl, rfl, ⟨_, hboot _ rfl rfl, ?_⟩, ⟨_, hboot _ rfl rfl, ?_⟩,
    fun z => ⟨rfl, rfl, rfl, z.recover_linkUp⟩, fun h hp hc => ?part⟩
  · exact congrArg Host.Outcome.next (if_pos h)
  · exact congrArg Host.Outcome.next (if_pos h)
  · exact congrArg Host.Outcome.next (if_neg (by simp [State.serves, h]))
  · exact congrArg Host.Outcome.next (if_neg (by simp [State.serves, h]))
  · exact ⟨rfl, rfl, rfl, rfl, rfl, rfl, rfl, rfl, rfl⟩
  · exact ⟨rfl, rfl, rfl, rfl, rfl, rfl, rfl, rfl, rfl⟩
  case part =>
    obtain ⟨hcores, hslices⟩ := State.mgmtRun_partition (s.atRequest w) w hc
    refine ⟨_, rfl, ?_⟩
    rw [State.mgmt_takes h, State.mgmtGo_run _ hp rfl, State.forget_cores, State.forget_slices, hcores, hslices]
    refine ⟨fun x hx hxc => ?_, fun l hl => ?_⟩
    · obtain ⟨y, hy, rfl⟩ := List.mem_map.mp hx
      by_cases hy : y.clusterNo = c
      · rw [if_pos hy]
        rfl
      · rw [if_neg hy] at hxc
        exact absurd hxc hy
    · obtain ⟨y, hy, rfl⟩ := List.mem_map.mp hl
      split
      · simp
      · assumption

end Sys2Proof.Machine
end

section
/-! PROOFS. The register file and results that return: what a register reads after a write, a release and a landing.
O57, O58. -/

namespace Sys2Proof.Machine

/-! ### Reading a register back (R14 to R18) -/

/-- A register that is dropped from a register file reads 0, and every other keeps its value. -/
theorem regGet_filter_ne (l : List (Nat × Word)) (n m : Nat) :
    regGet (l.filter (·.1 != n)) m = if m = n then 0 else regGet l m := by
  induction l with
  | nil => simp [regGet]
  | cons c r ih =>
    by_cases hc : c.1 = n
    · subst hc
      rw [List.filter_cons_of_neg (by simp), ih]
      by_cases hm : m = c.1
      · simp [hm]
      · simp [hm, regGet, Ne.symm hm]
    · rw [List.filter_cons_of_pos (by simpa using hc)]
      simp only [regGet, ih]
      by_cases hm : c.1 = m
      · subst hm
        simp [hc]
      · simp [hm]

/-- What a register reads after LAST: 0 where it was released (R18). -/
theorem Thread.g_release (t : Thread) (n m : Nat) :
    (t.release n).g m = if m = n ∧ n < 120 then 0 else t.g m := by
  unfold Thread.release
  by_cases hn : n = 0
  · subst hn
    by_cases hm : m = 0
    · simp [hm, Thread.g]
    · simp [hm]
  · by_cases hk : 120 ≤ n
    · simp [hk, Nat.not_lt.mpr hk]
    · rw [if_neg (by simp [hn, hk])]
      simp only [Thread.g, regGet_filter_ne]
      by_cases hm : m = n
      · subst hm
        simp [hn, Nat.lt_of_not_le hk]
      · simp [hm]

theorem Thread.g_putG (t : Thread) (n m : Nat) (v : Word) :
    (t.putG n v).g m = if m = n ∧ n ≠ 0 then v else t.g m := t.g_setG n m v

theorem Thread.p_putP (t : Thread) (n m : Nat) (b : Bool) (h : n < 48) :
    (t.putP n b).p m = if m = n ∧ n ≠ 0 then b else t.p m := t.p_setP n m b h

theorem Thread.g_setW (t : Thread) (n k : Nat) (x : DWord) :
    (t.setW n x).g k = if k = 2 * n + 1 then hiWord x else if k = 2 * n ∧ n ≠ 0 then loWord x else t.g k := by
  unfold Thread.setW
  simp [Thread.g_setG]

theorem loWord_eq_extract (x : DWord) : loWord x = x.extractLsb' 0 32 := by
  ext i h
  simp [loWord, h]

theorem hiWord_eq_extract (x : DWord) : hiWord x = x.extractLsb' 32 32 := by
  ext i h
  simp [hiWord]

theorem setG_drops_dest (t : Thread) (n : Nat) (v : Word) :
    ∀ p ∈ (t.setG n v).pend, ∀ d ∈ p.dests, d.1 ≠ .reg n := by
  intro p hp d hd
  obtain ⟨q, -, rfl⟩ := List.mem_map.mp hp
  simpa using (List.mem_filter.mp hd).2

/-- Settles O57, from what a register reads after `setG`, `setP`, `setW` and `release`. -/
theorem registerFileReadsBack : Obligations.RegisterFileReadsBack := by
  unfold Obligations.RegisterFileReadsBack
  intro t n k v x b
  refine ⟨rfl, rfl, rfl, ?_, fun h => ?_, fun h => ?_, fun h h' => ?_, fun h _ hn => ?_, fun h => ?_, ?_, rfl,
    fun h => ⟨?_, ?_⟩, fun h h' => ?_, fun h h' => ?_, fun h => ?_, fun h => ?_, setG_drops_dest t n v⟩
  · rfl
  · simp [Thread.g_setG, Nat.ne_of_gt h]
  · simp [Thread.g_setG, h]
  · simp [Thread.p_setP t n n b h', Nat.ne_of_gt h]
  · simp [Thread.p_setP t n k b hn, h]
  · show (t.setW n x).g (2 * n + 1) ++ (t.setW n x).g (2 * n) = x
    simp [Thread.g_setW, Nat.ne_of_gt h, hiWord_append_loWord]
  · simp [Thread.g_setW]
  · simp [Thread.g_setW, Nat.ne_of_gt h, loWord_eq_extract]
  · simp [Thread.g_setW, hiWord_eq_extract]
  · simp [Thread.g_setW, h, h']
  · simp [Thread.g_release, h']
  · simp [Thread.release, h]
  · simp [Thread.g_release, h]

/-! ### Landing (R17, R47 to R50) -/

/-- Landing values changes the registers, the predicates and their poison, and nothing else. -/
theorem Thread.landAll_eq (ds : List (Dest × Word)) (t : Thread) : ∃ r q z,
    ds.foldl Thread.land t = { t with regs := r, preds := q, poison := z } := by
  induction ds generalizing t with
  | nil => exact ⟨_, _, _, rfl⟩
  | cons d ds ih =>
    have one : ∃ r q z, t.land d = { t with regs := r, preds := q, poison := z } := by
      obtain ⟨_ | _, v⟩ := d
      · simp only [Thread.land, Thread.putG]
        split <;> exact ⟨_, _, _, rfl⟩
      · simp only [Thread.land, Thread.putP]
        split <;> exact ⟨_, _, _, rfl⟩
    obtain ⟨r, q, z, h⟩ := one
    rw [List.foldl_cons, h]
    exact ih _

theorem Thread.g_land_other (t : Thread) {d : Dest × Word} {n : Nat} (h : d.1 ≠ .reg n) : (t.land d).g n = t.g n := by
  obtain ⟨m | m, v⟩ := d
  · have : n ≠ m := fun e => h (e ▸ rfl)
    simp [Thread.land, Thread.g_putG, this]
  · simp [Thread.land, Thread.g]

/-- A predicate number that no predicate has changes none. -/
theorem predPut_of_ge (ps : BitVec 48) {m : Nat} (b : Bool) (h : 48 ≤ m) : predPut ps m b = ps := by
  have hz : BitVec.ofNat 48 (2 ^ m) = 0 :=
    BitVec.eq_of_toNat_eq (by simpa using Nat.mod_eq_zero_of_dvd (Nat.pow_dvd_pow 2 h))
  cases b
  · simp only [predPut, hz]
    exact BitVec.and_allOnes
  · simp [predPut, hz]

theorem Thread.p_putP_other (t : Thread) {m n : Nat} (b : Bool) (h : n ≠ m) : (t.putP m b).p n = t.p n := by
  by_cases hm : m < 48
  · simp [Thread.p_putP _ _ _ _ hm, h]
  · unfold Thread.putP
    split
    · rfl
    · simp [Thread.p, predPut_of_ge _ _ (Nat.le_of_not_lt hm)]

theorem Thread.p_land_other (t : Thread) {d : Dest × Word} {n : Nat} (h : d.1 ≠ .pred n) :
    (t.land d).p n = t.p n := by
  obtain ⟨m | m, v⟩ := d
  · simp [Thread.land, Thread.p]
  · exact t.p_putP_other _ fun e => h (e ▸ rfl)

theorem Thread.g_landAll_other {ds : List (Dest × Word)} {n : Nat} (h : Dest.reg n ∉ ds.map (·.1)) (t : Thread) :
    (ds.foldl Thread.land t).g n = t.g n := by
  induction ds generalizing t with
  | nil => rfl
  | cons d ds ih =>
    simp only [List.map_cons, List.mem_cons, not_or] at h
    rw [List.foldl_cons, ih h.2, t.g_land_other (Ne.symm h.1)]

theorem Thread.p_landAll_other {ds : List (Dest × Word)} {n : Nat} (h : Dest.pred n ∉ ds.map (·.1)) (t : Thread) :
    (ds.foldl Thread.land t).p n = t.p n := by
  induction ds generalizing t with
  | nil => rfl
  | cons d ds ih =>
    simp only [List.map_cons, List.mem_cons, not_or] at h
    rw [List.foldl_cons, ih h.2, t.p_land_other (Ne.symm h.1)]

/-- A register that lands once reads its value. -/
theorem Thread.g_landAll {ds : List (Dest × Word)} (nd : (ds.map (·.1)).Nodup) {n : Nat} {v : Word} (h0 : 0 < n)
    (h : (Dest.reg n, v) ∈ ds) (t : Thread) : (ds.foldl Thread.land t).g n = v := by
  induction ds generalizing t with
  | nil => exact absurd h List.not_mem_nil
  | cons d ds ih =>
    rw [List.map_cons, List.nodup_cons] at nd
    rcases List.mem_cons.mp h with rfl | h
    · rw [List.foldl_cons, Thread.g_landAll_other nd.1]
      simp [Thread.land, Thread.g_putG, Nat.ne_of_gt h0]
    · exact ih nd.2 h _

/-- A predicate that lands once reads whether its value is not 0. -/
theorem Thread.p_landAll {ds : List (Dest × Word)} (nd : (ds.map (·.1)).Nodup) {n : Nat} {v : Word} (h0 : 0 < n)
    (hn : n < 48) (h : (Dest.pred n, v) ∈ ds) (t : Thread) : (ds.foldl Thread.land t).p n = decide (v ≠ 0) := by
  induction ds generalizing t with
  | nil => exact absurd h List.not_mem_nil
  | cons d ds ih =>
    rw [List.map_cons, List.nodup_cons] at nd
    rcases List.mem_cons.mp h with rfl | h
    · rw [List.foldl_cons, Thread.p_landAll_other nd.1]
      simp [Thread.land, Thread.p_putP _ _ _ _ hn, Nat.ne_of_gt h0, bne, beq_eq_decide]
    · exact ih nd.2 h _

theorem Thread.mem_landing {t : Thread} {p : Pending} {d : Dest × Word} :
    d ∈ t.landing p ↔ d ∈ p.dests ∧ t.landable p d = true := List.mem_filter

theorem Thread.landing_nodup (t : Thread) {p : Pending} (h : (p.dests.map (·.1)).Nodup) :
    ((t.landing p).map (·.1)).Nodup := h.sublist (List.filter_sublist.map _)

theorem Thread.not_mem_landing {t : Thread} {p : Pending} {d : Dest} (h : d ∉ p.dests.map (·.1)) :
    d ∉ (t.landing p).map (·.1) := fun k => h ((List.filter_sublist.map _).subset k)

/-- A k register of another run than the thread's own is no destination (R17). -/
theorem Thread.kreg_not_mem_landing {t : Thread} {p : Pending} {n : Nat} (hn : 120 ≤ n) (hr : p.run ≠ t.runId) :
    Dest.reg n ∉ (t.landing p).map (·.1) := by
  intro h
  obtain ⟨⟨d, v⟩, hd, rfl⟩ := List.mem_map.mp h
  have := (Thread.mem_landing.mp hd).2
  simp [Thread.landable, Nat.not_lt.mpr hn, hr] at this

/-- A result without a fault: its values land and it leaves. -/
theorem Thread.ret_of_no_fault {t : Thread} {p : Pending} (h : p.fault = none) :
    t.ret p = (t.landSome p (t.landing p)).retire p := by
  unfold Thread.ret
  rw [h]

theorem Thread.ret_of_fault {t : Thread} {p : Pending} (h : p.fault ≠ none) : t.ret p = t.retire p := by
  obtain ⟨f, hf⟩ := Option.ne_none_iff_exists'.mp h
  unfold Thread.ret
  rw [hf]

theorem Counters.get_upd (c : Counters) (k l : CClass) (f : Nat → Nat) :
    (c.upd k f).get l = if l = k then f (c.get k) else c.get l := by
  cases k <;> cases l <;> rfl

/-- A result that returns changes its thread's registers, predicates, their poison, the results and counters. -/
theorem Thread.ret_eq (t : Thread) (p : Pending) : ∃ r q z d, t.ret p = { t with
    regs := r, preds := q, poison := z, pend := d
    ctr := if p.detached then t.ctr.upd p.cls (· - 1) else t.ctr } := by
  by_cases h : p.fault = none
  · obtain ⟨r, q, z, e⟩ := Thread.landAll_eq (t.landing p) t
    rw [Thread.ret_of_no_fault h]
    unfold Thread.landSome
    rw [e]
    exact ⟨_, _, _, _, rfl⟩
  · rw [Thread.ret_of_fault h]
    exact ⟨_, _, _, _, rfl⟩

theorem Thread.g_ret_of_no_fault {t : Thread} {p : Pending} (h : p.fault = none) (n : Nat) :
    (t.ret p).g n = ((t.landing p).foldl Thread.land t).g n := by
  rw [Thread.ret_of_no_fault h]
  rfl

theorem Thread.p_ret_of_no_fault {t : Thread} {p : Pending} (h : p.fault = none) (n : Nat) :
    (t.ret p).p n = ((t.landing p).foldl Thread.land t).p n := by
  rw [Thread.ret_of_no_fault h]
  rfl

theorem Thread.ret_leaves {t : Thread} {p : Pending} (h : p.fault = none) : ∀ q ∈ (t.ret p).pend, q.id ≠ p.id := by
  rw [Thread.ret_of_no_fault h]
  simp only [Thread.retire, h]
  intro q hq
  simpa using (List.mem_filter.mp hq).2

/-- A result that faulted stays with its thread, as returned and with nothing to write. -/
theorem Thread.ret_fault_pend {t : Thread} {p : Pending} (h : p.fault ≠ none) : (t.ret p).pend =
    t.pend.map fun q => if q.id = p.id then { q with returned := true, dests := [] } else q := by
  obtain ⟨f, hf⟩ := Option.ne_none_iff_exists'.mp h
  rw [Thread.ret_of_fault h]
  simp only [Thread.retire, hf]

/-- Settles O58, from what `landAll` leaves and what `retire` keeps. -/
theorem resultLanding : Obligations.ResultLanding := by
  unfold Obligations.ResultLanding
  intro t p
  obtain ⟨r, q, z, d, e⟩ := t.ret_eq p
  have hc : ∀ c, (t.ret p).ctr.get c = if p.detached ∧ c = p.cls then t.ctr.get p.cls - 1 else t.ctr.get c := by
    intro c
    rw [e]
    by_cases hd : p.detached = true <;> simp [hd, Counters.get_upd]
  refine ⟨fun h => ⟨fun nd n v h0 hm hk => ?_, fun nd n v h0 hn hm => ?_, fun n hn hr => ?_, Thread.ret_leaves h⟩,
    fun n hn => ?_, fun n _ hn => ?_, fun h => ⟨?_, ?_, ?_, ?_⟩, ?_, fun c h => ?_, ?_, ?_, ?_, ?_, ?_⟩
  · rw [Thread.g_ret_of_no_fault h]
    exact Thread.g_landAll (t.landing_nodup nd) h0
      (Thread.mem_landing.mpr ⟨hm, by simpa [Thread.landable] using hk⟩) t
  · rw [Thread.p_ret_of_no_fault h]
    exact Thread.p_landAll (t.landing_nodup nd) h0 hn (Thread.mem_landing.mpr ⟨hm, rfl⟩) t
  · rw [Thread.g_ret_of_no_fault h, Thread.g_landAll_other (Thread.kreg_not_mem_landing hn hr)]
  · by_cases h : p.fault = none
    · rw [Thread.g_ret_of_no_fault h, Thread.g_landAll_other (Thread.not_mem_landing hn)]
    · rw [Thread.ret_of_fault h]
      rfl
  · by_cases h : p.fault = none
    · rw [Thread.p_ret_of_no_fault h, Thread.p_landAll_other (Thread.not_mem_landing hn)]
    · rw [Thread.ret_of_fault h]
      rfl
  · rw [Thread.ret_of_fault h]
    rfl
  · rw [Thread.ret_of_fault h]
    rfl
  · rw [Thread.ret_fault_pend h]
    intro q hq hid
    obtain ⟨o, -, rfl⟩ := List.mem_map.mp hq
    by_cases ho : o.id = p.id
    · simp [ho]
    · rw [if_neg ho] at hid
      exact absurd hid ho
  · rw [Thread.ret_fault_pend h]
    exact fun hp => ⟨_, List.mem_map.mpr ⟨p, hp, rfl⟩, by simp⟩
  · simp [hc]
  · simp [hc, h]
  all_goals rw [e]

end Sys2Proof.Machine
end

section
/-! PROOFS. What an instruction that the checks of R346 or a poisoned register refuse leaves: its fault alone. O54. -/

namespace Sys2Proof.Machine

/-! ### The checks in ascending subcode (R65, R346) -/

/-- The check that decides is the first that fails. -/
theorem firstBad_eq_some_iff {l : List (Bool × Ill)} {x : Ill} :
    firstBad l = some x ↔ ∃ a b, l = a ++ (true, x) :: b ∧ ∀ c ∈ a, c.1 = false := by
  induction l with
  | nil => simp [firstBad]
  | cons c r ih =>
    obtain ⟨bad, y⟩ := c
    cases bad
    · simp only [firstBad, Bool.false_eq_true, if_false, ih]
      constructor
      · rintro ⟨a, b, rfl, ha⟩
        exact ⟨(false, y) :: a, b, rfl, by simpa using ha⟩
      · rintro ⟨a, b, e, ha⟩
        cases a with
        | nil => simp at e
        | cons z a =>
          rw [List.cons_append, List.cons.injEq] at e
          exact ⟨a, b, e.2, fun c hc => ha c (List.mem_cons_of_mem _ hc)⟩
    · simp only [firstBad, if_true, Option.some.injEq]
      constructor
      · rintro rfl
        exact ⟨[], r, rfl, by simp⟩
      · rintro ⟨a, b, e, ha⟩
        cases a with
        | nil => simpa using congrArg (fun l => l.head?.map (·.2)) e
        | cons z a =>
          rw [List.cons_append, List.cons.injEq] at e
          exact absurd (ha z (List.mem_cons_self ..)) (by simp [← e.1])

theorem ill_injective : Function.Injective ill := by
  intro x y h
  have hc : x.code = y.code := congrArg FaultInfo.sub h
  cases x <;> cases y <;> cases hc <;> rfl

theorem State.illegal_of_unprivileged {s : State} {cx : Cx} {i : Instr} {ts : List Thread}
    (h : i.privileged = true) (hu : (ts.headD default).unprivileged = true) : s.illegal cx i ts = some privFault := by
  unfold State.illegal
  rw [if_pos (by simp only [privilegeBad, h, hu, Bool.and_self, Bool.true_or])]

theorem State.illegal_eq_ill_iff {s : State} {cx : Cx} {i : Instr} {ts : List Thread}
    (h : privilegeBad i (ts.headD default) = false) (x : Ill) :
    s.illegal cx i ts = some (ill x) ↔ firstBad (s.illegalChecks cx i ts) = some x := by
  simp only [State.illegal, h, Bool.false_eq_true, if_false, Option.map_eq_some_iff]
  constructor
  · rintro ⟨y, hy, e⟩
    rw [hy, ill_injective e]
  · exact fun hx => ⟨x, hx, rfl⟩

/-! ### The issue of what is refused in every thread -/

/-- An instruction word is issued with some effect. -/
theorem exec_is_issue {i : Instr} (h : Instr.isEvent i = false) (s : State) :
    ∃ act ask, exec i s = .next (s.issue i act ask) := by
  cases i
  case
    runStart | resultReturn | regroupOperation | kill | groupActivation | ageingRotation | issueStarvation |
    deferralWindowExpiry | ldpollTimeout | dirtyLineWriteBack | l1AgeLimit | ownershipGrant | hbmWriteBack | scrub |
    uncorrectableError | pfdoneAcknowledge | tstatClear | trctlWrite | dbgctlHold | dbgctlStop |
    specialRegisterWrite | tileOperationComplete | arrayOperationStart | bandGating | cadenceUpdate |
    apronAnnouncement | phaseGrant | phaseOnset | phaseIdleExpiry | railStepUp | railHoldExpiry | railStepDown |
    sensorRead | kthermAdjust | transformChunk | transformEnd | decoderWatchdog | collectiveComplete |
    collectiveMemberTimeout | cloakroomInvoke | cloakroomInvh | cloakroomFgetWaiter | cloakroomFput |
    cloakroomFbreak | cloakroomFrel | valueReply | brokenReply | routeUpdate | acknowledgement | placement |
    saveComplete | restoreComplete | suspendResume | contractRelease | budgetExhausted | allowanceExpiry |
    deadlineMiss | watchEvaluation | contextSaveComplete | contextLoadComplete | linkLevelRetry | linkDown |
    linkRetrained | remoteAccessRequest | remoteAccessReply | livenessFlit | memberFailureDeclared | failureReport |
    placementReport | supolInvoke | supolInvh | fgetNotify | supolFrel | contract | rmaRead | rmaWrite | readReg |
    writeReg | writeDomain | writeMembers | writeRouteBase | writeInvArgs | writeInvArgsVa | admitCode | retireCode
    | openSession | closeSession | quote | getCert | rasRead | rasClear | logRead | debugStop | debugStepPath |
    debugStepAll | debugResume | contractWithdraw | resetCold | resetWarm | resetPartition | loadFw |
    managementWatchdog | powerOn | supolPacketDrop | bandPowerUp | correctedError | collectiveControlMessage =>
    exact Bool.noConfusion (show true = false from h)
  all_goals exact ⟨_, _, rfl⟩

/-- A pending HSCH does not act where the checks of its target failed in every thread. -/
theorem State.hschAll_refused {s : State} {i : Instr} {g : Group} {ts ok : List Thread}
    {bad : List (Nat × FaultInfo)} (hc : hintClasses ts = [ts]) (h : ∀ t ∈ ts, bad.any (·.1 == t.uid) = true) :
    s.hschAll i g ts bad ok = s := by
  unfold State.hschAll
  rw [hc, List.foldl_cons, List.foldl_nil, if_pos (List.all_eq_true.mpr h)]

/-- An instruction that faults before its effect in every thread only raises its faults. -/
theorem State.issue_refused {s : State} {i : Instr} {act : Act} {ask : Ask} {g : Group} {ts : List Thread}
    (hs : s.issuing = some (g, ts)) (hc : hintClasses ts = [ts])
    (h : ∀ t ∈ ts, (s.prepare i g ts).faults.any (·.1 == t.uid) = true) :
    s.issue i act ask = State.finishIssue i g ts ⟨s.opened i g ts, (s.prepare i g ts).faults⟩ := by
  unfold State.issue
  rw [hs]
  dsimp only
  rw [if_pos (List.all_eq_true.mpr h)]
  dsimp only
  rw [State.hschAll_refused hc h, List.append_nil]
  rfl

/-- Where every guard lets its thread act, the instruction is for all of them. -/
theorem guarded_all {i : Instr} {ts : List Thread} (h : ∀ t ∈ ts, t.guard i = .on) : guarded i ts = (ts, []) := by
  refine Prod.ext (List.filter_eq_self.mpr fun t ht => by simp [h t ht]) (List.filterMap_eq_nil_iff.mpr ?_)
  intro t ht
  rw [h t ht]

theorem any_uid_map {ts : List Thread} (f : Thread → FaultInfo) :
    ∀ t ∈ ts, (ts.map fun t => (t.uid, f t)).any (·.1 == t.uid) = true := fun t ht =>
  List.any_eq_true.mpr ⟨_, List.mem_map.mpr ⟨t, ht, rfl⟩, beq_self_eq_true _⟩

/-- What stands before the effect of an instruction that a check refuses: that fault of every thread. -/
theorem State.prepare_illegal {s : State} {i : Instr} {g : Group} {ts : List Thread} {f : FaultInfo} (hne : ts ≠ [])
    (hc : hintClasses ts = [ts]) (hg : ∀ t ∈ ts, t.guard i = .on) (h : s.illegal (g.context i ts) i ts = some f) :
    (s.prepare i g ts).faults = ts.map fun t => (t.uid, f) := by
  have hf : s.classFaults i g ts = ts.map fun t => (t.uid, f) := by
    simp only [State.classFaults, guarded_all hg, List.isEmpty_iff, if_neg hne, h]
  have hgo : (ts.filter fun t => !(ts.map fun t => (t.uid, f)).any (·.1 == t.uid)) = [] :=
    List.filter_eq_nil_iff.mpr fun t ht => by simp only [any_uid_map (fun _ => f) t ht]; decide
  simp only [State.prepare, hc, guarded_all hg, List.flatMap_cons, List.flatMap_nil, List.append_nil, hf, hgo,
    poisonFaults_nil (ts := []) (fun _ h => absurd h List.not_mem_nil)]

/-- What stands before the effect of one that reads a poisoned register in every thread. -/
theorem State.prepare_poisoned {s : State} {i : Instr} {g : Group} {ts : List Thread} (ho : actsOnce i = false)
    (hc : hintClasses ts = [ts]) (hg : ∀ t ∈ ts, t.guard i = .on) (h : s.illegal (g.context i ts) i ts = none)
    (hp : ∀ t ∈ ts, (t.poisonRead i (g.context i ts).m).isSome = true) :
    (s.prepare i g ts).faults =
      ts.map fun t => (t.uid, poisonFault ((t.poisonRead i (g.context i ts).m).getD 0)) := by
  have hf : s.classFaults i g ts = [] := by
    simp only [State.classFaults, guarded_all hg, h, ite_self]
  have hb : poisonFaults i (g.context i ts) ts =
      ts.map fun t => (t.uid, poisonFault ((t.poisonRead i (g.context i ts).m).getD 0)) := by
    simp only [poisonFaults, ho, Bool.false_eq_true, if_false, Group.context_of]
    rw [← List.filterMap_eq_map]
    refine List.filterMap_congr fun t ht => ?_
    obtain ⟨n, hn⟩ := Option.isSome_iff_exists.mp (hp t ht)
    simp [hn]
  have hgo : (ts.filter fun t => !([] : List (Nat × FaultInfo)).any (·.1 == t.uid)) = ts := by simp
  simp only [State.prepare, hc, Group.contexts_one hc, guarded_all hg, List.flatMap_cons, List.flatMap_nil, hf,
    List.append_nil, List.nil_append, hgo, hb]

theorem not_event_of_computing {i : Instr} (h : i.integer = true ∨ i.floating = true) :
    Instr.isEvent i = false ∧ actsOnce i = false := by
  rcases h with h | h <;> cases i <;> cases h <;> exact ⟨rfl, rfl⟩

/-- Settles O54: with equal hints the checks refuse every thread or none, and a refused one has no effect. -/
theorem refusedInstructionsOnlyFault : Obligations.RefusedInstructionsOnlyFault := by
  unfold Obligations.RefusedInstructionsOnlyFault
  intro i s g ts f he hs hc hg
  obtain ⟨act, ask, hx⟩ := exec_is_issue he s
  refine ⟨fun h => ?_, State.illegal_of_unprivileged, fun h x => ?_, fun hi h hp => ?_⟩
  · have hf := State.prepare_illegal (State.issuing_ne hs) hc hg h
    rw [hx, State.issue_refused hs hc (by rw [hf]; exact any_uid_map fun _ => f), hf]
  · rw [State.illegal_eq_ill_iff h, firstBad_eq_some_iff]
  · have hf := State.prepare_poisoned (not_event_of_computing hi).2 hc hg h hp
    rw [hx, State.issue_refused hs hc (by rw [hf]; exact any_uid_map _), hf]
    rfl

end Sys2Proof.Machine
end

section
/-! SUPPORT. What the operations of device memory leave of the machine: beside the memory itself, only the L1s of the
cores, the results in flight of the threads (the holds of their LDPOLLs) and the messages of the fabric change. -/

namespace Sys2Proof.Machine

/-! ### The relation -/

/-- What an operation of device memory leaves: of a core all but its L1, of a thread all but its results in flight, and
all of HBM. -/
structure State.MemoryOnly (s r : State) : Prop where
  rest : ∃ m k t f, r = { s with mem := m, cores := k, threads := t, fabric := f }
  core : ∀ n, ∃ l, r.core n = { s.core n with l1 := l }
  thread : ∀ u, ∃ p, r.thread u = { s.thread u with pend := p }
  nums : r.cores.map (·.num) = s.cores.map (·.num)
  uids : r.threads.map (·.uid) = s.threads.map (·.uid)
  hbm : r.mem.hbm = s.mem.hbm
  dies : r.mem.dies.length = s.mem.dies.length

theorem State.MemoryOnly.refl (s : State) : s.MemoryOnly s :=
  ⟨⟨_, _, _, _, rfl⟩, fun _ => ⟨_, rfl⟩, fun _ => ⟨_, rfl⟩, rfl, rfl, rfl, rfl⟩

theorem State.MemoryOnly.trans {s r q : State} (h : s.MemoryOnly r) (k : r.MemoryOnly q) : s.MemoryOnly q := by
  refine ⟨?_, fun n => ?_, fun u => ?_, k.nums.trans h.nums, k.uids.trans h.uids, k.hbm.trans h.hbm,
    k.dies.trans h.dies⟩
  · obtain ⟨_, _, _, _, e⟩ := h.rest
    obtain ⟨_, _, _, _, e'⟩ := k.rest
    rw [e', e]
    exact ⟨_, _, _, _, rfl⟩
  · obtain ⟨_, e⟩ := h.core n
    obtain ⟨_, e'⟩ := k.core n
    rw [e', e]
    exact ⟨_, rfl⟩
  · obtain ⟨_, e⟩ := h.thread u
    obtain ⟨_, e'⟩ := k.thread u
    rw [e', e]
    exact ⟨_, rfl⟩

theorem State.MemoryOnly.ite {s a b : State} {c : Prop} [Decidable c] (ha : s.MemoryOnly a) (hb : s.MemoryOnly b) :
    s.MemoryOnly (if c then a else b) := by
  split
  · exact ha
  · exact hb

theorem State.MemoryOnly.foldl {α : Type} {f : State → α → State} (h : ∀ s x, State.MemoryOnly s (f s x))
    (l : List α) (s : State) : s.MemoryOnly (l.foldl f s) := by
  induction l generalizing s with
  | nil => exact .refl s
  | cons x l ih => exact (h s x).trans (ih _)

section
variable {s r : State} (h : s.MemoryOnly r)
include h

theorem State.MemoryOnly.teams : r.teams = s.teams := by
  obtain ⟨_, _, _, _, e⟩ := h.rest
  rw [e]

theorem State.MemoryOnly.slices : r.slices = s.slices := by
  obtain ⟨_, _, _, _, e⟩ := h.rest
  rw [e]

theorem State.MemoryOnly.groups : r.groups = s.groups := by
  obtain ⟨_, _, _, _, e⟩ := h.rest
  rw [e]

theorem State.MemoryOnly.die (n : Nat) : (r.core n).die = (s.core n).die := by
  obtain ⟨_, e⟩ := h.core n
  rw [e]

end

/-! ### The steps that the operations are made of -/

theorem State.memoryOnly_mem (s : State) {m : Mem} (hb : m.hbm = s.mem.hbm) (hd : m.dies.length = s.mem.dies.length) :
    s.MemoryOnly { s with mem := m } :=
  ⟨⟨_, _, _, _, rfl⟩, fun _ => ⟨_, rfl⟩, fun _ => ⟨_, rfl⟩, rfl, rfl, hb, hd⟩

@[simp] theorem Mem.setDie_length (m : Mem) (d : Nat) (f : DieMem → DieMem) :
    (m.setDie d f).dies.length = m.dies.length := by
  simp [Mem.setDie]

/-- Looking an element up by its number, where a change keeps every number. -/
theorem find?_map_key {α : Type} (key : α → Nat) (n : Nat) (f : α → α) (l : List α) (hf : ∀ x, key (f x) = key x) :
    (l.map f).find? (key · == n) = (l.find? (key · == n)).map f := by
  rw [List.find?_map]
  simp only [Function.comp_def, hf]

theorem State.memoryOnly_cores (s : State) {f : Core → Core} (hf : ∀ c, ∃ l, f c = { c with l1 := l }) :
    s.MemoryOnly { s with cores := s.cores.map f } := by
  have hn : ∀ c, (f c).num = c.num := fun c => by
    obtain ⟨l, e⟩ := hf c
    rw [e]
  refine ⟨⟨_, _, _, _, rfl⟩, fun n => ?_, fun _ => ⟨_, rfl⟩, ?_, rfl, rfl, rfl⟩
  · unfold State.core
    rw [find?_map_key Core.num n f s.cores hn]
    cases s.cores.find? (·.num == n) with
    | none => exact ⟨_, rfl⟩
    | some c => exact hf c
  · simp [Function.comp_def, hn]

theorem State.memoryOnly_setCore (s : State) (n : Nat) {f : Core → Core} (hf : ∀ c, ∃ l, f c = { c with l1 := l }) :
    s.MemoryOnly (s.setCore n f) :=
  s.memoryOnly_cores fun c => by
    split
    · exact hf c
    · exact ⟨_, rfl⟩

theorem State.memoryOnly_threads (s : State) {f : Thread → Thread} (hf : ∀ t, ∃ p, f t = { t with pend := p }) :
    s.MemoryOnly { s with threads := s.threads.map f } := by
  have hu : ∀ t, (f t).uid = t.uid := fun t => by
    obtain ⟨p, e⟩ := hf t
    rw [e]
  refine ⟨⟨_, _, _, _, rfl⟩, fun _ => ⟨_, rfl⟩, fun u => ?_, rfl, ?_, rfl, rfl⟩
  · unfold State.thread
    rw [find?_map_key Thread.uid u f s.threads hu]
    cases s.threads.find? (·.uid == u) with
    | none => exact ⟨_, rfl⟩
    | some t => exact hf t
  · simp [Function.comp_def, hu]

theorem State.memoryOnly_wakePolls (s : State) (hit : Thread → Place → Nat → Bool) :
    s.MemoryOnly (s.wakePolls hit) := s.memoryOnly_threads fun _ => ⟨_, rfl⟩

theorem State.memoryOnly_fabric (s : State) (f : Fabric) : s.MemoryOnly { s with fabric := f } :=
  ⟨⟨_, _, _, _, rfl⟩, fun _ => ⟨_, rfl⟩, fun _ => ⟨_, rfl⟩, rfl, rfl, rfl, rfl⟩

theorem State.memoryOnly_wakeHome (s : State) (hit : Nat → Bool) : s.MemoryOnly (s.wakeHome hit) :=
  s.memoryOnly_fabric _

theorem State.memoryOnly_wakeCore (s : State) (n : Nat) (line : Nat → Bool) : s.MemoryOnly (s.wakeCore n line) :=
  s.memoryOnly_wakePolls _

theorem State.memoryOnly_keepViews (s : State) (old : Mem) (but : Option Nat) (ads : List Nat) :
    s.MemoryOnly (s.keepViews old but ads) :=
  s.memoryOnly_cores fun c => by
    split
    · exact ⟨_, rfl⟩
    · exact ⟨_, rfl⟩

/-! ### The L2s -/

theorem State.memoryOnly_coherentStore (s : State) (bs : List (Nat × Byte)) (but : Option Nat) :
    s.MemoryOnly (s.coherentStore bs but) :=
  (s.memoryOnly_mem (m := { s.mem with l2 := s.mem.l2.putAll bs }) rfl rfl).trans (State.memoryOnly_keepViews _ _ _ _)

theorem State.memoryOnly_l2Byte (s : State) (d : Nat) (but : Option Nat) (h : HeldWrite) :
    s.MemoryOnly (s.l2Byte d but h) := by
  unfold State.l2Byte
  dsimp only
  split
  · exact s.memoryOnly_coherentStore _ _
  · refine State.MemoryOnly.trans (s.memoryOnly_mem ?_ ?_) (State.memoryOnly_keepViews _ _ _ _)
    · rfl
    · simp

theorem Mem.clearPoison_dies (m : Mem) (d : Nat) (gs : List Nat) :
    (m.clearPoison d gs).dies.length = m.dies.length := by simp [Mem.clearPoison]

theorem Mem.spoil_dies (m : Mem) (d : Nat) (gs : List Nat) : (m.spoil d gs).dies.length = m.dies.length := by
  simp [Mem.spoil]

theorem State.memoryOnly_l2Put (s : State) (d : Nat) (hs : List HeldWrite) (but : Option Nat) :
    s.MemoryOnly (s.l2Put d hs but) := by
  unfold State.l2Put
  refine State.MemoryOnly.trans ?_ (State.memoryOnly_wakeHome _ _)
  refine State.MemoryOnly.trans ?_ (State.memoryOnly_wakePolls _ _)
  exact (State.MemoryOnly.foldl (fun s h => s.memoryOnly_l2Byte d but h) hs s).trans
    (.ite (.refl _) (State.memoryOnly_mem _ rfl (Mem.clearPoison_dies ..)))

theorem State.memoryOnly_l2Store (s : State) (d : Nat) (bs : List (Nat × Byte)) (but : Option Nat) :
    s.MemoryOnly (s.l2Store d bs but) := s.memoryOnly_l2Put _ _ _

/-! ### The L1 of a core -/

theorem State.memoryOnly_writeBack (s : State) (n line : Nat) : s.MemoryOnly (s.writeBack n line) := by
  unfold State.writeBack
  extract_lets c bs bad s1 s2
  have h1 : s.MemoryOnly s1 := s.memoryOnly_setCore n fun _ => ⟨_, rfl⟩
  have h2 : s.MemoryOnly s2 := h1.trans (.ite (.refl s1) (s1.memoryOnly_l2Store _ _ _))
  exact h2.trans (.ite (.refl s2) (s2.memoryOnly_mem rfl (Mem.spoil_dies ..)))

theorem State.memoryOnly_dropLine (s : State) (n line : Nat) : s.MemoryOnly (s.dropLine n line) :=
  State.MemoryOnly.trans (State.memoryOnly_setCore s n fun _ => ⟨_, rfl⟩) (State.memoryOnly_wakeCore _ _ _)

theorem State.memoryOnly_evict (s : State) (n line : Nat) : s.MemoryOnly (s.evict n line) :=
  (s.memoryOnly_writeBack n line).trans (State.memoryOnly_dropLine _ _ _)

theorem State.memoryOnly_fill (s : State) (n line policy : Nat) : s.MemoryOnly (s.fill n line policy) := by
  unfold State.fill
  extract_lets c set s1
  have h1 : s.MemoryOnly s1 := by
    refine .ite (.refl s) ?_
    split
    · exact s.memoryOnly_evict n _
    · exact .refl s
  exact .ite (s.memoryOnly_setCore n fun _ => ⟨_, rfl⟩) (h1.trans (s1.memoryOnly_setCore n fun _ => ⟨_, rfl⟩))

/-- One line of a store enters the L1 and its FIFO. -/
theorem State.memoryOnly_l1Line (s : State) (n l policy : Nat) : s.MemoryOnly
    (let s := s.fill n l policy
    let f := (s.core n).l1.fifo
    if f.any (·.1 == l) then s
    else
      let s := if f.length < 256 then s
        else match f.head? with
          | some o => s.writeBack n o.1
          | none => s
      s.setCore n fun c => { c with l1 := { c.l1 with fifo := c.l1.fifo ++ [(l, s.now)] } }) := by
  refine (s.memoryOnly_fill n l policy).trans ?_
  dsimp only
  split
  · exact .refl _
  · refine State.MemoryOnly.trans ?_ (State.memoryOnly_setCore _ n fun _ => ⟨_, rfl⟩)
    split
    · exact .refl _
    · split
      · exact State.memoryOnly_writeBack _ n _
      · exact .refl _

theorem State.memoryOnly_l1Store (s : State) (n : Nat) (bs : List (Nat × Byte)) (policy : Nat) :
    s.MemoryOnly (s.l1Store n bs policy) := by
  unfold State.l1Store
  refine State.MemoryOnly.trans ?_ (State.memoryOnly_wakeCore _ _ _)
  refine State.MemoryOnly.trans ?_ (State.memoryOnly_setCore _ n fun _ => ⟨_, rfl⟩)
  exact .foldl (fun s l => s.memoryOnly_l1Line n l policy) _ s

/-- A store to device memory of this device. -/
theorem State.memoryOnly_storePlace (s : State) (n a : Nat) (bs : List Byte) (policy : Nat) :
    s.MemoryOnly (s.storePlace n (.phys a) bs policy) := by
  unfold State.storePlace
  dsimp only
  split
  · exact (s.memoryOnly_evict n _).trans (State.memoryOnly_l2Store _ _ _ _)
  · exact s.memoryOnly_l1Store n _ policy

theorem State.memoryOnly_markCmp (s : State) (p : Place) (cmp : Bool) : s.MemoryOnly (s.markCmp p cmp) := by
  cases p with
  | phys a => exact s.memoryOnly_mem rfl rfl
  | scratch | chip | remote => exact .refl s

theorem State.memoryOnly_markWide (s : State) (p : Place) (n : Nat) : s.MemoryOnly (s.markWide p n) := by
  cases p with
  | phys a =>
    unfold State.markWide
    dsimp only
    split
    · exact .refl s
    · exact s.memoryOnly_mem rfl rfl
  | scratch | chip | remote => exact .refl s

end Sys2Proof.Machine
end

section
/-! PROOFS. Taking a fault (R107 to R114, R347, R355). O55. -/

namespace Sys2Proof.Machine

/-! ### What writing the fault frame leaves -/

/-- What a store of a thread leaves: of a thread all but its results in flight, and of a slice all but its chip
scratchpad. -/
structure State.StoreOnly (s r : State) : Prop where
  thread : ∀ u, ∃ p, r.thread u = { s.thread u with pend := p }
  uids : r.threads.map (·.uid) = s.threads.map (·.uid)
  slice : ∀ n, ∃ c q, r.slice n = { s.slice n with chip := c, chipPoison := q }

theorem State.StoreOnly.refl (s : State) : s.StoreOnly s := ⟨fun _ => ⟨_, rfl⟩, rfl, fun _ => ⟨_, _, rfl⟩⟩

theorem State.StoreOnly.trans {s r q : State} (h : s.StoreOnly r) (k : r.StoreOnly q) : s.StoreOnly q := by
  refine ⟨fun u => ?_, k.uids.trans h.uids, fun n => ?_⟩
  · obtain ⟨_, e⟩ := h.thread u
    obtain ⟨_, e'⟩ := k.thread u
    rw [e', e]
    exact ⟨_, rfl⟩
  · obtain ⟨_, _, e⟩ := h.slice n
    obtain ⟨_, _, e'⟩ := k.slice n
    rw [e', e]
    exact ⟨_, _, rfl⟩

theorem State.StoreOnly.of_eq {s r : State} (ht : r.threads = s.threads) (hs : r.slices = s.slices) :
    s.StoreOnly r := by
  refine ⟨fun u => ⟨(s.thread u).pend, ?_⟩, by rw [ht], fun n => ⟨(s.slice n).chip, (s.slice n).chipPoison, ?_⟩⟩
  · show r.thread u = s.thread u
    unfold State.thread
    rw [ht]
  · show r.slice n = s.slice n
    unfold State.slice State.slice?
    rw [hs]

theorem State.MemoryOnly.storeOnly {s r : State} (h : s.MemoryOnly r) : s.StoreOnly r := by
  refine ⟨h.thread, h.uids, fun n => ?_⟩
  unfold State.slice State.slice?
  rw [h.slices]
  exact ⟨_, _, rfl⟩

theorem State.storeOnly_scratchStore (s : State) (u o : Nat) (bs : List Byte) :
    s.StoreOnly (s.scratchStore u o bs) := by
  unfold State.scratchStore
  extract_lets cs
  refine State.StoreOnly.trans ?_ (State.memoryOnly_wakePolls _ _).storeOnly
  exact .of_eq rfl rfl

theorem State.storeOnly_chipStore (s : State) (x o : Nat) (bs : List Byte) : s.StoreOnly (s.chipStore x o bs) := by
  unfold State.chipStore
  extract_lets cs
  refine State.StoreOnly.trans ?_ (State.memoryOnly_wakePolls _ _).storeOnly
  refine ⟨fun _ => ⟨_, rfl⟩, rfl, fun n => ?_⟩
  unfold State.slice
  rw [State.slice?_setSlice]
  · cases s.slice? n with
    | none => exact ⟨_, _, rfl⟩
    | some l =>
      by_cases hn : n = x
      · rw [Option.map_some, if_pos hn]
        exact ⟨_, _, rfl⟩
      · rw [Option.map_some, if_neg hn]
        exact ⟨_, _, rfl⟩
  · exact fun _ => rfl

theorem State.storeOnly_storePlace (s : State) (n : Nat) (p : Place) (bs : List Byte) (policy : Nat) :
    s.StoreOnly (s.storePlace n p bs policy) := by
  cases p with
  | phys a => exact (s.memoryOnly_storePlace n a bs policy).storeOnly
  | scratch u o => exact s.storeOnly_scratchStore u o bs
  | chip x o => exact s.storeOnly_chipStore x o bs
  | remote h a => exact .refl s

theorem State.storeOnly_remoteStore (s : State) (u home pa : Nat) (ea : DWord) (bs : List Byte) :
    s.StoreOnly (s.remoteStore u home pa ea bs) := by
  unfold State.remoteStore State.remotePut
  split
  · exact .of_eq rfl rfl
  · exact .refl s

theorem State.storeOnly_putAt (s : State) (t : Thread) (p : Place) (cmp : Bool) (ea : DWord) (bs : List Byte)
    (policy : Nat) : s.StoreOnly (s.putAt t p cmp ea bs policy) := by
  have here : ∀ p, s.StoreOnly (((s.storePlace t.core p bs policy).markCmp p cmp).markWide p bs.length) := fun p =>
    ((s.storeOnly_storePlace t.core p bs policy).trans (State.memoryOnly_markCmp _ _ _).storeOnly).trans
      (State.memoryOnly_markWide _ _ _).storeOnly
  cases p with
  | remote h pa => exact s.storeOnly_remoteStore _ _ _ _ _
  | phys a => exact here (.phys a)
  | scratch u o => exact here (.scratch u o)
  | chip x o => exact here (.chip x o)

theorem State.storeOnly_privStoreWord (s : State) (t : Thread) (off : Nat) (v : Word) :
    s.StoreOnly (s.privStoreWord t off v) := by
  unfold State.privStoreWord
  split
  · exact s.storeOnly_putAt _ _ _ _ _ _
  · exact .refl s

theorem State.storeOnly_privStoreWords (t : Thread) : ∀ (l : List Word) (s : State) (off : Nat),
    s.StoreOnly (s.privStoreWords t off l)
  | [], s, _ => .refl s
  | v :: l, s, off => (s.storeOnly_privStoreWord t off v).trans (State.storeOnly_privStoreWords t l _ _)

/-! ### Entering the handler -/

theorem regGet_clearK_of_ge (l : List (Nat × Word)) {n : Nat} (h : 120 ≤ n) : regGet (clearK l) n = 0 := by
  induction l with
  | nil => rfl
  | cons c l ih =>
    unfold clearK at ih ⊢
    rw [List.filter_cons]
    split
    · rename_i hc
      have hn : c.1 ≠ n := by
        have := of_decide_eq_true hc
        omega
      rw [regGet, if_neg hn, ih]
    · exact ih

/-- A new run has no k register: they read 0 (R17). -/
theorem Thread.g_newRun_k (t : Thread) (pc : Word) {n : Nat} (h : 120 ≤ n) : (t.newRun pc).g n = 0 := by
  have : n ≠ 0 := by omega
  simp [Thread.g, this, Thread.newRun, Thread.dropK, regGet_clearK_of_ge _ h]

theorem Thread.g_enterHandler (t : Thread) (vec : Word) (priv : Nat) (r : FaultRec) (res : Resume) (n : Nat) :
    (t.enterHandler vec priv r res).g n = (t.newRun vec).g n := by
  unfold Thread.g
  rfl

theorem State.slice_faults_setSlice (s : State) (n m : Nat) {f : Slice → Slice} (hn : ∀ l, (f l).num = l.num)
    (hf : ∀ l, (f l).faults = l.faults) : ((s.setSlice n f).slice m).faults = (s.slice m).faults := by
  unfold State.slice
  rw [State.slice?_setSlice s n m hn]
  cases s.slice? m with
  | none => rfl
  | some l =>
    rw [Option.map_some]
    split
    · exact hf l
    · rfl

theorem State.countFault_faults (s : State) {n : Nat} (h : (s.slice? n).isSome = true) :
    ((s.countFault n).slice n).faults = bump32 (s.slice n).faults := by
  unfold State.countFault
  rw [State.slice_setSlice_same s n (f := fun l => { l with faults := bump32 l.faults }) (fun _ => rfl) h]

/-- A state that has a thread, and what it does to it. -/
theorem State.StoreOnly.setThread {s r : State} (h : s.StoreOnly r) {t : Thread} (ht : t ∈ s.threads)
    (hu : s.thread t.uid = t) {f : Thread → Thread} (hf : ∀ x, (f x).uid = x.uid) :
    ∃ p, (r.setThread t.uid f).thread t.uid = f { t with pend := p } := by
  obtain ⟨p, e⟩ := h.thread t.uid
  refine ⟨p, ?_⟩
  have hm : t.uid ∈ r.threads.map (·.uid) := h.uids ▸ List.mem_map_of_mem ht
  obtain ⟨x, hx, hxu⟩ := List.mem_map.mp hm
  rw [State.thread_setThread_same r (fun x hx => (hf x).trans hx) (List.any_eq_true.mpr ⟨x, hx, by simp [hxu]⟩), e, hu]

/-- The state in which a thread enters its handler: the fault counted and the frame written. -/
def State.framed (s : State) (t : Thread) (f : FaultInfo) (w : FaultAt) (m : DWord) : State :=
  let sl := s.slice t.slice
  let s1 := s.countFault t.slice
  if 128 ≤ sl.launch.handlerStack then
    s1.privStoreWords t (sl.launch.privateBytes - 128) (frameWords t (faultRec f w.fpc m) w.pos)
  else s1

theorem State.storeOnly_framed (s : State) (t : Thread) (f : FaultInfo) (w : FaultAt) (m : DWord) :
    (s.countFault t.slice).StoreOnly (s.framed t f w m) := by
  unfold State.framed
  dsimp only
  split
  · exact State.storeOnly_privStoreWords ..
  · exact .refl _

theorem State.framed_faults (s : State) (t : Thread) (f : FaultInfo) (w : FaultAt) (m : DWord)
    (h : (s.slice? t.slice).isSome = true) :
    ((s.framed t f w m).slice t.slice).faults = bump32 (s.slice t.slice).faults := by
  obtain ⟨c, q, e⟩ := (s.storeOnly_framed t f w m).slice t.slice
  rw [e]
  exact s.countFault_faults h

/-- Killing a thread leaves it ended, its record of the fault as it was. -/
theorem State.killThread_thread {r : State} {u : Nat} (h : r.threads.any (·.uid == u) = true) :
    (r.killThread u).thread u = (r.thread u).quit .killed :=
  State.thread_setThread_same r (f := fun t => t.quit .killed) (fun _ h => h) h

theorem State.killThread_faults (r : State) (u n : Nat) : ((r.killThread u).slice n).faults = (r.slice n).faults :=
  (r.setThread u fun t => t.quit .killed).slice_faults_setSlice (r.thread u).slice n
    (f := fun l => { l with faulted := true }) (fun _ => rfl) fun _ => rfl

section
variable {s : State} {t : Thread} {f : FaultInfo} {w : FaultAt} {m : DWord} (hu : s.thread t.uid = t)
  (hd : ¬ (f.code = 0x0F ∧ (s.slice t.slice).dbgHold = true))
include hu hd

theorem State.deliver_in_handler (hh : t.inHandler = true) :
    s.deliver t.uid f w m = (s.countFault t.slice).killThread t.uid := by
  unfold State.deliver
  dsimp only
  rw [hu, if_neg (by simpa using hd), if_pos hh]

theorem State.deliver_no_handler (hh : t.inHandler = false) (hl : (s.slice t.slice).launch.handler = none) :
    s.deliver t.uid f w m =
      ((s.framed t f w m).setThread t.uid fun t => { t with frec := faultRec f w.fpc m }).killThread t.uid := by
  unfold State.deliver State.framed
  dsimp only
  rw [hu, if_neg (by simpa using hd), if_neg (by simp [hh]), hl]

theorem State.deliver_handler (hh : t.inHandler = false) {vec : Word}
    (hl : (s.slice t.slice).launch.handler = some vec) :
    s.deliver t.uid f w m = (s.framed t f w m).setThread t.uid fun x =>
      x.enterHandler vec (s.slice t.slice).launch.privateBytes (faultRec f w.fpc m)
        ⟨if w.boundary then x.pc else w.fpc, w.pos, x.runId, w.ends, w.boundary, x.kBad,
          if w.boundary then x.park else .none, x.parkPc⟩ := by
  unfold State.deliver State.framed
  dsimp only
  rw [hu, if_neg (by simpa using hd), if_neg (by simp [hh]), hl]

end

theorem Launch.handler_of_vector {l : Launch} (hv : l.trapVector ≠ 0xFFFFFFFF) (hs : 128 ≤ l.handlerStack) :
    l.handler = some l.trapVector := by
  simp only [Launch.handler, hv, Nat.not_lt.mpr hs, decide_false, Bool.or_self, Bool.false_eq_true, if_false]

theorem Launch.handler_eq_none {l : Launch} (h : l.trapVector = 0xFFFFFFFF ∨ l.handlerStack < 128) :
    l.handler = none := by
  simp only [Launch.handler, Bool.or_eq_true, decide_eq_true_eq, h, if_true]

section
variable {s : State} {t : Thread} {f : FaultInfo} {w : FaultAt} {m : DWord} (ht : t ∈ s.threads)
  (hu : s.thread t.uid = t) (hd : ¬ (f.code = 0x0F ∧ (s.slice t.slice).dbgHold = true))
include ht hu hd

theorem State.deliver_handler_thread (hh : t.inHandler = false) {vec : Word}
    (hl : (s.slice t.slice).launch.handler = some vec) : ∃ p, (s.deliver t.uid f w m).thread t.uid =
      ({ t with pend := p } : Thread).enterHandler vec (s.slice t.slice).launch.privateBytes (faultRec f w.fpc m)
        ⟨if w.boundary then t.pc else w.fpc, w.pos, t.runId, w.ends, w.boundary, t.kBad,
          if w.boundary then t.park else .none, t.parkPc⟩ := by
  rw [State.deliver_handler hu hd hh hl]
  exact (s.storeOnly_framed t f w m).setThread ht hu (f := fun t => t.enterHandler vec _ (faultRec f w.fpc m)
    ⟨if w.boundary then t.pc else w.fpc, w.pos, t.runId, w.ends, w.boundary, t.kBad,
      if w.boundary then t.park else .none, t.parkPc⟩) fun _ => rfl

theorem State.deliver_no_handler_thread (hh : t.inHandler = false)
    (hl : (s.slice t.slice).launch.handler = none) : ∃ p, (s.deliver t.uid f w m).thread t.uid =
      ({ t with pend := p, frec := faultRec f w.fpc m } : Thread).quit .killed := by
  obtain ⟨p, e⟩ := (s.storeOnly_framed t f w m).setThread ht hu
    (f := fun t => { t with frec := faultRec f w.fpc m }) fun _ => rfl
  refine ⟨p, ?_⟩
  rw [State.deliver_no_handler hu hd hh hl, State.killThread_thread, e]
  have hm : t.uid ∈ (s.framed t f w m).threads.map (·.uid) :=
    (s.storeOnly_framed t f w m).uids ▸ List.mem_map_of_mem ht
  obtain ⟨x, hx, hxu⟩ := List.mem_map.mp hm
  exact List.any_eq_true.mpr ⟨_, List.mem_map_of_mem hx, by simp [hxu]⟩

theorem State.deliver_in_handler_thread (hh : t.inHandler = true) :
    (s.deliver t.uid f w m).thread t.uid = t.quit .killed := by
  have h := State.killThread_thread (r := s.countFault t.slice) (u := t.uid) (List.any_eq_true.mpr ⟨t, ht, by simp⟩)
  rw [State.deliver_in_handler hu hd hh, h]
  exact congrArg (Thread.quit · .killed) hu

omit ht in
/-- The slice counts the fault that a thread of it takes. -/
theorem State.deliver_faults (hs : (s.slice? t.slice).isSome = true) :
    ((s.deliver t.uid f w m).slice t.slice).faults = bump32 (s.slice t.slice).faults := by
  by_cases hh : t.inHandler = true
  · rw [State.deliver_in_handler hu hd hh, State.killThread_faults, State.countFault_faults _ hs]
  · rw [Bool.not_eq_true] at hh
    cases hl : (s.slice t.slice).launch.handler with
    | none =>
      rw [State.deliver_no_handler hu hd hh hl, State.killThread_faults]
      exact s.framed_faults t f w m hs
    | some vec =>
      rw [State.deliver_handler hu hd hh hl]
      exact s.framed_faults t f w m hs

end

/-! ### Absent pages (R114, R355) -/

theorem State.pfRecord_recs (s : State) (asid va slice access : Nat) (us : List Nat) :
    (s.pfRecord asid va slice access us).pf.recs =
      if s.pf.recs.any (fun r => r.asid == asid && r.va.toNat / 65536 == va / 65536) then
        s.pf.recs.map fun r =>
          if r.asid == asid && r.va.toNat / 65536 == va / 65536 then { r with uids := r.uids ++ us } else r
      else s.pf.recs ++ [⟨0, asid, BitVec.ofNat 64 va, slice, access, false, us, false⟩] := rfl

/-- A thread that joins a page's record stands in one of that page. -/
theorem State.pfRecord_joined (s : State) {asid va : Nat} (slice access u : Nat) (h : va < 2 ^ 64) :
    ∃ x ∈ (s.pfRecord asid va slice access [u]).pf.recs,
      (x.asid == asid && x.va.toNat / 65536 == va / 65536) = true ∧ u ∈ x.uids := by
  rw [State.pfRecord_recs]
  split
  · rename_i hany
    obtain ⟨x, hx, hs⟩ := List.any_eq_true.mp hany
    exact ⟨_, List.mem_map_of_mem hx, by simp [hs], by simp [hs]⟩
  · exact ⟨_, List.mem_append_right _ (List.mem_singleton_self _),
      by simp [Nat.mod_eq_of_lt (show va < 18446744073709551616 from h)], by simp⟩

theorem State.parkPage_eq {s : State} {t : Thread} (hu : s.thread t.uid = t) (f : FaultInfo) (w : FaultAt) (m : DWord) :
    s.parkPage t.uid f w m = (s.setThread t.uid fun x =>
      { x with park := .page (s.slice t.slice).asid (s.faultVa t f.addr / 65536) f.addr w.ends m }).pfRecord
        (s.slice t.slice).asid (s.faultVa t f.addr) t.slice f.sub [t.uid] := by
  unfold State.parkPage
  rw [hu]

theorem State.takeFault_other {s : State} {u : Nat} {f : FaultInfo} {w : FaultAt} {m : DWord} (h : f.code ≠ 0x04) :
    s.takeFault u f w m = s.deliver u f w m := if_neg h

theorem State.takeFault_page {s : State} {u : Nat} {f : FaultInfo} {w : FaultAt} {m : DWord} (h : f.code = 0x04)
    (hp : s.pf.size ≠ 0) : s.takeFault u f w m = s.parkPage u f w m := (if_pos h).trans (if_neg hp)

theorem State.takeFault_noRing {s : State} {u : Nat} {f : FaultInfo} {w : FaultAt} {m : DWord} (h : f.code = 0x04)
    (hp : s.pf.size = 0) : s.takeFault u f w m = s.takeFault u ⟨0x05, 0x21, f.addr, none⟩ w m := by
  unfold State.takeFault
  rw [if_pos h, if_pos hp]
  rfl

/-- Settles O55: `deliver` case by case, and what parking at an absent page leaves. -/
theorem faultEntrySavesAndRedirects : Obligations.FaultEntrySavesAndRedirects := by
  unfold Obligations.FaultEntrySavesAndRedirects
  intro s t f w m ht huniq z l r
  have hu : s.thread t.uid = t := State.thread_of_unique ht huniq
  refine ⟨fun hc hdbg => ?other, fun hc hp => ?page, State.takeFault_noRing, fun fs hfs => ?several⟩
  case other =>
    have hd : ¬ (f.code = 0x0F ∧ (s.slice t.slice).dbgHold = true) := fun h =>
      hdbg.elim (absurd h.1) fun h' => by simp [h'] at h
    have hz : z = s.deliver t.uid f w m := State.takeFault_other hc
    rw [show r = (s.deliver t.uid f w m).thread t.uid from congrArg (State.thread · t.uid) hz, hz]
    refine ⟨fun hh hv hs => ?enter, fun hh hl => ?kill, fun hh => ?double, State.deliver_faults hu hd⟩
    case enter =>
      obtain ⟨p, e⟩ := State.deliver_handler_thread (w := w) (m := m) ht hu hd hh (Launch.handler_of_vector hv hs)
      rw [e]
      exact ⟨rfl, rfl, rfl, rfl, rfl, rfl, rfl,
        fun n hn => (Thread.g_enterHandler ..).trans (Thread.g_newRun _ _ hn),
        fun n hn => (Thread.g_enterHandler ..).trans (Thread.g_newRun_k _ _ hn), rfl, rfl, rfl, rfl, rfl, rfl, rfl⟩
    case kill =>
      obtain ⟨p, e⟩ := State.deliver_no_handler_thread (w := w) (m := m) ht hu hd hh (Launch.handler_eq_none hl)
      rw [e]
      exact ⟨rfl, rfl⟩
    case double =>
      rw [State.deliver_in_handler_thread ht hu hd hh]
      exact ⟨rfl, rfl⟩
  case page =>
    intro va a same
    have hz : z = _ := (State.takeFault_page hc hp).trans (State.parkPage_eq hu f w m)
    have hr : r = { t with park := .page a (va / 65536) f.addr w.ends m } :=
      (congrArg (State.thread · t.uid) hz).trans (State.thread_changed ht huniq
        (f := fun x => { x with park := .page a (va / 65536) f.addr w.ends m }) fun _ => rfl)
    rw [hr, hz]
    refine ⟨rfl, rfl, rfl, rfl, rfl, rfl, rfl, rfl, rfl, rfl, rfl, rfl, rfl, rfl, rfl, rfl, rfl, rfl,
      State.pfRecord_joined _ _ _ _, fun h => ?_, ?_⟩
    · exact if_neg fun h' => Bool.false_ne_true (h.symm.trans h')
    · by_cases h : s.pf.recs.any same = true
      · rw [if_pos h]
        exact (congrArg List.length (if_pos h)).trans (List.length_map _)
      · rw [if_neg h]
        exact (congrArg List.length (if_neg h)).trans (List.length_append ..)
  case several =>
    unfold State.takeFaults
    rw [if_pos (List.any_eq_true.mpr (by simpa using hfs))]

end Sys2Proof.Machine
end

section
/-! PROOFS. Loads: the value of their bytes, and the bytes that they read. O20. -/

namespace Sys2Proof.Machine

/-! ### The value of some bytes, the first lowest -/

theorem ofNat_leNat_byte (b0 : Byte) : BitVec.ofNat 32 (leNat [b0]) = b0.setWidth 32 := by
  apply BitVec.eq_of_toNat_eq
  simp [leNat]

theorem ofNat_leNat_half (b0 b1 : Byte) : BitVec.ofNat 32 (leNat [b0, b1]) = (b1 ++ b0).setWidth 32 := by
  apply BitVec.eq_of_toNat_eq
  simp only [BitVec.toNat_ofNat, BitVec.toNat_setWidth, Laws.Encoding.app_nat, leNat]
  omega

theorem ofNat_leNat_word (b0 b1 b2 b3 : Byte) : BitVec.ofNat 32 (leNat [b0, b1, b2, b3]) = b3 ++ b2 ++ b1 ++ b0 := by
  apply BitVec.eq_of_toNat_eq
  have := b0.isLt
  have := b1.isLt
  have := b2.isLt
  have := b3.isLt
  simp only [BitVec.toNat_ofNat, Laws.Encoding.app_nat, leNat]
  omega

theorem ofNat_leNat_dword (b0 b1 b2 b3 b4 b5 b6 b7 : Byte) :
    loWord (BitVec.ofNat 64 (leNat [b0, b1, b2, b3, b4, b5, b6, b7])) = b3 ++ b2 ++ b1 ++ b0 ∧
    hiWord (BitVec.ofNat 64 (leNat [b0, b1, b2, b3, b4, b5, b6, b7])) = b7 ++ b6 ++ b5 ++ b4 := by
  have := b0.isLt
  have := b1.isLt
  have := b2.isLt
  have := b3.isLt
  have := b4.isLt
  have := b5.isLt
  have := b6.isLt
  have := b7.isLt
  constructor <;> apply BitVec.eq_of_toNat_eq <;>
    simp only [loWord, hiWord, BitVec.toNat_setWidth, BitVec.toNat_ushiftRight, Nat.shiftRight_eq_div_pow,
      BitVec.toNat_ofNat, Laws.Encoding.app_nat, leNat] <;>
    omega

theorem wDests_leNat (n : Nat) (b0 b1 b2 b3 b4 b5 b6 b7 : Byte) :
    wDests n (BitVec.ofNat 64 (leNat [b0, b1, b2, b3, b4, b5, b6, b7])) =
      (if n = 0 then [] else [(Dest.reg (2 * n), b3 ++ b2 ++ b1 ++ b0)]) ++
        [(Dest.reg (2 * n + 1), b7 ++ b6 ++ b5 ++ b4)] := by
  obtain ⟨hl, hh⟩ := ofNat_leNat_dword b0 b1 b2 b3 b4 b5 b6 b7
  rw [wDests, hl, hh]

/-! ### Addresses (R147) -/

theorem genericEa_eq (cx : Cx) (t : Thread) (b : Nat) (o : BitVec 9) (n : Nat) :
    genericEa cx t b o n = t.w b + BitVec.ofInt 64 (n * (immS cx.himm o).toInt) := by
  simp [genericEa, BitVec.ofInt_mul, BitVec.signExtend]

/-! ### What holding a translation leaves (R378) -/

/-- Holding a translation changes a core's TLB and the walkers. -/
theorem State.holdAcc_eq (s : State) (n : Nat) (a : Acc) :
    ∃ k w, s.holdAcc n a = { s with cores := k, walkers := w } := by
  unfold State.holdAcc
  split
  · unfold State.holdTlb
    dsimp only
    split
    · exact ⟨_, _, rfl⟩
    · exact ⟨_, _, rfl⟩
  · exact ⟨_, _, rfl⟩

@[simp] theorem State.holdAcc_threads (s : State) (n : Nat) (a : Acc) : (s.holdAcc n a).threads = s.threads := by
  obtain ⟨k, w, e⟩ := s.holdAcc_eq n a
  rw [e]

@[simp] theorem State.holdAcc_teams (s : State) (n : Nat) (a : Acc) : (s.holdAcc n a).teams = s.teams := by
  obtain ⟨k, w, e⟩ := s.holdAcc_eq n a
  rw [e]

@[simp] theorem State.holdAcc_slices (s : State) (n : Nat) (a : Acc) : (s.holdAcc n a).slices = s.slices := by
  obtain ⟨k, w, e⟩ := s.holdAcc_eq n a
  rw [e]

/-! ### What a load's read leaves (R151) -/

theorem State.threads_maySee (s : State) (n a k : Nat) : (s.maySee n a k).threads = s.threads := by
  unfold State.maySee
  generalize (s.viewParts a k).filter _ = l
  induction l generalizing s with
  | nil => rfl
  | cons u l ih =>
    rw [List.foldl_cons, ih]
    split <;> rfl

/-- Reading the bytes of a load keeps every thread. -/
theorem State.uids_loadBytes (s : State) (n : Nat) (a : Acc) (k policy : Nat) :
    (s.loadBytes n a k policy).1.threads.map (·.uid) = s.threads.map (·.uid) := by
  cases hp : a.place with
  | scratch | chip | remote => simp only [State.loadBytes, hp]
  | phys pa =>
    simp only [State.loadBytes, hp]
    generalize (if a.isGlobal then policy else 0) = p
    by_cases h3 : p = 3
    · rw [if_pos h3]
      exact (s.memoryOnly_writeBack n _).uids
    · rw [if_neg h3, State.threads_maySee]
      exact (s.memoryOnly_fill n _ _).uids

/-- A result that a thread puts in flight is among its results. -/
theorem State.pendResult_mem (s : State) (cx : Cx) {u : Nat} (cls : CClass) (ds : List (Dest × Word))
    (upd : Pending → Pending) (h : s.threads.any (·.uid == u) = true) :
    upd (cx.pending (s.thread u) (s.thread u).nextPend cls ds) ∈ ((s.pendResult cx u cls ds upd).thread u).pend := by
  unfold State.pendResult
  rw [State.thread_setThread_same s (f := fun t => t.addPend (upd (cx.pending t t.nextPend cls ds))) (fun _ hx => hx) h]
  exact List.mem_append_right _ (List.mem_singleton_self _)

theorem any_uid_of_map_eq {s r : State} {u : Nat} (h : r.threads.map (·.uid) = s.threads.map (·.uid))
    (hs : ∃ x ∈ s.threads, x.uid = u) : r.threads.any (·.uid == u) = true := by
  obtain ⟨x, hx, rfl⟩ := hs
  obtain ⟨y, hy, e⟩ := List.mem_map.mp (h ▸ List.mem_map_of_mem hx : x.uid ∈ r.threads.map (·.uid))
  exact List.any_eq_true.mpr ⟨y, hy, by simpa using e⟩

/-- A load of this device puts what it has read in flight. -/
theorem readEff_here {l : LoadTo} {cx : Cx} {t : Thread} {c : Chk} {s : State}
    (h : ∀ home pa, c.acc.place ≠ .remote home pa) :
    readEff l cx t c s =
      let o := (s.holdAcc t.core c.acc).loadBytes t.core c.acc l.size cx.cache
      o.1.pendResult cx t.uid .ld (l.dests o.2.1) fun p =>
        { p with fault := if o.2.2 then some (memPoison c.ea) else none } := by
  unfold readEff
  split
  · rename_i home pa hp
    exact absurd hp (h home pa)
  · rfl

theorem getD_map_range {α : Type} (f : Nat → α) (d : α) {k n : Nat} (h : k < n) :
    ((List.range n).map f).getD k d = f k := by
  simp [List.getD, h]

/-- The bytes of device memory that a load reads are those that the core, or the die's L2, has then. -/
theorem State.loadBytes_phys (s : State) (n : Nat) {a : Acc} {pa : Nat} (size policy : Nat) (hp : a.place = .phys pa)
    {k : Nat} (hk : k < size) : (s.loadBytes n a size policy).2.1.getD k 0 =
      if a.isGlobal && policy == 3 then
        (s.loadBytes n a size policy).1.mem.atDie ((s.loadBytes n a size policy).1.core n).die (pa + k)
      else (s.loadBytes n a size policy).1.l1Byte ((s.loadBytes n a size policy).1.core n) (pa + k) := by
  have hb : ((if a.isGlobal then policy else 0) == 3) = (a.isGlobal && policy == 3) := by
    cases a.isGlobal <;> rfl
  simp only [State.loadBytes, hp, State.readPlace, getD_map_range _ _ hk, hb]

theorem State.loadBytes_scratch (s : State) (n : Nat) {a : Acc} {u o : Nat} (size policy : Nat)
    (hp : a.place = .scratch u o) {k : Nat} (hk : k < size) :
    (s.loadBytes n a size policy).2.1.getD k 0 = (s.team u).scratchByte (o + k) := by
  simp only [State.loadBytes, hp, State.readPlace, getD_map_range _ _ hk]

theorem State.loadBytes_chip (s : State) (n : Nat) {a : Acc} {x o : Nat} (size policy : Nat)
    (hp : a.place = .chip x o) {k : Nat} (hk : k < size) :
    (s.loadBytes n a size policy).2.1.getD k 0 = (s.slice x).chipByte (o + k) := by
  simp only [State.loadBytes, hp, State.readPlace, getD_map_range _ _ hk]

/-- Settles O20. -/
theorem loadsPutTheirValueInFlight : Obligations.LoadsPutTheirValueInFlight := by
  unfold Obligations.LoadsPutTheirValueInFlight
  refine ⟨fun e v b o => ⟨accesses_of_memAct fun _ => rfl, accesses_of_memAct fun _ => rfl,
    accesses_of_memAct fun _ => rfl, accesses_of_memAct fun _ => rfl, accesses_of_memAct fun _ => rfl,
    accesses_of_memAct fun _ => rfl, fun cx t => genericEa_eq cx t _ o, fun _ _ => rfl⟩, ?value, ?read⟩
  case value =>
    intro n b0 b1 b2 b3 b4 b5 b6 b7 c0 c1 c2 c3 c4 c5 c6 c7 lo hi pair
    refine ⟨?_, fun hn => ⟨?_, ?_, ?_⟩, ?_, ?_⟩
    · intro l hl bs
      simp only [List.mem_cons, List.not_mem_nil, or_false] at hl
      rcases hl with rfl | rfl | rfl <;> rfl
    · simp [LoadTo.dests, gDests, Nat.ne_of_gt hn, ofNat_leNat_byte]
    · simp [LoadTo.dests, gDests, Nat.ne_of_gt hn, ofNat_leNat_half]
    · simp [LoadTo.dests, gDests, Nat.ne_of_gt hn, ofNat_leNat_word, lo]
    · exact wDests_leNat ..
    · exact congrArg₂ (· ++ ·) (wDests_leNat ..) (wDests_leNat ..)
  case read =>
    intro l cx t c s ht hp o
    have hany : o.1.threads.any (·.uid == t.uid) = true :=
      any_uid_of_map_eq ((State.uids_loadBytes ..).trans (by rw [State.holdAcc_threads])) ht
    rw [readEff_here hp]
    refine ⟨⟨_, State.pendResult_mem o.1 cx .ld _ _ hany, rfl, rfl, rfl, rfl⟩,
      fun pa k h hk => State.loadBytes_phys _ _ _ _ h hk,
      fun u a k h hk => ?_, fun x a k h hk => ?_⟩
    · rw [State.loadBytes_scratch _ _ _ _ h hk]
      simp [State.team]
    · rw [State.loadBytes_chip _ _ _ _ h hk]
      simp [State.slice, State.slice?]

end Sys2Proof.Machine
end

section
/-! PROOFS. Atomics: what each writes over the old value (R165). O22. -/

namespace Sys2Proof.Machine

/-! ### The value an atomic writes -/

section
variable (x y c : Word) (p q : DWord)

theorem atomicNew_fadd16 : atomicNew 0x90 3 x.toNat y.toNat 0 = some
    ((fpAdd .bf16 0 false (x.setWidth 16).toNat (y.setWidth 16).toNat).1 +
      65536 * (fpAdd .bf16 0 false (x.extractLsb' 16 16).toNat (y.extractLsb' 16 16).toNat).1) := by
  have lo : ∀ z : Word, z.toNat % 65536 = (z.setWidth 16).toNat := fun z => by simp
  have hi : ∀ z : Word, z.toNat / 65536 = (z.extractLsb' 16 16).toNat := fun z => by
    have := z.isLt
    simp only [BitVec.extractLsb'_toNat, Nat.shiftRight_eq_div_pow]
    omega
  simp only [atomicNew, lo, hi]
  rfl

theorem atomicNew_smin : atomicNew 0x91 0 x.toNat y.toNat 0 = some (if x.toInt ≤ y.toInt then x else y).toNat := by
  simp only [atomicNew, BitVec.ofNat_toNat, BitVec.setWidth_eq, BitVec.slt_eq_decide, decide_eq_true_eq]
  by_cases h : x.toInt ≤ y.toInt
  · simp [h, Int.not_lt.mpr h]
  · simp [h, Int.not_le.mp h]

theorem atomicNew_smax : atomicNew 0x91 1 x.toNat y.toNat 0 = some (if y.toInt ≤ x.toInt then x else y).toNat := by
  simp only [atomicNew, BitVec.ofNat_toNat, BitVec.setWidth_eq, BitVec.slt_eq_decide, decide_eq_true_eq]
  by_cases h : y.toInt ≤ x.toInt
  · simp [h, Int.not_lt.mpr h]
  · simp [h, Int.not_le.mp h]

theorem atomicNew_umin : atomicNew 0x91 2 x.toNat y.toNat 0 = some (if x.toNat ≤ y.toNat then x else y).toNat :=
  congrArg some ((Nat.min_def ..).trans (apply_ite BitVec.toNat ..).symm)

theorem atomicNew_umax : atomicNew 0x91 3 x.toNat y.toNat 0 = some (if y.toNat ≤ x.toNat then x else y).toNat :=
  congrArg some (((Nat.max_comm ..).trans (Nat.max_def ..)).trans (apply_ite BitVec.toNat ..).symm)

theorem atomicNew_cas : atomicNew 0x93 0 x.toNat y.toNat c.toNat = if x = c then some y.toNat else none := by
  simp [atomicNew, BitVec.toNat_inj]

theorem atomicNew_cas64 (r : DWord) :
    atomicNew 0x93 1 p.toNat q.toNat r.toNat = if p = r then some q.toNat else none := by
  simp [atomicNew, BitVec.toNat_inj]

end

/-- Settles O22. -/
theorem atomicsApplyTheirOperation : Obligations.AtomicsApplyTheirOperation := by
  unfold Obligations.AtomicsApplyTheirOperation
  refine ⟨fun e d a b f o => ⟨?_, accesses_of_memAct fun _ => rfl, accesses_of_memAct fun _ => rfl, ?_,
    accesses_of_memAct fun _ => rfl, does_of_eachLane fun _ => rfl⟩, fun x y c p q => ⟨?_, rfl, ?_,
      atomicNew_fadd16 x y,
    atomicNew_smin x y, atomicNew_smax x y, atomicNew_umin x y, atomicNew_umax x y, ?_, ?_, ?_, rfl,
    atomicNew_cas x y c, atomicNew_cas64 p q⟩⟩
  · rintro n rfl
    exact accesses_of_memAct fun _ => rfl
  · rintro n rfl
    exact accesses_of_memAct fun _ => rfl
  · simp [atomicNew]
  · simp [atomicNew]
  · simp [atomicNew]
  · simp [atomicNew]
  · simp [atomicNew]

end Sys2Proof.Machine
end

section
/-! PROOFS. What an instruction that computes on a thread's own registers leaves as it was. O56. -/

namespace Sys2Proof.Machine

/-! ### What an operation on a thread's own registers may change -/

theorem or_and_absorb (a f : Word) : (a ||| f) &&& a = a := by
  ext i h
  cases ha : a[i] <;> simp [ha]

/-- The thread `y` is `x` but for registers and predicates that `W` numbers (as SUBCODE of R116 does), their poison,
results in flight, and flags that were not set: of %iflags where `fi`, of %fpflags where `ff`. -/
structure Thread.Changes (W : List Nat) (fi ff : Bool) (x y : Thread) : Prop where
  rest : ∃ r q z d i f, y = { x with regs := r, preds := q, poison := z, pend := d, iflags := i, fpflags := f }
  g : ∀ n, n ∉ W → y.g n = x.g n
  p : ∀ n, 0x80 + n ∉ W → y.p n = x.p n
  iflags : y.iflags &&& x.iflags = x.iflags
  fpflags : y.fpflags &&& x.fpflags = x.fpflags
  iflagsOff : fi = false → y.iflags = x.iflags
  fpflagsOff : ff = false → y.fpflags = x.fpflags

namespace Thread.Changes

variable {W : List Nat} {fi ff : Bool}

theorem refl (x : Thread) : Thread.Changes W fi ff x x :=
  ⟨⟨_, _, _, _, _, _, rfl⟩, fun _ _ => rfl, fun _ _ => rfl, BitVec.and_self, BitVec.and_self, fun _ => rfl,
    fun _ => rfl⟩

theorem trans {x y z : Thread} (h : Thread.Changes W fi ff x y) (k : Thread.Changes W fi ff y z) :
    Thread.Changes W fi ff x z := by
  have keep : ∀ a b c : Word, b &&& a = a → c &&& b = b → c &&& a = a := fun a b c h1 h2 => by
    rw [← h1, ← BitVec.and_assoc, h2]
  refine ⟨?_, fun n hn => (k.g n hn).trans (h.g n hn), fun n hn => (k.p n hn).trans (h.p n hn),
    keep _ _ _ h.iflags k.iflags, keep _ _ _ h.fpflags k.fpflags, fun e => (k.iflagsOff e).trans (h.iflagsOff e),
    fun e => (k.fpflagsOff e).trans (h.fpflagsOff e)⟩
  obtain ⟨_, _, _, _, _, _, e⟩ := h.rest
  obtain ⟨_, _, _, _, _, _, e'⟩ := k.rest
  rw [e', e]
  exact ⟨_, _, _, _, _, _, rfl⟩

theorem setG (x : Thread) {n : Nat} (v : Word) (h : n ∈ W) : Thread.Changes W fi ff x (x.setG n v) := by
  refine ⟨?_, fun k hk => ?_, fun k _ => ?_, by simp [BitVec.and_self],
    by simp [BitVec.and_self], fun _ => by simp, fun _ => by simp⟩
  · unfold Thread.setG Thread.putG
    split <;> exact ⟨_, _, _, _, _, _, rfl⟩
  · have : k ≠ n := fun e => hk (e ▸ h)
    simp [Thread.g_setG, this]
  · simp [Thread.p]

theorem setW (x : Thread) {n : Nat} (v : DWord) (h : 2 * n ∈ W) (h' : 2 * n + 1 ∈ W) :
    Thread.Changes W fi ff x (x.setW n v) := (setG x _ h).trans (setG _ _ h')

theorem setP (x : Thread) {n : Nat} (b : Bool) (h : 0x80 + n ∈ W) : Thread.Changes W fi ff x (x.setP n b) := by
  refine ⟨?_, fun k _ => ?_, fun k hk => ?_, by simp [BitVec.and_self],
    by simp [BitVec.and_self], fun _ => by simp, fun _ => by simp⟩
  · unfold Thread.setP Thread.putP
    split <;> exact ⟨_, _, _, _, _, _, rfl⟩
  · simp [Thread.g]
  · exact x.p_putP_other b fun e => hk (e ▸ h)

theorem orI (x : Thread) (f : Word) : Thread.Changes W true ff x (x.orI f) :=
  ⟨⟨_, _, _, _, _, _, rfl⟩, fun _ _ => rfl, fun _ _ => rfl, or_and_absorb _ f, BitVec.and_self,
    fun h => absurd h (by decide), fun _ => rfl⟩

theorem orF (x : Thread) (f : Word) : Thread.Changes W fi true x (x.orF f) :=
  ⟨⟨_, _, _, _, _, _, rfl⟩, fun _ _ => rfl, fun _ _ => rfl, BitVec.and_self, or_and_absorb _ f,
    fun _ => rfl, fun h => absurd h (by decide)⟩

theorem setGI (x : Thread) {n : Nat} (r : Word × Word) (h : n ∈ W) : Thread.Changes W true ff x (x.setGI n r) :=
  (setG x _ h).trans (orI _ _)

theorem setGF (x : Thread) {n : Nat} (r : Rd) (h : n ∈ W) : Thread.Changes W fi true x (x.setGF n r) :=
  (setG x _ h).trans (orF _ _)

theorem setWF (x : Thread) {n : Nat} (r : Rd) (h : 2 * n ∈ W) (h' : 2 * n + 1 ∈ W) :
    Thread.Changes W fi true x (x.setWF n r) := (setW x _ h h').trans (orF _ _)

theorem launch (x : Thread) (cx : Cx) (cls : CClass) (ds : List (Dest × Word)) :
    Thread.Changes W fi ff x (x.launch cx cls ds) :=
  ⟨⟨_, _, _, _, _, _, rfl⟩, fun _ _ => rfl, fun _ _ => rfl, BitVec.and_self, BitVec.and_self, fun _ => rfl,
    fun _ => rfl⟩

theorem scatter (base : Nat) (v m : Word) : ∀ (ks : List Nat), (∀ k ∈ ks, 0x80 + (base + k) ∈ W) → ∀ x : Thread,
    Thread.Changes W fi ff x (x.scatter base v m ks)
  | [], _, x => refl x
  | k :: ks, h, x => by
    have hr := fun y => scatter base v m ks (fun j hj => h j (List.mem_cons_of_mem _ hj)) y
    unfold Thread.scatter at hr ⊢
    rw [List.foldl_cons]
    split
    · exact (setP x _ (h k (List.mem_cons_self ..))).trans (hr _)
    · exact hr x

/-- LAST's releases change only the registers that it names. -/
theorem lastRelease : ∀ (l : List Nat) (x : Thread), Thread.Changes l fi ff x (x.lastRelease l)
  | [], x => refl x
  | n :: l, x => by
    have one : Thread.Changes (n :: l) fi ff x (x.release n) := by
      refine ⟨?_, fun k hk => ?_, fun k _ => ?_, by simp [BitVec.and_self], by simp [BitVec.and_self],
        fun _ => by simp, fun _ => by simp⟩
      · unfold Thread.release
        split <;> exact ⟨_, _, _, _, _, _, rfl⟩
      · have : k ≠ n := fun e => hk (e ▸ List.mem_cons_self ..)
        simp [Thread.g_release, this]
      · simp [Thread.p]
    have more := lastRelease l (x.release n)
    exact one.trans ⟨more.rest, fun k hk => more.g k fun h => hk (List.mem_cons_of_mem _ h),
      fun k hk => more.p k fun h => hk (List.mem_cons_of_mem _ h), more.iflags, more.fpflags, more.iflagsOff,
      more.fpflagsOff⟩

/-- Fewer restrictions: more registers, more flags. -/
theorem mono {V : List Nat} {gi gf : Bool} {x y : Thread} (h : Thread.Changes W fi ff x y) (hW : ∀ n ∈ W, n ∈ V)
    (hi : gi = false → fi = false) (hf : gf = false → ff = false) : Thread.Changes V gi gf x y :=
  ⟨h.rest, fun n hn => h.g n fun k => hn (hW n k), fun n hn => h.p n fun k => hn (hW _ k), h.iflags, h.fpflags,
    fun e => h.iflagsOff (hi e), fun e => h.fpflagsOff (hf e)⟩

end Thread.Changes

/-! ### What each instruction changes -/

/-- The first operand of an instruction, which it writes. -/
def WritesTo (i : Instr) (k : OKind) (n : Nat) : Prop :=
  ∀ m, ∃ o l, i.operandsUnder m = o :: l ∧ o.kind = k ∧ o.num = n ∧ o.wr = true

theorem WritesTo.mem {i : Instr} {k : OKind} {n : Nat} (h : WritesTo i k n) (m : BitVec 23) {r : Nat}
    (hr : r ∈ Opnd.regs ⟨k, n, .none, false, true⟩) : r ∈ i.writes m := by
  obtain ⟨o, l, e, rfl, rfl, hw⟩ := h m
  refine List.mem_append_left _ (List.mem_flatMap.mpr ⟨o, ?_, hr⟩)
  rw [e]
  exact List.mem_filter.mpr ⟨List.mem_cons_self .., hw⟩

theorem WritesTo.g {i : Instr} {n : Nat} (h : WritesTo i .g n) (m : BitVec 23) : n ∈ i.writes m :=
  h.mem m (List.mem_cons_self ..)

theorem WritesTo.p {i : Instr} {n : Nat} (h : WritesTo i .p n) (m : BitVec 23) : 0x80 + n ∈ i.writes m :=
  h.mem m (List.mem_cons_self ..)

theorem WritesTo.w {i : Instr} {n : Nat} (h : WritesTo i .w n) (m : BitVec 23) :
    2 * n ∈ i.writes m ∧ 2 * n + 1 ∈ i.writes m :=
  ⟨h.mem m (List.mem_cons_self ..), h.mem m (List.mem_cons_of_mem _ (List.mem_cons_self ..))⟩

/-- An instruction whose effect on each thread is an operation on its own registers that changes no more than the
instruction writes and no flag that it may not set. -/
def ComputesWithin (i : Instr) : Prop := ∃ w : Cx → Thread → Thread → Thread,
  (∀ s, exec i s = word i (alu w) s) ∧
    ∀ cx t x m, Thread.Changes (i.writes m) i.integerFlags i.floating x (w cx t x)

section
variable {i : Instr} {n : Nat}

theorem computesWithin_setG {v : Cx → Thread → Word} (hn : WritesTo i .g n)
    (he : ∀ s, exec i s = word i (alu fun cx t x => x.setG n (v cx t)) s) : ComputesWithin i :=
  ⟨_, he, fun _ _ x m => .setG x _ (hn.g m)⟩

theorem computesWithin_setW {v : Cx → Thread → DWord} (hn : WritesTo i .w n)
    (he : ∀ s, exec i s = word i (alu fun cx t x => x.setW n (v cx t)) s) : ComputesWithin i :=
  ⟨_, he, fun _ _ x m => .setW x _ (hn.w m).1 (hn.w m).2⟩

theorem computesWithin_setP {v : Cx → Thread → Bool} (hn : WritesTo i .p n)
    (he : ∀ s, exec i s = word i (alu fun cx t x => x.setP n (v cx t)) s) : ComputesWithin i :=
  ⟨_, he, fun _ _ x m => .setP x _ (hn.p m)⟩

theorem computesWithin_setGI {v : Cx → Thread → Word × Word} (hn : WritesTo i .g n) (hi : i.integerFlags = true)
    (he : ∀ s, exec i s = word i (alu fun cx t x => x.setGI n (v cx t)) s) : ComputesWithin i :=
  ⟨_, he, fun _ _ x m => hi ▸ .setGI x _ (hn.g m)⟩

theorem computesWithin_setGF {v : Cx → Thread → Rd} (hn : WritesTo i .g n) (hf : i.floating = true)
    (he : ∀ s, exec i s = word i (alu fun cx t x => x.setGF n (v cx t)) s) : ComputesWithin i :=
  ⟨_, he, fun _ _ x m => hf ▸ .setGF x _ (hn.g m)⟩

theorem fpKind_one {f : BitVec 2} (h : f = 1) : fpKind f = .w := if_pos h

theorem fpKind_other {f : BitVec 2} (h : f ≠ 1) : fpKind f = .g := if_neg h

theorem computesWithin_fpBin {f : BitVec 2} {a b : Nat} {op : Cx → Thread → FpOp2} (hn : WritesTo i (fpKind f) n)
    (hf : i.floating = true)
    (he : ∀ s, exec i s = word i (alu fun cx t => fpBin (op cx t) f n a b t) s) : ComputesWithin i := by
  refine ⟨_, he, fun cx t x m => hf ▸ ?_⟩
  dsimp only [fpBin]
  by_cases h0 : f = 0
  · rw [if_pos h0]
    exact .setGF x _ ((fpKind_other (f := f) (by simp [h0]) ▸ hn).g m)
  · rw [if_neg h0]
    by_cases h1 : f = 1
    · rw [if_pos h1]
      have := (fpKind_one h1 ▸ hn).w m
      exact .setWF x _ this.1 this.2
    · rw [if_neg h1]
      exact .setGF x _ ((fpKind_other h1 ▸ hn).g m)

/-- A result of FP64 goes to a w register, one of another format to a g register. -/
theorem changes_fpOut {W : List Nat} {fi : Bool} (x : Thread) (f : Fmt) (r : Rd)
    (hw : f = .fp64 → 2 * n ∈ W ∧ 2 * n + 1 ∈ W) (hg : f ≠ .fp64 → n ∈ W) :
    Thread.Changes W fi true x (x.fpOut f n r) := by
  unfold Thread.fpOut
  by_cases h : f = .fp64
  · rw [if_pos h]
    exact .setWF x _ (hw h).1 (hw h).2
  · rw [if_neg h]
    exact .setGF x _ (hg h)

theorem ofCode_eq_fp64_iff (c : BitVec 3) : Fmt.ofCode c.toNat = .fp64 ↔ c = 0 := by
  revert c
  decide

theorem computesWithin_special {fn : SFn} {f : BitVec 2} {a : Nat} {mode : Cx → Thread → Nat} (hf : i.floating = true)
    (he : ∀ s, exec i s = word i (alu fun cx t => specialWrite fn f (mode cx t) cx n a t) s) : ComputesWithin i := by
  refine ⟨_, he, fun cx t x m => hf ▸ ?_⟩
  unfold specialWrite
  split
  · exact (Thread.Changes.launch x _ _ _).trans (.orF _ _)
  · exact (Thread.Changes.launch x _ _ _).trans (.orF _ _)

end

theorem computesWithin_ffma (e : Bool) (d a b : BitVec 7) (f : BitVec 2) : ComputesWithin (.ffma e d a b f) := by
  have hn : WritesTo (.ffma e d a b f) (fpKind f) d.toNat := fun _ => ⟨_, _, rfl, rfl, rfl, rfl⟩
  refine ⟨_, fun _ => rfl, fun cx t x m => ?_⟩
  dsimp only [ffmaWrite]
  by_cases h0 : f = 0
  · rw [if_pos h0]
    exact .setGF x _ ((fpKind_other (f := f) (by simp [h0]) ▸ hn).g m)
  · rw [if_neg h0]
    by_cases h1 : f = 1
    · rw [if_pos h1]
      have := (fpKind_one h1 ▸ hn).w m
      exact .setWF x _ this.1 this.2
    · rw [if_neg h1]
      exact .setGF x _ ((fpKind_other h1 ▸ hn).g m)

theorem computesWithin_scl (e : Bool) (d a b : BitVec 7) (f : BitVec 2) : ComputesWithin (.scl e d a b f) := by
  have hn : WritesTo (.scl e d a b f) (fpKind f) d.toNat := fun _ => ⟨_, _, rfl, rfl, rfl, rfl⟩
  refine ⟨_, fun _ => rfl, fun cx t x m => ?_⟩
  dsimp only
  by_cases h0 : f = 0
  · rw [if_pos h0]
    exact .setGF x _ ((fpKind_other (f := f) (by simp [h0]) ▸ hn).g m)
  · rw [if_neg h0]
    by_cases h1 : f = 1
    · rw [if_pos h1]
      have := (fpKind_one h1 ▸ hn).w m
      exact .setWF x _ this.1 this.2
    · rw [if_neg h1]
      exact .setGF x _ ((fpKind_other h1 ▸ hn).g m)

theorem computesWithin_fcmp (e : Bool) (p : BitVec 6) (a b : BitVec 7) (ty : BitVec 1) (c : BitVec 2) :
    ComputesWithin (.fcmp e p a b ty c) := by
  have hn : WritesTo (.fcmp e p a b ty c) .p p.toNat := fun m => by
    by_cases h : m.getLsbD 15 = true
    · exact ⟨_, _, if_pos h, rfl, rfl, rfl⟩
    · exact ⟨_, _, if_neg h, rfl, rfl, rfl⟩
  exact ⟨_, fun _ => rfl, fun cx t x m => (Thread.Changes.setP x _ (hn.p m)).trans (.orF _ _)⟩

theorem computesWithin_fcvt (e : Bool) (d a : BitVec 7) (fr tt : BitVec 3) : ComputesWithin (.fcvt e d a fr tt) := by
  have hn : WritesTo (.fcvt e d a fr tt) (if tt = 0 then .w else .g) d.toNat := fun _ => ⟨_, _, rfl, rfl, rfl, rfl⟩
  refine ⟨_, fun _ => rfl, fun cx t x m => changes_fpOut x _ _ (fun h => ?_) fun h => ?_⟩
  · rw [if_pos ((ofCode_eq_fp64_iff tt).mp h)] at hn
    exact hn.w m
  · rw [if_neg fun k => h ((ofCode_eq_fp64_iff tt).mpr k)] at hn
    exact hn.g m

theorem computesWithin_icvt (e : Bool) (d a : BitVec 7) (mm : BitVec 3) (k f : BitVec 2) :
    ComputesWithin (.icvt e d a mm k f) := by
  have hn : WritesTo (.icvt e d a mm k f)
      (if f = 0 then (if mm = 0 then .w else .g) else (if k.getLsbD 1 then .w else .g)) d.toNat :=
    fun _ => ⟨_, _, rfl, rfl, rfl, rfl⟩
  refine ⟨_, fun _ => rfl, fun cx t x m => ?_⟩
  dsimp only [icvtWrite]
  by_cases hf : f = 0
  · rw [if_pos hf] at hn ⊢
    refine changes_fpOut x _ _ (fun h => ?_) fun h => ?_
    · rw [if_pos ((ofCode_eq_fp64_iff mm).mp h)] at hn
      exact hn.w m
    · rw [if_neg fun k => h ((ofCode_eq_fp64_iff mm).mpr k)] at hn
      exact hn.g m
  · rw [if_neg hf] at hn ⊢
    refine Thread.Changes.trans ?_ (.orF _ _)
    by_cases hk : k.getLsbD 1 = true
    · rw [if_pos hk] at hn ⊢
      exact .setW x _ (hn.w m).1 (hn.w m).2
    · rw [if_neg hk] at hn ⊢
      exact .setG x _ (hn.g m)

theorem computesWithin_dot4 (e : Bool) (d a b : BitVec 7) (f : BitVec 2) : ComputesWithin (.dot4 e d a b f) := by
  have hn : WritesTo (.dot4 e d a b f) .g d.toNat := fun _ => ⟨_, _, rfl, rfl, rfl, rfl⟩
  refine ⟨_, fun _ => rfl, fun cx t x m => ?_⟩
  split
  · exact .setGI x _ (hn.g m)
  · exact .setGF x _ (hn.g m)

theorem computesWithin_dot8 (e : Bool) (d a b : BitVec 7) (f : BitVec 2) : ComputesWithin (.dot8 e d a b f) := by
  have hn : WritesTo (.dot8 e d a b f) .g d.toNat := fun _ => ⟨_, _, rfl, rfl, rfl, rfl⟩
  refine ⟨_, fun _ => rfl, fun cx t x m => ?_⟩
  split
  · exact .setGI x _ (hn.g m)
  · exact .setGF x _ (hn.g m)

theorem computesWithin_unpk (e : Bool) (d a b : BitVec 7) (f : BitVec 2) : ComputesWithin (.unpk e d a b f) := by
  have hn : WritesTo (.unpk e d a b f) .w d.toNat := fun _ => ⟨_, _, rfl, rfl, rfl, rfl⟩
  exact ⟨_, fun _ => rfl, fun cx t x m => .setWF x _ (hn.w m).1 (hn.w m).2⟩

theorem computesWithin_cmov (e : Bool) (d : BitVec 7) (p : BitVec 6) (a : BitVec 7) :
    ComputesWithin (.cmov e d p a) := by
  have hn : WritesTo (.cmov e d p a) .g d.toNat := fun _ => ⟨_, _, rfl, rfl, rfl, rfl⟩
  refine ⟨_, fun _ => rfl, fun cx t x m => ?_⟩
  split
  · exact .setG x _ (hn.g m)
  · exact .refl x

theorem computesWithin_g2p (e : Bool) (a b : BitVec 7) (f : BitVec 2) : ComputesWithin (.g2p e a b f) := by
  refine ⟨_, fun _ => rfl, fun cx t x m => ?_⟩
  have hw : (Instr.g2p e a b f).writes m =
      if f = 0 then (List.range 32).map (0x80 + ·) else (List.range 16).map (0xA0 + ·) := rfl
  rw [hw]
  split
  · refine .scatter 0 _ _ _ (fun k hk => ?_) x
    rw [Nat.zero_add]
    exact List.mem_map_of_mem (List.mem_of_mem_drop hk)
  · refine .scatter 32 _ _ _ (fun k hk => ?_) x
    rw [← Nat.add_assoc]
    exact List.mem_map_of_mem hk

/-- The instructions that compute change what they write and no more. -/
theorem computesWithin_of_computing {i : Instr} (h : i.integer = true ∨ i.floating = true) : ComputesWithin i := by
  cases i
  case add | sub | mul | mulh | mad | and | or | xor | andn | shl | shr | sra | min | max | clz | popc | brev | bfx
    | bfi
      | movi | addi | andi | ori | xori | shi | mov | p2g =>
    exact computesWithin_setG (fun _ => ⟨_, _, rfl, rfl, rfl, rfl⟩) fun _ => rfl
  case movw | addw | subw | mulw | shlw | shrw | leaw =>
    exact computesWithin_setW (fun _ => ⟨_, _, rfl, rfl, rfl, rfl⟩) fun _ => rfl
  case cmp | cmpw | cmpi | cmpiV1 | plog =>
    exact computesWithin_setP (fun _ => ⟨_, _, rfl, rfl, rfl, rfl⟩) fun _ => rfl
  case abs | div | rem | adds | subs =>
    exact computesWithin_setGI (fun _ => ⟨_, _, rfl, rfl, rfl, rfl⟩) rfl fun _ => rfl
  case fadd | fsub | fmul | fmin | fmax =>
    exact computesWithin_fpBin (fun _ => ⟨_, _, rfl, rfl, rfl, rfl⟩) rfl fun _ => rfl
  case rcp | rsq | sqrt | ex2 | lg2 | sin | cos | tanh => exact computesWithin_special rfl fun _ => rfl
  case pack => exact computesWithin_setGF (fun _ => ⟨_, _, rfl, rfl, rfl, rfl⟩) rfl fun _ => rfl
  case ffma => exact computesWithin_ffma ..
  case scl => exact computesWithin_scl ..
  case fcmp => exact computesWithin_fcmp ..
  case fcvt => exact computesWithin_fcvt ..
  case icvt => exact computesWithin_icvt ..
  case dot4 => exact computesWithin_dot4 ..
  case dot8 => exact computesWithin_dot8 ..
  case unpk => exact computesWithin_unpk ..
  case cmov => exact computesWithin_cmov ..
  case g2p => exact computesWithin_g2p ..
  all_goals exact absurd h (by simp [Instr.integer, Instr.floating])

/-! ### The issue of an instruction that raises no fault -/

/-- The threads of an issue set are threads of the machine, each once, where its runs are sound. -/
theorem State.issuing_sound {s : State} {g : Group} {ts : List Thread} (hs : s.RunsSound)
    (h : s.issuing = some (g, ts)) :
    (ts.map (·.uid)).Nodup ∧ ∀ t ∈ ts, s.thread t.uid = t ∧ s.threads.any (·.uid == t.uid) = true := by
  unfold State.issuing at h
  split at h
  case h_1 => cases h
  case h_2 gid _ =>
    dsimp only at h
    split at h
    case h_1 => cases h
    case h_2 us hrun =>
      split at h
      · cases h
      · simp only [Option.some.injEq, Prod.mk.injEq] at h
        obtain ⟨-, rfl⟩ := h
        have hg : s.group gid ∈ s.groups := by
          unfold State.group at hrun ⊢
          cases hf : s.groups.find? (·.gid == gid) with
          | none =>
            rw [hf] at hrun
            cases hrun
          | some x => exact List.mem_of_find?_eq_some hf
        obtain ⟨-, nd, halive⟩ := hs _ hg us hrun
        have hfind : ∀ u ∈ us, s.threads.any (·.uid == u) = true ∧ (s.thread u).uid = u := by
          intro u hu
          obtain ⟨x, hx, hxu⟩ := List.any_eq_true.mp (halive u hu)
          rw [Bool.and_eq_true] at hxu
          refine ⟨List.any_eq_true.mpr ⟨x, hx, hxu.1⟩, ?_⟩
          unfold State.thread
          cases hf : s.threads.find? (·.uid == u) with
          | none => exact absurd hxu.1 (List.find?_eq_none.mp hf x hx)
          | some y => simpa using List.find?_some hf
        have hmap : (us.map s.thread).map (·.uid) = us := by
          rw [List.map_map]
          exact (List.map_congr_left fun u hu => (hfind u hu).2).trans (List.map_id us)
        refine ⟨(congrArg List.Nodup hmap).mpr nd, fun t ht => ?_⟩
        obtain ⟨u, hu, rfl⟩ := List.mem_map.mp ht
        rw [(hfind u hu).2]
        exact ⟨rfl, (hfind u hu).1⟩

/-- No HSCH is pending: none acts. -/
theorem State.hschAll_none {s : State} {i : Instr} {g : Group} {ts ok : List Thread} {bad : List (Nat × FaultInfo)}
    (hc : hintClasses ts = [ts]) (h : (ts.headD default).hints.hsch = none) : s.hschAll i g ts bad ok = s := by
  unfold State.hschAll State.hschClass
  rw [hc, List.foldl_cons, List.foldl_nil, h, ite_self]

/-- A thread of an issue set goes on, where no thread faults. -/
theorem State.thread_setThreads (s : State) {us : List Nat} {u : Nat} {f : Thread → Thread}
    (hf : ∀ t, (f t).uid = t.uid) (h : s.threads.any (·.uid == u) = true) :
    (s.setThreads us f).thread u = if us.contains u then f (s.thread u) else s.thread u := by
  unfold State.thread State.setThreads
  rw [find?_map_key Thread.uid u _ s.threads fun t => by split <;> simp [hf]]
  cases hx : s.threads.find? (·.uid == u) with
  | none =>
    obtain ⟨t, ht, e⟩ := List.any_eq_true.mp h
    exact absurd e (List.find?_eq_none.mp hx t ht)
  | some t =>
    have : t.uid = u := by simpa using List.find?_some hx
    simp [this]

theorem State.thread_setThreads_other (s : State) {us : List Nat} {u : Nat} {f : Thread → Thread}
    (hf : ∀ t, (f t).uid = t.uid) (h : u ∉ us) : (s.setThreads us f).thread u = s.thread u := by
  unfold State.thread State.setThreads
  rw [find?_map_key Thread.uid u _ s.threads fun t => by split <;> simp [hf]]
  cases hx : s.threads.find? (·.uid == u) with
  | none => rfl
  | some t =>
    have : t.uid = u := by simpa using List.find?_some hx
    simp [this, h]

/-- Steps of threads in turn that each change one thread: what each becomes, and that nothing else of the machine
changes. A thread's own step begins at a state that differs from the first in other threads only. -/
theorem State.foldl_steps {step : State → Thread → State} (hk : ∀ x t, ∃ k, step x t = { x with threads := k })
    (hu : ∀ x t, (step x t).threads.map (·.uid) = x.threads.map (·.uid))
    (ho : ∀ x t u, u ≠ t.uid → (step x t).thread u = x.thread u) (l : List Thread) (s : State) :
    let r := l.foldl step s
    (∃ k, r = { s with threads := k }) ∧ r.threads.map (·.uid) = s.threads.map (·.uid) ∧
    (∀ u, u ∉ l.map (·.uid) → r.thread u = s.thread u) ∧
    ((l.map (·.uid)).Nodup → ∀ t ∈ l, ∃ x, (∃ k, x = { s with threads := k }) ∧
      x.threads.map (·.uid) = s.threads.map (·.uid) ∧ x.thread t.uid = s.thread t.uid ∧
      r.thread t.uid = (step x t).thread t.uid) := by
  induction l generalizing s with
  | nil => exact ⟨⟨_, rfl⟩, rfl, fun _ _ => rfl, fun _ t ht => absurd ht List.not_mem_nil⟩
  | cons t l ih =>
    obtain ⟨⟨k, e⟩, hu', ho', hs'⟩ := ih (step s t)
    obtain ⟨k1, e1⟩ := hk s t
    refine ⟨⟨k, ?_⟩, hu'.trans (hu s t), fun u hn => ?_, fun nd y hy => ?_⟩
    · rw [List.foldl_cons, e, e1]
    · rw [List.map_cons, List.mem_cons, not_or] at hn
      exact (ho' u hn.2).trans (ho s t u hn.1)
    · rw [List.map_cons, List.nodup_cons] at nd
      rcases List.mem_cons.mp hy with rfl | hy
      · exact ⟨s, ⟨_, rfl⟩, rfl, rfl, ho' _ nd.1⟩
      · obtain ⟨x, ⟨kx, ex⟩, hxu, hxt, hxr⟩ := hs' nd.2 y hy
        have hne : y.uid ≠ t.uid := fun e => nd.1 (e ▸ List.mem_map_of_mem hy)
        refine ⟨x, ⟨kx, ?_⟩, hxu.trans (hu s t), hxt.trans (ho s t _ hne), hxr⟩
        rw [ex, e1]

/-- A change of a thread keeps the threads that the machine has. -/
theorem State.uids_setThread (s : State) {u : Nat} {f : Thread → Thread} (hf : ∀ x, (f x).uid = x.uid) :
    (s.setThread u f).threads.map (·.uid) = s.threads.map (·.uid) := by
  unfold State.setThread
  rw [List.map_map]
  refine List.map_congr_left fun x _ => ?_
  dsimp only [Function.comp]
  split
  · exact hf x
  · rfl

/-- Threads that each change once: what each becomes, and that nothing else of the machine changes. -/
theorem State.foldl_setThread (f : Thread → Thread → Thread) (hf : ∀ t x, (f t x).uid = x.uid) (l : List Thread)
    (s : State) : let r := l.foldl (fun s t => s.setThread t.uid (f t)) s
    (∃ k, r = { s with threads := k }) ∧ r.threads.map (·.uid) = s.threads.map (·.uid) ∧
    (∀ u, u ∉ l.map (·.uid) → r.thread u = s.thread u) ∧
    ((l.map (·.uid)).Nodup → (∀ t ∈ l, s.threads.any (·.uid == t.uid) = true) →
      ∀ t ∈ l, r.thread t.uid = f t (s.thread t.uid)) := by
  obtain ⟨hk, hu, ho, hs⟩ := State.foldl_steps (step := fun s t => s.setThread t.uid (f t)) (fun _ _ => ⟨_, rfl⟩)
    (fun x t => x.uids_setThread (hf t)) (fun x t u h => x.thread_setThread_other (fun y hy => (hf t y).trans hy) h) l s
  refine ⟨hk, hu, ho, fun nd hm t ht => ?_⟩
  obtain ⟨x, -, hxu, hxt, hxr⟩ := hs nd t ht
  obtain ⟨z, hz, hzu⟩ := List.any_eq_true.mp (hm t ht)
  rw [hxr, ← hxt]
  exact x.thread_setThread_same (fun y hy => (hf t y).trans hy) (any_uid_of_map_eq hxu ⟨z, hz, by simpa using hzu⟩)

theorem Thread.rfe_uid (t : Thread) (c : FrameCtx) (skip : Bool) : (t.rfe c skip).uid = t.uid := by
  unfold Thread.rfe
  dsimp only
  split
  · rfl
  · split
    · rfl
    · split <;> rfl

theorem Thread.runOver_uid (t : Thread) : t.runOver.uid = t.uid := by
  unfold Thread.runOver
  split
  · rfl
  · rfl
  · exact t.rfe_uid _ _

theorem Thread.advance_uid (t : Thread) (i : Instr) : (t.advance i).uid = t.uid := by
  unfold Thread.advance
  split
  · rfl
  · dsimp only
    split
    · rw [Thread.runOver_uid]
      split <;> rfl
    · split <;> rfl

/-- What the end of an issue leaves where no thread faults: the threads of the set go on and their group is marked; the
granules that they had read for the instruction are forgotten. -/
theorem State.issued_quiet {i : Instr} {g : Group} {ts : List Thread} (r : State) (hc : hintClasses ts = [ts])
    (hh : (ts.headD default).hints.hsch = none) : ∃ f us, (∀ x, (f x).gid = x.gid) ∧ State.issued i g ts r [] =
      ((r.setThreads (ts.map (·.uid)) fun t => t.advance i).setGroup g.gid f).forget us := by
  have hgo : (ts.map (·.uid)).filter (fun u => !(([] : List (Nat × FaultInfo)).map (·.1)).contains u) =
      ts.map (·.uid) := by simp
  unfold State.issued State.finishIssue
  rw [State.hschAll_none hc hh]
  dsimp only
  rw [hgo]
  refine ⟨_, _, ?_, rfl⟩
  exact fun _ => rfl

/-- A thread that goes on inside its run: its PC, its position and its hints change, and nothing else. -/
theorem Thread.advance_inside (t : Thread) {i : Instr} (h : i.sbit = false) (hi : i.isHint = false) :
    t.advance i = if t.live then { t with hints := t.hints.consume, pc := t.pc + 4, pos := t.pos + 1 } else t := by
  unfold Thread.advance
  rw [h, hi]
  cases t.live <;> rfl

theorem Thread.advance_inside_keeps (t : Thread) {i : Instr} (h : i.sbit = false) (hi : i.isHint = false) :
    (t.advance i).regs = t.regs ∧ (t.advance i).preds = t.preds ∧ (t.advance i).iflags = t.iflags ∧
      (t.advance i).fpflags = t.fpflags := by
  rw [t.advance_inside h hi]
  split <;> exact ⟨rfl, rfl, rfl, rfl⟩

/-- A thread that has changed within bounds and goes on inside its run. -/
theorem Thread.Changes.advance {W : List Nat} {fi ff : Bool} {x y : Thread} {i : Instr}
    (k : Thread.Changes W fi ff x y) (h : i.sbit = false) (hi : i.isHint = false) : let z := y.advance i
    (x.live = true → z.pc = x.pc + 4 ∧ z.pos = x.pos + 1 ∧ z.hints = x.hints.consume) ∧ z.live = x.live ∧
      z.fpctl = x.fpctl ∧ z.tstat = x.tstat ∧ z.frec = x.frec ∧ z.ctr = x.ctr ∧ z.cycHi = x.cycHi ∧ z.ssel = x.ssel ∧
      z.mode = x.mode ∧ z.csp = x.csp ∧ z.park = x.park ∧ z.after = x.after := by
  obtain ⟨_, _, _, _, _, _, e⟩ := k.rest
  have hl : y.live = x.live := by rw [e]; rfl
  intro z
  have hz : z = _ := y.advance_inside h hi
  rw [hz, hl]
  cases hx : x.live
  · rw [if_neg Bool.false_ne_true, e]
    exact ⟨fun h => absurd h Bool.false_ne_true, hx, rfl, rfl, rfl, rfl, rfl, rfl, rfl, rfl, rfl, rfl⟩
  · rw [if_pos rfl, e]
    exact ⟨fun _ => ⟨rfl, rfl, rfl⟩, hx, rfl, rfl, rfl, rfl, rfl, rfl, rfl, rfl, rfl, rfl⟩

theorem State.forget_eq (s : State) (us : List Nat) :
    ∃ l, s.forget us = { s with fabric := { s.fabric with reads := l } } := by
  unfold State.forget
  split
  · exact ⟨_, rfl⟩
  · exact ⟨_, rfl⟩

theorem State.opened_eq (s : State) (i : Instr) (g : Group) (ts : List Thread) :
    ∃ l, s.opened i g ts = { s with ras := l } := by
  unfold State.opened State.rasAdd
  split
  · exact ⟨_, rfl⟩
  · exact ⟨_, rfl⟩

/-- What an issue leaves whose effect changed the threads `k` alone. -/
theorem State.issued_frame {i : Instr} {s r : State} {g : Group} {ts : List Thread} {k : List Thread}
    (hr : r = { s.opened i g ts with threads := k }) (hc : hintClasses ts = [ts])
    (hh : (ts.headD default).hints.hsch = none) :
    let q := State.issued i g ts r []
    { q with threads := s.threads, groups := s.groups, ras := s.ras, fabric := s.fabric } = s ∧
    { q.fabric with reads := s.fabric.reads } = s.fabric ∧ (∀ n, n ≠ g.gid → q.group n = s.group n) ∧
    (∀ u, u ∉ ts.map (·.uid) → q.thread u = r.thread u) ∧
    ∀ u ∈ ts.map (·.uid), r.threads.any (·.uid == u) = true → q.thread u = (r.thread u).advance i := by
  intro q
  obtain ⟨f, us, hf, hq⟩ := State.issued_quiet (i := i) (g := g) r hc hh
  obtain ⟨l, hl⟩ := State.forget_eq ((r.setThreads (ts.map (·.uid)) fun t => t.advance i).setGroup g.gid f) us
  obtain ⟨ras, ho⟩ := s.opened_eq i g ts
  have hth : ∀ u, q.thread u = (r.setThreads (ts.map (·.uid)) fun t => t.advance i).thread u := fun u => by
    show (State.issued i g ts r []).thread u = _
    rw [hq, hl]
    rfl
  have hq' : q = { (r.setThreads (ts.map (·.uid)) fun t => t.advance i).setGroup g.gid f with
      fabric := { r.fabric with reads := l } } := hq.trans hl
  refine ⟨?_, ?_, fun n hn => ?_, fun u hu => ?_, fun u hu ha => ?_⟩
  · rw [hq', hr, ho]
    rfl
  · rw [hq', hr, ho]
  · rw [hq', hr, ho]
    unfold State.group State.setGroup State.setThreads
    rw [find?_update Group.gid g.gid n f s.groups fun x hx => (hf x).trans hx]
    simp [hn]
  · rw [hth, r.thread_setThreads_other (fun t => t.advance_uid i) hu]
  · rw [hth, r.thread_setThreads (fun t => t.advance_uid i) ha]
    simp [hu]

theorem not_hint_of_computing {i : Instr} (h : i.integer = true ∨ i.floating = true) : i.isHint = false := by
  rcases h with h | h <;> cases i <;> cases h <;> rfl

theorem Thread.lastRelease_preds (l : List Nat) (t : Thread) : (t.lastRelease l).preds = t.preds := by
  induction l generalizing t with
  | nil => rfl
  | cons n l ih => exact (ih (t.release n)).trans (t.release_preds n)

/-- What an instruction that computes makes of a thread, once LAST has acted. -/
theorem ComputesWithin.release {i : Instr} {w : Cx → Thread → Thread → Thread}
    (hw : ∀ cx t x m, Thread.Changes (i.writes m) i.integerFlags i.floating x (w cx t x)) (cx : Cx) (t x : Thread)
    (m : BitVec 23) : Thread.Changes (i.writes m ++ i.lastRegs m) i.integerFlags i.floating x
      (w cx t (x.lastRelease (i.lastRegs m))) ∧
    ∀ n, 0x80 + n ∉ i.writes m → (w cx t (x.lastRelease (i.lastRegs m))).p n = x.p n := by
  have h1 := hw cx t (x.lastRelease (i.lastRegs m)) m
  have h0 : Thread.Changes (i.lastRegs m) i.integerFlags i.floating x (x.lastRelease (i.lastRegs m)) := .lastRelease _ x
  refine ⟨(h0.mono (fun n hn => List.mem_append_right _ hn) id id).trans
    (h1.mono (fun n hn => List.mem_append_left _ hn) id id), fun n hn => (h1.p n hn).trans ?_⟩
  unfold Thread.p
  rw [Thread.lastRelease_preds]

/-- Settles O56: each instruction that computes is an operation on the registers of the acting threads, which changes no
more than it writes. -/
theorem computingFrame : Obligations.ComputingFrame := by
  unfold Obligations.ComputingFrame
  intro i s g ts hcomp hsbit hsound hi hh
  obtain ⟨w, hexec, hw⟩ := computesWithin_of_computing hcomp
  obtain ⟨hissuing, hc, -, -, -⟩ := State.issues_iff.mp hi
  obtain ⟨nd, hts⟩ := State.issuing_sound hsound hissuing
  have hwu : ∀ t x : Thread, (w (g.context i ts) t (x.lastRelease (g.context i ts).last)).uid = x.uid := fun t x => by
    obtain ⟨_, _, _, _, _, _, e⟩ := (ComputesWithin.release hw (g.context i ts) t x (g.context i ts).m).1.rest
    rw [show (g.context i ts).last = i.lastRegs (g.context i ts).m from rfl, e]
  obtain ⟨⟨k, hk⟩, huids, hother, hsame⟩ := State.foldl_setThread
    (fun t x => w (g.context i ts) t (x.lastRelease (g.context i ts).last)) hwu (acting i ts) (s.opened i g ts)
  have hsub : ∀ t ∈ acting i ts, t ∈ ts := fun t ht => (List.mem_filter.mp ht).1
  have hnd : ((acting i ts).map (·.uid)).Nodup := nd.sublist (List.filter_sublist.map _)
  have hopen : ∀ u, (s.opened i g ts).thread u = s.thread u := fun u => by
    unfold State.thread
    rw [State.opened_threads]
  have hany : ∀ t ∈ ts, (s.opened i g ts).threads.any (·.uid == t.uid) = true := fun t ht => by
    rw [State.opened_threads]
    exact (hts t ht).2
  obtain ⟨hrest, hfabric, hgroup, hout, hin⟩ := State.issued_frame hk hc hh
  refine ⟨_, (hexec s).trans (word_alu hi), hrest, hfabric, hgroup, fun u hu => ?_, fun t ht => ?_⟩
  · have hu' : ∀ l : List Thread, (∀ t ∈ l, t ∈ ts) → u ∉ l.map (·.uid) := fun l hl h => by
      obtain ⟨t, ht, e⟩ := List.mem_map.mp h
      exact hu t (hl t ht) e
    rw [hout u (hu' ts fun _ h => h), hother u (hu' _ hsub), hopen]
  · have hxany := any_uid_of_map_eq huids (by
      obtain ⟨z, hz, hzu⟩ := List.any_eq_true.mp (hany t ht)
      exact ⟨z, hz, by simpa using hzu⟩)
    have hbefore : ∃ y, (List.foldl (fun s t => s.setThread t.uid fun x =>
          w (g.context i ts) t (x.lastRelease (g.context i ts).last)) (s.opened i g ts) (acting i ts)).thread t.uid
            = y ∧
        (t.guard i = .off → y = t) ∧ Thread.Changes (i.writes (g.context i ts).m ++ i.lastRegs (g.context i ts).m)
          i.integerFlags i.floating t y ∧ ∀ n, 0x80 + n ∉ i.writes (g.context i ts).m → y.p n = t.p n := by
      by_cases ha : t ∈ acting i ts
      · refine ⟨_, hsame hnd (fun x hx => hany x (hsub x hx)) t ha, fun hoff => ?_, ?_⟩
        · have := (List.mem_filter.mp ha).2
          simp [hoff] at this
        · rw [hopen, (hts t ht).1]
          exact ComputesWithin.release hw _ t t _
      · refine ⟨t, ?_, fun _ => rfl, .refl t, fun _ _ => rfl⟩
        rw [hother, hopen, (hts t ht).1]
        intro hm
        obtain ⟨y, hy, e⟩ := List.mem_map.mp hm
        have hyt : y = t := (hts y (hsub y hy)).1.symm.trans ((congrArg s.thread e).trans (hts t ht).1)
        exact ha (hyt ▸ hy)
    obtain ⟨y, hy, hoff, hch, hp⟩ := hbefore
    rw [hin t.uid (List.mem_map_of_mem ht) hxany, hy]
    obtain ⟨hpc, hlive, h1, h2, h3, h4, h5, h6, h7, h8, h9, h10⟩ := hch.advance hsbit (not_hint_of_computing hcomp)
    obtain ⟨hregs, hpreds, hif, hff⟩ := y.advance_inside_keeps hsbit (not_hint_of_computing hcomp)
    have hg : ∀ n, (y.advance i).g n = y.g n := fun n => by
      unfold Thread.g
      rw [hregs]
    refine ⟨hpc, hlive, h1, h2, h3, h4, h5, h6, h7, h8, h9, h10, fun h => ?_, fun n hn hl => ?_, fun n _ hn => ?_, ?_,
      ?_, fun h => ?_, fun h => ?_⟩
    · rw [hregs, hpreds, hif, hff, hoff h]
      exact ⟨rfl, rfl, rfl, rfl⟩
    · rw [hg, hch.g n fun h => (List.mem_append.mp h).elim hn hl]
    · rw [← hp n hn]
      unfold Thread.p
      rw [hpreds]
    · rw [hif, hch.iflags]
    · rw [hff, hch.fpflags]
    · rw [hif, hch.iflagsOff h]
    · rw [hff, hch.fpflagsOff h]

end Sys2Proof.Machine
end

section
/-! PROOFS. LDS and STS: the bytes of the scratchpads that they reach (R147 to R150, R153). O59. -/

namespace Sys2Proof.Machine

/-! ### The check of LDS and STS gives a place in the thread's scratchpad -/

/-- An address of the scratchpad window (R33, R147). -/
def scratchEa (x : Word) : DWord := 0xF100000000000000 + x.setWidth 64

theorem scratchEa_toNat (x : Word) : (scratchEa x).toNat = 0xF100000000000000 + x.toNat := by
  have := x.isLt
  show (17365880163140632576#64 + x.setWidth 64).toNat = _
  simp only [BitVec.toNat_add, BitVec.toNat_setWidth, BitVec.toNat_ofNat]
  omega

theorem scratchEa_top (x : Word) : ((scratchEa x).extractLsb' 56 8).toNat = 0xF1 := by
  have := x.isLt
  rw [BitVec.extractLsb'_toNat, scratchEa_toNat, Nat.shiftRight_eq_div_pow]
  omega

theorem scratchEa_window (x : Word) : (scratchEa x).extractLsb' 57 7 ≠ 0 := by
  intro h
  have h' := congrArg BitVec.toNat h
  have := x.isLt
  rw [BitVec.extractLsb'_toNat, scratchEa_toNat, Nat.shiftRight_eq_div_pow] at h'
  change _ = 0 at h'
  omega

theorem State.window_scratch {s : State} {t : Thread} {x : Word} {w : Window}
    (h : s.window t (scratchEa x) = .ok w) : ∃ k, w = .scratch t.team k := by
  unfold State.window at h
  dsimp only at h
  rw [if_neg (scratchEa_window x), scratchEa_top, if_neg (by decide), if_pos rfl] at h
  split at h
  · cases h
  · split at h
    · cases h
    · exact ⟨_, (Except.ok.inj h).symm⟩

theorem State.check_scratch {s : State} {t : Thread} {x : Word} {n : Nat} {k : Access} {a : Acc}
    (h : s.check t (scratchEa x) n k = .ok a) : ∃ o, a = ⟨.scratch t.team o, false, false, 0, none⟩ := by
  unfold State.check at h
  dsimp only at h
  split at h
  · cases h
  · rename_i w hw
    obtain ⟨o, rfl⟩ := State.window_scratch hw
    split at h
    · cases h
    · exact ⟨o, (Except.ok.inj h).symm⟩

theorem State.checkAt_ok {s : State} {t : Thread} {ea : DWord} {n : Nat} {k : Access} {c : Chk}
    (h : s.checkAt t ea n k = .ok c) : ∃ a, s.check t ea n k = .ok a ∧ c = ⟨ea, a⟩ := by
  unfold State.checkAt at h
  split at h
  · rename_i a ha
    exact ⟨a, ha, (Except.ok.inj h).symm⟩
  · cases h

/-- A check of LDS or STS that passes gives a word of the scratchpad of the thread's team. -/
theorem checkScratch_ok {cx : Cx} {s : State} {t : Thread} {b : Nat} {o : BitVec 9} {c : Chk}
    (h : checkScratch cx s t b o = .ok c) : ∃ ea k, c = ⟨ea, ⟨.scratch t.team k, false, false, 0, none⟩⟩ := by
  unfold checkScratch at h
  dsimp only at h
  split at h
  · cases h
  · obtain ⟨a, ha, rfl⟩ := State.checkAt_ok h
    obtain ⟨k, rfl⟩ := State.check_scratch (x := BitVec.ofInt 32 (scratchOff cx t b o)) ha
    exact ⟨_, k, rfl⟩

/-! ### What LAST's release leaves of the machine -/

theorem State.lastRelease_eq (s : State) (cx : Cx) (u : Nat) : ∃ k, s.lastRelease cx u = { s with threads := k } := by
  unfold State.lastRelease
  split
  · exact ⟨_, rfl⟩
  · exact ⟨_, rfl⟩

theorem Thread.lastRelease_eq (l : List Nat) (t : Thread) :
    ∃ r z, t.lastRelease l = { t with regs := r, poison := z } := by
  induction l generalizing t with
  | nil => exact ⟨_, _, rfl⟩
  | cons n l ih =>
    obtain ⟨r, z, e⟩ := ih (t.release n)
    show ∃ r z, (t.release n).lastRelease l = _
    rw [e]
    unfold Thread.release
    split
    · exact ⟨_, _, rfl⟩
    · exact ⟨_, _, rfl⟩

theorem Thread.lastRelease_uid (l : List Nat) (t : Thread) : (t.lastRelease l).uid = t.uid := by
  obtain ⟨r, z, e⟩ := t.lastRelease_eq l
  rw [e]

theorem State.uids_lastRelease (s : State) (cx : Cx) (u : Nat) :
    (s.lastRelease cx u).threads.map (·.uid) = s.threads.map (·.uid) := by
  unfold State.lastRelease
  split
  · rfl
  · exact s.uids_setThread fun t => t.lastRelease_uid _

theorem State.thread_lastRelease_other (s : State) (cx : Cx) {u v : Nat} (h : v ≠ u) :
    (s.lastRelease cx u).thread v = s.thread v := by
  unfold State.lastRelease
  split
  · rfl
  · exact s.thread_setThread_other (fun t ht => (t.lastRelease_uid _).trans ht) h

/-- A thread after a change of one: it is as it was, or it is the one that changed. -/
theorem State.thread_setThread_cases (s : State) {u : Nat} {f : Thread → Thread} (hf : ∀ t, t.uid = u → (f t).uid = u)
    (v : Nat) : (s.setThread u f).thread v = s.thread v ∨ (s.setThread u f).thread v = f (s.thread v) := by
  by_cases hv : v = u
  · subst hv
    by_cases ha : s.threads.any (·.uid == v) = true
    · exact .inr (s.thread_setThread_same hf ha)
    · refine .inl ?_
      have hn : s.threads.find? (·.uid == v) = none := by
        rw [List.find?_eq_none]
        intro t ht e
        exact ha (List.any_eq_true.mpr ⟨t, ht, e⟩)
      unfold State.thread State.setThread
      rw [find?_update Thread.uid v v f s.threads hf, hn]
      rfl
  · exact .inl (s.thread_setThread_other hf hv)

/-- A change that keeps a register of the thread that changes keeps it in every thread. -/
theorem State.g_setThread (s : State) {u n : Nat} {f : Thread → Thread} (hf : ∀ t, (f t).uid = t.uid)
    (hg : ∀ t, (f t).g n = t.g n) (v : Nat) : ((s.setThread u f).thread v).g n = (s.thread v).g n := by
  rcases s.thread_setThread_cases (fun t ht => (hf t).trans ht) v with e | e
  · rw [e]
  · rw [e, hg]

/-- A register that LAST does not name keeps its value in every thread. -/
theorem State.g_lastRelease (s : State) (cx : Cx) (u v : Nat) {n : Nat} (h : n ∉ cx.last) :
    ((s.lastRelease cx u).thread v).g n = (s.thread v).g n := by
  unfold State.lastRelease
  split
  · rfl
  · exact s.g_setThread (fun t => t.lastRelease_uid _)
      (fun t => (Thread.Changes.lastRelease (fi := false) (ff := false) _ t).g n h) v

theorem State.g_pendResult (s : State) (cx : Cx) (u v : Nat) (cls : CClass) (ds : List (Dest × Word))
    (upd : Pending → Pending) (n : Nat) : ((s.pendResult cx u cls ds upd).thread v).g n = (s.thread v).g n :=
  s.g_setThread (f := fun t => t.addPend (upd (cx.pending t t.nextPend cls ds))) (fun _ => rfl) (fun _ => rfl) v

theorem State.uids_pendResult (s : State) (cx : Cx) (u : Nat) (cls : CClass) (ds : List (Dest × Word))
    (upd : Pending → Pending) : (s.pendResult cx u cls ds upd).threads.map (·.uid) = s.threads.map (·.uid) :=
  s.uids_setThread (f := fun t => t.addPend (upd (cx.pending t t.nextPend cls ds))) fun _ => rfl

/-! ### A store to a scratchpad (R150) -/

/-- A team whose scratchpad has taken some bytes. -/
def Team.stored (m : Team) (o : Nat) (bs : List Byte) : Team :=
  { m with
    scratch := m.scratch.putAll (numbered o bs)
    scratchPoison := m.scratchPoison.filter fun g => !(wholeGranules (numbered o bs)).contains g }

theorem State.team_scratchStore (s : State) (u o : Nat) (bs : List Byte) (v : Nat) :
    (s.scratchStore u o bs).team v =
      ((s.teams.find? (·.uid == v)).map fun m => if v = u then m.stored o bs else m).getD default := by
  rw [← find?_update Team.uid u v (Team.stored · o bs) s.teams fun _ h => h]
  rfl

theorem Team.scratchByte_eq {m r : Team} {q : Nat} (hu : r.uid = m.uid) (h : r.scratch.get? q = m.scratch.get? q) :
    r.scratchByte q = m.scratchByte q := by
  unfold Team.scratchByte
  rw [hu, h]

theorem numbered_addr {o : Nat} {bs : List Byte} {c : Nat × Byte} (h : c ∈ numbered o bs) :
    o ≤ c.1 ∧ c.1 < o + bs.length := by
  obtain ⟨⟨b, k⟩, hk, rfl⟩ := List.mem_map.mp h
  have := List.mem_zipIdx hk
  dsimp only at this ⊢
  omega

/-- A byte outside the range that is stored reads as before. -/
theorem State.scratchByte_scratchStore_other (s : State) (u o : Nat) (bs : List Byte) {v q : Nat}
    (h : v ≠ u ∨ q < o ∨ o + bs.length ≤ q) :
    ((s.scratchStore u o bs).team v).scratchByte q = (s.team v).scratchByte q := by
  rw [State.team_scratchStore]
  unfold State.team
  cases s.teams.find? (·.uid == v) with
  | none => rfl
  | some m =>
    rw [Option.map_some, Option.getD_some, Option.getD_some]
    split
    · refine Team.scratchByte_eq rfl (Cells.get?_putAll_other _ _ fun c hc hq => ?_)
      have := numbered_addr hc
      omega
    · rfl

/-- The bytes of a list that is put at an address, each at its own. -/
theorem Cells.get?_putAll_numbered (m : Cells) (o : Nat) (bs : List Byte) {k : Nat} (hk : k < bs.length) :
    (m.putAll (numbered o bs)).get? (o + k) = some (bs.getD k 0) := by
  induction bs using List.reverseRecOn generalizing k with
  | nil => exact absurd hk (Nat.not_lt_zero k)
  | append_singleton bs b ih =>
    have hn : numbered o (bs ++ [b]) = numbered o bs ++ [(o + bs.length, b)] := by
      simp [numbered, List.zipIdx_append]
    rw [hn]
    unfold Cells.putAll at ih ⊢
    rw [List.foldl_append, List.foldl_cons, List.foldl_nil]
    by_cases h : k = bs.length
    · subst h
      rw [Cells.get?_put_same]
      simp
    · have hk' : k < bs.length := by
        rw [List.length_append, List.length_singleton] at hk
        omega
      rw [Cells.get?_put_other _ _ (by omega), ih hk']
      simp [List.getD, List.getElem?_append_left hk']

/-- A byte that is stored reads back. -/
theorem State.scratchByte_scratchStore_same (s : State) {u : Nat} (o : Nat) (bs : List Byte)
    (hu : ∃ x ∈ s.teams, x.uid = u) {k : Nat} (hk : k < bs.length) :
    ((s.scratchStore u o bs).team u).scratchByte (o + k) = bs.getD k 0 := by
  have hfound : ∃ m, s.teams.find? (·.uid == u) = some m := by
    obtain ⟨x, hx, hxu⟩ := hu
    exact Option.isSome_iff_exists.mp (List.find?_isSome.mpr ⟨x, hx, by simpa using hxu⟩)
  obtain ⟨m, hm⟩ := hfound
  rw [State.team_scratchStore, hm, Option.map_some, if_pos rfl, Option.getD_some]
  unfold Team.scratchByte Team.stored
  rw [Cells.get?_putAll_numbered _ _ _ hk]
  rfl

theorem State.scratchStore_teamUids (s : State) (u o : Nat) (bs : List Byte) :
    (s.scratchStore u o bs).teams.map (·.uid) = s.teams.map (·.uid) := by
  show (s.teams.map fun m => if m.uid = u then m.stored o bs else m).map (·.uid) = _
  rw [List.map_map]
  refine List.map_congr_left fun m _ => ?_
  dsimp only [Function.comp]
  split <;> rfl

theorem State.g_scratchStore (s : State) (u o : Nat) (bs : List Byte) (v n : Nat) :
    ((s.scratchStore u o bs).thread v).g n = (s.thread v).g n := by
  obtain ⟨p, e⟩ := (s.storeOnly_scratchStore u o bs).thread v
  rw [e]
  rfl

/-! ### STS -/

/-- The word that STS stores, byte by byte. -/
theorem leBytes_word_getD (x : Word) {n : Nat} (h : n < 4) : (leBytes 4 x.toNat).getD n 0 =
    x.extractLsb' (8 * n) 8 := by
  have := x.isLt
  apply BitVec.eq_of_toNat_eq
  rw [BitVec.extractLsb'_toNat, Nat.shiftRight_eq_div_pow]
  rcases n with _ | _ | _ | _ | n
  · simp [leBytes]
  · simp [leBytes]
  · simp [leBytes, Nat.div_div_eq_div_mul]
  · simp [leBytes, Nat.div_div_eq_div_mul]
  · omega

/-! ### Registers of a thread that goes on -/

theorem Thread.g_rfe (t : Thread) (c : FrameCtx) (skip : Bool) {n : Nat} (h : n < 120) :
    (t.rfe c skip).g n = t.g n := by
  unfold Thread.rfe
  dsimp only
  split
  · exact (Thread.g_putK _ _ h).trans (Thread.g_newRun _ _ h)
  · split
    · exact Thread.g_newRun _ _ h
    · split
      · exact Thread.g_putKBad _ _ t.resume.kbad h
      · exact Thread.g_putKBad _ _ t.resume.kbad h

theorem Thread.g_runOver (t : Thread) {n : Nat} (h : n < 120) : t.runOver.g n = t.g n := by
  unfold Thread.runOver
  split
  · exact t.g_newRun _ h
  · exact t.g_newRun _ h
  · exact t.g_rfe _ _ h

/-- A thread that goes on keeps every g register but those of k. -/
theorem Thread.g_advance (t : Thread) (i : Instr) {n : Nat} (h : n < 120) : (t.advance i).g n = t.g n := by
  unfold Thread.advance
  split
  · rfl
  · dsimp only
    split
    · rw [Thread.g_runOver _ h]
      split <;> rfl
    · split <;> rfl

theorem State.thread_setThreads_cases (s : State) (us : List Nat) {f : Thread → Thread} (hf : ∀ t, (f t).uid = t.uid)
    (v : Nat) : (s.setThreads us f).thread v = s.thread v ∨ (s.setThreads us f).thread v = f (s.thread v) := by
  unfold State.thread State.setThreads
  rw [find?_map_key Thread.uid v _ s.threads fun t => by split <;> simp [hf]]
  cases s.threads.find? (·.uid == v) with
  | none => exact .inl rfl
  | some t =>
    by_cases h : us.contains t.uid = true
    · exact .inr (if_pos h)
    · exact .inl (if_neg h)

/-- What the end of an issue without a fault leaves of what the effect has made. -/
theorem State.issued_keeps {i : Instr} {g : Group} {ts : List Thread} (r : State) (hc : hintClasses ts = [ts])
    (hh : (ts.headD default).hints.hsch = none) : let q := State.issued i g ts r []
    q.mem = r.mem ∧ q.cores = r.cores ∧ q.slices = r.slices ∧ q.teams = r.teams ∧
      ∀ u n, n < 120 → (q.thread u).g n = (r.thread u).g n := by
  intro q
  obtain ⟨f, us, -, hq⟩ := State.issued_quiet (i := i) (g := g) r hc hh
  obtain ⟨l, hl⟩ := State.forget_eq ((r.setThreads (ts.map (·.uid)) fun t => t.advance i).setGroup g.gid f) us
  have hq' : q = _ := hq.trans hl
  refine ⟨by rw [hq']; rfl, by rw [hq']; rfl, by rw [hq']; rfl, by rw [hq']; rfl, fun u n hn => ?_⟩
  have hth : q.thread u = (r.setThreads (ts.map (·.uid)) fun t => t.advance i).thread u := by
    rw [hq']
    rfl
  rw [hth]
  rcases r.thread_setThreads_cases (ts.map (·.uid)) (fun t => t.advance_uid i) u with e | e
  · rw [e]
  · rw [e, Thread.g_advance _ i hn]

/-! ### The steps of STS in turn -/

section
variable (cx : Cx) (s0 : State) (v b : Nat) (o : BitVec 9)

/-- What STS does for one thread, whose check is made in the state `s0`. -/
def stsStep (x : State) (t : Thread) : State :=
  match checkScratch cx s0 t b o with
  | .ok c => storeEff (fun _ t => leBytes 4 (t.g v).toNat) (fun _ => 0) cx t c (x.lastRelease cx t.uid)
  | .error _ => x.lastRelease cx t.uid

variable {cx s0 v b o}

theorem stsStep_ok {t : Thread} {ea : DWord} {u k : Nat}
    (h : checkScratch cx s0 t b o = .ok ⟨ea, ⟨.scratch u k, false, false, 0, none⟩⟩) (x : State) :
    stsStep cx s0 v b o x t =
      ((x.lastRelease cx t.uid).scratchStore u k (leBytes 4 (t.g v).toNat)).pendResult cx t.uid .st
      [] id := by
  dsimp only [stsStep]
  rw [h]
  rfl

theorem stsStep_error {t : Thread} {f : FaultInfo} (h : checkScratch cx s0 t b o = .error f) (x : State) :
    stsStep cx s0 v b o x t = x.lastRelease cx t.uid := by
  dsimp only [stsStep]
  rw [h]

theorem stsStep_cases (x : State) (t : Thread) : stsStep cx s0 v b o x t = x.lastRelease cx t.uid ∨
    ∃ ea k, checkScratch cx s0 t b o = .ok ⟨ea, ⟨.scratch t.team k, false, false, 0, none⟩⟩ ∧ stsStep cx s0 v b o x t =
      ((x.lastRelease cx t.uid).scratchStore t.team k (leBytes 4 (t.g v).toNat)).pendResult cx t.uid .st [] id := by
  cases h : checkScratch cx s0 t b o with
  | error f => exact .inl (stsStep_error h x)
  | ok c =>
    obtain ⟨ea, k, rfl⟩ := checkScratch_ok h
    exact .inr ⟨ea, k, rfl, stsStep_ok h x⟩

theorem stsStep_eq (x : State) (t : Thread) : ∃ m k, stsStep cx s0 v b o x t = { x with teams := m, threads := k } := by
  obtain ⟨k, e⟩ := x.lastRelease_eq cx t.uid
  rcases stsStep_cases (v := v) x t with h | ⟨ea, p, -, h⟩
  · exact ⟨_, k, h.trans e⟩
  · rw [h, e]
    exact ⟨_, _, rfl⟩

theorem stsStep_teams (x : State) (t : Thread) :
    (stsStep cx s0 v b o x t).teams.map (·.uid) = x.teams.map (·.uid) := by
  obtain ⟨k, e⟩ := x.lastRelease_eq cx t.uid
  rcases stsStep_cases (v := v) x t with h | ⟨ea, p, -, h⟩
  · rw [h, e]
  · rw [h, e]
    exact State.scratchStore_teamUids _ _ _ _

theorem g_stsStep (x : State) (t : Thread) (u : Nat) {n : Nat} (hn : n ∉ cx.last) :
    ((stsStep cx s0 v b o x t).thread u).g n = (x.thread u).g n := by
  rcases stsStep_cases (v := v) x t with h | ⟨ea, p, -, h⟩
  · rw [h, x.g_lastRelease cx _ u hn]
  · rw [h, State.g_pendResult, State.g_scratchStore, x.g_lastRelease cx _ u hn]

/-- A byte of a scratchpad that the thread's check does not give reads as before. -/
theorem scratchByte_stsStep_other (x : State) {t : Thread} {u q : Nat} (h : ∀ c k, checkScratch cx s0 t b o = .ok c →
    c.acc.place = .scratch u k → q < k ∨ k + 4 ≤ q) :
    ((stsStep cx s0 v b o x t).team u).scratchByte q = (x.team u).scratchByte q := by
  obtain ⟨l, e⟩ := x.lastRelease_eq cx t.uid
  rcases stsStep_cases (v := v) x t with hs | ⟨ea, p, hc, hs⟩
  · rw [hs, e]
    rfl
  · have ht : ((x.lastRelease cx t.uid).team u) = x.team u := by
      rw [e]
      rfl
    rw [hs, ← ht]
    refine State.scratchByte_scratchStore_other _ _ _ _ ?_
    by_cases hu : u = t.team
    · subst hu
      exact .inr (h _ p hc rfl)
    · exact .inl hu

/-- A byte of the word that the thread's check gives reads the register's. -/
theorem scratchByte_stsStep_same {x : State} {t : Thread} {u k n : Nat} {c : Chk}
    (hc : checkScratch cx s0 t b o = .ok c)
    (hp : c.acc.place = .scratch u k) (hn : n < 4) (hu : ∃ m ∈ x.teams, m.uid = u) :
    ((stsStep cx s0 v b o x t).team u).scratchByte (k + n) = (t.g v).extractLsb' (8 * n) 8 := by
  obtain ⟨ea, k', rfl⟩ := checkScratch_ok hc
  obtain ⟨rfl, rfl⟩ := Place.scratch.inj hp
  obtain ⟨l, e⟩ := x.lastRelease_eq cx t.uid
  rw [stsStep_ok hc, ← leBytes_word_getD _ hn]
  exact State.scratchByte_scratchStore_same _ _ _ (by rw [e]; exact hu) hn

theorem stsSteps_eq (l : List Thread) (x : State) :
    ∃ m k, l.foldl (stsStep cx s0 v b o) x = { x with teams := m, threads := k } := by
  induction l generalizing x with
  | nil => exact ⟨_, _, rfl⟩
  | cons t l ih =>
    obtain ⟨m, k, e⟩ := stsStep_eq (cx := cx) (s0 := s0) (v := v) (b := b) (o := o) x t
    rw [List.foldl_cons, e]
    exact ih _

theorem stsSteps_teams (l : List Thread) (x : State) :
    (l.foldl (stsStep cx s0 v b o) x).teams.map (·.uid) = x.teams.map (·.uid) := by
  induction l generalizing x with
  | nil => rfl
  | cons t l ih => exact (ih _).trans (stsStep_teams x t)

theorem g_stsSteps (l : List Thread) (x : State) (u : Nat) {n : Nat} (hn : n ∉ cx.last) :
    ((l.foldl (stsStep cx s0 v b o) x).thread u).g n = (x.thread u).g n := by
  induction l generalizing x with
  | nil => rfl
  | cons t l ih => exact (ih _).trans (g_stsStep x t u hn)

theorem scratchByte_stsSteps_other {l : List Thread} (x : State) {u q : Nat} (h : ∀ t ∈ l, ∀ c k,
    checkScratch cx s0 t b o = .ok c → c.acc.place = .scratch u k → q < k ∨ k + 4 ≤ q) :
    ((l.foldl (stsStep cx s0 v b o) x).team u).scratchByte q = (x.team u).scratchByte q := by
  induction l generalizing x with
  | nil => rfl
  | cons t l ih =>
    rw [List.foldl_cons, ih _ fun y hy => h y (List.mem_cons_of_mem _ hy)]
    exact scratchByte_stsStep_other x (h t (List.mem_cons_self ..))

/-- The last thread in lane order to write a word has its own bytes there. -/
theorem scratchByte_stsSteps_last {l l' : List Thread} {t : Thread} (x : State) {u k n : Nat} {c : Chk}
    (hc : checkScratch cx s0 t b o = .ok c) (hp : c.acc.place = .scratch u k) (hn : n < 4)
    (hu : ∃ m ∈ x.teams, m.uid = u) (h : ∀ y ∈ l', ∀ c' k', checkScratch cx s0 y b o = .ok c' →
      c'.acc.place = .scratch u k' → k + n < k' ∨ k' + 4 ≤ k + n) :
    (((l ++ t :: l').foldl (stsStep cx s0 v b o) x).team u).scratchByte (k + n) =
      (t.g v).extractLsb' (8 * n) 8 := by
  rw [List.foldl_append, List.foldl_cons, scratchByte_stsSteps_other _ h]
  refine scratchByte_stsStep_same hc hp hn ?_
  obtain ⟨m, hm, rfl⟩ := hu
  obtain ⟨y, hy, e⟩ := List.mem_map.mp
    ((stsSteps_teams (cx := cx) (s0 := s0) (v := v) (b := b) (o := o) l x).symm ▸ List.mem_map_of_mem hm :
      m.uid ∈ (l.foldl (stsStep cx s0 v b o) x).teams.map (·.uid))
  exact ⟨y, hy, e⟩

end

/-! ### The steps of LDS in turn -/

section
variable (cx : Cx) (s0 : State) (v b : Nat) (o : BitVec 9)

/-- What LDS does for one thread, whose check is made in the state `s0`. -/
def ldsStep (x : State) (t : Thread) : State :=
  match checkScratch cx s0 t b o with
  | .ok c => loadEff (.word v) cx t c (x.lastRelease cx t.uid)
  | .error _ => x.lastRelease cx t.uid

variable {cx s0 v b o}

/-- The word that LDS reads for a thread, put in flight. -/
theorem loadEff_scratch (l : LoadTo) (t : Thread) (ea : DWord) (u k : Nat) (s : State) : ∃ r,
    loadEff l cx t ⟨ea, ⟨.scratch u k, false, false, 0, none⟩⟩ s =
      (s.pendResult cx t.uid .ld (l.dests (s.readPlace t.core (.scratch u k) l.size false)) fun p =>
        { p with fault :=
            if s.placePoisoned t.core (.scratch u k) l.size then some (memPoison ea) else none }).reissuable
          t.uid (s.thread t.uid).nextPend r := ⟨_, rfl⟩

/-- A result of a thread stays among its results when it is marked as one to issue again. -/
theorem State.mem_reissuable {s : State} {u : Nat} (id : Nat) (r : Reload) {p : Pending}
    (hs : s.threads.any (·.uid == u) = true) (hp : p ∈ (s.thread u).pend) :
    ∃ ρ, { p with reload := ρ } ∈ ((s.reissuable u id r).thread u).pend := by
  unfold State.reissuable
  rw [s.thread_setThread_same (f := fun t => { t with pend := t.pend.map fun p =>
    if p.id = id then { p with reload := some r } else p }) (fun _ h => h) hs]
  by_cases h : p.id = id
  · exact ⟨some r, List.mem_map.mpr ⟨p, hp, if_pos h⟩⟩
  · exact ⟨p.reload, List.mem_map.mpr ⟨p, hp, if_neg h⟩⟩

theorem loadEff_scratch_pend (l : LoadTo) {t : Thread} (ea : DWord) (u k : Nat) {s : State}
    (hs : s.threads.any (·.uid == t.uid) = true) :
    ∃ p ∈ ((loadEff l cx t ⟨ea, ⟨.scratch u k, false, false, 0, none⟩⟩ s).thread t.uid).pend, p.cls = .ld ∧
      p.kind = .ready ∧ p.fault = (if s.placePoisoned t.core (.scratch u k) l.size then some (memPoison ea) else none) ∧
      p.dests = l.dests (s.readPlace t.core (.scratch u k) l.size false) := by
  obtain ⟨r, e⟩ := loadEff_scratch (cx := cx) l t ea u k s
  rw [e]
  have hm := s.pendResult_mem cx .ld (l.dests (s.readPlace t.core (.scratch u k) l.size false)) (fun p =>
    { p with fault := if s.placePoisoned t.core (.scratch u k) l.size then some (memPoison ea) else none }) hs
  obtain ⟨z, hz, hzu⟩ := List.any_eq_true.mp hs
  obtain ⟨ρ, hρ⟩ := State.mem_reissuable (s.thread t.uid).nextPend r (any_uid_of_map_eq
    (s.uids_pendResult ..) ⟨z, hz, by simpa using hzu⟩) hm
  exact ⟨_, hρ, rfl, rfl, rfl, rfl⟩

theorem ldsStep_cases (x : State) (t : Thread) : ldsStep cx s0 v b o x t = x.lastRelease cx t.uid ∨
    ∃ f h : Thread → Thread, (∀ y, ∃ d, f y = { y with pend := d }) ∧ (∀ y, ∃ d, h y = { y with pend := d }) ∧
      ldsStep cx s0 v b o x t = ((x.lastRelease cx t.uid).setThread t.uid f).setThread t.uid h := by
  dsimp only [ldsStep]
  cases hc : checkScratch cx s0 t b o with
  | error f => exact .inl rfl
  | ok c =>
    obtain ⟨ea, k, rfl⟩ := checkScratch_ok hc
    obtain ⟨r, e⟩ := loadEff_scratch (cx := cx) (.word v) t ea t.team k (x.lastRelease cx t.uid)
    dsimp only
    rw [e]
    refine .inr ⟨_, _, fun y => ?_, fun y => ?_, rfl⟩
    · exact ⟨_, rfl⟩
    · exact ⟨_, rfl⟩

theorem uid_of_pend {f : Thread → Thread} (hf : ∀ y, ∃ d, f y = { y with pend := d }) (y : Thread) :
    (f y).uid = y.uid := by
  obtain ⟨d, e⟩ := hf y
  rw [e]

theorem g_of_pend {f : Thread → Thread} (hf : ∀ y, ∃ d, f y = { y with pend := d }) (n : Nat) (y : Thread) :
    (f y).g n = y.g n := by
  obtain ⟨d, e⟩ := hf y
  rw [e]
  rfl

theorem ldsStep_eq (x : State) (t : Thread) : ∃ k, ldsStep cx s0 v b o x t = { x with threads := k } := by
  obtain ⟨k, e⟩ := x.lastRelease_eq cx t.uid
  rcases ldsStep_cases (v := v) x t with h | ⟨f, g, -, -, h⟩
  · exact ⟨k, h.trans e⟩
  · rw [h, e]
    exact ⟨_, rfl⟩

theorem ldsStep_uids (x : State) (t : Thread) :
    (ldsStep cx s0 v b o x t).threads.map (·.uid) = x.threads.map (·.uid) := by
  rcases ldsStep_cases (v := v) x t with h | ⟨f, g, hf, hg, h⟩
  · rw [h, State.uids_lastRelease]
  · rw [h, State.uids_setThread _ (uid_of_pend hg), State.uids_setThread _ (uid_of_pend hf), State.uids_lastRelease]

theorem ldsStep_other (x : State) (t : Thread) (u : Nat) (hu : u ≠ t.uid) :
    (ldsStep cx s0 v b o x t).thread u = x.thread u := by
  rcases ldsStep_cases (v := v) x t with h | ⟨f, g, hf, hg, h⟩
  · rw [h, x.thread_lastRelease_other cx hu]
  · rw [h, State.thread_setThread_other _ (fun y hy => (uid_of_pend hg y).trans hy) hu,
      State.thread_setThread_other _ (fun y hy => (uid_of_pend hf y).trans hy) hu, x.thread_lastRelease_other cx hu]

theorem g_ldsStep (x : State) (t : Thread) (u : Nat) {n : Nat} (hn : n ∉ cx.last) :
    ((ldsStep cx s0 v b o x t).thread u).g n = (x.thread u).g n := by
  rcases ldsStep_cases (v := v) x t with h | ⟨f, g, hf, hg, h⟩
  · rw [h, x.g_lastRelease cx _ u hn]
  · rw [h, State.g_setThread _ (uid_of_pend hg) (g_of_pend hg n), State.g_setThread _ (uid_of_pend hf) (g_of_pend hf n),
      x.g_lastRelease cx _ u hn]

theorem g_ldsSteps (l : List Thread) (x : State) (u : Nat) {n : Nat} (hn : n ∉ cx.last) :
    ((l.foldl (ldsStep cx s0 v b o) x).thread u).g n = (x.thread u).g n := by
  induction l generalizing x with
  | nil => rfl
  | cons t l ih => exact (ih _).trans (g_ldsStep x t u hn)

/-- The result that LDS puts in flight is the word at the place that its check gives. -/
theorem ldsStep_thread {x : State} {t : Thread} {u k : Nat} {c : Chk} (hc : checkScratch cx s0 t b o = .ok c)
    (hp : c.acc.place = .scratch u k) (hx : x.threads.any (·.uid == t.uid) = true)
    (hpoison : x.placePoisoned t.core (.scratch u k) 4 = false) :
    ∃ p ∈ ((ldsStep cx s0 v b o x t).thread t.uid).pend, p.cls = .ld ∧ p.kind = .ready ∧ p.fault = none ∧
      p.dests = gDests v ((x.team u).scratchByte (k + 3) ++ (x.team u).scratchByte (k + 2) ++
        (x.team u).scratchByte (k + 1) ++ (x.team u).scratchByte k) := by
  obtain ⟨ea, k', rfl⟩ := checkScratch_ok hc
  obtain ⟨rfl, rfl⟩ := Place.scratch.inj hp
  obtain ⟨l, hl⟩ := x.lastRelease_eq cx t.uid
  have hy : (x.lastRelease cx t.uid).threads.any (·.uid == t.uid) = true := by
    obtain ⟨z, hz, hzu⟩ := List.any_eq_true.mp hx
    exact any_uid_of_map_eq (x.uids_lastRelease cx t.uid) ⟨z, hz, by simpa using hzu⟩
  have hstep : ldsStep cx s0 v b o x t = loadEff (.word v) cx t
      ⟨ea, ⟨.scratch t.team k', false, false, 0, none⟩⟩ (x.lastRelease cx t.uid) := by
    unfold ldsStep
    rw [hc]
  obtain ⟨p, hm, hcls, hkind, hfault, hdests⟩ := loadEff_scratch_pend (cx := cx) (.word v) ea t.team k' hy
  rw [hstep]
  refine ⟨p, hm, hcls, hkind, hfault.trans (if_neg ?_), hdests.trans ?_⟩
  · rw [hl]
    exact Bool.eq_false_iff.mp hpoison
  · rw [hl]
    show gDests v (BitVec.ofNat 32 (leNat _)) = _
    rw [← ofNat_leNat_word]
    rfl

/-! ### A result in flight of a thread that goes on -/

theorem Thread.pend_rfe (t : Thread) (c : FrameCtx) (skip : Bool) : (t.rfe c skip).pend = t.pend := by
  unfold Thread.rfe
  dsimp only
  split
  · rfl
  · split
    · rfl
    · split <;> rfl

theorem Thread.pend_advance (t : Thread) (i : Instr) : (t.advance i).pend = t.pend := by
  unfold Thread.advance
  split
  · rfl
  · dsimp only
    split
    · unfold Thread.runOver
      split
      · split <;> rfl
      · split <;> rfl
      · rw [Thread.pend_rfe]
        split <;> rfl
    · split <;> rfl

end

section
variable {i : Instr} {s : State} {g : Group} {ts : List Thread} (v b : Nat) (o : BitVec 9)

/-- What STS leaves: the bytes that its threads' checks give, and no other. -/
theorem sts_leaves (hc : hintClasses ts = [ts]) (hh : (ts.headD default).hints.hsch = none) :
    let cx := g.context i ts
    let r := State.issued i g ts ((acting i ts).foldl (stsStep cx (s.opened i g ts) v b o) (s.opened i g ts)) []
    r.mem = s.mem ∧ r.cores = s.cores ∧ r.slices = s.slices ∧
      (∀ u q, (∀ t ∈ acting i ts, ∀ c k, checkScratch cx (s.opened i g ts) t b o = .ok c →
        c.acc.place = .scratch u k → q < k ∨ k + 4 ≤ q) → (r.team u).scratchByte q = (s.team u).scratchByte q) ∧
      (∀ l t l' c u k n, acting i ts = l ++ t :: l' → checkScratch cx (s.opened i g ts) t b o = .ok c →
        c.acc.place = .scratch u k → n < 4 → (∃ x ∈ s.teams, x.uid = u) →
        (∀ y ∈ l', ∀ c' k', checkScratch cx (s.opened i g ts) y b o = .ok c' → c'.acc.place = .scratch u k' →
          k + n < k' ∨ k' + 4 ≤ k + n) →
        (r.team u).scratchByte (k + n) = (t.g v).extractLsb' (8 * n) 8) ∧
      ∀ u n, n < 120 → n ∉ cx.last → (r.thread u).g n = (s.thread u).g n := by
  intro cx r
  obtain ⟨hmem, hcores, hslices, hteams, hg⟩ := State.issued_keeps (i := i) (g := g)
    ((acting i ts).foldl (stsStep cx (s.opened i g ts) v b o) (s.opened i g ts)) hc hh
  obtain ⟨m, k, hk⟩ := stsSteps_eq (cx := cx) (s0 := s.opened i g ts) (v := v) (b := b) (o := o) (acting i ts)
    (s.opened i g ts)
  have hteam : ∀ u, r.team u = ((acting i ts).foldl (stsStep cx (s.opened i g ts) v b o) (s.opened i g ts)).team u :=
    fun u => by
      unfold State.team
      rw [hteams]
  have hopen : ∀ u, (s.opened i g ts).team u = s.team u := fun u => by
    unfold State.team
    rw [State.opened_teams]
  refine ⟨?_, ?_, ?_, fun u q hq => ?_, fun l t l' c u k' n hl hchk hp hn hu hlater => ?_, fun u n hn hnl => ?_⟩
  · rw [hmem, hk, State.opened_mem]
  · rw [hcores, hk, State.opened_cores]
  · rw [hslices, hk, State.opened_slices]
  · rw [hteam, scratchByte_stsSteps_other _ hq, hopen]
  · rw [hteam, hl]
    exact scratchByte_stsSteps_last _ hchk hp hn (by rwa [State.opened_teams]) hlater
  · rw [hg u n hn, g_stsSteps _ _ u hnl]
    unfold State.thread
    rw [State.opened_threads]

/-- What LDS leaves: the words that its threads' checks give in flight, and every byte as it was. -/
theorem lds_leaves (hc : hintClasses ts = [ts]) (hh : (ts.headD default).hints.hsch = none)
    (nd : (ts.map (·.uid)).Nodup) (hts : ∀ t ∈ ts, s.threads.any (·.uid == t.uid) = true) :
    let cx := g.context i ts
    let r := State.issued i g ts ((acting i ts).foldl (ldsStep cx (s.opened i g ts) v b o) (s.opened i g ts)) []
    { r with threads := s.threads, groups := s.groups, ras := s.ras, fabric := s.fabric } = s ∧
      { r.fabric with reads := s.fabric.reads } = s.fabric ∧
      (∀ t ∈ acting i ts, ∀ c u k, checkScratch cx (s.opened i g ts) t b o = .ok c → c.acc.place = .scratch u k →
        s.placePoisoned t.core (.scratch u k) 4 = false → ∃ p ∈ (r.thread t.uid).pend, p.cls = .ld ∧ p.kind = .ready ∧
          p.fault = none ∧ p.dests = gDests v ((s.team u).scratchByte (k + 3) ++ (s.team u).scratchByte (k + 2) ++
            (s.team u).scratchByte (k + 1) ++ (s.team u).scratchByte k)) ∧
      ∀ u n, n < 120 → n ∉ cx.last → (r.thread u).g n = (s.thread u).g n := by
  intro cx r
  obtain ⟨⟨k, hk⟩, huids, hother, hsame⟩ := State.foldl_steps (step := ldsStep cx (s.opened i g ts) v b o) ldsStep_eq
    ldsStep_uids ldsStep_other (acting i ts) (s.opened i g ts)
  obtain ⟨hrest, hfabric, -, -, hin⟩ := State.issued_frame hk hc hh
  obtain ⟨-, -, -, -, hg⟩ := State.issued_keeps (i := i) (g := g)
    ((acting i ts).foldl (ldsStep cx (s.opened i g ts) v b o) (s.opened i g ts)) hc hh
  have hsub : ∀ t ∈ acting i ts, t ∈ ts := fun t ht => (List.mem_filter.mp ht).1
  have hhas : ∀ t ∈ ts, ∃ z ∈ (s.opened i g ts).threads, z.uid = t.uid := fun t ht => by
    obtain ⟨z, hz, hzu⟩ := List.any_eq_true.mp (hts t ht)
    exact ⟨z, by rwa [State.opened_threads], by simpa using hzu⟩
  refine ⟨hrest, hfabric, fun t ht c u k' hchk hp hpoison => ?_, fun u n hn hnl => ?_⟩
  · obtain ⟨x, ⟨kx, hx⟩, hxu, -, hxr⟩ := hsame (nd.sublist (List.filter_sublist.map _)) t ht
    obtain ⟨ras, ho⟩ := s.opened_eq i g ts
    have hteam : ∀ u, x.team u = s.team u := fun u => by
      rw [hx, ho]
      rfl
    have hpois : x.placePoisoned t.core (.scratch u k') 4 = false := by
      rw [hx, ho]
      exact hpoison
    have h := ldsStep_thread (v := v) hchk hp (any_uid_of_map_eq hxu (hhas t (hsub t ht))) hpois
    rw [← hxr, hteam] at h
    rw [hin t.uid (List.mem_map_of_mem (hsub t ht)) (any_uid_of_map_eq huids (hhas t (hsub t ht))), Thread.pend_advance]
    exact h
  · rw [hg u n hn, g_ldsSteps _ _ u hnl]
    unfold State.thread
    rw [State.opened_threads]

end

theorem sts_accesses (s : State) (i : Instr) (g : Group) (ts : List Thread) (v b : Nat) (o : BitVec 9) :
    s.accesses i g ts (fun cx s t => checkScratch cx s t b o)
      (storeEff (fun _ t => leBytes 4 (t.g v).toNat) fun _ => 0) =
      .next (State.issued i g ts ((acting i ts).foldl (stsStep (g.context i ts) (s.opened i g ts) v b o)
        (s.opened i g ts)) []) := by
  refine congrArg (fun f => Host.Outcome.next (State.issued i g ts ((acting i ts).foldl f (s.opened i g ts)) []))
    (funext₂ fun x t => ?_)
  dsimp only [stsStep]
  cases checkScratch (g.context i ts) (s.opened i g ts) t b o <;> rfl

theorem lds_accesses (s : State) (i : Instr) (g : Group) (ts : List Thread) (v b : Nat) (o : BitVec 9) :
    s.accesses i g ts (fun cx s t => checkScratch cx s t b o) (loadEff (.word v)) =
      .next (State.issued i g ts ((acting i ts).foldl (ldsStep (g.context i ts) (s.opened i g ts) v b o)
        (s.opened i g ts)) []) := by
  refine congrArg (fun f => Host.Outcome.next (State.issued i g ts ((acting i ts).foldl f (s.opened i g ts)) []))
    (funext₂ fun x t => ?_)
  dsimp only [ldsStep]
  cases checkScratch (g.context i ts) (s.opened i g ts) t b o <;> rfl

/-- Settles O59: the steps of the acting threads in turn, each with its own word. -/
theorem scratchpadAccess : Obligations.ScratchpadAccess := by
  unfold Obligations.ScratchpadAccess
  intro e v b o s g ts hsound hh
  refine ⟨fun hi hpass => ?sts, fun hi hpass => ?lds⟩
  case sts =>
    obtain ⟨hissuing, hc, -, -, -⟩ := State.issues_iff.mp hi
    obtain ⟨-, hts⟩ := State.issuing_sound hsound hissuing
    obtain ⟨hmem, hcores, hslices, hother, hlast, hg⟩ := sts_leaves (i := .sts e v b o) (s := s)
      (g := g) v.toNat b.toNat o
      hc hh
    refine ⟨_, (accesses_of_memAct (fun _ => rfl) s g ts hi hpass).trans (sts_accesses ..), hmem, hcores, hslices,
      hother, hlast,
      fun t ht n hn hnl => ?_⟩
    exact (hg t.uid n hn hnl).trans (by rw [(hts t ht).1])
  case lds =>
    obtain ⟨hissuing, hc, -, -, -⟩ := State.issues_iff.mp hi
    obtain ⟨nd, hts⟩ := State.issuing_sound hsound hissuing
    obtain ⟨hrest, hfabric, hread, hg⟩ := lds_leaves (i := .lds e v b o) (s := s) (g := g) v.toNat b.toNat o hc hh nd
      fun t ht => (hts t ht).2
    refine ⟨_, (accesses_of_memAct (fun _ => rfl) s g ts hi hpass).trans (lds_accesses ..), hrest, hfabric,
      fun t ht c u k hc hp hpois _ => hread t ht c u k hc hp hpois, fun t ht n hn hnl => ?_⟩
    exact (hg t.uid n hn hnl).trans (by rw [(hts t ht).1])

end Sys2Proof.Machine
end

section
/-! PROOFS. A store to device memory: the bytes that it reaches (R150, R151, R181, R368). O60. -/

namespace Sys2Proof.Machine

/-! ### What a byte reads -/

/-- A byte reads the same in two states, at either die's L2 and in every core's L1. -/
structure State.SameAt (a : Nat) (s r : State) : Prop where
  l2 : r.mem.l2.get? a = s.mem.l2.get? a
  hbm : r.mem.hbm = s.mem.hbm
  held : ∀ d, (r.mem.die d).held.filter (·.addr == a) = (s.mem.die d).held.filter (·.addr == a)
  die : ∀ n, (r.core n).die = (s.core n).die
  dirty : ∀ n, (r.core n).l1.dirty.get? a = (s.core n).l1.dirty.get? a
  stale : ∀ n, (r.core n).l1.stale.get? a = (s.core n).l1.stale.get? a

namespace State.SameAt

variable {a : Nat} {s r q : State}

theorem atDie (h : State.SameAt a s r) (d : Nat) : r.mem.atDie d a = s.mem.atDie d a := by
  unfold Mem.atDie Mem.coherent
  rw [h.held, h.l2, h.hbm]

theorem l1Byte (h : State.SameAt a s r) (n : Nat) : r.l1Byte (r.core n) a = s.l1Byte (s.core n) a := by
  unfold State.l1Byte
  rw [h.dirty, h.stale, h.die, h.atDie]

theorem refl (s : State) : State.SameAt a s s := ⟨rfl, rfl, fun _ => rfl, fun _ => rfl, fun _ => rfl, fun _ => rfl⟩

theorem trans (h : State.SameAt a s r) (k : State.SameAt a r q) : State.SameAt a s q :=
  ⟨k.l2.trans h.l2, k.hbm.trans h.hbm, fun d => (k.held d).trans (h.held d), fun n => (k.die n).trans (h.die n),
    fun n => (k.dirty n).trans (h.dirty n), fun n => (k.stale n).trans (h.stale n)⟩

theorem of_eq (hm : r.mem = s.mem) (hc : r.cores = s.cores) : State.SameAt a s r := by
  have hcore : ∀ n, r.core n = s.core n := fun n => by
    unfold State.core
    rw [hc]
  exact ⟨by rw [hm], by rw [hm], fun d => by rw [hm], fun n => by rw [hcore], fun n => by rw [hcore],
    fun n => by rw [hcore]⟩

theorem ite {c : Prop} [Decidable c] (h : State.SameAt a s r) (k : State.SameAt a s q) :
    State.SameAt a s (if c then r else q) := by
  split
  · exact h
  · exact k

theorem foldl {α : Type} {f : State → α → State} {l : List α} (h : ∀ x ∈ l, ∀ s, State.SameAt a s (f s x)) (s : State) :
    State.SameAt a s (l.foldl f s) := by
  induction l generalizing s with
  | nil => exact refl s
  | cons x l ih => exact (h x (List.mem_cons_self ..) s).trans (ih (fun y hy => h y (List.mem_cons_of_mem _ hy)) _)

end State.SameAt

/-! ### Where each operation leaves a byte as it was -/

section
variable {a : Nat}

/-- A change of the memory in which the byte at the L2s and the held writes of it stay. -/
theorem State.sameAt_mem (s : State) {m : Mem} (hl : m.l2.get? a = s.mem.l2.get? a) (hb : m.hbm = s.mem.hbm)
    (hh : ∀ d, (m.die d).held.filter (·.addr == a) = (s.mem.die d).held.filter (·.addr == a)) :
    State.SameAt a s { s with mem := m } :=
  ⟨hl, hb, hh, fun _ => rfl, fun _ => rfl, fun _ => rfl⟩

/-- A change of cores in which their own bytes there stay. -/
theorem State.sameAt_cores (s : State) {f : Core → Core} (hn : ∀ c, (f c).num = c.num) (hd : ∀ c, (f c).die = c.die)
    (h1 : ∀ c, (f c).l1.dirty.get? a = c.l1.dirty.get? a) (h2 : ∀ c, (f c).l1.stale.get? a = c.l1.stale.get? a) :
    State.SameAt a s { s with cores := s.cores.map f } := by
  have key : ∀ n, ({ s with cores := s.cores.map f } : State).core n = s.core n ∨
      ({ s with cores := s.cores.map f } : State).core n = f (s.core n) := fun n => by
    unfold State.core
    rw [find?_map_key Core.num n f s.cores hn]
    cases s.cores.find? (·.num == n) with
    | none => exact .inl rfl
    | some c => exact .inr rfl
  refine ⟨rfl, rfl, fun _ => rfl, fun n => ?_, fun n => ?_, fun n => ?_⟩
  · rcases key n with e | e <;> rw [e]
    exact hd _
  · rcases key n with e | e <;> rw [e]
    exact h1 _
  · rcases key n with e | e <;> rw [e]
    exact h2 _

theorem State.sameAt_setCore (s : State) (n : Nat) {f : Core → Core} (hn : ∀ c, (f c).num = c.num)
    (hd : ∀ c, (f c).die = c.die) (h1 : ∀ c, (f c).l1.dirty.get? a = c.l1.dirty.get? a)
    (h2 : ∀ c, (f c).l1.stale.get? a = c.l1.stale.get? a) : State.SameAt a s (s.setCore n f) := by
  refine s.sameAt_cores (fun c => ?_) (fun c => ?_) (fun c => ?_) fun c => ?_
  · split
    · exact hn c
    · rfl
  · split
    · exact hd c
    · rfl
  · split
    · exact h1 c
    · rfl
  · split
    · exact h2 c
    · rfl

theorem L1.stale_keepStale (l : L1) (old new : Nat → Byte) {ads : List Nat} (h : a ∉ ads) :
    (l.keepStale old new ads).stale.get? a = l.stale.get? a := by
  unfold L1.keepStale
  dsimp only
  generalize l.stale = st
  induction ads generalizing st with
  | nil => rfl
  | cons b ads ih =>
    rw [List.mem_cons, not_or] at h
    rw [List.foldl_cons, ih h.2]
    split
    · exact Cells.get?_put_other _ _ h.1
    · rfl

theorem State.sameAt_keepViews (s : State) (old : Mem) (but : Option Nat) {ads : List Nat} (h : a ∉ ads) :
    State.SameAt a s (s.keepViews old but ads) := by
  refine s.sameAt_cores (fun c => ?_) (fun c => ?_) (fun c => ?_) fun c => ?_
  · split <;> rfl
  · split <;> rfl
  · split <;> rfl
  · split
    · rfl
    · exact c.l1.stale_keepStale _ _ h

theorem State.sameAt_coherentStore (s : State) {bs : List (Nat × Byte)} (but : Option Nat) (h : ∀ b ∈ bs, b.1 ≠ a) :
    State.SameAt a s (s.coherentStore bs but) := by
  refine State.SameAt.trans (s.sameAt_mem (m := { s.mem with l2 := s.mem.l2.putAll bs })
    (Cells.get?_putAll_other _ _ h) rfl fun _ => rfl) (State.sameAt_keepViews _ _ _ fun hm => ?_)
  obtain ⟨b, hb, e⟩ := List.mem_map.mp hm
  exact h b hb e

/-- A die of the memory after a change of one. -/
theorem Mem.die_setDie (m : Mem) (d e : Nat) (f : DieMem → DieMem) :
    (m.setDie d f).die e = if e = d ∧ d < m.dies.length then f (m.die e) else m.die e := by
  unfold Mem.die Mem.setDie
  dsimp only
  rw [List.getD_eq_getElem?_getD, List.getD_eq_getElem?_getD, List.getElem?_map, List.getElem?_zipIdx]
  by_cases he : e < m.dies.length
  · rw [List.getElem?_eq_getElem he]
    by_cases hd : e = d
    · subst hd
      simp [he]
    · simp [hd]
  · rw [List.getElem?_eq_none (Nat.le_of_not_lt he)]
    have : ¬ (e = d ∧ d < m.dies.length) := fun h => he (h.1 ▸ h.2)
    simp [this]

/-- A change of what the dies hold that keeps the held writes of a byte. -/
theorem Mem.held_setDie (m : Mem) (d : Nat) {f : DieMem → DieMem}
    (hf : ∀ x, (f x).held.filter (·.addr == a) = x.held.filter (·.addr == a)) (e : Nat) :
    ((m.setDie d f).die e).held.filter (·.addr == a) = (m.die e).held.filter (·.addr == a) := by
  rw [m.die_setDie]
  split
  · exact hf _
  · rfl

theorem State.sameAt_l2Byte (s : State) (d : Nat) (but : Option Nat) {h : HeldWrite} (ha : h.addr ≠ a) :
    State.SameAt a s (s.l2Byte d but h) := by
  unfold State.l2Byte
  dsimp only
  refine .ite (s.sameAt_coherentStore _ fun b hb => ?_) (State.SameAt.trans ?_
    (State.sameAt_keepViews _ _ _ fun hm => ha (List.mem_singleton.mp hm).symm))
  · rw [List.mem_singleton.mp hb]
    exact ha
  · exact s.sameAt_mem rfl rfl (Mem.held_setDie _ _ fun x => by simp [ha])

theorem State.sameAt_clearPoison (s : State) (d : Nat) (gs : List Nat) :
    State.SameAt a s { s with mem := s.mem.clearPoison d gs } :=
  s.sameAt_mem rfl rfl (Mem.held_setDie s.mem d (f := fun x => { x with
    clears := (x.clears ++ gs.filter fun g => s.mem.waits d (g / 4)).dedup
    spoils := x.spoils.filter fun g => !(gs.filter fun g => s.mem.waits d (g / 4)).contains g }) fun _ => rfl)

theorem State.sameAt_spoil (s : State) (d : Nat) (gs : List Nat) :
    State.SameAt a s { s with mem := s.mem.spoil d gs } :=
  s.sameAt_mem rfl rfl (Mem.held_setDie s.mem d (f := fun x => { x with
    spoils := (x.spoils ++ gs.filter fun g => s.mem.waits d (g / 4)).dedup
    clears := x.clears.filter fun g => !(gs.filter fun g => s.mem.waits d (g / 4)).contains g }) fun _ => rfl)

/-- What a write at an L2 leaves once its bytes have reached it. -/
theorem State.sameAt_l2Put_after (s : State) (d : Nat) (hs : List HeldWrite) (but : Option Nat) :
    State.SameAt a (hs.foldl (fun s h => s.l2Byte d but h) s) (s.l2Put d hs but) := by
  unfold State.l2Put
  extract_lets s1 gs s2 lines done
  have h2 : State.SameAt a s1 s2 := .ite (.refl s1) (s1.sameAt_clearPoison d gs)
  exact h2.trans (.of_eq rfl rfl)

theorem State.sameAt_l2Put (s : State) (d : Nat) {hs : List HeldWrite} (but : Option Nat) (h : ∀ x ∈ hs, x.addr ≠ a) :
    State.SameAt a s (s.l2Put d hs but) :=
  (State.SameAt.foldl (fun x hx s => s.sameAt_l2Byte d but (h x hx)) s).trans (s.sameAt_l2Put_after d hs but)

theorem State.sameAt_l2Store (s : State) (d : Nat) {bs : List (Nat × Byte)} (but : Option Nat)
    (h : ∀ b ∈ bs, b.1 ≠ a) : State.SameAt a s (s.l2Store d bs but) :=
  s.sameAt_l2Put d but fun x hx => by
    obtain ⟨b, hb, rfl⟩ := List.mem_map.mp hx
    exact h b hb

/-! ### The L1 of a core, away from the lines that leave it -/

theorem lineOf_ne_range {a line : Nat} (h : lineOf a ≠ line) : a < line * 128 ∨ line * 128 + 128 ≤ a := by
  unfold lineOf at h
  omega

theorem State.sameAt_writeBack (s : State) (n : Nat) {line : Nat} (h : lineOf a ≠ line) :
    State.SameAt a s (s.writeBack n line) := by
  unfold State.writeBack
  extract_lets c bs bad s1 s2
  have h1 : State.SameAt a s s1 := s.sameAt_setCore n (fun _ => rfl) (fun _ => rfl)
    (fun c => Cells.get?_cut_other _ _ _ (lineOf_ne_range h)) fun _ => rfl
  have h2 : State.SameAt a s1 s2 := .ite (.refl s1) (s1.sameAt_l2Store _ _ fun b hb e => by
    have := (List.mem_filter.mp hb).2
    rw [Bool.and_eq_true, decide_eq_true_eq, decide_eq_true_eq, e] at this
    have := lineOf_ne_range h
    omega)
  exact (h1.trans h2).trans (.ite (.refl s2) (s2.sameAt_spoil _ _))

theorem State.sameAt_wakeCore (s : State) (n : Nat) (line : Nat → Bool) : State.SameAt a s (s.wakeCore n line) :=
  .of_eq rfl rfl

theorem State.sameAt_dropLine (s : State) (n : Nat) {line : Nat} (h : lineOf a ≠ line) :
    State.SameAt a s (s.dropLine n line) := by
  unfold State.dropLine
  refine State.SameAt.trans ?_ (State.sameAt_wakeCore _ _ _)
  exact s.sameAt_setCore n (fun _ => rfl) (fun _ => rfl) (fun _ => Cells.get?_cut_other _ _ _ (lineOf_ne_range h))
    fun _ => Cells.get?_cut_other _ _ _ (lineOf_ne_range h)

theorem State.sameAt_evict (s : State) (n : Nat) {line : Nat} (h : lineOf a ≠ line) :
    State.SameAt a s (s.evict n line) := (s.sameAt_writeBack n h).trans (State.sameAt_dropLine _ n h)

/-- Where a line is brought into an L1 that has no room for it, the line that its set evicts leaves first. -/
theorem State.fill_evicts {s : State} {n line : Nat} (policy : Nat) :
    ∃ F : Core → Core, (∀ c, ∃ l, F c = { c with l1 := { c.l1 with lines := l } }) ∧
      s.fill n line policy = (match s.evicts n line with
        | some e => s.evict n e
        | none => s).setCore n F := by
  unfold State.fill State.evicts
  dsimp only
  by_cases hp : (s.core n).l1.lines.any (·.line == line) = true
  · rw [if_pos hp, hp, Bool.true_or, if_pos rfl]
    refine ⟨_, fun c => ?_, rfl⟩
    exact ⟨_, rfl⟩
  · rw [if_neg hp, Bool.eq_false_iff.mpr hp, Bool.false_or]
    by_cases hl : ((s.core n).l1.lines.filter fun l => l.line % 128 == line % 128).length < 16
    · rw [if_pos hl, if_pos (decide_eq_true hl)]
      refine ⟨_, fun c => ?_, rfl⟩
      exact ⟨_, rfl⟩
    · rw [if_neg hl, if_neg (by simpa using hl)]
      cases victim ((s.core n).l1.lines.filter fun l => l.line % 128 == line % 128) with
      | none =>
        refine ⟨_, fun c => ?_, rfl⟩
        exact ⟨_, rfl⟩
      | some l =>
        refine ⟨_, fun c => ?_, rfl⟩
        exact ⟨_, rfl⟩

theorem State.sameAt_setLines (s : State) (n : Nat) {F : Core → Core}
    (hF : ∀ c, ∃ l, F c = { c with l1 := { c.l1 with lines := l } }) : State.SameAt a s (s.setCore n F) := by
  refine s.sameAt_setCore n (fun c => ?_) (fun c => ?_) (fun c => ?_) fun c => ?_ <;>
    (obtain ⟨l, e⟩ := hF c; rw [e])

theorem State.sameAt_fill (s : State) (n : Nat) {line : Nat} (policy : Nat)
    (h : ∀ e, s.evicts n line = some e → lineOf a ≠ e) : State.SameAt a s (s.fill n line policy) := by
  obtain ⟨F, hF, e⟩ := s.fill_evicts (n := n) (line := line) policy
  rw [e]
  refine State.SameAt.trans ?_ (State.sameAt_setLines _ n hF)
  cases he : s.evicts n line with
  | none => exact .refl s
  | some l => exact s.sameAt_evict n (h l he)

end

/-! ### The dirty-line FIFO -/

theorem State.core_setCore_same (s : State) {n : Nat} {f : Core → Core} (hf : ∀ c, (f c).num = c.num)
    (h : ∃ x ∈ s.cores, x.num = n) : (s.setCore n f).core n = f (s.core n) := by
  obtain ⟨x, hx, hxn⟩ := h
  obtain ⟨c, hc⟩ := Option.isSome_iff_exists.mp (List.find?_isSome.mpr ⟨x, hx, by simpa using hxn⟩ :
    (s.cores.find? (·.num == n)).isSome = true)
  unfold State.core State.setCore
  rw [find?_update Core.num n n f s.cores fun c hc => (hf c).trans hc, hc]
  simp

theorem State.core_setCore_other (s : State) {n m : Nat} {f : Core → Core} (hf : ∀ c, (f c).num = c.num) (h : m ≠ n) :
    (s.setCore n f).core m = s.core m := by
  unfold State.core State.setCore
  rw [find?_update Core.num n m f s.cores fun c hc => (hf c).trans hc]
  simp [h]

/-- What a step leaves of every core's dirty-line FIFO: all of it. -/
def State.SameFifo (s r : State) : Prop := ∀ n, (r.core n).l1.fifo = (s.core n).l1.fifo

theorem State.SameFifo.of_cores {s r : State} (h : r.cores = s.cores) : s.SameFifo r := fun n => by
  unfold State.core
  rw [h]

theorem State.SameFifo.trans {s r q : State} (h : s.SameFifo r) (k : r.SameFifo q) : s.SameFifo q := fun n =>
  (k n).trans (h n)

theorem State.sameFifo_keepViews (s : State) (old : Mem) (but : Option Nat) (ads : List Nat) :
    s.SameFifo (s.keepViews old but ads) := fun n => by
  unfold State.core State.keepViews
  dsimp only
  rw [find?_map_key Core.num n _ s.cores fun c => by split <;> rfl]
  cases s.cores.find? (·.num == n) with
  | none => rfl
  | some c =>
    rw [Option.map_some, Option.getD_some]
    split <;> rfl

theorem State.sameFifo_l2Byte (s : State) (d : Nat) (but : Option Nat) (h : HeldWrite) :
    s.SameFifo (s.l2Byte d but h) := by
  unfold State.l2Byte
  dsimp only
  split
  · exact State.SameFifo.trans (.of_cores rfl) (State.sameFifo_keepViews _ _ _ _)
  · exact State.SameFifo.trans (.of_cores rfl) (State.sameFifo_keepViews _ _ _ _)

theorem State.sameFifo_l2Put (s : State) (d : Nat) (hs : List HeldWrite) (but : Option Nat) :
    s.SameFifo (s.l2Put d hs but) := by
  unfold State.l2Put
  extract_lets s1 gs s2 lines done
  have h1 : ∀ (hs : List HeldWrite) (s : State), s.SameFifo (hs.foldl (fun s h => s.l2Byte d but h) s) := by
    intro hs
    induction hs with
    | nil => exact fun s n => rfl
    | cons h hs ih => exact fun s => (s.sameFifo_l2Byte d but h).trans (ih _)
  have h2 : s1.SameFifo s2 := by
    refine .of_cores ?_
    show (if gs.isEmpty then s1 else _).cores = s1.cores
    split <;> rfl
  exact ((h1 hs s).trans h2).trans (.of_cores rfl)

/-! ### A line in the FIFO of the L1 that holds it -/

theorem State.MemoryOnly.hasCore {s r : State} (h : s.MemoryOnly r) {n : Nat} (hc : ∃ x ∈ s.cores, x.num = n) :
    ∃ x ∈ r.cores, x.num = n := by
  have : n ∈ s.cores.map (·.num) := List.mem_map.mpr hc
  rw [← h.nums] at this
  exact List.mem_map.mp this

theorem State.fifo_setCore (s : State) {n : Nat} {f : Core → Core} (g : List (Nat × Nat) → List (Nat × Nat))
    (hn : ∀ c, (f c).num = c.num) (hg : ∀ c, (f c).l1.fifo = g c.l1.fifo) (h : ∃ x ∈ s.cores, x.num = n) :
    ((s.setCore n f).core n).l1.fifo = g (s.core n).l1.fifo := by
  rw [s.core_setCore_same hn h, hg]

theorem State.fifo_writeBack (s : State) {n : Nat} (line : Nat) (h : ∃ x ∈ s.cores, x.num = n) :
    ((s.writeBack n line).core n).l1.fifo = (s.core n).l1.fifo.filter (·.1 != line) := by
  unfold State.writeBack
  extract_lets c bs bad s1 s2
  have h1 : (s1.core n).l1.fifo = (s.core n).l1.fifo.filter (·.1 != line) :=
    s.fifo_setCore (·.filter (·.1 != line)) (fun _ => rfl) (fun _ => rfl) h
  have h2 : s1.SameFifo s2 := by
    show s1.SameFifo (if bs.isEmpty then s1 else s1.l2Store c.die bs (some n))
    split
    · exact fun _ => rfl
    · exact s1.sameFifo_l2Put _ _ _
  rw [← h1, ← h2 n]
  split <;> rfl

theorem State.core_wakeCore (s : State) (n m : Nat) (line : Nat → Bool) : (s.wakeCore m line).core n = s.core n := rfl

theorem State.fifo_dropLine (s : State) {n : Nat} (line : Nat) (h : ∃ x ∈ s.cores, x.num = n) :
    ((s.dropLine n line).core n).l1.fifo = (s.core n).l1.fifo.filter (·.1 != line) := by
  unfold State.dropLine
  rw [State.core_wakeCore]
  exact s.fifo_setCore (·.filter (·.1 != line)) (fun _ => rfl) (fun _ => rfl) h

theorem State.fifo_evict (s : State) {n : Nat} (line : Nat) (h : ∃ x ∈ s.cores, x.num = n) :
    ((s.evict n line).core n).l1.fifo = (s.core n).l1.fifo.filter (·.1 != line) := by
  unfold State.evict
  rw [State.fifo_dropLine _ line ((s.memoryOnly_writeBack n line).hasCore h), s.fifo_writeBack line h,
    List.filter_filter]
  simp

theorem State.fifo_fill (s : State) {n : Nat} (line policy : Nat) (h : ∃ x ∈ s.cores, x.num = n) :
    ((s.fill n line policy).core n).l1.fifo = (s.core n).l1.fifo.filter fun x => some x.1 != s.evicts n line := by
  obtain ⟨F, hF, e⟩ := s.fill_evicts (n := n) (line := line) policy
  have hn : ∀ c, (F c).num = c.num := fun c => by
    obtain ⟨l, e⟩ := hF c
    rw [e]
  have hf : ∀ c, (F c).l1.fifo = c.l1.fifo := fun c => by
    obtain ⟨l, e⟩ := hF c
    rw [e]
  rw [e]
  cases he : s.evicts n line with
  | none =>
    rw [State.core_setCore_same _ hn h, hf]
    exact (List.filter_eq_self.mpr fun _ _ => rfl).symm
  | some l =>
    rw [State.core_setCore_same _ hn ((s.memoryOnly_evict n l).hasCore h), hf]
    show ((s.evict n l).core n).l1.fifo = _
    rw [s.fifo_evict l h]
    congr

/-- A byte of a line that an L1 does not give up reads the same once the line stored to has entered the FIFO. -/
theorem State.sameAt_l1Line (s : State) {n a line : Nat} (policy : Nat) (h : ∃ x ∈ s.cores, x.num = n)
    (hg : lineOf a ∉ s.givesUp n line) : State.SameAt a s
    (let s := s.fill n line policy
    let f := (s.core n).l1.fifo
    if f.any (·.1 == line) then s
    else
      let s := if f.length < 256 then s
        else match f.head? with
          | some o => s.writeBack n o.1
          | none => s
      s.setCore n fun c => { c with l1 := { c.l1 with fifo := c.l1.fifo ++ [(line, s.now)] } }) := by
  unfold State.givesUp at hg
  dsimp only at hg ⊢
  rw [List.mem_append, not_or, ← s.fifo_fill line policy h] at hg
  obtain ⟨he, hf⟩ := hg
  refine (s.sameAt_fill n policy fun e hm hq => he (by rw [hm, hq]; exact List.mem_singleton_self e)).trans ?_
  generalize s.fill n line policy = q at hf ⊢
  by_cases hany : ((q.core n).l1.fifo.any (·.1 == line)) = true
  · rw [if_pos hany]
    exact .refl q
  rw [if_neg hany]
  refine State.SameAt.trans ?_ (State.sameAt_setCore _ n (fun _ => rfl) (fun _ => rfl) (fun _ => rfl) fun _ => rfl)
  by_cases hl : (q.core n).l1.fifo.length < 256
  · rw [if_pos hl]
    exact .refl q
  rw [if_neg hl]
  rw [if_neg (by simpa [Bool.eq_false_iff.mpr hany] using hl)] at hf
  cases hh : (q.core n).l1.fifo.head? with
  | none => exact .refl q
  | some o =>
    refine q.sameAt_writeBack n fun hq => hf ?_
    rw [hh, hq]
    exact List.mem_singleton_self _

theorem lineOf_numbered {pa : Nat} {bs : List Byte} (hl : pa % 128 + bs.length ≤ 128) {c : Nat × Byte}
    (hc : c ∈ numbered pa bs) : lineOf c.1 = lineOf pa := by
  have := numbered_addr hc
  unfold lineOf
  omega

/-- The lines of a store within one line. -/
theorem lines_numbered {pa : Nat} {bs : List Byte} (h0 : 0 < bs.length) (hl : pa % 128 + bs.length ≤ 128) :
    ((numbered pa bs).map fun b => lineOf b.1).dedup = [lineOf pa] := by
  have hr : (numbered pa bs).map (fun b => lineOf b.1) = List.replicate bs.length (lineOf pa) := by
    rw [List.eq_replicate_iff]
    refine ⟨by simp [numbered], fun x hx => ?_⟩
    obtain ⟨c, hc, rfl⟩ := List.mem_map.mp hx
    exact lineOf_numbered hl hc
  rw [hr, List.replicate_dedup (Nat.pos_iff_ne_zero.mp h0)]

/-- What a store into an L1 puts there once its line is in. -/
def Core.take (bs : List (Nat × Byte)) (c : Core) : Core :=
  { c with l1 := { c.l1 with
    dirty := c.l1.dirty.putAll bs
    stale := c.l1.stale.filter fun x => !bs.any (·.1 == x.1)
    poison := c.l1.poison.filterMap (mend bs) } }

theorem State.l1Store_oneLine (s : State) (n policy : Nat) {pa : Nat} {bs : List Byte} (h0 : 0 < bs.length)
    (hl : pa % 128 + bs.length ≤ 128) : ∃ q, s.MemoryOnly q ∧
      ((∃ x ∈ s.cores, x.num = n) → ∀ a, lineOf a ∉ s.givesUp n (lineOf pa) → State.SameAt a s q) ∧
      ∃ w, s.l1Store n (numbered pa bs) policy = (q.setCore n (Core.take (numbered pa bs))).wakeCore n w := by
  unfold State.l1Store
  rw [lines_numbered h0 hl]
  exact ⟨_, s.memoryOnly_l1Line n _ policy, fun h a hg => s.sameAt_l1Line policy h hg, _, rfl⟩

/-- Away from its own bytes a store into an L1 leaves what every core reads. -/
theorem State.sameAt_take (s : State) (n : Nat) {a : Nat} {bs : List (Nat × Byte)} (h : ∀ b ∈ bs, b.1 ≠ a) :
    State.SameAt a s (s.setCore n (Core.take bs)) :=
  s.sameAt_setCore n (fun _ => rfl) (fun _ => rfl) (fun _ => Cells.get?_putAll_other _ _ h) fun c =>
    Cells.get?_filter _ _ _ fun v => by
      rw [Bool.not_eq_true', List.any_eq_false]
      exact fun b hb => by simpa using h b hb

/-! ### What an L2 reads after a write that reaches it -/

/-- The L2 of a die takes a write of a line in full: it waits for the line, or owns it with nothing of its own held. -/
def State.TakesLine (s : State) (d line : Nat) : Prop :=
  (s.mem.owns d line = false ∧ d < s.mem.dies.length) ∨
    (s.mem.owns d line = true ∧ ∀ h ∈ (s.mem.die d).held, lineOf h.addr ≠ line)

theorem State.owner_l2Byte (s : State) (d : Nat) (but : Option Nat) (h : HeldWrite) :
    (s.l2Byte d but h).mem.owner = s.mem.owner := by
  unfold State.l2Byte
  dsimp only
  split <;> rfl

theorem State.owner_l2Put (s : State) (d : Nat) (hs : List HeldWrite) (but : Option Nat) :
    (s.l2Put d hs but).mem.owner = s.mem.owner := by
  have h1 : ∀ (hs : List HeldWrite) (s : State), (hs.foldl (fun s h => s.l2Byte d but h) s).mem.owner =
    s.mem.owner := by
    intro hs
    induction hs with
    | nil => exact fun _ => rfl
    | cons h hs ih => exact fun s => (ih _).trans (s.owner_l2Byte d but h)
  rw [← h1 hs s]
  unfold State.l2Put
  dsimp only
  generalize (hs.foldl (fun s h => s.l2Byte d but h) s) = q
  show (if (wholeMasked _).isEmpty then q else _).mem.owner = q.mem.owner
  split <;> rfl

theorem State.owner_writeBack (s : State) (n line : Nat) : (s.writeBack n line).mem.owner = s.mem.owner := by
  unfold State.writeBack
  extract_lets c bs bad s1 s2
  have h2 : s2.mem.owner = s1.mem.owner := by
    show (if bs.isEmpty then s1 else s1.l2Store c.die bs (some n)).mem.owner = _
    split
    · rfl
    · exact s1.owner_l2Put _ _ _
  show _ = s1.mem.owner
  rw [← h2]
  split <;> rfl

theorem Mem.owns_of_owner {m k : Mem} (h : m.owner = k.owner) (d line : Nat) : m.owns d line = k.owns d line := by
  unfold Mem.owns
  rw [h]

theorem Mem.all_held_setDie (m : Mem) (d : Nat) {f : DieMem → DieMem} (hf : ∀ x, (f x).held = x.held) (e : Nat) :
    ((m.setDie d f).die e).held = (m.die e).held := by
  rw [m.die_setDie]
  split
  · exact hf _
  · rfl

theorem Mem.held_clearPoison (m : Mem) (d : Nat) (gs : List Nat) (e : Nat) :
    ((m.clearPoison d gs).die e).held = (m.die e).held :=
  m.all_held_setDie d (f := fun x => { x with
    clears := (x.clears ++ gs.filter fun g => m.waits d (g / 4)).dedup
    spoils := x.spoils.filter fun g => !(gs.filter fun g => m.waits d (g / 4)).contains g }) (fun _ => rfl) e

theorem Mem.held_spoil (m : Mem) (d : Nat) (gs : List Nat) (e : Nat) :
    ((m.spoil d gs).die e).held = (m.die e).held :=
  m.all_held_setDie d (f := fun x => { x with
    spoils := (x.spoils ++ gs.filter fun g => m.waits d (g / 4)).dedup
    clears := x.clears.filter fun g => !(gs.filter fun g => m.waits d (g / 4)).contains g }) (fun _ => rfl) e

/-- A write of bytes whose lines their die owns leaves what the dies hold. -/
theorem State.held_l2Byte_owned (s : State) {d : Nat} (but : Option Nat) {h : HeldWrite}
    (ho : s.mem.owns d (lineOf h.addr) = true) (e : Nat) : ((s.l2Byte d but h).mem.die e).held =
      (s.mem.die e).held := by
  unfold State.l2Byte
  dsimp only
  rw [if_pos ho]
  rfl

theorem State.held_l2Put_owned {d : Nat} (but : Option Nat) {hs : List HeldWrite} (s : State)
    (ho : ∀ h ∈ hs, s.mem.owns d (lineOf h.addr) = true) (e : Nat) :
    ((s.l2Put d hs but).mem.die e).held = (s.mem.die e).held := by
  have h1 : ((hs.foldl (fun s h => s.l2Byte d but h) s).mem.die e).held = (s.mem.die e).held := by
    induction hs generalizing s with
    | nil => rfl
    | cons h hs ih =>
      rw [List.foldl_cons, ih]
      · exact s.held_l2Byte_owned but (ho h (List.mem_cons_self ..)) e
      · intro x hx
        rw [Mem.owns_of_owner (s.owner_l2Byte d but h)]
        exact ho x (List.mem_cons_of_mem _ hx)
  rw [← h1]
  unfold State.l2Put
  dsimp only
  generalize (hs.foldl (fun s h => s.l2Byte d but h) s) = q
  show ((if (wholeMasked _).isEmpty then q else _).mem.die e).held = (q.mem.die e).held
  split
  · rfl
  · exact q.mem.held_clearPoison d _ e

theorem State.held_writeBack_owned (s : State) (n line : Nat) (ho : s.mem.owns (s.core n).die line = true) (e : Nat) :
    ((s.writeBack n line).mem.die e).held = (s.mem.die e).held := by
  unfold State.writeBack
  extract_lets c bs bad s1 s2
  have h2 : (s2.mem.die e).held = (s.mem.die e).held := by
    show ((if bs.isEmpty then s1 else s1.l2Store c.die bs (some n)).mem.die e).held = _
    split
    · rfl
    · refine s1.held_l2Put_owned (some n) (fun h hh => ?_) e
      obtain ⟨b, hb, rfl⟩ := List.mem_map.mp hh
      have := (List.mem_filter.mp hb).2
      rw [Bool.and_eq_true, decide_eq_true_eq, decide_eq_true_eq] at this
      have hl : lineOf b.1 = line := by
        unfold lineOf
        omega
      rw [hl]
      exact ho
  rw [← h2]
  split
  · rfl
  · exact s2.mem.held_spoil c.die bad e

/-- Where a die takes a line in full it still does once a core has evicted it. -/
theorem State.TakesLine.evict {s : State} {n line : Nat} (h : s.TakesLine (s.core n).die line) :
    (s.evict n line).TakesLine (s.core n).die line := by
  have ho : (s.evict n line).mem.owner = s.mem.owner := s.owner_writeBack n line
  unfold State.TakesLine
  rw [Mem.owns_of_owner ho]
  rcases h with ⟨h1, h2⟩ | ⟨h1, h2⟩
  · rw [← (s.memoryOnly_evict n line).dies] at h2
    exact .inl ⟨h1, h2⟩
  · refine .inr ⟨h1, ?_⟩
    show ∀ h ∈ ((s.writeBack n line).mem.die (s.core n).die).held, _
    rw [s.held_writeBack_owned n line h1]
    exact h2

theorem HeldWrite.over_whole (a : Nat) (v b : Byte) : HeldWrite.over ⟨a, 0xFF, v⟩ b = v := if_pos rfl

/-- A whole byte written at a die that takes its line is what the die's L2 reads. -/
theorem State.atDie_l2Byte {s : State} {d a : Nat} (h : s.TakesLine d (lineOf a)) (but : Option Nat) (v : Byte) :
    (s.l2Byte d but ⟨a, 0xFF, v⟩).mem.atDie d a = v := by
  unfold State.l2Byte
  dsimp only
  rcases h with ⟨h1, h2⟩ | ⟨h1, h2⟩
  · rw [h1, if_neg Bool.false_ne_true]
    show (Mem.setDie s.mem d _).atDie d a = v
    unfold Mem.atDie
    rw [s.mem.die_setDie, if_pos ⟨rfl, h2⟩]
    simp [HeldWrite.over]
  · rw [if_pos h1, HeldWrite.over_whole]
    show (Mem.atDie { s.mem with l2 := s.mem.l2.putAll [(a, v)] } d a) = v
    unfold Mem.atDie Mem.coherent
    have hh : (s.mem.die d).held.filter (·.addr == a) = [] := List.filter_eq_nil_iff.mpr fun x hx e =>
      h2 x hx (by rw [beq_iff_eq.mp e])
    show List.foldl _ _ ((s.mem.die d).held.filter (·.addr == a)) = v
    rw [hh]
    show (match (s.mem.l2.put a v).get? a with | some b => b | none => _) = v
    rw [Cells.get?_put_same]

theorem State.TakesLine.l2Byte {s : State} {d line : Nat} (h : s.TakesLine d line) (but : Option Nat) (x : HeldWrite)
    (hx : lineOf x.addr = line) : (s.l2Byte d but x).TakesLine d line := by
  unfold State.TakesLine
  rw [Mem.owns_of_owner (s.owner_l2Byte d but x)]
  rcases h with ⟨h1, h2⟩ | ⟨h1, h2⟩
  · rw [← (s.memoryOnly_l2Byte d but x).dies] at h2
    exact .inl ⟨h1, h2⟩
  · rw [s.held_l2Byte_owned but (by rw [hx]; exact h1)]
    exact .inr ⟨h1, h2⟩

/-- A store that reaches the L2 of a die that takes its line in full is what the die's L2 reads. -/
theorem State.atDie_l2Store {s : State} {d pa : Nat} (h : s.TakesLine d (lineOf pa)) (but : Option Nat)
    {bs : List Byte} (hl : pa % 128 + bs.length ≤ 128) {k : Nat} (hk : k < bs.length) :
    (s.l2Store d (numbered pa bs) but).mem.atDie d (pa + k) = bs.getD k 0 := by
  unfold State.l2Store
  rw [(State.sameAt_l2Put_after s d _ but).atDie, List.foldl_map]
  suffices H : ∀ (bs : List Byte), pa % 128 + bs.length ≤ 128 →
      State.TakesLine ((numbered pa bs).foldl (fun s b => s.l2Byte d but ⟨b.1, 0xFF, b.2⟩) s) d (lineOf pa) ∧
      ∀ k, k < bs.length →
        ((numbered pa bs).foldl (fun s b => s.l2Byte d but ⟨b.1, 0xFF, b.2⟩) s).mem.atDie d (pa + k) = bs.getD k 0 from
    (H bs hl).2 k hk
  intro bs hl
  induction bs using List.reverseRecOn with
  | nil => exact ⟨h, fun k hk => absurd hk (Nat.not_lt_zero k)⟩
  | append_singleton bs b ih =>
    rw [List.length_append, List.length_singleton] at hl
    obtain ⟨hq, hr⟩ := ih (by omega)
    have hn : numbered pa (bs ++ [b]) = numbered pa bs ++ [(pa + bs.length, b)] := by
      simp [numbered, List.zipIdx_append]
    rw [hn, List.foldl_append, List.foldl_cons, List.foldl_nil]
    generalize (numbered pa bs).foldl (fun s b => s.l2Byte d but ⟨b.1, 0xFF, b.2⟩) s = q at hq hr ⊢
    have hline : lineOf (pa + bs.length) = lineOf pa := by
      unfold lineOf
      omega
    refine ⟨hq.l2Byte but _ hline, fun k hk => ?_⟩
    by_cases hk' : k = bs.length
    · subst hk'
      rw [State.atDie_l2Byte (by rw [hline]; exact hq)]
      simp
    · rw [List.length_append, List.length_singleton] at hk
      have hk'' : k < bs.length := by omega
      rw [(q.sameAt_l2Byte d but (a := pa + k) (h := ⟨pa + bs.length, 0xFF, b⟩) (by dsimp only; omega)).atDie,
        hr k hk'', List.getD_append _ _ _ _ hk'']

/-! ### The steps around the store -/

/-- Holding a translation changes a core's TLB alone. -/
theorem State.holdAcc_cores (s : State) (n : Nat) (a : Acc) : ∃ (F : Core → Core) (w : List WalkEntry),
    (∀ c, ∃ t, F c = { c with tlb := t }) ∧ s.holdAcc n a = { s with cores := s.cores.map F, walkers := w } := by
  have hid : s = { s with cores := s.cores.map fun c => c, walkers := s.walkers } := by rw [List.map_id']
  unfold State.holdAcc
  split
  · unfold State.holdTlb
    dsimp only
    split
    · exact ⟨fun c => c, _, fun _ => ⟨_, rfl⟩, hid⟩
    · refine ⟨_, _, fun c => ?_, rfl⟩
      dsimp only
      split
      · exact ⟨_, rfl⟩
      · exact ⟨_, rfl⟩
  · exact ⟨fun c => c, _, fun _ => ⟨_, rfl⟩, hid⟩

/-- What holding a translation leaves: every core's L1, and what each byte reads. -/
theorem State.holdAcc_keeps (s : State) (n : Nat) (a : Acc) :
    (∀ m, ∃ t, (s.holdAcc n a).core m = { s.core m with tlb := t }) ∧
      (∀ b, State.SameAt b s (s.holdAcc n a)) ∧
      ∀ m, (∃ x ∈ s.cores, x.num = m) → ∃ x ∈ (s.holdAcc n a).cores, x.num = m := by
  obtain ⟨F, w, hF, e⟩ := s.holdAcc_cores n a
  have hn : ∀ c, (F c).num = c.num := fun c => by
    obtain ⟨t, e⟩ := hF c
    rw [e]
  rw [e]
  refine ⟨fun m => ?_, fun b => ?_, ?_⟩
  · unfold State.core
    dsimp only
    rw [find?_map_key Core.num m F s.cores hn]
    cases s.cores.find? (·.num == m) with
    | none => exact ⟨_, rfl⟩
    | some c => exact hF c
  · have hc : State.SameAt b s { s with cores := s.cores.map F } := by
      refine s.sameAt_cores hn (fun c => ?_) (fun c => ?_) fun c => ?_ <;>
        (obtain ⟨t, e⟩ := hF c; rw [e])
    exact hc.trans (.of_eq rfl rfl)
  · rintro m ⟨x, hx, rfl⟩
    exact ⟨F x, List.mem_map_of_mem hx, hn x⟩

theorem State.givesUp_holdAcc (s : State) (n m line : Nat) (a : Acc) :
    (s.holdAcc n a).givesUp m line = s.givesUp m line := by
  obtain ⟨t, e⟩ := (s.holdAcc_keeps n a).1 m
  unfold State.givesUp State.evicts
  rw [e]

theorem State.sameAt_markCmp (s : State) {a : Nat} (p : Place) (cmp : Bool) : State.SameAt a s (s.markCmp p cmp) := by
  unfold State.markCmp
  split
  · exact s.sameAt_mem rfl rfl fun _ => rfl
  · exact .refl s

theorem State.sameAt_markWide (s : State) {a : Nat} (p : Place) (n : Nat) : State.SameAt a s (s.markWide p n) := by
  unfold State.markWide
  split
  · exact .ite (.refl s) (s.sameAt_mem rfl rfl fun _ => rfl)
  · exact .refl s

/-- A store to device memory of this device: the translation is held, the bytes are stored, and then only the marks of
the line and the result in flight change. -/
theorem storeEff_phys (s : State) (t : Thread) (cx : Cx) (c : Chk) {pa : Nat} (bs : List Byte) (pol : Nat)
    (hp : c.acc.place = .phys pa) :
    let q := (s.holdAcc t.core c.acc).storePlace t.core (.phys pa) bs (if c.acc.isGlobal then pol else 0)
    let r := storeEff (fun _ _ => bs) (fun _ => pol) cx t c s
    (∀ a, State.SameAt a q r) ∧ r.teams = q.teams ∧ r.slices = q.slices ∧ r.groups = q.groups := by
  intro q r
  have hr : r = ((q.markCmp (.phys pa) c.acc.cmp).markWide (.phys pa) bs.length).pendResult cx t.uid .st [] id := by
    show storeEff _ _ cx t c s = _
    unfold storeEff State.lostStore
    dsimp only
    rw [hp]
    rfl
  have hm := (q.memoryOnly_markCmp (.phys pa) c.acc.cmp).trans (State.memoryOnly_markWide _ (.phys pa) bs.length)
  rw [hr]
  exact ⟨fun a => ((q.sameAt_markCmp _ _).trans (State.sameAt_markWide _ _ _)).trans (.of_eq rfl rfl), hm.teams,
    hm.slices, hm.groups⟩

/-! ### The obligation -/

section
variable (s : State) (n : Nat) {pa : Nat} {bs : List Byte} (hl : pa % 128 + bs.length ≤ 128)
include hl

/-- A store into the L1: the bytes that its core reads, and those that it leaves. -/
theorem State.l1Store_reaches (policy : Nat) (hc : ∃ x ∈ s.cores, x.num = n) (h0 : 0 < bs.length) :
    let r := s.l1Store n (numbered pa bs) policy
    (∀ k, k < bs.length → r.l1Byte (r.core n) (pa + k) = bs.getD k 0) ∧
    (∀ m a, (m ≠ n ∨ a < pa ∨ pa + bs.length ≤ a) → lineOf a ∉ s.givesUp n (lineOf pa) →
      r.l1Byte (r.core m) a = s.l1Byte (s.core m) a) ∧
    (∀ d a, lineOf a ∉ s.givesUp n (lineOf pa) → r.mem.atDie d a = s.mem.atDie d a) := by
  obtain ⟨q, hm, hq, w, e⟩ := s.l1Store_oneLine n policy h0 hl
  rw [e]
  have hcore := q.core_setCore_same (f := Core.take (numbered pa bs)) (fun _ => rfl) (hm.hasCore hc)
  refine ⟨fun k hk => ?_, fun m a ho hg => ?_, fun d a hg => ?_⟩
  · unfold State.l1Byte
    rw [State.core_wakeCore, hcore]
    show (match ((q.core n).l1.dirty.putAll (numbered pa bs)).get? (pa + k) with | some b => b | none => _) = _
    rw [Cells.get?_putAll_numbered _ _ _ hk]
  · refine Eq.trans ?_ ((hq hc a hg).l1Byte m)
    rcases ho with ho | ho
    · rw [State.core_wakeCore, q.core_setCore_other (f := Core.take (numbered pa bs)) (fun _ => rfl) ho]
      rfl
    · refine (q.sameAt_take n fun b hb => ?_).l1Byte m
      have := numbered_addr hb
      omega
  · exact (hq hc a hg).atDie d

/-- A store written through: the bytes that its die's L2 reads, and those that it leaves. -/
theorem State.writeThrough_reaches :
    let r := (s.evict n (lineOf pa)).l2Store (s.core n).die (numbered pa bs) (some n)
    (s.TakesLine (s.core n).die (lineOf pa) → ∀ k, k < bs.length →
      r.mem.atDie (s.core n).die (pa + k) = bs.getD k 0) ∧
    ∀ a, lineOf a ≠ lineOf pa → State.SameAt a s r :=
  ⟨fun ht _ hk => State.atDie_l2Store ht.evict _ hl hk, fun _ ha => (s.sameAt_evict n ha).trans
    (State.sameAt_l2Store _ _ _ fun _ hb e => ha (by rw [← e]; exact lineOf_numbered hl hb))⟩

end

/-- Settles O60: the store is that of the L1 or of the L2 after the steps around it, and each operation of the memory
leaves every byte of another line. -/
theorem globalStoreReachesItsBytes : Obligations.GlobalStoreReachesItsBytes := by
  unfold Obligations.GlobalStoreReachesItsBytes
  intro s t cx c pa bs pol hp hc h0 hl p r gone
  obtain ⟨hsame, hteams, hslices, hgroups⟩ := storeEff_phys s t cx c bs pol hp
  obtain ⟨hcore, hs0, hc0⟩ := s.holdAcc_keeps t.core c.acc
  have hg0 : (s.holdAcc t.core c.acc).givesUp t.core (lineOf pa) = gone := s.givesUp_holdAcc ..
  obtain ⟨k0, w0, e0⟩ := s.holdAcc_eq t.core c.acc
  have hmem : (s.holdAcc t.core c.acc).mem = s.mem := by rw [e0]
  have hdie : ((s.holdAcc t.core c.acc).core t.core).die = (s.core t.core).die := by
    obtain ⟨_, e⟩ := hcore t.core
    rw [e]
  have ho : (s.holdAcc t.core c.acc).teams = s.teams ∧ (s.holdAcc t.core c.acc).slices = s.slices ∧
      (s.holdAcc t.core c.acc).groups = s.groups := by
    rw [e0]
    exact ⟨rfl, rfl, rfl⟩
  replace hc0 := hc0 _ hc
  generalize s.holdAcc t.core c.acc = s0 at *
  have hm := s0.memoryOnly_storePlace t.core pa bs p
  refine ⟨hteams.trans (hm.teams.trans ho.1), hslices.trans (hm.slices.trans ho.2.1),
    hgroups.trans (hm.groups.trans ho.2.2), ((hsame 0).hbm.trans hm.hbm).trans (by rw [hmem]), fun hpol => ?_,
    fun hpol => ?_⟩
  · have hstore : s0.storePlace t.core (.phys pa) bs p = s0.l1Store t.core (numbered pa bs) p := if_neg hpol
    have hsame : ∀ a, State.SameAt a (s0.l1Store t.core (numbered pa bs) p) r := fun a => hstore ▸ hsame a
    obtain ⟨h1, h2, h3⟩ := s0.l1Store_reaches t.core hl p hc0 h0
    rw [hg0] at h2 h3
    exact ⟨fun k hk => ((hsame _).l1Byte _).trans (h1 k hk),
      fun n a hn hg => (((hsame a).l1Byte n).trans (h2 n a hn hg)).trans ((hs0 a).l1Byte n),
      fun d a hg => (((hsame a).atDie d).trans (h3 d a hg)).trans ((hs0 a).atDie d)⟩
  · have hstore : s0.storePlace t.core (.phys pa) bs p =
        (s0.evict t.core (lineOf pa)).l2Store (s0.core t.core).die (numbered pa bs) (some t.core) := if_pos hpol
    have hsame : ∀ a, State.SameAt a
        ((s0.evict t.core (lineOf pa)).l2Store (s0.core t.core).die (numbered pa bs) (some t.core)) r := fun a =>
      hstore ▸ hsame a
    obtain ⟨h1, h2⟩ := s0.writeThrough_reaches t.core hl
    unfold State.TakesLine at h1
    rw [hmem] at h1
    rw [hdie] at h1 h2 hsame
    exact ⟨fun hd hno k hk => ((hsame _).atDie _).trans (h1 (.inl ⟨hno, hd⟩) k hk),
      fun hown hh k hk => ((hsame _).atDie _).trans (h1 (.inr ⟨hown, hh⟩) k hk),
      fun d a ha => (((h2 a ha).trans (hsame a)).atDie d).trans ((hs0 a).atDie d),
      fun n a ha => (((h2 a ha).trans (hsame a)).l1Byte n).trans ((hs0 a).l1Byte n)⟩

end Sys2Proof.Machine
end

section
/-! PROOFS. Instructions that gather over a group (R170, R192 to R204). O24. -/

namespace Sys2Proof.Machine

/-! ### Issuing -/

theorem gathers_of_gatherAct {i : Instr} (h : ∀ s, exec i s = word i (gatherAct i) s) : Gathers i := by
  intro s g ts hi
  rw [h s]
  refine ⟨fun hm => ?_, fun hm => ?_⟩
  · refine word_issued hi ?_
    have hb : gatherAct i (g.context i ts) (acting i ts) (s.opened i g ts) =
        if (g.context i ts).m.getLsbD 17 then gatherPart i (g.context i ts) (acting i ts) (s.opened i g ts)
        else gatherAll i (g.context i ts) (acting i ts) (s.opened i g ts) := rfl
    rw [hb, hm, if_neg Bool.false_ne_true]
    rfl
  · refine word_issued hi ?_
    have hb : gatherAct i (g.context i ts) (acting i ts) (s.opened i g ts) =
        if (g.context i ts).m.getLsbD 17 then gatherPart i (g.context i ts) (acting i ts) (s.opened i g ts)
        else gatherAll i (g.context i ts) (acting i ts) (s.opened i g ts) := rfl
    rw [hb, if_pos hm]
    rfl

/-! ### Masks and votes -/

theorem voteRes_spec (cs : List Lane) : (voteRes 0 cs = true ↔ ∃ c ∈ cs, c.a ≠ 0) ∧
    (voteRes 1 cs = true ↔ ∀ c ∈ cs, c.a ≠ 0) ∧ (voteRes 2 cs = true ↔ ∀ c ∈ cs, ∀ x ∈ cs, c.a = x.a) := by
  refine ⟨?_, ?_, ?_⟩
  · show (cs.any fun c => c.a != 0) = true ↔ _
    simp
  · show (cs.all fun c => c.a != 0) = true ↔ _
    simp
  · show (cs.all fun c => c.a == (cs.headD default).a) = true ↔ _
    simp only [List.all_eq_true, beq_iff_eq]
    refine ⟨fun h c hc x hx => (h c hc).trans (h x hx).symm, fun h c hc => h c hc _ ?_⟩
    cases cs with
    | nil => exact absurd hc (List.not_mem_nil)
    | cons y ys => exact List.mem_cons_self ..

theorem bcastRes_spec (f w q : Nat) (l own : Lane) (cs : List Lane) (hn : ((l :: cs).map (·.pos)).Nodup)
    (hq : q = if f = 0 then l.b.toNat % w else l.pos) :
    (∀ c ∈ l :: cs, c.pos = q → bcastRes f w (l :: cs) own = loWord c.a) ∧
    ((∀ c ∈ l :: cs, c.pos ≠ q) → bcastRes f w (l :: cs) own = loWord own.a) := by
  have hb : bcastRes f w (l :: cs) own = match laneAt (l :: cs) q with
      | some c => loWord c.a
      | none => loWord own.a := by
    rw [hq]
    rfl
  rw [hb]
  refine ⟨fun c hc h => ?_, fun h => ?_⟩
  · rw [← h, laneAt_some _ hn c hc]
  · rw [laneAt_none _ _ h]

/-! ### The operations of RED and SCAN -/

/-- The operand whose key is the lower, the first where they are equal. -/
def lower {α : Type} [LinearOrder α] (key : Word → α) (x y : Word) : Word := if key x ≤ key y then x else y

section
variable {α : Type} [LinearOrder α] {key : Word → α}

theorem lower_assoc (x y z : Word) : lower key (lower key x y) z = lower key x (lower key y z) := by
  unfold lower
  by_cases h1 : key x ≤ key y <;> by_cases h2 : key y ≤ key z
  · rw [if_pos h1, if_pos h2, if_pos h1, if_pos (h1.trans h2)]
  · rw [if_pos h1, if_neg h2]
  · rw [if_neg h1, if_pos h2, if_neg h1]
  · rw [if_neg h1, if_neg h2, if_neg fun h => h2 ((not_le.mp h1).le.trans h)]

theorem lower_comm (hk : Function.Injective key) (x y : Word) : lower key x y = lower key y x := by
  unfold lower
  rcases lt_trichotomy (key x) (key y) with h | h | h
  · rw [if_pos h.le, if_neg (not_le.mpr h)]
  · rw [hk h]
  · rw [if_neg (not_le.mpr h), if_pos h.le]

/-- A minimum that takes the first operand where it is strictly the lower is that of the keys. -/
theorem lower_of_lt (hk : Function.Injective key) {b : Bool} {x y : Word} (hb : b = true ↔ key x < key y) :
    (if b then x else y) = lower key x y := by
  rw [lower_comm hk]
  unfold lower
  by_cases h : key x < key y
  · rw [if_pos (hb.mpr h), if_neg (not_le.mpr h)]
  · rw [if_neg (fun e => h (hb.mp e)), if_pos (not_lt.mp h)]

end

theorem toInt_injective : Function.Injective (BitVec.toInt : Word → Int) := fun _ _ => BitVec.eq_of_toInt_eq

theorem toNat_injective : Function.Injective (BitVec.toNat : Word → Nat) := fun _ _ => BitVec.eq_of_toNat_eq

theorem slt_iff (x y : Word) : x.slt y = true ↔ x.toInt < y.toInt := by simp [BitVec.slt]

theorem ult_iff (x y : Word) : x.ult y = true ↔ x.toNat < y.toNat := by simp [BitVec.ult]

theorem redOp_min_signed (x y : Word) : redOp 1 0 x y = lower BitVec.toInt x y :=
  lower_of_lt toInt_injective (slt_iff x y)

theorem redOp_min_unsigned {f : Nat} (h0 : f ≠ 0) (h2 : f ≠ 2) (x y : Word) :
    redOp 1 f x y = lower BitVec.toNat x y := by
  rw [← lower_of_lt toNat_injective (ult_iff x y)]
  exact (if_neg h2).trans (if_neg h0)

theorem redOp_max_signed (x y : Word) : redOp 2 0 x y = lower (fun v => OrderDual.toDual v.toInt) x y := by
  rw [lower_comm (key := fun v : Word => OrderDual.toDual v.toInt) fun _ _ h => toInt_injective h]
  exact lower_of_lt (key := fun v : Word => OrderDual.toDual v.toInt) (fun _ _ h => toInt_injective h) (slt_iff x y)

theorem redOp_max_unsigned {f : Nat} (h0 : f ≠ 0) (h2 : f ≠ 2) (x y : Word) :
    redOp 2 f x y = lower (fun v => OrderDual.toDual v.toNat) x y := by
  rw [lower_comm (key := fun v : Word => OrderDual.toDual v.toNat) fun _ _ h => toNat_injective h]
  rw [← lower_of_lt (key := fun v : Word => OrderDual.toDual v.toNat) (fun _ _ h => toNat_injective h) (ult_iff x y)]
  exact (if_neg h2).trans (if_neg h0)

theorem redOp_add {f : Nat} (h2 : f ≠ 2) (x y : Word) : redOp 0 f x y = x + y := if_neg h2

/-- The order of the values does not matter to an operation on integers (R200). -/
theorem redOp_assoc_comm {op f : Nat} (ho : op < 6) (h2 : f ≠ 2) :
    (∀ x y z, redOp op f (redOp op f x y) z = redOp op f x (redOp op f y z)) ∧
      ∀ x y, redOp op f x y = redOp op f y x := by
  match op, ho with
  | 0, _ =>
    simp only [redOp_add h2]
    exact ⟨BitVec.add_assoc, BitVec.add_comm⟩
  | 1, _ =>
    by_cases h0 : f = 0
    · subst h0
      simp only [redOp_min_signed]
      exact ⟨lower_assoc, lower_comm toInt_injective⟩
    · simp only [redOp_min_unsigned h0 h2]
      exact ⟨lower_assoc, lower_comm toNat_injective⟩
  | 2, _ =>
    by_cases h0 : f = 0
    · subst h0
      simp only [redOp_max_signed]
      exact ⟨lower_assoc, lower_comm fun _ _ h => toInt_injective h⟩
    · simp only [redOp_max_unsigned h0 h2]
      exact ⟨lower_assoc, lower_comm fun _ _ h => toNat_injective h⟩
  | 3, _ => exact ⟨BitVec.and_assoc, BitVec.and_comm⟩
  | 4, _ => exact ⟨BitVec.or_assoc, BitVec.or_comm⟩
  | 5, _ => exact ⟨BitVec.xor_assoc, BitVec.xor_comm⟩

/-! ### SCAN -/

theorem foldr_none (o : Word → Word → Word) {l : List (Option Word)} (h : ∀ x ∈ l, x = none) :
    l.foldr (optOp o) none = none := by
  induction l with
  | nil => rfl
  | cons x l ih =>
    rw [List.foldr_cons, ih fun y hy => h y (List.mem_cons_of_mem _ hy), h x (List.mem_cons_self ..)]
    rfl

theorem optOp_none_right (o : Word → Word → Word) (x : Option Word) : optOp o x none = x := by
  cases x <;> rfl

theorem foldr_optOp_append (o : Word → Word → Word) (ha : ∀ x y z, o (o x y) z = o x (o y z))
    (l k : List (Option Word)) :
    (l ++ k).foldr (optOp o) none = optOp o (l.foldr (optOp o) none) (k.foldr (optOp o) none) := by
  induction l with
  | nil => cases h : k.foldr (optOp o) none <;> simp [h, optOp]
  | cons x l ih => rw [List.cons_append, List.foldr_cons, ih, List.foldr_cons, optOp_assoc o ha]

/-- The combination of the `n` values of a list up to a position. -/
def window (o : Word → Word → Word) (v : List (Option Word)) (n k : Nat) : Option Word :=
  ((v.take (k + 1)).drop (k + 1 - n)).foldr (optOp o) none

/-- Two windows side by side are one of both lengths. -/
theorem window_add (o : Word → Word → Word) (ha : ∀ x y z, o (o x y) z = o x (o y z)) (v : List (Option Word))
    {n k : Nat} (h : n ≤ k) : optOp o (window o v n (k - n)) (window o v n k) = window o v (2 * n) k := by
  have hs : (v.take (k + 1)).drop (k + 1 - 2 * n) =
      (v.take (k - n + 1)).drop (k - n + 1 - n) ++ (v.take (k + 1)).drop (k + 1 - n) := by
    obtain ⟨e1, e2, e3⟩ : k - n + 1 = min (k + 1 - n) (k + 1) ∧
        k + 1 - n = k + 1 - 2 * n + (k + 1 - n - (k + 1 - 2 * n)) ∧ k + 1 - n - n = k + 1 - 2 * n := by omega
    calc (v.take (k + 1)).drop (k + 1 - 2 * n)
      _ = ((v.take (k + 1)).drop (k + 1 - 2 * n)).take (k + 1 - n - (k + 1 - 2 * n)) ++
          ((v.take (k + 1)).drop (k + 1 - 2 * n)).drop (k + 1 - n - (k + 1 - 2 * n)) :=
        (List.take_append_drop ..).symm
      _ = _ := by
        rw [List.drop_drop, ← e2, ← List.drop_take, List.take_take, ← e1]
        congr 2
        omega
  unfold window
  rw [hs, foldr_optOp_append o ha]

theorem length_scanStep (o : Word → Word → Word) (d : Nat) (v : List (Option Word)) :
    (scanStep o d v).length = v.length := by simp [scanStep]

theorem getD_scanStep (o : Word → Word → Word) (d : Nat) (v : List (Option Word)) {k : Nat} (hk : k < v.length) :
    (scanStep o d v).getD k none = if k < d then v.getD k none else optOp o (v.getD (k - d) none) (v.getD k none) := by
  simp [scanStep, List.getD_eq_getElem?_getD, hk]

/-- The log-steps of SCAN double the window that each position holds (R201). -/
theorem scanSteps_windows (o : Word → Word → Word) (ha : ∀ x y z, o (o x y) z = o x (o y z)) (l : List (Option Word))
    (n d : Nat) (v : List (Option Word)) (hl : v.length = l.length)
    (hv : ∀ k, k < l.length → v.getD k none = window o l d k) :
    ∀ k, k < l.length → (scanSteps o n d v).getD k none = window o l (2 ^ n * d) k := by
  induction n generalizing d v with
  | zero =>
    intro k hk
    rw [pow_zero, one_mul]
    exact hv k hk
  | succ n ih =>
    intro k hk
    rw [scanSteps, ih (2 * d) (scanStep o d v) (by rw [length_scanStep, hl]) (fun k hk => ?_) k hk]
    · congr 1
      ring
    · rw [getD_scanStep o d v (by omega)]
      split
      · rename_i h
        rw [hv k hk]
        unfold window
        rw [show k + 1 - d = k + 1 - 2 * d by omega]
      · rename_i h
        rw [hv k hk, hv (k - d) (by omega), window_add o ha l (by omega)]

theorem scanSteps_total (o : Word → Word → Word) (ha : ∀ x y z, o (o x y) z = o x (o y z)) (n : Nat)
    (l : List (Option Word)) (hl : l.length = 2 ^ n) {k : Nat} (hk : k < 2 ^ n) :
    (scanSteps o n 1 l).getD k none = (l.take (k + 1)).foldr (optOp o) none := by
  rw [scanSteps_windows o ha l n 1 l rfl (fun k hk => ?_) k (by omega), mul_one]
  · unfold window
    rw [show k + 1 - 2 ^ n = 0 by omega, List.drop_zero]
  · unfold window
    rw [Nat.add_sub_cancel, List.take_add_one, List.drop_append_of_le_length (by simp; omega)]
    rw [List.drop_eq_nil_of_le (by simp), List.nil_append, List.getElem?_eq_getElem hk, List.getD_eq_getElem _ _ hk]
    exact (optOp_none_right o _).symm

theorem laneAt_filter (cs : List Lane) {p : Nat → Bool} {q : Nat} (h : p q = true) :
    laneAt (cs.filter fun c => p c.pos) q = laneAt cs q := by
  unfold laneAt
  rw [List.find?_filter]
  congr 1
  funext c
  by_cases hc : c.pos = q
  · simp [hc, h]
  · simp [hc]

/-- The values at or below a position are those of the contributors there. -/
theorem laneVals_take (o : Word → Word → Word) (ha : ∀ x y z, o (o x y) z = o x (o y z)) (w k : Nat) (cs : List Lane)
    (hk : k < w) : ((laneVals w cs).take (k + 1)).foldr (optOp o) none =
      (laneVals w (cs.filter fun c => decide (c.pos ≤ k))).foldr (optOp o) none := by
  rw [← List.take_append_drop (k + 1) (laneVals w (cs.filter _)), foldr_optOp_append o ha,
    foldr_none o (l := List.drop _ _), optOp_none_right]
  · congr 1
    unfold laneVals
    rw [← List.map_take, ← List.map_take]
    refine List.map_congr_left fun q hq => ?_
    rw [List.take_range, List.mem_range] at hq
    rw [laneAt_filter cs (p := fun q => decide (q ≤ k)) (by simp; omega)]
  · intro x hx
    unfold laneVals at hx
    rw [← List.map_drop] at hx
    obtain ⟨q, hq, rfl⟩ := List.mem_map.mp hx
    obtain ⟨i, hi, rfl⟩ := List.getElem_of_mem hq
    rw [List.getElem_drop, List.getElem_range, laneAt_none]
    · rfl
    · intro c hc
      have := (List.mem_filter.mp hc).2
      rw [decide_eq_true_eq] at this
      omega

theorem redRes_nil {op f : Nat} (n : Nat)
    (ha : ∀ x y z, redOp op f (redOp op f x y) z = redOp op f x (redOp op f y z)) :
    redRes op f (2 ^ n) [] = none := by
  unfold redRes
  rw [Nat.log2_two_pow, redSteps_total _ ha n _ (by simp [laneVals])]
  exact foldr_none _ fun x hx => by
    obtain ⟨q, _, rfl⟩ := List.mem_map.mp hx
    rfl

/-- The value that SCAN's log-steps leave at a position is RED's of the contributors at or below it (R201). -/
theorem scanSteps_lanes {op f : Nat} (ho : op < 6) (h2 : f ≠ 2) {n k : Nat} (cs : List Lane) (hk : k < 2 ^ n) :
    (scanSteps (redOp op f) (2 ^ n).log2 1 (laneVals (2 ^ n) cs)).getD k none =
      redRes op f (2 ^ n) (cs.filter fun c => decide (c.pos ≤ k)) := by
  have ha := (redOp_assoc_comm ho h2).1
  have hl : ∀ cs, (laneVals (2 ^ n) cs).length = 2 ^ n := fun cs => by simp [laneVals]
  unfold redRes
  rw [Nat.log2_two_pow, scanSteps_total _ ha n _ (hl _) hk, laneVals_take _ ha _ _ cs hk,
    redSteps_total _ ha n _ (hl _)]

theorem scanRes_spec {op f : Nat} (ho : op < 6) (h2 : f ≠ 2) (x : Bool) {n k : Nat} {cs : List Lane}
    (hn : (cs.map (·.pos)).Nodup) (hw : ∀ c ∈ cs, c.pos < 2 ^ n) (hk : k < 2 ^ n) :
    scanRes op f x (2 ^ n) cs k =
      (match cs.filter fun c => if x then decide (c.pos < k) else decide (c.pos ≤ k) with
      | [] => none
      | c :: l => some ((l.map fun y => loWord y.a).foldl (redOp op f) (loWord c.a))) := by
  have hr : scanRes op f x (2 ^ n) cs k =
      redRes op f (2 ^ n) (cs.filter fun c => if x then decide (c.pos < k) else decide (c.pos ≤ k)) := by
    unfold scanRes
    dsimp only
    cases x with
    | false => exact scanSteps_lanes ho h2 cs hk
    | true =>
      rw [if_pos rfl]
      by_cases h0 : k = 0
      · subst h0
        rw [if_pos rfl, List.filter_eq_nil_iff.mpr fun c _ => by simp, redRes_nil n (redOp_assoc_comm ho h2).1]
      · rw [if_neg h0, scanSteps_lanes ho h2 cs (by omega)]
        congr 1
        refine List.filter_congr fun c _ => ?_
        rw [if_pos rfl]
        exact decide_eq_decide.mpr (by omega)
  rw [hr]
  have hs := List.filter_sublist (l := cs) (p := fun c => if x then decide (c.pos < k) else decide (c.pos ≤ k))
  obtain ⟨ha, hc⟩ := redOp_assoc_comm ho h2
  cases e : cs.filter fun c => if x then decide (c.pos < k) else decide (c.pos ≤ k) with
  | nil => exact redRes_nil n ha
  | cons c l =>
    rw [e] at hs
    exact redRes_spec op f n l c (hn.sublist (hs.map _)) (fun y hy => hw y (hs.subset hy)) ha hc

/-! ### Ranks -/

/-- In a list that a strict order sorts, a member stands at the number of those before it. -/
theorem getElem?_of_pairwise {α : Type} {lt : α → α → Bool} (hirr : ∀ x, lt x x = false)
    (hasymm : ∀ x y, lt x y = true → lt y x = false) {l : List α} (hl : l.Pairwise fun x y => lt x y = true) {c : α}
    (hc : c ∈ l) : l[(l.filter (lt · c)).length]? = some c := by
  induction l with
  | nil => exact absurd hc List.not_mem_nil
  | cons x l ih =>
    obtain ⟨hx, hl⟩ := List.pairwise_cons.mp hl
    rcases List.mem_cons.mp hc with rfl | hc
    · rw [List.filter_cons_of_neg (by rw [hirr]; exact Bool.false_ne_true),
        List.filter_eq_nil_iff.mpr fun y hy => by rw [hasymm _ _ (hx y hy)]; exact Bool.false_ne_true]
      rfl
    · rw [List.filter_cons_of_pos (p := (lt · c)) (hx c hc)]
      exact ih hl hc

theorem insertBy_perm {α : Type} (le : α → α → Bool) (a : α) (l : List α) : (insertBy le a l).Perm (a :: l) := by
  induction l with
  | nil => exact .refl _
  | cons b l ih =>
    unfold insertBy
    split
    · exact .refl _
    · exact (ih.cons b).trans (.swap a b l)

theorem sortBy_perm {α : Type} (le : α → α → Bool) (l : List α) : (sortBy le l).Perm l := by
  induction l with
  | nil => exact .refl _
  | cons a l ih => exact (insertBy_perm le a (sortBy le l)).trans (ih.cons a)

/-- A stable sort makes a list one that an order sorts, where the order follows the sort's in the list's own sequence,
and its reverse follows the sort's refusal. -/
theorem sortBy_pairwise {α : Type} {le lt : α → α → Bool}
    (htrans : ∀ x y z, lt x y = true → lt y z = true → lt x z = true)
    {l : List α} (hle : l.Pairwise fun x y => (le x y = true → lt x y = true) ∧ (le x y = false → lt y x = true)) :
    (sortBy le l).Pairwise fun x y => lt x y = true := by
  induction l with
  | nil => exact .nil
  | cons a l ih =>
    obtain ⟨ha, hl⟩ := List.pairwise_cons.mp hle
    have hm : ∀ b ∈ sortBy le l, (le a b = true → lt a b = true) ∧ (le a b = false → lt b a = true) := fun b hb =>
      ha b ((sortBy_perm le l).subset hb)
    show (insertBy le a (sortBy le l)).Pairwise _
    replace ih := ih hl
    generalize sortBy le l = k at hm ih
    induction k with
    | nil => exact List.pairwise_singleton ..
    | cons b k ihk =>
      obtain ⟨hb, hk⟩ := List.pairwise_cons.mp ih
      obtain ⟨hab, hm⟩ := List.forall_mem_cons.mp hm
      unfold insertBy
      split
      · rename_i h
        refine List.pairwise_cons.mpr ⟨fun y hy => ?_, ih⟩
        rcases List.mem_cons.mp hy with rfl | hy
        · exact hab.1 h
        · exact htrans _ _ _ (hab.1 h) (hb y hy)
      · rename_i h
        refine List.pairwise_cons.mpr ⟨fun y hy => ?_, ihk hm hk⟩
        rcases List.mem_cons.mp ((insertBy_perm le a k).subset hy) with rfl | hy
        · exact hab.2 (Bool.eq_false_iff.mpr h)
        · exact hb y hy

/-- FP32 values by sign and magnitude, every NaN at `nan` (R202, R204). -/
theorem fpRank_eq (nan : Int) (x : Word) : fpRank nan x = if 0x7F800000 < x.toNat % 2 ^ 31 then nan
    else if x.getLsbD 31 then -1 - ((x.toNat % 2 ^ 31 : Nat) : Int) else ((x.toNat % 2 ^ 31 : Nat) : Int) := by
  have hm : (x.extractLsb' 0 31).toNat = x.toNat % 2 ^ 31 := by simp
  unfold fpRank
  rw [hm]

/-- The order of TOPK's pairs (R202). -/
def topkBefore (x y : Lane) : Bool :=
  decide (fpRank (-(2 ^ 33)) (loWord y.a) < fpRank (-(2 ^ 33)) (loWord x.a) ∨
    fpRank (-(2 ^ 33)) (loWord y.a) = fpRank (-(2 ^ 33)) (loWord x.a) ∧
      (x.b.toNat < y.b.toNat ∨ x.b = y.b ∧ x.pos < y.pos))

theorem topkRes_spec (f k : Nat) (cs : List Lane) (hn : (cs.map (·.pos)).Nodup) :
    (∀ c ∈ cs, (cs.filter (topkBefore · c)).length = k % 2 ^ f → topkRes f cs k = (loWord c.a, c.b)) ∧
    (cs.length ≤ k % 2 ^ f → topkRes f cs k = (0x7FC00000, 0xFFFFFFFF)) := by
  have hb : ∀ x y : Lane, x.b = y.b ↔ x.b.toNat = y.b.toNat := fun x y => BitVec.toNat_inj.symm
  have hs : (topkOrder cs).Pairwise fun x y => topkBefore x y = true := by
    refine sortBy_pairwise (lt := topkBefore) (fun x y z => ?_) ((List.pairwise_map.mp hn).imp fun {x y} hp => ?_)
    · simp only [topkBefore, decide_eq_true_eq, hb]
      omega
    · simp only [topkBefore, decide_eq_true_eq, hb, Bool.or_eq_true, Bool.and_eq_true, beq_iff_eq, ult_iff,
        Bool.eq_false_iff, ne_eq]
      omega
  have hperm : (topkOrder cs).Perm cs := sortBy_perm _ cs
  refine ⟨fun c hc hk => ?_, fun hk => ?_⟩
  · have he : (topkOrder cs)[k % 2 ^ f]? = some c := by
      rw [← hk, ← (hperm.filter (topkBefore · c)).length_eq]
      refine getElem?_of_pairwise (fun x => ?_) (fun x y => ?_) hs (hperm.symm.subset hc)
      · simp [topkBefore]
      · simp only [topkBefore, decide_eq_true_eq, decide_eq_false_iff_not, hb]
        omega
    unfold topkRes
    rw [he]
  · have he : (topkOrder cs)[k % 2 ^ f]? = none := List.getElem?_eq_none (by rw [← hperm.length_eq] at hk; exact hk)
    unfold topkRes
    rw [he]

/-- The order of SORTKV's pairs (R204). -/
def sortBefore (f : Nat) (x y : Lane) : Bool :=
  decide (sortKey f (loWord x.a) < sortKey f (loWord y.a) ∨
    sortKey f (loWord x.a) = sortKey f (loWord y.a) ∧ x.pos < y.pos)

theorem sortRes_spec (f : Nat) {cs : List Lane} {own c : Lane} (hp : cs.Pairwise fun x y => x.pos < y.pos)
    (ho : own ∈ cs) (hc : c ∈ cs)
    (hk : (cs.filter (sortBefore f · c)).length = (cs.filter fun x => decide (x.pos < own.pos)).length) :
    sortRes f cs own = (loWord c.a, c.b) := by
  have hs : (sortBy (fun x y : Lane => decide (sortKey f (loWord x.a) ≤ sortKey f (loWord y.a))) cs).Pairwise
      fun x y => sortBefore f x y = true := by
    refine sortBy_pairwise (lt := sortBefore f) (fun x y z => ?_) (hp.imp fun {x y} h => ?_)
    · simp only [sortBefore, decide_eq_true_eq]
      omega
    · simp only [sortBefore, decide_eq_true_eq, decide_eq_false_iff_not]
      omega
  have hi : cs[(cs.filter fun x => decide (x.pos < own.pos)).length]? = some own :=
    getElem?_of_pairwise (lt := fun x y => decide (x.pos < y.pos)) (fun x => by simp)
      (fun x y h => by simp only [decide_eq_true_eq, decide_eq_false_iff_not] at h ⊢; omega)
      (hp.imp fun h => decide_eq_true h) ho
  have hx : (cs.map (·.pos)).idxOf own.pos = (cs.filter fun x => decide (x.pos < own.pos)).length := by
    obtain ⟨hlt, he⟩ := List.getElem?_eq_some_iff.mp hi
    have hnd : (cs.map (·.pos)).Nodup := List.pairwise_map.mpr (hp.imp fun h => Nat.ne_of_lt h)
    have := hnd.idxOf_getElem (cs.filter fun x => decide (x.pos < own.pos)).length (by rw [List.length_map]; exact hlt)
    rwa [List.getElem_map, he] at this
  have he := getElem?_of_pairwise (lt := sortBefore f) (fun x => by simp [sortBefore])
    (fun x y => by simp only [sortBefore, decide_eq_true_eq, decide_eq_false_iff_not]; omega) hs
    ((sortBy_perm _ cs).symm.subset hc)
  rw [((sortBy_perm _ cs).filter (sortBefore f · c)).length_eq, hk] at he
  unfold sortRes
  dsimp only
  rw [hx, List.getD_eq_getElem?_getD, he]
  rfl

/-! ### The obligation -/

/-- Settles O24: each of these instructions gathers, and what each result is, by the lemmas about the results. -/
theorem gatheringJoinsAnInstance : Obligations.GatheringJoinsAnInstance := by
  unfold Obligations.GatheringJoinsAnInstance
  refine ⟨fun e d a b f o v x => ?_, fun e d a b f o v x w cs own => ?_, fun cs own k hk => ?_, voteRes_spec,
    fun f w cs own q hn hf hq => ?_, fun op f n cs c hn hw ho h2 => ?_, bcastRes_spec,
    fun op f n k x cs hn hw hk ho h2 => scanRes_spec ho h2 x hn hw hk, fun f k cs hn => ?_,
    fun f cs own hp ho => ?_, fun op f x0 x1 x2 x3 => ?_, fun f x y => ?_⟩
  · exact ⟨gathers_of_gatherAct fun _ => rfl, gathers_of_gatherAct fun _ => rfl, gathers_of_gatherAct fun _ => rfl,
      gathers_of_gatherAct fun _ => rfl, gathers_of_gatherAct fun _ => rfl, gathers_of_gatherAct fun _ => rfl,
      gathers_of_gatherAct fun _ => rfl, gathers_of_gatherAct fun _ => rfl, gathers_of_gatherAct fun _ => rfl,
      gathers_of_gatherAct fun _ => rfl⟩
  · exact ⟨rfl, rfl, rfl, rfl, rfl, rfl, rfl, rfl, rfl, rfl⟩
  · refine ⟨?_, ?_, ?_⟩
    · unfold ballotRes
      rw [laneMask_bit _ _ _ hk]
      simp
    · unfold matchRes
      rw [laneMask_bit _ _ _ hk]
      simp
    · unfold cdetectRes
      rw [laneMask_bit _ _ _ hk]
      simp only [Bool.and_eq_true, decide_eq_true_eq, beq_iff_eq]
      exact exists_congr fun c => and_congr_right fun _ => and_congr_right fun h => by rw [h]
  · rw [hq]
    exact shflRes_spec f w cs own hn
  · obtain ⟨ha, hc⟩ := redOp_assoc_comm ho h2
    exact ⟨redRes_spec op f n cs c hn hw ha hc, redRes_nil n ha⟩
  · intro rank before
    have hr : rank = fpRank (-(2 ^ 33)) := by
      funext x
      exact (fpRank_eq _ x).symm
    have hb : before = topkBefore := by
      funext x y
      show decide _ = decide _
      rw [hr]
    rw [hb]
    exact topkRes_spec f k cs hn
  · intro key before c hc hk
    have hkey : key = sortKey f := by
      funext x
      show _ = sortKey f x
      unfold sortKey
      rw [fpRank_eq]
    have hb : before = sortBefore f := by
      funext x y
      show decide _ = decide _
      rw [hkey]
    rw [hb] at hk
    exact sortRes_spec f hp ho hc hk
  · have hlo : ∀ x : Word, loWord (x.setWidth 64) = x := fun x => by simp [loWord]
    have hv : laneVals 4 [⟨0, x0.setWidth 64, 0⟩, ⟨1, x1.setWidth 64, 0⟩, ⟨2, x2.setWidth 64, 0⟩,
        ⟨3, x3.setWidth 64, 0⟩] = [some x0, some x1, some x2, some x3] := by
      simp [laneVals, laneAt, hlo, List.range_succ]
    have h4 : Nat.log2 4 = 2 := by decide
    unfold redRes scanRes
    rw [hv, h4]
    exact ⟨rfl, rfl⟩
  · refine ⟨fun h => redOp_add h x y, redOp_min_signed x y, redOp_min_unsigned (by decide) (by decide) x y,
      redOp_max_signed x y, redOp_max_unsigned (by decide) (by decide) x y, rfl, rfl, rfl, rfl, rfl, rfl⟩

end Sys2Proof.Machine
end

section
/-! PROOFS. Floating-point arithmetic, dot products, packing and scaling (R121 to R138). O11, O13. -/

namespace Sys2Proof.Machine

/-! ### Inputs -/

/-- What an input is, flushed or not (R126). -/
theorem Fmt.input_eq (f : Fmt) (ftz : Bool) (b : Nat) : f.input ftz b =
    if ftz && f.flushes && f.subnormal b then .zero (b / 2 ^ (f.width - 1) % 2 == 1) else f.dec b := rfl

/-! ### Special operands -/

theorem isZero_of_holds {v : Val} (h : v.plain = true) (h0 : v.holds 0) : v.isZero = true := by
  obtain ⟨n, m, e, rfl⟩ := v.plain_cases h
  rw [Val.holds_fin] at h0
  have hp : (2 : ℝ) ^ e ≠ 0 := (zpow_pos two_pos e).ne'
  have hs : (if n then (-1 : ℝ) else 1) ≠ 0 := by cases n <;> norm_num
  have hm : m = 0 := by
    have := (mul_eq_zero.mp h0.symm).resolve_left hs
    exact_mod_cast (mul_eq_zero.mp this).resolve_right hp
  subst hm
  rfl

theorem add_inf {rd : Bool} {n : Bool} {y : Val} (h : y.plain = true) : Val.add rd (.inf n) y = some (.inf n) := by
  obtain ⟨_, _, _, rfl⟩ := y.plain_cases h
  rfl

theorem add_inf_inf (rd n : Bool) : Val.add rd (.inf n) (.inf !n) = none := by
  cases n <;> rfl

theorem mul_inf_zero {n : Bool} {y : Val} (h : y.isZero = true) : Val.mul (.inf n) y = none := by
  unfold Val.mul
  rw [h, Bool.or_true]
  rfl

/-- A NaN operand gives the canonical NaN (R129). -/
theorem fp_nan (f : Fmt) (mode : Nat) (ftz : Bool) (a b : Nat)
    (h : (f.input ftz a).isNan = true ∨ (f.input ftz b).isNan = true) :
    let s := sigNV [f.input ftz a, f.input ftz b]
    fpAdd f mode ftz a b = (f.nanBits, s) ∧ fpSub f mode ftz a b = (f.nanBits, s) ∧
      fpMul f mode ftz a b = (f.nanBits, s) := by
  have hb : ((f.input ftz a).isNan || (f.input ftz b).isNan) = true := by simpa using h
  unfold fpAdd fpSub fpMul
  exact ⟨if_pos hb, if_pos hb, if_pos hb⟩

/-- An infinite first operand (R129). -/
theorem fp_inf (f : Fmt) (mode : Nat) (ftz : Bool) (a b z : Nat) (Y : ℝ) {n : Bool} (ha : f.input ftz a = .inf n) :
    (f.input ftz b = .inf (!n) → fpAdd f mode ftz a b = (f.nanBits, NV)) ∧
    (f.input ftz b = .inf n → fpSub f mode ftz a b = (f.nanBits, NV)) ∧
    ((f.input ftz b).holds Y → fpAdd f mode ftz a b = roundTo f mode false ftz (.inf n)) ∧
    ((f.input ftz b).holds 0 → fpMul f mode ftz a b = (f.nanBits, NV) ∧ fpFma f mode ftz a b z = (f.nanBits, NV)) := by
  have hn : (Val.inf n).isNan = false := rfl
  refine ⟨fun hb => ?_, fun hb => ?_, fun hb => ?_, fun hb => ?_⟩
  · unfold fpAdd
    dsimp only
    rw [ha, hb, add_inf_inf]
    rfl
  · unfold fpSub
    dsimp only
    rw [ha, hb, show (Val.inf n).neg = .inf !n from rfl, add_inf_inf]
    rfl
  · have hp := input_plain f ftz b Y hb
    unfold fpAdd
    dsimp only
    rw [ha, hn, plain_isNan hp, add_inf hp]
    show arith f mode ftz [_, _] (some _) = _
    unfold arith
    dsimp only
    rw [List.any_cons, List.any_cons, List.any_nil, hn, plain_isNan hp]
    rfl
  · have hp := input_plain f ftz b 0 hb
    have hz := isZero_of_holds hp hb
    unfold fpMul fpFma
    dsimp only
    rw [ha, hn, plain_isNan hp, mul_inf_zero hz]
    exact ⟨rfl, rfl⟩

/-! ### The control word of PACK -/

theorem scaleE_eq (c : Word) : scaleE c = c.toNat % 256 := by
  unfold scaleE
  simp

theorem packShift_eq (f : BitVec 2) (c : Word) : packShift f c =
    if f = 2 then 8 * ((c.toNat / 256) % 4) else if f = 3 then 0 else 16 * ((c.toNat / 256) % 2) := by
  have hs : (c.extractLsb' 8 3).toNat = c.toNat / 256 % 8 := by simp [Nat.shiftRight_eq_div_pow]
  unfold packShift
  dsimp only
  rw [hs, Nat.mod_mod_of_dvd _ (by norm_num : 4 ∣ 8), Nat.mod_mod_of_dvd _ (by norm_num : 2 ∣ 8)]

/-! ### The obligations -/

/-- Settles O11: each instruction is one computing on registers, and the numbers are those of the lemmas about
formats. -/
theorem floatArithmeticMergesItsFlags : Obligations.FloatArithmeticMergesItsFlags := by
  unfold Obligations.FloatArithmeticMergesItsFlags
  refine ⟨fun e d a b f p ty c => ⟨computes_of_alu fun _ => rfl, computes_of_alu fun _ => rfl,
    computes_of_alu fun _ => rfl, computes_of_alu fun _ => rfl, computes_of_alu fun _ => rfl,
    computes_of_alu fun _ => rfl, computes_of_alu fun _ => rfl⟩, fun f b => ?_, fun f mode ftz a b z X Y Z hm => ?_⟩
  · obtain ⟨h1, h2, h3, h4, h5⟩ := dec_spec f b
    refine ⟨h1, h2, h3, h4, h5, fun hf hE hM => ?_, fun h => ?_, rfl⟩
    · rw [f.input_eq, hf]
      exact if_pos (by simp [Fmt.subnormal, hE, hM])
    · rw [f.input_eq]
      exact if_neg (by simp only [Fmt.subnormal]; rcases h with h | h | h <;> simp [h])
  · refine ⟨fun hx hy => ?_, fp_nan f mode ftz a b, fun n hn => fp_inf f mode ftz a b z Y hn⟩
    obtain ⟨h1, h2, h3, h4⟩ := fpAdd_spec f mode hm ftz a b X Y hx hy
    obtain ⟨h5, h6, _, _⟩ := fpMul_spec f mode hm ftz a b a X Y X hx hy hx
    obtain ⟨c0, c1, c2, c3, c4, c5⟩ := fpCmp_spec f ftz a b X Y hx hy
    refine ⟨h1, h2, h3, h4, h5, h6, fun hz => (fpMul_spec f mode hm ftz a b z X Y Z hx hy hz).2.2.1,
      fun hz => (fpMul_spec f mode hm ftz a b z X Y Z hx hy hz).2.2.2, ?_, ?_, ?_, ?_, c4, c5⟩
    · rw [c0, decide_eq_true_eq]
    · rw [c1, decide_eq_true_eq]
    · rw [c2, decide_eq_true_eq]
    · rw [c3]

/-- Settles O13. -/
theorem dotProductsPackingAndScaling : Obligations.DotProductsPackingAndScaling := by
  unfold Obligations.DotProductsPackingAndScaling
  refine ⟨fun e d a b f => ⟨computes_of_alu fun _ => rfl, computes_of_alu fun _ => rfl, computes_of_alu fun _ => rfl,
    computes_of_alu fun _ => rfl, computes_of_alu fun _ => rfl⟩, fun w n sat z a b _ => dotInt_spec w n sat z a b,
    fun f n mode ftz z a b X Y Z hm => dotFloat_spec f n mode hm ftz z a b X Y Z,
    fun f mode sat ftz c x X hm => ⟨fun he => ⟨fun hx => ?_, fun hx h0 => ?_⟩, fun he => ?_⟩,
    fun f mode sat ftz old c x hm => ?_⟩
  · exact (packElem_spec f mode hm sat ftz _ he x X hx).1
  · exact ⟨(unpkElem_spec f mode hm ftz _ he x X hx).1 h0, (sclElem_spec f mode hm ftz c he x X hx).1 h0⟩
  · unfold packElem unpkElem sclElem
    rw [he]
    refine ⟨if_pos rfl, ?_, if_pos rfl⟩
    dsimp only
    rw [if_pos (by simp)]
  · have h := packRes_spec f mode hm sat ftz old c x
    rw [packShift_eq, scaleE_eq] at h
    exact h

end Sys2Proof.Machine
end

section
/-! PROOFS. Conversions and special functions (R132 to R134). O12. -/

namespace Sys2Proof.Machine

/-! ### Powers of two and their logarithms -/

theorem two_zpow_pos (e : Int) : (0 : ℝ) < 2 ^ e := zpow_pos two_pos e

theorem log2_le {m : Nat} (hm : m ≠ 0) : ((2 : ℝ) ^ m.log2 ≤ m) := by
  exact_mod_cast Nat.log2_self_le hm

/-- A number other than 0 is below a power of two where its leading bit is (R134). -/
theorem below2_iff {m : Nat} (hm : m ≠ 0) (e j : Int) : below2 m e j = true ↔ (m : ℝ) * 2 ^ e < 2 ^ j := by
  have hlo : (2 : ℝ) ^ ((m.log2 : Int) + e) ≤ m * 2 ^ e := by
    rw [zpow_add₀ two_ne_zero, zpow_natCast]
    exact mul_le_mul_of_nonneg_right (log2_le hm) (two_zpow_pos e).le
  have hhi : (m : ℝ) * 2 ^ e < 2 ^ ((m.log2 : Int) + 1 + e) := by
    rw [zpow_add₀ two_ne_zero]
    refine mul_lt_mul_of_pos_right ?_ (two_zpow_pos e)
    exact_mod_cast Nat.lt_log2_self
  unfold below2
  rw [decide_eq_true_eq]
  refine ⟨fun h => hhi.trans_le (zpow_le_zpow_right₀ one_le_two (by omega)), fun h => ?_⟩
  exact (zpow_lt_zpow_iff_right₀ one_lt_two).mp (hlo.trans_lt h)

/-- A whole number in fixed point is exact. -/
theorem toFix_whole (p : Nat) {m k : Nat} {e : Int} (h : (m : ℝ) * 2 ^ e = k) : toFix p m e = k * 2 ^ p := by
  unfold toFix
  split
  · rename_i he
    obtain ⟨j, hj⟩ := Int.eq_ofNat_of_zero_le he
    rw [hj]
    have : ((m * 2 ^ j : Nat) : ℝ) = ((k * 2 ^ p : Nat) : ℝ) := by
      push_cast
      rw [← h, mul_assoc, ← zpow_natCast, ← zpow_natCast, ← zpow_add₀ two_ne_zero, hj]
    exact_mod_cast this
  · rename_i he
    obtain ⟨j, hj⟩ := Int.eq_ofNat_of_zero_le (by omega : 0 ≤ -(e + p))
    rw [hj]
    have hm : m = k * 2 ^ p * 2 ^ j := by
      have : (m : ℝ) = ((k * 2 ^ p * 2 ^ j : Nat) : ℝ) := by
        push_cast
        rw [← h, mul_assoc, mul_assoc, ← zpow_natCast, ← zpow_natCast, ← zpow_add₀ two_ne_zero,
          ← zpow_add₀ two_ne_zero, show e + ((p : Int) + j) = 0 by omega, zpow_zero, mul_one]
      exact_mod_cast this
    rw [hm]
    exact Nat.mul_div_cancel _ (by positivity)

/-- A whole number, by its sign and magnitude. -/
theorem holds_int {neg : Bool} {m : Nat} {e n : Int} (h : (Val.fin neg m e false).holds n) :
    (m : ℝ) * 2 ^ e = n.natAbs ∧ n = if neg then -(n.natAbs : Int) else n.natAbs := by
  rw [Val.holds_fin] at h
  have h0 : 0 ≤ (m : ℝ) * 2 ^ e := mul_nonneg (Nat.cast_nonneg m) (two_zpow_pos e).le
  cases neg with
  | false =>
    have hn : 0 ≤ n := by
      have : (0 : ℝ) ≤ n := by
        rw [h]
        simpa using h0
      exact_mod_cast this
    obtain ⟨k, rfl⟩ := Int.eq_ofNat_of_zero_le hn
    exact ⟨by simpa using h.symm, rfl⟩
  | true =>
    have hn : n ≤ 0 := by
      have : (n : ℝ) ≤ 0 := by
        rw [h]
        simpa using h0
      exact_mod_cast this
    obtain ⟨k, hk⟩ := Int.eq_ofNat_of_zero_le (by omega : 0 ≤ -n)
    obtain rfl : n = -(k : Int) := by omega
    refine ⟨?_, by simp⟩
    simpa using h.symm

/-- The power of two of a whole number below 256 in magnitude is exact (R134). -/
theorem exp2Val_whole {neg : Bool} {m : Nat} {e n : Int} (h : (Val.fin neg m e false).holds n) (hn : n.natAbs < 256) :
    exp2Val neg m e = .fin false 1 n false := by
  obtain ⟨hk, hs⟩ := holds_int h
  unfold exp2Val
  by_cases hm : m = 0
  · have h0 : n = 0 := by
      rw [hm, Nat.cast_zero, zero_mul] at hk
      have : n.natAbs = 0 := by exact_mod_cast hk.symm
      omega
    rw [if_pos hm, h0]
  · have hk1 : (1 : ℝ) ≤ n.natAbs := by
      have hp : (0 : ℝ) < n.natAbs := hk ▸ mul_pos (Nat.cast_pos.mpr (Nat.pos_of_ne_zero hm)) (two_zpow_pos e)
      exact_mod_cast (Nat.cast_pos.mp hp)
    have hlow : below2 m e (-100) = false := Bool.eq_false_iff.mpr fun hb => by
      rw [below2_iff hm, hk] at hb
      have : (2 : ℝ) ^ (-100 : Int) ≤ 1 := zpow_le_one_of_nonpos₀ one_le_two (by norm_num)
      linarith
    have hhigh : below2 m e 8 = true := by
      rw [below2_iff hm, hk]
      exact_mod_cast hn
    rw [if_neg hm, hlow, hhigh, toFix_whole fixP hk]
    generalize fixP = p
    have hx : (if neg then -((n.natAbs * 2 ^ p : Nat) : Int) else ((n.natAbs * 2 ^ p : Nat) : Int)) = n * 2 ^ p := by
      rw [hs]
      cases neg <;> simp
    have hp : (2 : Int) ^ p ≠ 0 := by positivity
    dsimp only
    rw [hx, Int.mul_ediv_cancel _ hp, Int.mul_emod_left]
    rfl

/-- The logarithm of a power of two is exact (R134). -/
theorem log2Val_pow {m : Nat} {e n : Int} (h : (m : ℝ) * 2 ^ e = 2 ^ n) :
    log2Val m e = .fin (n < 0) n.natAbs 0 false := by
  have hm : (m : ℝ) = 2 ^ (n - e) := by
    rw [zpow_sub₀ two_ne_zero, eq_div_iff (two_zpow_pos e).ne']
    exact h
  have hj : 0 ≤ n - e := by
    by_contra hlt
    have h1 : (2 : ℝ) ^ (n - e) < 1 := zpow_lt_one_of_neg₀ one_lt_two (by omega)
    rw [← hm] at h1
    have h2 : (0 : ℝ) < m := by
      rw [hm]
      exact two_zpow_pos _
    have : m < 1 := by exact_mod_cast h1
    have : 0 < m := by exact_mod_cast h2
    omega
  obtain ⟨j, hj⟩ := Int.eq_ofNat_of_zero_le hj
  have hmj : m = 2 ^ j := by
    rw [hj] at hm
    exact_mod_cast hm
  have hl : m.log2 = j := by rw [hmj, Nat.log2_two_pow]
  have hn : (j : Int) + e = n := by omega
  unfold log2Val
  rw [hl, if_pos hmj]
  rw [hn]

/-- A special function without flags of its own rounds its value. -/
theorem fpSpecial_rounds {fn : SFn} {f : Fmt} {ftz : Bool} {a : Nat} {v : Val} {x : ℝ}
    (hv : fn.val (f.input ftz a) = (v, 0)) (hp : v.plain = true) (hx : v.holds x) (h0 : x ≠ 0) :
    f.RoundTo 0 false ftz x (fpSpecial fn f 0 ftz a) := by
  have he : fpSpecial fn f 0 ftz a = roundTo f 0 false ftz v := by
    unfold fpSpecial
    rw [hv]
    simp
  rw [he]
  exact (roundTo_plain f 0 (by norm_num) false ftz v x hp hx).1 h0

theorem holds_pow_sign {neg : Bool} {m : Nat} {e n : Int} (h : (Val.fin neg m e false).holds ((2 : ℝ) ^ n)) :
    neg = false ∧ (m : ℝ) * 2 ^ e = 2 ^ n := by
  rw [Val.holds_fin] at h
  cases neg with
  | false => exact ⟨rfl, by simpa using h.symm⟩
  | true =>
    have h0 : 0 ≤ (m : ℝ) * 2 ^ e := mul_nonneg (Nat.cast_nonneg m) (two_zpow_pos e).le
    have h1 := two_zpow_pos n
    rw [h, if_pos rfl] at h1
    linarith

theorem fpSpecial_exact (ftz : Bool) (a : Nat) (n : Int) :
    ((Fmt.fp32.input ftz a).holds n → n.natAbs < 256 →
      Fmt.fp32.RoundTo 0 false ftz ((2 : ℝ) ^ n) (fpSpecial .ex2 .fp32 0 ftz a)) ∧
    ((Fmt.fp32.input ftz a).holds ((2 : ℝ) ^ n) → n ≠ 0 →
      Fmt.fp32.RoundTo 0 false ftz n (fpSpecial .lg2 .fp32 0 ftz a)) := by
  refine ⟨fun h hn => ?_, fun h hn => ?_⟩
  · obtain ⟨neg, m, e, hv⟩ := Val.plain_cases (input_plain _ _ _ _ h)
    rw [hv] at h
    refine fpSpecial_rounds (v := .fin false 1 n false) ?_ rfl (Val.holds_fin.mpr (by simp)) (two_zpow_pos n).ne'
    rw [hv]
    exact congrArg (·, (0 : Word)) (exp2Val_whole h hn)
  · obtain ⟨neg, m, e, hv⟩ := Val.plain_cases (input_plain _ _ _ _ h)
    rw [hv] at h
    obtain ⟨rfl, hk⟩ := holds_pow_sign h
    refine fpSpecial_rounds (v := .fin (n < 0) n.natAbs 0 false) ?_ rfl (Val.holds_fin.mpr ?_) (by exact_mod_cast hn)
    · have hm : m ≠ 0 := fun e0 => by
        rw [e0, Nat.cast_zero, zero_mul] at hk
        exact (two_zpow_pos n).ne hk
      rw [hv, ← log2Val_pow hk]
      show (if m = 0 then _ else if false = true then _ else (log2Val m e, (0 : Word))) = _
      rw [if_neg hm, if_neg Bool.false_ne_true]
    · rw [zpow_zero, mul_one, Nat.cast_natAbs]
      by_cases hlt : n < 0
      · rw [decide_eq_true hlt, if_pos rfl, abs_of_neg hlt]
        simp
      · rw [decide_eq_false hlt, if_neg Bool.false_ne_true, abs_of_nonneg (not_lt.mp hlt)]
        simp

/-! ### Special operands -/

theorem fpCvt_nan (fr f : Fmt) (mode : Nat) (sat ftz : Bool) (a : Nat) (h : (fr.input ftz a).isNan = true) :
    (fpCvt fr f mode sat ftz a).1 = f.nanBits := by
  unfold fpCvt
  dsimp only
  cases hv : fr.input ftz a with
  | nan s => rfl
  | inf n =>
    rw [hv] at h
    exact absurd h Bool.false_ne_true
  | fin n m e s =>
    rw [hv] at h
    exact absurd h Bool.false_ne_true

theorem fpToInt_nan (f : Fmt) (mode : Nat) (ftz : Bool) (lo hi : Int) (a : Nat) (h : (f.input ftz a).isNan = true) :
    fpToInt f mode ftz lo hi a = (0, NV) := by
  unfold fpToInt
  cases hv : f.input ftz a with
  | nan s => rfl
  | inf n =>
    rw [hv] at h
    exact absurd h Bool.false_ne_true
  | fin n m e s =>
    rw [hv] at h
    exact absurd h Bool.false_ne_true

/-- Settles O12: each instruction is one computing on registers, and the numbers are those of the lemmas about
conversions and special functions. -/
theorem conversionsAndSpecialFunctions : Obligations.ConversionsAndSpecialFunctions := by
  unfold Obligations.ConversionsAndSpecialFunctions
  refine ⟨fun e d a fr tt m k f => ⟨computes_of_alu fun _ => rfl, computes_of_alu fun _ => rfl,
    computes_of_alu fun _ => rfl, computes_of_alu fun _ => rfl, computes_of_alu fun _ => rfl,
      computes_of_alu fun _ => rfl,
    computes_of_alu fun _ => rfl, computes_of_alu fun _ => rfl, computes_of_alu fun _ => rfl,
    computes_of_alu fun _ => rfl⟩, fun fr f mode sat ftz a X hm => ⟨fpCvt_nan fr f mode sat ftz a, fun hx => ?_⟩,
    fpSpecial_exact, fun f mode sat ftz n hm => intVal_spec f mode hm sat ftz n,
    fun f mode ftz lo hi a X hm => ⟨fpToInt_nan f mode ftz lo hi a, fun n hn => ?_, fun hx => ?_⟩, fun n s => ?_,
    fun m e s h0 => ?_⟩
  · obtain ⟨h1, h2⟩ := fpCvt_spec fr f mode hm sat ftz a X hx
    obtain ⟨h3, h4⟩ := fpSpecial_spec fr mode hm ftz a X hx
    exact ⟨h1, h2, h3, h4⟩
  · unfold fpToInt
    rw [hn]
  · exact fpToInt_spec f mode hm ftz lo hi a X hx
  · exact ⟨fun fn => by cases fn <;> rfl, rfl, rfl, rfl, rfl, rfl, rfl, rfl, rfl, rfl, rfl, rfl, rfl, rfl, rfl, rfl,
      rfl⟩
  · exact ⟨if_neg h0, if_neg h0, if_neg h0⟩

end Sys2Proof.Machine
end

section
/-! PROOFS. Tile instructions, and the tiles that they make (R215 to R259). O27. -/

namespace Sys2Proof.Machine

/-! ### Making, moving and converting (R235, R237) -/

/-- TZERO checks the format code alone. -/
theorem tzeroJob_zero (td : Nat) (w : Word) (h : (w.extractLsb' 16 4).toNat < 9) :
    ∃ j, tzeroJob td 0 w = .ok j ∧ j.td = some td ∧ j.result = Tile.mkZ (w.extractLsb' 16 4).toNat
      ((w.extractLsb' 0 7).toNat + 1) ((w.extractLsb' 8 7).toNat + 1) := by
  have hc : tileChecks [(decide (8 < (w.extractLsb' 16 4).toNat) || ((0 : Nat) == 1 &&
      !fmtAcc (w.extractLsb' 16 4).toNat), 3, td)] = .ok () := by
    rw [decide_eq_false (by omega)]
    rfl
  unfold tzeroJob
  dsimp only
  rw [hc]
  exact ⟨_, rfl, rfl, rfl⟩

theorem tzeroJob_acc (td : Nat) (w : Word) (h : (w.extractLsb' 16 4).toNat < 9)
    (ha : fmtAcc (w.extractLsb' 16 4).toNat = true) :
    ∃ j, tzeroJob td 1 w = .ok j ∧ j.td = some td ∧ j.result = Tile.mkD (w.extractLsb' 16 4).toNat .acc
      ((w.extractLsb' 0 7).toNat + 1) ((w.extractLsb' 8 7).toNat + 1)
      (matOf ((w.extractLsb' 0 7).toNat + 1) ((w.extractLsb' 8 7).toNat + 1) fun _ _ => 0) := by
  have hc : tileChecks [(decide (8 < (w.extractLsb' 16 4).toNat) || ((1 : Nat) == 1 &&
      !fmtAcc (w.extractLsb' 16 4).toNat), 3, td)] = .ok () := by
    rw [decide_eq_false (by omega), ha]
    rfl
  unfold tzeroJob
  dsimp only
  rw [hc]
  exact ⟨_, rfl, rfl, rfl⟩

theorem moveRows_same {x : Tile} {loc : TLoc} (h : x.fmt ≠ 7 ∨ (x.loc = .acc ↔ loc = .acc)) :
    moveRows x loc = x.rows := by
  unfold moveRows
  refine if_neg fun hc => ?_
  rw [Bool.and_eq_true, decide_eq_true_eq, bne_iff_ne] at hc
  obtain ⟨h7, hne⟩ := hc
  exact hne (Bool.eq_iff_iff.mpr (by simpa using h.resolve_left (not_not_intro h7)))

section
variable {x : Tile} {r c : Nat} (hr : r < x.rows.length) (hc : c < x.n) (hl : ∀ l ∈ x.rows, l.length = x.n)
include hr hc hl

theorem length_row : c < (x.rows.getD r []).length := by
  rw [List.getD_eq_getElem _ _ hr, hl _ (List.getElem_mem hr)]
  exact hc

theorem elemOf_matVals (f : Nat) (acc : Bool) :
    elemOf (matVals f acc x.rows) r c = elemVal f acc (elemOf x.rows r c) :=
  elemOf_map _ _ _ _ hr (length_row hr hc hl)

/-- An element whose value goes through an operation and is encoded again. -/
theorem elemOf_enc (f : Nat) (acc : Bool) (g : Val → Nat) :
    elemOf ((matVals f acc x.rows).map fun l => l.map g) r c = g (elemVal f acc (elemOf x.rows r c)) := by
  have hr' : r < (matVals f acc x.rows).length := by
    unfold matVals
    rw [List.length_map]
    exact hr
  have hc' : c < ((matVals f acc x.rows).getD r []).length := by
    have := length_row hr hc hl
    rw [List.getD_eq_getElem _ _ hr] at this
    rw [List.getD_eq_getElem _ _ hr']
    simpa [matVals] using this
  rw [elemOf_map _ _ _ _ hr' hc', elemOf_matVals hr hc hl]

/-- The elements of a dense tile transposed, copied, converted and scaled (R235, R237, R255). -/
theorem dense_elements (hk : x.kind = .d) (loc : TLoc) (f : Nat) (sat : Bool) (v : Val) :
    elemOf x.transposed.rows c r = elemOf x.rows r c ∧ x.transposed.m = x.n ∧ x.transposed.n = x.m ∧
    ((x.fmt ≠ 7 ∨ (x.loc = .acc ↔ loc = .acc)) → elemOf (copyTile x loc).1.rows r c = elemOf x.rows r c) ∧
    elemOf (convertTile x f loc sat).1.rows r c =
      elemEnc f (loc == .acc) sat (elemVal x.fmt (x.loc == .acc) (elemOf x.rows r c)) ∧
    (v.isZero = false → elemOf (scaleTile x v sat).rows r c =
      elemEnc x.fmt false sat (vmul v (elemVal x.fmt false (elemOf x.rows r c)))) := by
  have ht : x.transposed = { x with m := x.n, n := x.m, rows := matT x.n x.rows } := by
    unfold Tile.transposed
    rw [hk]
  have hv : (convertTile x f loc sat).1.rows = matEnc f (loc == .acc) sat (matVals x.fmt (x.loc == .acc) x.rows) := by
    unfold convertTile
    rw [hk]
    rfl
  refine ⟨?_, by rw [ht], by rw [ht], fun h => ?_, ?_, fun h0 => ?_⟩
  · rw [ht]
    exact elemOf_matT _ _ _ _ hr hc
  · unfold copyTile
    rw [hk]
    show elemOf (moveRows x loc) r c = _
    rw [moveRows_same h]
  · rw [hv]
    exact elemOf_enc hr hc hl _ _ (elemEnc f (loc == .acc) sat)
  · unfold scaleTile
    rw [hk, h0]
    exact elemOf_enc hr hc hl _ _ fun y => elemEnc x.fmt false sat (vmul v y)

end

/-! ### Factors, sums and products (R249, R250, R254) -/

theorem factors_kept {x : Tile} (hk : x.kind = .l) (v : Val) (sat : Bool) :
    x.transposed.u = x.v ∧ x.transposed.v = x.u ∧ (copyTile x .pool).1.u = x.u ∧ (copyTile x .pool).1.v = x.v ∧
      (copyTile x .pool).1.rank = x.rank ∧ (v.isZero = false → (scaleTile x v sat).v = x.v) := by
  have ht : x.transposed = { x with m := x.n, n := x.m, u := x.v, v := x.u } := by
    unfold Tile.transposed
    rw [hk]
  have hc : (copyTile x .pool).1 = Tile.mkL x.fmt x.m x.n x.rank x.u x.v := by
    unfold copyTile
    rw [hk]
    rfl
  refine ⟨by rw [ht], by rw [ht], by rw [hc]; rfl, by rw [hc]; rfl, by rw [hc]; rfl, fun h0 => ?_⟩
  unfold scaleTile
  rw [hk, h0]
  rfl

theorem scaleTile_zero {x : Tile} {v : Val} (sat : Bool) (h : v.isZero = true) : (scaleTile x v sat).kind = .z := by
  unfold scaleTile
  rw [h, Bool.or_true]
  rfl

/-- Two tiles of factors are joined while the rank fits (R254). -/
theorem addTiles_low {x y : Tile} (hx : x.kind = .l) (hy : y.kind = .l) (hr : x.rank + y.rank ≤ 64) :
    (addTiles x y).1 = Tile.mkL x.fmt x.m x.n (x.rank + y.rank) (joinCols x.u y.u) (joinCols x.v y.v) := by
  unfold addTiles
  dsimp only
  rw [hx, hy, decide_eq_true hr]
  rfl

theorem addTiles_dense {x y : Tile} (hx : x.kind = .d) (hy : y.kind = .d) : (addTiles x y).1.rows =
    (x.exact.zip y.exact).map fun r => (r.1.zip r.2).map fun p =>
      arrayAcc (psOf x.fmt) (roundTo (psOf x.fmt) 0 false false p.1).1 (some p.2) := by
  unfold addTiles
  dsimp only
  rw [hx, hy]
  rfl

/-- An element of two matrices combined element by element. -/
theorem elemOf_zip {α β γ : Type} [Inhabited α] [Inhabited β] [Inhabited γ] (x : List (List α)) (y : List (List β))
    (g : α × β → γ) {r c : Nat} (hx : r < x.length) (hy : r < y.length) (hcx : c < (x.getD r []).length)
    (hcy : c < (y.getD r []).length) :
    elemOf ((x.zip y).map fun r => (r.1.zip r.2).map g) r c = g (elemOf x r c, elemOf y r c) := by
  rw [List.getD_eq_getElem _ _ hx] at hcx
  rw [List.getD_eq_getElem _ _ hy] at hcy
  unfold elemOf
  simp [List.getD, hx, hy, hcx, hcy]

/-- One step of a partial sum is the exact product added with one rounding (R140). -/
theorem arrayAcc_mul (ps f h : Fmt) (acc a b : Nat) (S X Y : ℝ) (hs : (ps.dec acc).holds S) (hx : (f.dec a).holds X)
    (hy : (h.dec b).holds Y) (h0 : S + X * Y ≠ 0) : ∃ r, ps.RoundTo 0 false false (S + X * Y) r ∧
      arrayAcc ps acc (arrayMul (f.dec a) (h.dec b)) =
        (if ps = .fp32 ∧ ps.subnormal r.1 = true then r.1 / 2 ^ 31 * 2 ^ 31 else r.1) := by
  obtain ⟨v, hv, hp, hh⟩ := arrayMul_spec _ _ (input_plain f false a X hx) (input_plain h false b Y hy) X Y hx hy
  obtain ⟨r, hr, he⟩ := (arrayAcc_spec ps acc v hp S (X * Y) hs hh).1 h0
  refine ⟨r, hr, ?_⟩
  have hv' : arrayMul (f.dec a) (h.dec b) = some v := hv
  rw [hv', he]
  unfold arrayFlush
  simp only [Bool.and_eq_true, decide_eq_true_eq]

section
variable {c : Tile} (x yt : VMat) (u v : Mat) (kp k f facc m n : Nat) (neg : Bool)

/-- What a product makes of an accumulator (R250). -/
theorem combine_z (hk : c.kind = .z) :
    (combine c (.dense x yt) kp f facc m n neg).map (·.tile) =
      some (Tile.mkD facc .acc m n (addDense facc none x yt neg)) ∧
    (combine c (.low u v k) kp f facc m n neg).map (·.tile) = some (Tile.mkL f m n k (negU neg f u) v) := by
  have hz : (c.st == .empty || c.kind == .z) = true := by
    rw [hk]
    exact Bool.or_true _
  unfold combine
  dsimp only
  rw [hz]
  exact ⟨rfl, rfl⟩

section
variable (he : c.st ≠ .empty)
include he

theorem combine_d (hk : c.kind = .d) : (combine c (.dense x yt) kp f facc m n neg).map (·.tile) =
    some (Tile.mkD facc .acc m n (addDense facc (some c.exact) x yt neg)) := by
  have hz : (c.st == .empty || c.kind == .z) = false := by
    rw [hk, beq_false_of_ne he]
    rfl
  unfold combine
  dsimp only
  rw [hz, hk]
  rfl

theorem combine_l (hk : c.kind = .l) (hr : c.rank + k ≤ 64) :
    (combine c (.low u v k) kp f facc m n neg).map (·.tile) =
      some (Tile.mkL f m n (c.rank + k) (joinCols c.u (negU neg f u)) (joinCols c.v v)) := by
  have hz : (c.st == .empty || c.kind == .z) = false := by
    rw [hk, beq_false_of_ne he]
    rfl
  unfold combine
  dsimp only
  rw [hz, hk, if_neg Bool.false_ne_true, if_pos hr]
  rfl

end

end

/-! ### Solves and factors (R258, R259) -/

/-- One column of the backward solve in a row. -/
def ruStep (f : Fmt) (u : VMat) (row : List Val) (j : Nat) : List Val :=
  row.set j (vdiv f ((List.range j).foldl
    (fun v i => vfms f v (row.getD i default) (elemOf u i j)) (row.getD j default)) (elemOf u j j))

theorem ruRow_eq (f : Fmt) (u : VMat) (n : Nat) (r : List Val) :
    ruRow f u n r = (List.range n).foldl (ruStep f u) r := rfl

theorem ruRow_succ (f : Fmt) (u : VMat) (n : Nat) (r : List Val) :
    ruRow f u (n + 1) r = ruStep f u (ruRow f u n r) n := by
  rw [ruRow_eq, ruRow_eq, List.range_succ, List.foldl_append]
  rfl

theorem length_ruRow (f : Fmt) (u : VMat) (n : Nat) (r : List Val) : (ruRow f u n r).length = r.length := by
  induction n with
  | zero => rfl
  | succ n ih => rw [ruRow_succ, ruStep, List.length_set, ih]

/-- The steps of later columns leave an element. -/
theorem getD_ruRow (f : Fmt) (u : VMat) (r : List Val) {n m i : Nat} (h : n ≤ m) (hi : i < n ∨ m ≤ i) :
    (ruRow f u m r).getD i default = (ruRow f u n r).getD i default := by
  induction m, h using Nat.le_induction with
  | base => rfl
  | succ m hm ih =>
    rw [ruRow_succ, ruStep, List.getD_eq_getElem?_getD, List.getElem?_set_ne (by omega), ← List.getD_eq_getElem?_getD]
    exact ih (by omega)

theorem ruRow_spec (f : Fmt) (a : VMat) (r : List Val) {n j : Nat} (hj : j < n) (hn : n ≤ r.length) :
    (ruRow f a n r).getD j default = vdiv f
      ((List.range j).foldl (fun v k => vfms f v ((ruRow f a n r).getD k default) (elemOf a k j)) (r.getD j default))
      (elemOf a j j) := by
  rw [getD_ruRow f a r (Nat.succ_le_of_lt hj) (.inl (Nat.lt_succ_self j)), ruRow_succ, ruStep,
    List.getD_eq_getElem?_getD, List.getElem?_set_self (by rw [length_ruRow]; omega), Option.getD_some,
    getD_ruRow f a r (Nat.zero_le j) (.inr le_rfl)]
  congr 1
  refine List.foldl_ext _ _ _ fun v k hk => ?_
  rw [List.mem_range] at hk
  rw [getD_ruRow f a r hj.le (.inl hk)]

/-- A list that grows by one entry for each of a list, each from those before it. -/
def grow {α β : Type} (g : List β → α → β) (l : List α) : List β := l.foldl (fun done x => done ++ [g done x]) []

section
variable {α β : Type} (g : List β → α → β)

theorem grow_append (l : List α) (x : α) : grow g (l ++ [x]) = grow g l ++ [g (grow g l) x] := by
  unfold grow
  rw [List.foldl_append]
  rfl

theorem length_grow (l : List α) : (grow g l).length = l.length := by
  induction l using List.reverseRecOn with
  | nil => rfl
  | append_singleton l x ih => rw [grow_append, List.length_append, List.length_append, ih]; rfl

theorem take_grow (l : List α) (i : Nat) : (grow g l).take i = grow g (l.take i) := by
  induction l using List.reverseRecOn with
  | nil => rw [List.take_nil]; exact List.take_nil
  | append_singleton l x ih =>
    rw [grow_append]
    by_cases hi : i ≤ l.length
    · rw [List.take_append_of_le_length (by rw [length_grow]; exact hi), List.take_append_of_le_length hi, ih]
    · rw [List.take_of_length_le (by rw [List.length_append, length_grow, List.length_singleton]; omega),
        List.take_of_length_le (by rw [List.length_append, List.length_singleton]; omega), grow_append]

theorem getElem?_grow (l : List α) {i : Nat} (hi : i < l.length) :
    (grow g l)[i]? = some (g ((grow g l).take i) l[i]) := by
  have h : (grow g l).take (i + 1) = grow g (l.take i) ++ [g (grow g (l.take i)) l[i]] := by
    rw [take_grow, List.take_succ_eq_append_getElem hi, grow_append]
  have hlen : (grow g (l.take i)).length = i := by rw [length_grow, List.length_take]; omega
  rw [← List.getElem?_take_of_lt (Nat.lt_succ_self i), h, List.getElem?_append_right (by omega), hlen, Nat.sub_self,
    take_grow]
  rfl

end

/-- A numbered fold over the first entries of a list reads them by number. -/
theorem foldl_zipIdx_take {α γ : Type} (l : List (List α)) (f : γ → List α → Nat → γ) (v : γ) {i : Nat}
    (hi : i ≤ l.length) :
    (l.take i).zipIdx.foldl (fun v d => f v d.1 d.2) v = (List.range i).foldl (fun v k => f v (l.getD k []) k) v := by
  have hz : (l.take i).zipIdx = (List.range i).map fun k => (l.getD k [], k) := by
    refine List.ext_getElem (by simp; omega) fun k h1 h2 => ?_
    simp only [List.length_zipIdx, List.length_take] at h1
    have hk : k < l.length := by omega
    simp [List.getD, hk]
  rw [hz, List.foldl_map]

theorem lluSolve_eq (f : Fmt) (a : VMat) (perm : List Nat) (x : VMat) : lluSolve f a perm x =
    grow (fun done r => lluRow f (a.getD r.2 []) done r.1) (perm.map fun p => x.getD p []).zipIdx := rfl

theorem lluSolve_spec (f : Fmt) (a x : VMat) (perm : List Nat) {i c : Nat} (hi : i < perm.length)
    (hc : c < (x.getD (perm.getD i 0) []).length) : elemOf (lluSolve f a perm x) i c =
      (List.range i).foldl (fun v k => vfms f v (elemOf a i k) (elemOf (lluSolve f a perm x) k c))
        (elemOf x (perm.getD i 0) c) := by
  have hrow := getElem?_grow (fun done (r : List Val × Nat) => lluRow f (a.getD r.2 []) done r.1)
    (perm.map fun p => x.getD p []).zipIdx (i := i) (by simpa using hi)
  rw [← lluSolve_eq] at hrow
  have hlen : (lluSolve f a perm x).length = perm.length := by
    rw [lluSolve_eq, length_grow]
    simp
  have hp : perm.getD i 0 = perm[i] := List.getD_eq_getElem _ _ hi
  rw [hp] at hc ⊢
  have hget : (lluSolve f a perm x).getD i [] =
      lluRow f (a.getD i []) ((lluSolve f a perm x).take i) (x.getD perm[i] []) := by
    rw [List.getD_eq_getElem?_getD, hrow]
    simp only [List.getElem_zipIdx, List.getElem_map, Nat.zero_add, Option.getD_some]
  rw [elemOf, hget]
  unfold lluRow
  rw [List.getD_eq_getElem?_getD, List.getElem?_map, List.getElem?_zipIdx, List.getElem?_eq_getElem hc]
  simp only [Option.map_some, Option.getD_some, Nat.zero_add]
  rw [foldl_zipIdx_take (lluSolve f a perm x)
    (fun v d k => vfms f v ((a.getD i []).getD k default) (d.getD c default)) _ (by omega)]
  congr 1
  exact (List.getD_eq_getElem _ _ hc).symm

theorem luRow_spec (f : Fmt) (piv r : List Val) {i j : Nat} (hi : i < r.length) :
    (luRow f j piv r).getD i default =
      (let q := vdiv f (r.getD j default) (piv.getD j default)
       if i < j then r.getD i default else if i = j then q else vfms f (r.getD i default) q (piv.getD i default)) := by
  unfold luRow
  simp [List.getD_eq_getElem?_getD, hi]

/-! ### The obligation -/

/-- Settles O27: each instruction is a tile word, and what it makes is that of the lemmas about tiles. -/
theorem tileOperationsRunWhereTilesAreFree : Obligations.TileOperationsRunWhereTilesAreFree := by
  unfold Obligations.TileOperationsRunWhereTilesAreFree
  refine ⟨?moving, ?computing, ?zero, fun x loc f r c sat v hr hc hl hk => dense_elements hr hc hl hk loc f sat v,
    fun x y v sat => ⟨fun hk => factors_kept hk v sat, scaleTile_zero sat, ?sumLow, ?sumDense⟩, ?values,
    fun ps x yt c neg i j hi hj => ⟨elemOf_arrayMat ps x yt c neg i j hi hj, elemOf_intMat x yt c neg i j hi hj⟩,
    fun ps xs ys x y h => ⟨rfl, arrayDot_snoc ps xs ys h x y⟩, arrayAcc_mul, ?combining,
    fun f a x perm piv r n i j c => ⟨ruRow_spec f a r, lluSolve_spec f a x perm, luRow_spec f piv r⟩⟩
  case moving =>
    intro e d a b f m
    exact ⟨tiles_of_wordTile fun _ => rfl, tiles_of_wordTile fun _ => rfl, tiles_of_wordTile fun _ => rfl,
      tiles_of_tileAct fun _ => rfl, tiles_of_tileAct fun _ => rfl, tiles_of_wordTile fun _ => rfl,
      tiles_of_wordTile fun _ => rfl, tiles_of_wordTile fun _ => rfl, tiles_of_tileAct fun _ => rfl⟩
  case computing =>
    intro e d a b f
    exact ⟨tiles_of_wordTile fun _ => rfl, tiles_of_wordTile fun _ => rfl, tiles_of_wordTile fun _ => rfl,
      tiles_of_wordTile fun _ => rfl, tiles_of_wordTile fun _ => rfl, tiles_of_wordTile fun _ => rfl,
      tiles_of_wordTile fun _ => rfl, tiles_of_wordTile fun _ => rfl, tiles_of_wordTile fun _ => rfl,
      tiles_of_wordTile fun _ => rfl, tiles_of_wordTile fun _ => rfl⟩
  case zero =>
    rintro td w m n k rfl rfl rfl hk
    refine ⟨tzeroJob_zero td w hk, fun ha => ?_⟩
    obtain ⟨j, hj, htd, hres⟩ := tzeroJob_acc td w hk ha
    exact ⟨j, hj, htd, by rw [hres]; exact ⟨rfl, rfl, rfl, rfl, rfl, fun r c hr hc => elemOf_matOf _ _ _ r c hr hc⟩⟩
  case sumLow =>
    intro hx hy hr
    rw [addTiles_low hx hy hr]
    exact ⟨rfl, rfl, rfl, rfl⟩
  case sumDense =>
    intro hx hy r c h1 h2 h3 h4
    rw [addTiles_dense hx hy, elemOf_zip _ _ (fun p : Val × Val =>
      arrayAcc (psOf x.fmt) (roundTo (psOf x.fmt) 0 false false p.1).1 (some p.2)) h1 h2 h3 h4]
  case values =>
    intro f b acc sat v
    refine ⟨fun hf => ?_, rfl, rfl, rfl⟩
    have h7 : f ≠ 7 := by omega
    have h8 : f ≠ 8 := by omega
    unfold elemVal elemEnc
    rw [if_neg h7, if_neg h8, if_neg h7, if_neg h8]
    exact ⟨rfl, rfl⟩
  case combining =>
    intro c x yt u v kp k f facc m n neg he
    exact ⟨fun hk => (combine_z x yt u v kp k f facc m n neg hk).1, combine_d x yt kp f facc m n neg he,
      fun hk => (combine_z x yt u v kp k f facc m n neg hk).2, combine_l u v kp k f facc m n neg he⟩

end Sys2Proof.Machine
end
